-- ==== Sys2Proof/Word.lean ====
section
/-! DEFINITION. The words of the controller: a 32-bit BAR0 register, a 72-bit memory word (R8), a byte, and the two records that describe a register of the BAR0 map and a field of one (R13, R14, R20). -/

namespace Sys2Proof.Machine

/-- A BAR0 register (R71, R91). -/
abbrev Word := BitVec 32

/-- A 72-bit word of SRAM or of a table record (R8). -/
abbrev W72 := BitVec 72

abbrev Byte := BitVec 8

/-- One row of a register table: instance (i, j) lies at base + i * stride + j * sub.  The masks name the bits that a
write sets (RW and RWL), those of them that the commit lock holds (RWL), the write-one-to-clear bits, the write-only
bits, and all bits that are not reserved (R14, R15). -/
structure RegDef where
  base : Nat
  stride : Nat
  count : Nat
  sub : Nat
  subCount : Nat
  rw : Nat
  rwl : Nat
  w1c : Nat
  wo : Nat
  legal : Nat
  reset : Nat
  deriving DecidableEq, Repr

/-- One field of a register, or of a value that spans consecutive registers (R71): bits [lo + width - 1 : lo]. -/
structure Fld where
  base : Nat
  stride : Nat
  sub : Nat
  lo : Nat
  width : Nat
  deriving DecidableEq, Repr

/-- A descriptor: its eight fields (R116) and the bytes read from its host pointer. -/
structure Desc where
  f0 : BitVec 64
  f1 : BitVec 64
  f2 : BitVec 64
  f3 : BitVec 64
  f4 : BitVec 64
  f5 : BitVec 64
  f6 : BitVec 64
  f7 : BitVec 64
  data : List Byte
  deriving DecidableEq, Repr

/-- Where a descriptor comes from: its submission ring, its TAG, and whether it asks for an interrupt (R116). -/
structure DescHdr where
  sq : Nat
  tag : Nat
  irq : Bool
  deriving DecidableEq, Repr

/-- The operands of a block command: ARG0 to ARG2, host pointer, byte length (R119), and the bytes at the pointer. -/
structure BlockArgs where
  arg0 : Nat
  arg1 : Nat
  arg2 : Nat
  ptr : Nat
  len : Nat
  data : List Byte
  deriving DecidableEq, Repr

/-- A safe-input terminal as a channel's filter shows it (R356); an open one reads low (R703). -/
inductive Terminal where
  | low | high | open_
  deriving DecidableEq, Repr

/-- What happens on the way to a pair word of a position record (R26, R47): the word's number, the bits of its value half and
of its complement half that turn over. -/
structure PairFlip where
  word : Nat
  value : Nat
  compl : Nat
  deriving DecidableEq, Repr

/-- Bits of one byte of a code block that have turned over: the block, the byte (16 and 17 are its check bytes), the bits (R42). -/
structure ByteFlip where
  block : Nat
  byte : Nat
  bits : Nat
  deriving DecidableEq, Repr

/-- What the partner of a pair tells of itself at JOIN (R595 to R598): UID, digest, check value and whether it is valid, its
cell cycle runs, its PREF, the reason of a check it fails (0: none). -/
structure PairInfo where
  uid : Nat
  digest : Nat
  chk : Nat
  chkValid : Bool
  run : Bool
  pref : Bool
  fails : Nat
  deriving DecidableEq, Repr

/-- What the host writes in PCIe configuration space (R89, R129): BAR0's base, max payload size 128 * 2^payload bytes (0 to
2), max read request size 128 * 2^request bytes (0 to 5), MSI-X Enable, MSI-X Function Mask. -/
structure PcieConfig where
  bar0 : Nat
  payload : Nat
  request : Nat
  msixEnable : Bool
  functionMask : Bool
  deriving DecidableEq, Repr

/-- The PCIe link after it has trained and the host has configured the function: negotiated width and speed as HST_STAT codes
them, bus mastering enabled, the rest of the configuration (R88, R89, R91). -/
structure PcieLink where
  width : Nat
  speed : Nat
  bme : Bool
  config : PcieConfig
  deriving DecidableEq, Repr

end Sys2Proof.Machine
end

