-- ==== Sys2Proof/Machine/Data.lean ====
section
/-! DEFINITION. The data the controller's state is made of, chapter by chapter, and the reset contents of each part. -/

namespace Sys2Proof.Machine

/-- An event entry (R125). -/
structure Event where
  type : Nat
  source : Nat
  inst : Nat
  time : Nat
  code : Nat
  detail : Nat
  deriving DecidableEq, Repr

/-- One parameter set of corrected time (R57, R65): OFFSET in 1/256 ns, RATE and the slew term in 2^-40, ANCHOR. -/
structure TbParams where
  offset : Int
  rate : Int
  slew : Int
  anchor : Nat
  deriving DecidableEq, Repr

/-- An armed change (R61): step in 1/256 ns, rate in 2^-40, slew amount in 1/256 ns, apply instant T72 (0: next T0 or
edge), the edge of arming. -/
structure TbChange where
  step : Option Int
  rate : Option Int
  slew : Option Int
  at_ : Nat
  armEdge : Nat
  /-- the descriptor that armed it: its ring and slot (R70); none: a register write or the fabric -/
  by_ : Option (Nat × Nat)
  deriving DecidableEq, Repr

/-- The time base (R55 to R85). -/
structure Tbs where
  /-- parameters in force (R57) -/
  par : TbParams
  /-- the parameters before the latest apply edge, for captures before it (R75) -/
  prev : TbParams
  /-- the latest apply edge (R62) -/
  applyEdge : Nat
  /-- the armed change (R68) -/
  pend : Option TbChange
  /-- corrected time, T72, from which the latest change stepped at its apply edge; none: it held no step (R82) -/
  stepFrom : Option Nat
  /-- amount of the slew in progress, 1/256 ns (R65) -/
  slewAmt : Int
  /-- correction accumulated before the anchor in force, units 2^-40 / 256 ns (R65, R67) -/
  slewAcc : Int
  /-- OFFSET at the anchor in force without the slew's correction (R65) -/
  slewBase : Int
  /-- instant of the next T0, corrected ns (R31) -/
  nextT0 : Nat
  /-- the first T0 since CYC_RUN rose has passed (R78) -/
  started : Bool
  /-- an accepted stop waits for the end of the cycle (R79) -/
  stopping : Bool
  /-- cycle number of the latest T0 (R31) -/
  k : Nat
  /-- corrected ns of the latest T0 -/
  t0 : Nat
  /-- FRC of the edge of the latest T0 -/
  t0Edge : Nat
  /-- TS, TR, TC of the present cycle have passed (R35) -/
  tsDone : Bool
  trDone : Bool
  tcDone : Bool
  /-- next target of each timed-start unit, T72; none: none left (R81) -/
  trgNext : List (Nat × Option Nat)
  /-- units enabled with a target already passed (R82) -/
  trgLate : List Nat
  deriving DecidableEq, Repr

/-- A validated descriptor: its ring, the head after it, the code its validation gave (EC_OK: accepted) and the item it
names, the first cycle at whose T0 it takes effect (0: the next T0 or idle tick), the cycle of validation, whether it names
its cycle (R95, R117, R124). -/
structure Queued where
  sq : Nat
  head : Nat
  desc : Desc
  code : Nat
  d0 : Nat
  cyc : Nat
  vcyc : Nat
  timed : Bool
  deriving DecidableEq, Repr

/-- A completion waiting to be written (R124); with a key, of a command that ends later, whose end fills it in (R119). -/
structure Comp where
  key : Option Nat
  sq : Nat
  code : Nat
  tag : Nat
  head : Nat
  cyc : Nat
  d0 : Nat
  d1 : Nat
  irq : Bool
  deriving DecidableEq, Repr

/-- Nothing configured: no BAR0, 128-byte payloads, 512-byte read requests, MSI-X disabled (the reset values of PCI Express;
PRESUMED, log 46). -/
def PcieConfig.reset : PcieConfig := { bar0 := 0, payload := 0, request := 2, msixEnable := false, functionMask := false }

/-- What R89 fixes of the endpoint's configuration space: one function, BAR0 of 16 MiB as 64-bit non-prefetchable memory, the
five capabilities, 64 vectors. -/
structure PcieId where
  vendor : Nat
  device : Nat
  classCode : Nat
  bar0Bytes : Nat
  bar0Wide : Bool
  prefetchable : Bool
  vectors : Nat
  pciExpress : Bool
  powerManagement : Bool
  msix : Bool
  errorReporting : Bool
  serialNumber : Bool
  deriving DecidableEq, Repr

/-- The endpoint of R89. -/
def pcieId : PcieId :=
  { vendor := 0x7D3A, device := 0x1296, classCode := 0x118000, bar0Bytes := 2 ^ 24, bar0Wide := true, prefetchable := false,
    vectors := 64, pciExpress := true, powerManagement := true, msix := true, errorReporting := true, serialNumber := true }

/-- The host interface (R89 to R136). -/
structure Hst where
  /-- deadline of the outstanding doorbell read, corrected ns (R93) -/
  dbDue : Option Nat
  /-- HB of the latest good read (R97) -/
  hb : BitVec 64
  /-- a good read has been made -/
  hbSeen : Bool
  /-- good reads in a row with HB unchanged (R101) -/
  hbStale : Nat
  /-- masks of the latest good read (R97) -/
  sqMask : BitVec 64
  cqMask : BitVec 64
  eqMask : BitVec 8
  /-- a good read of the present cycle allows index-table reads (R94) -/
  dbGood : Bool
  /-- a doorbell read was missed in the present cycle (R130) -/
  dbMiss : Bool
  /-- a register write was rejected since the previous mirror (R130) -/
  rejSince : Bool
  /-- BAR0 writes carried out at the present edge, and those put off to the next one: offset and value (R53, R113) -/
  wrote : List (Nat × Nat)
  putOff : List (Nat × Nat)
  /-- known tail of each submission ring (R100) -/
  sqTail : List (Nat × Nat)
  /-- last head read of each completion ring, and of each event ring (R100) -/
  cqHead : List (Nat × Nat)
  eqHead : List (Nat × Nat)
  /-- events dropped per event ring since its last OVERFLOW event (R108) -/
  eqLost : List (Nat × Nat)
  /-- a fetched descriptor held behind its fence, per ring (R111) -/
  fence : List (Nat × Option Queued)
  /-- validated descriptors, oldest first (R95) -/
  queue : List Queued
  /-- completions to be written, oldest first (R96) -/
  comps : List Comp
  /-- descriptors fetched in the present cycle (R110) -/
  fetched : Nat
  /-- index last granted in class 2 (R51, R110) -/
  lastSq : Nat
  /-- vectors with a message to send, and those sent in the present cycle (R128) -/
  vecDue : List Nat
  vecSent : List Nat
  /-- the PCIe link is up (R93) -/
  linkUp : Bool
  /-- what the host has written in PCIe configuration space (R89) -/
  config : PcieConfig
  /-- the function is in D3hot, and the advisory error bit (R90) -/
  d3hot : Bool
  d3Refused : Bool
  /-- number of the latest idle tick (R92) -/
  tickNo : Nat
  /-- an ECC_CORR event was posted in the present cycle (R126) -/
  corrPosted : Bool
  /-- events of the present nanosecond, in the order in which they will be written (R114) -/
  events : List Event
  deriving DecidableEq, Repr

/-- The task scheduler (R137 to R161). -/
structure Sch where
  /-- tick number last observed (R138) -/
  tick : Nat
  /-- ready lists: key 0 to 15 control-engine level, 16 to 31 service level (R147, R151) -/
  ready : List (Nat × List Nat)
  /-- delay lists 0 to 3: contexts with their wake ticks (R145) -/
  delay : List (Nat × List (Nat × Nat))
  /-- wake tick of each context, the series of a TIMED one (R146) -/
  wake : List (Nat × Nat)
  /-- context last dispatched from each ready list (R147) -/
  lastDisp : List (Nat × Nat)
  /-- tick edges a READY context has stayed at its level (R155) -/
  age : List (Nat × Nat)
  /-- tick number at which ages were last counted (R155) -/
  aged : Nat
  /-- contexts preempted with their state saved (R153) -/
  saved : List Nat
  /-- contexts that have executed the task-end instruction and not yet completed (R140) -/
  ended : List Nat
  /-- the reservation: its holder and its first lane (R149) -/
  reserv : Option (Nat × Nat)
  /-- contexts on the service cores, by core (R151) -/
  cores : List (Nat × Option Nat)
  /-- cycle in which a context was released and has not completed (R161) -/
  relCyc : List (Nat × Option Nat)
  /-- decrements discarded in the present cycle, by context (R144) -/
  under : List (Nat × Nat)
  /-- lanes taken by the run of each context, as a mask: 0 on a service core (R148, R149) -/
  runLanes : List (Nat × Nat)
  /-- ready level-0 contexts whose group a lower level held when they became READY (R157) -/
  l0Held : List Nat
  deriving DecidableEq, Repr

/-- One piece of a motion profile: from path time t (seconds after the profile's start) on, position p (P72 steps),
speed v and acceleration a, constant acceleration (R258 to R262). -/
structure Seg where
  t : Rat
  p : Rat
  v : Rat
  a : Rat
  deriving DecidableEq, Repr

/-- A profile: its start on the path clock (T72), its pieces, its duration rounded up to 1/256 ns (none: without end), the
position it ends at. -/
structure Motion where
  start : Nat
  segs : List Seg
  dur : Option Nat
  target : Int
  deriving DecidableEq, Repr

/-- The phases of homing (R277, R279). -/
inductive HomePhase where
  | search | brake | back | backIndex | set | revSearch | revRelease | revBrake | failing
  deriving DecidableEq, Repr

/-- What an axis follows (R271). -/
inductive Plan where
  | none
  /-- a MOVE of an arm (R258 to R261) -/
  | move (arm : Nat) (m : Motion)
  /-- VEL at a commanded speed; path time (s after start) at which it brakes for a soft limit (R262) -/
  | vel (m : Motion) (speed : Int) (softAt : Option Rat)
  /-- a segment table (R265) -/
  | table
  /-- homing: phase, its motion, path position where SEARCH began (R277) -/
  | homing (ph : HomePhase) (m : Motion) (from_ : Int)
  deriving DecidableEq, Repr

/-- A knot of a segment table (R263). -/
structure Knot where
  t : Nat
  pos : Int
  vel : Int
  last : Bool
  ftag : Nat
  deriving DecidableEq, Repr

/-- A level other than an input's filtered state that its samples show (R274): the counter at the first sample that showed it,
and the axis's measured position there (R278). -/
structure Cand where
  since : Nat
  pos : Int
  deriving DecidableEq, Repr

/-- A joint axis beside its registers. -/
structure Axis where
  /-- plan followed (R271) -/
  plan : Plan
  /-- knots of the ring, oldest first (R263) -/
  knots : List Knot
  /-- acceleration and torque feed-forward set points in force (R253) -/
  acc : Int
  ff : Int
  /-- filtered state of limit +, limit -, home as a mask (R274) -/
  filt : Nat
  /-- by input: the level that its samples show and its filter has not yet confirmed (R274) -/
  cand : List (Nat × Option Cand)
  /-- positions at which the limits latched, and the reference of homing (R275, R278) -/
  latP : Int
  latN : Int
  latRef : Int
  /-- the edge at which the positive, the negative limit latched while the axis did not move toward it: to be judged at the
  next evaluation (R291) -/
  edgeP : Option Nat
  edgeN : Option Nat
  /-- set point in force when a limit pair was found bad (R257) -/
  badSp : Option Int
  /-- a reverse search has been made in this homing (R279) -/
  revDone : Bool
  /-- the latest evaluation's set point is not complete at TC (R39, R254) -/
  lateNow : Bool
  deriving DecidableEq, Repr

/-- A trajectory command that has taken effect and waits for the group's evaluation (R289). -/
inductive TrjCmd where
  | move (arm : Nat) (targets : List Int)
  | vel (axis : Nat) (speed : Int)
  | start
  | pause | resume | abort
  | home (axis : Nat)
  | push (axis : Nat) (knots : List Knot)
  | setPos (axis : Nat) (pos : Int)
  | clear (axis : Nat)
  | auxMove (aux : Nat) (target : Int)
  | auxVel (aux : Nat) (speed : Int)
  deriving DecidableEq, Repr

/-- A coordination group beside its registers. -/
structure Group where
  /-- scale rate (R250), u1.23 steps per second -/
  sd : Int
  /-- scale in force before the latest evaluation (R253) -/
  sPrev : Nat
  /-- commands that wait for the next evaluation, oldest first, with the path time of the T0 at which each took effect, once
  that is known (R259, R265, R289) -/
  cmds : List (Option Nat × TrjCmd)
  /-- a factor has come into force that no evaluation has taken up (R252) -/
  facDue : Bool
  /-- the pair of R_SAFE has been found bad (R257) -/
  rsBad : Bool
  deriving DecidableEq, Repr

/-- A compare unit as a fire found it, for an arming at the edge of the fire (R291): the edge, C, its side, BEHIND, whether it is
passed, its pulses, the registers TRJ_CMP_CTL, TRJ_CMP_STAT and TRJ_CMP_TIME. -/
structure CmpPrior where
  edge : Nat
  c : Int
  side : Int
  any : Bool
  passed : Bool
  pulse : Option (Nat × Nat)
  pulse2 : Option (Nat × Nat)
  ctl : BitVec 32
  stat : BitVec 32
  time : Nat
  deriving DecidableEq, Repr

/-- A compare unit beside its registers (R281 to R284). -/
structure Cmp where
  c : Int
  step : Int
  /-- side of x: -1, 1, or 0 while it is not yet taken -/
  side : Int
  /-- after BEHIND the first crossing either way fires (R283) -/
  any : Bool
  /-- a stepped C lies behind: fire at the next comparison with LATE (R284) -/
  passed : Bool
  /-- the pulse under way or to come: start and end, T72 -/
  pulse : Option (Nat × Nat)
  /-- a later pulse that does not meet it -/
  pulse2 : Option (Nat × Nat)
  /-- words _0 and _1 of C and of STEP as last written: staged for the write of _2 (R283, R294) -/
  pos0 : Nat
  pos1 : Nat
  step0 : Nat
  step1 : Nat
  /-- the edge of the latest arming: no comparison at it (R291) -/
  armedAt : Option Nat
  /-- what the latest fire found -/
  prior : Option CmpPrior
  deriving DecidableEq, Repr

/-- An auxiliary stepper channel beside its registers (R285 to R288). -/
structure Aux where
  plan : Plan
  acc : Int
  /-- corrected ns since which the speed set point has been 0 (R288) -/
  restSince : Option Nat
  /-- the channel's stage is enabled -/
  power : Bool
  /-- a command that waits for the next T0 (ATT = 0, R289) -/
  cmds : List TrjCmd
  /-- a pair of TRJ_AUX_PARAM has been found bad (R257) -/
  bad : Bool
  /-- phase voltages computed in this cycle in 2 mV: applied from T0 of the next one (R287) -/
  va : Int
  vb : Int
  /-- duties of the four local PWM channels as u1.23: computed in this cycle, and in force (R36, R287) -/
  duty : List Nat
  dutyOld : List Nat
  deriving DecidableEq, Repr

/-- The trajectory engines (R248 to R291). -/
structure Trj where
  axes : List (Nat × Axis)
  groups : List (Nat × Group)
  cmps : List (Nat × Cmp)
  auxs : List (Nat × Aux)
  /-- level of the general inputs GPI 0 to 63 as last shown -/
  gpi : BitVec 64
  /-- the levels at the latest sampler edge (R274) -/
  gpiSeen : BitVec 64
  /-- compare units that have fired since the acquisition units last looked (R282, R635) -/
  fired : List Nat
  deriving DecidableEq, Repr

def Axis.reset : Axis :=
  { plan := .none, knots := [], acc := 0, ff := 0, filt := 0, cand := [], latP := 0, latN := 0, latRef := 0,
    edgeP := none, edgeN := none, badSp := none,
    revDone := false, lateNow := false }
def Group.reset : Group := { sd := 0, sPrev := 0, cmds := [], facDue := false, rsBad := false }
def Cmp.reset : Cmp :=
  { c := 0, step := 0, side := 0, any := false, passed := false, pulse := none, pulse2 := none, pos0 := 0, pos1 := 0, step0 := 0,
    step1 := 0, armedAt := none, prior := none }
def Aux.reset : Aux :=
  { plan := .none, acc := 0, restSince := none, power := false, cmds := [], bad := false, va := 0, vb := 0, duty := [], dutyOld := [] }
def Trj.reset : Trj := { axes := [], groups := [], cmps := [], auxs := [], gpi := 0, gpiSeen := 0, fired := [] }

/-- An obstacle capsule (R308): ends and radius in 0.1 mm, speed bound in mm/s, class. -/
structure Obst where
  ax : Int
  ay : Int
  az : Int
  bx : Int
  by_ : Int
  bz : Int
  r : Nat
  v : Nat
  cls : Nat
  deriving DecidableEq, Repr

/-- An accepted obstacle frame (R308); tCap in T72. -/
structure Frame where
  seq : Nat
  tCap : Nat
  flags : Nat
  caps : List Obst
  deriving DecidableEq, Repr

/-- How far the computation of a separation cycle has come (R310 to R315). -/
inductive SepPhase where
  | idle | snapshot | sampled | computed | handed | late
  deriving DecidableEq, Repr

/-- What a record of the handover is of (R331). -/
inductive HandKind where
  | sample | frame | group | arm | trailer
  deriving DecidableEq, Repr

/-- A record handed to the safety channels: its words of 36 bits, each with its complement (R26, R331). -/
structure HandRec where
  kind : HandKind
  inst : Nat
  words : List (Nat × Nat)
  deriving DecidableEq, Repr

/-- The separation engine beside its registers (R302 to R338). -/
structure Sep where
  /-- group factors in force: value and complement (R38, R47) -/
  fac : List (Nat × (Nat × Nat))
  /-- factors issued for the next separation cycle (R315) -/
  facNext : List (Nat × (Nat × Nat))
  /-- the accepted frame with the highest SEQ of each sensor (R310) -/
  accepted : List (Nat × Option Frame)
  /-- the in-use frame of each sensor and how far its age exceeds the bound, T72 units (R310, R329) -/
  inUse : List (Nat × Option (Frame × Nat))
  /-- corrected time of the enable of each sensor, T72 (R309) -/
  enAt : List (Nat × Nat)
  /-- sensors whose FRAME_BAD event has been posted in this separation cycle (R309) -/
  badNow : List Nat
  phase : SepPhase
  /-- number of the separation cycle, and its snapshot, corrected ns (R34, R310) -/
  j : Nat
  t0 : Nat
  /-- refinement is shed in this separation cycle (R320) -/
  shed : Bool
  /-- sampled positions and path speeds by axis, axes whose sample is invalid (R304 to R306, R313) -/
  pos : List (Nat × Int)
  spd : List (Nat × Rat)
  inval : List Nat
  /-- AX_FRAME by axis at the sample (R331) -/
  frames : List (Nat × Int)
  /-- records handed to both channels in the latest separation cycle (R331) -/
  hand : List HandRec
  /-- LATE snapshots of a sensor in a row, up to 256 (R329) -/
  lateRun : List (Nat × Nat)
  /-- applied scale of each group at the sample (R313) -/
  sNow : List (Nat × Nat)
  /-- distance of each group's limiting pair and its need, in um (R331) -/
  limit : List (Nat × Option (Int × Int))
  /-- measured speeds at the sample, and the positions of the sample before (R370) -/
  mspd : List (Nat × Int)
  prevPos : Option (List (Nat × Int))
  /-- instant of the sample, T72, and SEQ of the next exported frame (R333) -/
  tSamp : Nat
  expSeq : Nat
  /-- payload record in use by each arm: from the first snapshot at or after its write (R328) -/
  load : List (Nat × Nat)
  deriving DecidableEq, Repr

def Sep.reset : Sep :=
  { fac := [], facNext := [], accepted := [], inUse := [], enAt := [], badNow := [], phase := .idle, j := 0, t0 := 0,
    shed := false, pos := [], spd := [], inval := [], frames := [], hand := [], lateRun := [], sNow := [], limit := [], mspd := [], prevPos := none,
    tSamp := 0, expSeq := 0, load := [] }

/-- The slot values of one axis or auxiliary channel from its drive's latest valid slice (R506), field index 0 to 9, and
whether they are valid for the present cycle (R510). -/
structure SlotVals where
  ia : Int
  ib : Int
  ic : Int
  vdc : Int
  pos : Int
  spd : Int
  status : Nat
  tsofs : Int
  temp : Int
  latch : Int
  valid : Bool
  deriving DecidableEq, Repr

def SlotVals.reset : SlotVals :=
  { ia := 0, ib := 0, ic := 0, vdc := 0, pos := 0, spd := 0, status := 0, tsofs := 0, temp := 0, latch := 0, valid := false }

/-- A service transfer of a branch (R524): node, request, the cycle of its start; the host buffer to answer into, none
for a layout that the controller loads itself. -/
structure Svc where
  node : Nat
  req : List Byte
  start : Nat
  host : Option Nat
  deriving DecidableEq, Repr

/-- A Twill branch beside its registers (R501 to R527).  Ports: 0 is A, 1 is B; times T72. -/
structure Br where
  /-- frame types sent in the present cycle -/
  sent : List Nat
  /-- TTX of the SYNC and POLL frames of the present cycle, and of the POLL frames of the previous one, by 2 * type +
  port (R501, R515) -/
  ttx : List (Nat × Nat)
  pttx : List (Nat × Nat)
  /-- HOP of the valid SYNC copies returned in this cycle, by receiving port (R526) -/
  hops : List (Nat × Option Nat)
  /-- ring delays of this cycle's SYNC copies by receiving port, and their mean in the previous cycle (R515) -/
  dNow : List (Nat × Option Nat)
  dPrev : Option Rat
  /-- ports whose SYNC copy of this cycle is the one sent out of the same port, turned around on the way (R514) -/
  turned : Nat
  /-- consecutive cycles of the condition that leaves the present state: good, and HOP differing (R526) -/
  good : Nat
  topo : Nat
  /-- samples of PDLY_A and PDLY_B of each node, newest first (R515) -/
  hist : List (Nat × List (Rat × Rat))
  /-- nodes whose slice of this cycle is in: byte time, port, bytes (R512) -/
  got : List (Nat × Option (Nat × Nat × List Byte))
  /-- ports whose POLL copy of this cycle has ended; signal raised (R510) -/
  ended : Nat
  sig : Bool
  /-- ports with a returning copy in this cycle, cycles in a row without one, ports found open (R514) -/
  seen : Nat
  missA : Nat
  missB : Nat
  openPorts : Nat
  /-- nodes whose time must be stepped, and those that ask for it (R516) -/
  resync : Nat
  asked : Nat
  /-- an OOW event has been posted in this cycle; nodes with a CMD_LATE event in it (R504, R517) -/
  oow : Bool
  late : Nat
  /-- word edges blocked in this cycle (R519) -/
  blocked : Nat
  /-- layouts to load: node and mode (R525) -/
  lay : List (Nat × Nat)
  svc : Option Svc
  deriving DecidableEq, Repr

/-- The Twill controller beside its registers (R495 to R531). -/
structure Twl where
  /-- slot values by axis, and by 128 + auxiliary channel -/
  slots : List (Nat × SlotVals)
  brs : List (Nat × Br)
  /-- the pending switch has passed its check (R522) -/
  checked : Bool
  /-- Felt holds the transmit gates closed (R596) -/
  shut : Bool
  /-- the words of each valid mode record as Felt holds them, each with its complement (R519) -/
  felt : List (Nat × List (Nat × Nat))
  deriving DecidableEq, Repr

def Br.reset : Br :=
  { sent := [], ttx := [], pttx := [], hops := [], dNow := [], dPrev := none, turned := 0, good := 0, topo := 0, hist := [], got := [],
    ended := 0, sig := false, seen := 0, missA := 0, missB := 0, openPorts := 0, resync := 0, asked := 0, oow := false,
    late := 0, blocked := 0, lay := [], svc := none }
def Twl.reset : Twl := { slots := [], brs := [], checked := false, shut := false, felt := [] }

/-- A group as both safety channels keep it, beside its registers (R362 to R372). -/
structure SGroup where
  /-- raw time of the demand that led to SS1 or SS2 (R366) -/
  since : Nat
  /-- violations at the latest checks of a separation cycle: SLS arm speed, zone (R363) -/
  slsArm : Bool
  zone : Bool
  deriving DecidableEq, Repr

/-- A group as one channel finds it in its own position records (R344, R366 to R373). -/
structure SChan where
  /-- samples in a row with every axis at standstill (R366) -/
  still : Nat
  /-- held positions of SOS, by axis (R365, R369) -/
  held : List (Nat × Int)
  /-- applied scale last received and its cycle (R373) -/
  sPrev : Nat
  kPrev : Option Nat
  /-- violations at the latest checks: SLS axis speed, SLP (R363) -/
  slsAx : Bool
  slp : Bool
  deriving DecidableEq, Repr

/-- An axis in a channel's latest position record (R346): measured position, AX_POS_OFF, AX_FRAME, measured speed. -/
structure AxRec where
  pos : Int
  off : Int
  frame : Int
  spd : Int
  deriving DecidableEq, Repr

/-- A channel's latest position record: its cycle, the time it came, its axes; none: a pair of it failed (R346). -/
structure ChRec where
  cyc : Option Nat
  at_ : Option Nat
  axes : List (Nat × Option AxRec)
  deriving DecidableEq, Repr

/-- The safety channels beside their registers (R343 to R392).  Times are raw time in ns, which the model takes as the
channels' own clocks (log 30). -/
structure Saf where
  groups : List (Nat × SGroup)
  /-- the groups as the safety processor finds them, and 8 + group as Felt does -/
  chans : List (Nat × SChan)
  /-- the latest position record of the safety processor (0) and of Felt (1) -/
  recs : List (Nat × ChRec)
  /-- MODE, DIR and the SSI fields of a feedback channel as the safety processor holds them, and 32 + channel as Felt does:
  value and complement (R430) -/
  fbkCfg : List (Nat × Option (Nat × Nat))
  /-- terminals that read low, as the safety processor and as Felt has filtered them, laid out as SAF_IN (R356, R703) -/
  low : Nat
  lowFelt : Nat
  /-- time of the first disagreement of an input's terminals (R357) -/
  disagree : List (Nat × Option Nat)
  /-- inputs whose terminals have shown the active level together since the DISC fault, and since the pending test
  began (R357, R361) -/
  discSeen : Nat
  testSeen : Nat
  /-- time of a press of a reset input (R359) -/
  press : List (Nat × Option Nat)
  /-- end of the confirmation window (R352) -/
  confDue : Option Nat
  /-- time by which the PARAM_CLOSE in progress ends (R351) -/
  closing : Option Nat
  /-- EN, GROUP and NJ of the arms as PARAM_CLOSE found them: arm to group * 16 + NJ (R351) -/
  arms : List (Nat × Option (Nat × Nat))
  /-- differences in a row of the cross-comparison, and the cycle last compared (R347) -/
  diffs : Nat
  cmpCyc : Option Nat
  /-- groups named by each controlled-stop requester that holds its flag (R364): axis 0 to 127, 128 reference, 129 host,
  130 level 0, 131 pair, 132 watchdog, 133 thermal, 256 + law -/
  reqs : List (Nat × Nat)
  /-- deadline of the EDM feedback of an output (R380) -/
  edm : List (Nat × Option Nat)
  /-- consecutive cycles of a position mismatch, and of STO_ACTIVE = 0 under STO, by axis (R382, R383) -/
  posMis : List (Nat × Nat)
  stoMis : List (Nat × Nat)
  /-- position and capsule pair index of the round-robin test of each group (R374) -/
  robin : List (Nat × Nat)
  /-- consecutive LATE snapshots by sensor as the safety processor counts them (R374) -/
  spLate : List (Nat × Nat)
  /-- factor each channel accepted for the cycle in force: group, and 8 + group for Felt (R373) -/
  accIn : List (Nat × Nat)
  /-- those of the factors issued for the next separation cycle -/
  accNext : List (Nat × Nat)
  /-- verdicts formed and not yet arrived: group, 8 + group for Felt; verdict and complement (R315, R377) -/
  verdicts : List (Nat × Option (Nat × Nat))
  deriving DecidableEq, Repr

def SGroup.reset : SGroup :=
  { since := 0, slsArm := false, zone := false }

def SChan.reset : SChan := { still := 0, held := [], sPrev := 0, kPrev := none, slsAx := false, slp := false }
def ChRec.reset : ChRec := { cyc := none, at_ := none, axes := [] }

def Saf.reset : Saf :=
  { groups := [], chans := [], recs := [], fbkCfg := [], low := 0, lowFelt := 0, disagree := [], discSeen := 0, testSeen := 0, press := [], confDue := none, closing := none,
    arms := [], diffs := 0, cmpCyc := none, reqs := [], edm := [], posMis := [],
    stoMis := [], robin := [], spLate := [], accIn := [], accNext := [], verdicts := [] }

/-- An accumulator of a lane (R170): value in 2^-70, exponent where one is set, poison mark (R239). -/
structure Acc where
  a : Int
  e : Option Int
  bad : Bool
  deriving DecidableEq, Repr

/-- An address generator (R220). -/
structure Gen where
  base : Nat
  len : Nat
  ptr : Nat
  unit : Nat
  step : Int
  ls : Nat
  exp : Int
  hdr : Option Nat
  deriving DecidableEq, Repr

/-- A loop in progress: head, body length, iterations left with this one, whether a slice is asked for at the next return
to the head (R235, R237). -/
structure LoopSt where
  start : Nat
  len : Nat
  left : Nat
  again : Bool
  /-- the words of the body that its cache slice holds (R236) -/
  body : List Nat
  deriving DecidableEq, Repr

/-- The sampled inputs and applied outputs of one cycle (R219, R230); none: invalid. -/
structure Inputs where
  fpos : List (Nat × Option Int)
  fspd : List (Nat × Option Int)
  adc : List (Nat × Option Int)
  twl : List (Nat × SlotVals)
  apos : List (Nat × Option Int)
  app : List (Nat × List Int × Int × Bool)
  sp : List (Nat × Int)
  ssp : List (Nat × Int)
  deriving DecidableEq, Repr

/-- The datapath state of a context (R217 to R219, R233, R235). -/
structure Ctx where
  pc : Nat
  inv : Bool
  sats : Bool
  gens : List (Nat × Gen)
  /-- accumulators by 4 * lane of the group + number -/
  accs : List (Nat × Acc)
  /-- iterations left of the instruction under REP; 0: none -/
  rep : Nat
  loop : Option LoopSt
  /-- the run's first instruction has issued (R219) -/
  begun : Bool
  /-- inputs of the run's cycle once a later T0 has been observed -/
  snap : Option Inputs
  deriving DecidableEq, Repr

/-- A PROG_LOAD under verification (R242, R243). -/
structure Ver where
  slot : Nat
  base : Nat
  len : Nat
  crc : Nat
  due : Nat
  deriving DecidableEq, Repr

/-- The datapath (R216 to R246). -/
structure Dp where
  ctxs : List (Nat × Ctx)
  ver : Option Ver
  /-- a verified program that takes effect at the next T0 -/
  verOk : Option Ver
  deriving DecidableEq, Repr

/-- The three gain matrices: exponent and elements, row-major (R178). -/
structure Gains where
  phi : Int × List Int
  gam : Int × List Int
  psi : Int × List Int
  deriving DecidableEq, Repr

/-- An output of a law: cycle of its run, mantissas and exponent, SAT mask, unlimited v, the stationary vector of an inner law
as mantissas at the same exponent, the duties of a local one as u1.23 (R183, R186, R187, R203). -/
structure Applied where
  cyc : Nat
  u : List Int
  eu : Int
  sat : Nat
  v : List Rat
  vec : List Int
  duty : List Nat
  deriving DecidableEq, Repr

/-- The configuration and records a law runs with (R182). -/
structure LawCfg where
  ctl : Nat
  dim : Nat
  gs : Nat
  par : List Nat
  brk : List Nat
  host : List Nat
  deriving DecidableEq, Repr

/-- A law beside its registers (R176 to R206). -/
structure Law where
  cfg : Option LawCfg
  act : Option Gains
  /-- a blend that waits for the next T0 (R197) -/
  pend : Option Gains
  /-- the output in force (R36) -/
  force : Option Applied
  /-- mantissas and exponent of the outputs applied in the latest due cycles, newest first, at most four (R203) -/
  applied : List (List Int × Int)
  /-- the commit buffer's output for the next cycle (R183) -/
  buf : Option Applied
  /-- runs since enable -/
  runNo : Nat
  /-- runs in a row with an invalid measurement; the latest run had every one valid (R206, R364) -/
  miss : Nat
  allValid : Bool
  /-- the stage has been disabled since the latest run (R202) -/
  off : Bool
  /-- the law has been disabled or enabled since the latest T0: its state is dropped at the next (R182) -/
  drop : Bool
  /-- what the latest blend was made with: NODE_BASE, breakpoints, host values (R196) -/
  key : Option (Nat × List Nat × List Nat)
  /-- cycle in which an ACC_OVF event was posted (R172) -/
  ovfCyc : Option Nat
  deriving DecidableEq, Repr

/-- The control engine beside its registers (R176 to R206). -/
structure Cen where
  laws : List (Nat × Law)
  deriving DecidableEq, Repr

def Acc.reset : Acc := { a := 0, e := none, bad := false }
def Gen.reset : Gen := { base := 0, len := 1, ptr := 0, unit := 0, step := 0, ls := 0, exp := 0, hdr := none }
def Ctx.reset : Ctx :=
  { pc := 0, inv := false, sats := false, gens := [], accs := [], rep := 0, loop := none, begun := false, snap := none }
def Dp.reset : Dp := { ctxs := [], ver := none, verOk := none }
def Law.reset : Law :=
  { cfg := none, act := none, pend := none, force := none, applied := [], buf := none, runNo := 0, miss := 0, allValid := false, off := false, drop := false,
    key := none, ovfCyc := none }
def Cen.reset : Cen := { laws := [] }

/-- What a conversion is for (R472, R476, R477). -/
inductive ConvKind where
  | ts | inj | scan
  deriving DecidableEq, Repr

/-- A conversion in progress: position, kind, strobe in raw T72 units, its marks (R470, R471, R482, R488). -/
structure Conv where
  pos : Nat
  kind : ConvKind
  strobe : Nat
  unset : Bool
  refOk : Bool
  late : Bool
  test : Bool
  deriving DecidableEq, Repr

/-- A converter beside its registers (R469 to R489).  Times are raw, in T72 units. -/
structure AdcCh where
  conv : Option Conv
  /-- positions of the TS sequence, and of the scan in progress, not yet converted (R472, R476) -/
  tsLeft : List Nat
  scan : List Nat
  /-- an injected request waits: whether it is late (R477, R478) -/
  inj : Option Bool
  /-- end of the calibration in progress (R480) -/
  calEnd : Option Nat
  /-- end of reference settling (R482) -/
  settle : Option Nat
  /-- test strobes wait until then (R488) -/
  dacUntil : Nat
  /-- positions whose latest result lies beyond the open-wire limit (R486) -/
  beyond : Nat
  /-- sample time of the result in ADC_RESULT, T72 (R484) -/
  resTime : Nat
  /-- overruns in the present cycle or idle tick (R485) -/
  ovrN : Nat
  deriving DecidableEq, Repr

/-- The converters. -/
structure Adc where
  chans : List (Nat × AdcCh)
  /-- the sample store of the latest TS sequence by input (R474); none: invalid -/
  store : List (Nat × Option Int)
  deriving DecidableEq, Repr

def AdcCh.reset : AdcCh :=
  { conv := none, tsLeft := [], scan := [], inj := none, calEnd := none, settle := none, dacUntil := 0, beyond := 0,
    resTime := 0, ovrN := 0 }
def Adc.reset : Adc := { chans := [], store := [] }

/-- A local feedback channel beside its registers (R400 to R438).  Times are T72. -/
structure Chan where
  /-- the count, a 48-bit two's complement integer (R401) -/
  count : Int
  /-- time of the latest count change, and of the edge at which the channel started (R415) -/
  tEdge : Nat
  startT : Nat
  /-- last legal Hall code accepted (R408) -/
  ref : Option Nat
  /-- latches, newest first: count, TEDGE, TLAT (R424 to R426) -/
  hist : List (Int × Nat × Nat)
  /-- count edges, newest first: time and direction (R427) -/
  edges : List (Nat × Int)
  /-- times of the decode errors in the window (R419) -/
  errs : List Nat
  /-- cycle, or idle tick, in which a DECODE event was posted (R418) -/
  decCyc : Option Nat
  /-- value of the latest good SSI frame, the latch of a frame in progress, time of the latest count change (R413, R415,
  R425) -/
  ssiLast : Option Int
  frameAt : Option Nat
  chgT : Nat
  /-- FAULT or LOSS stood at the latch edge of that frame (R421); the channel is enabled and starts at the next sampler edge
  (R436) -/
  frameBad : Bool
  starting : Bool
  /-- inputs whose amplitude is below the threshold (R420) -/
  below : Nat
  /-- Felt's own count, whether it has been set, the levels and the Hall code it has last seen, its latest good SSI value; its
  consecutive mismatches are kept with the axis (R430 to R432) -/
  felt : Nat
  feltOn : Bool
  feltPins : Nat
  feltRef : Option Nat
  feltSsi : Option Int
  deriving DecidableEq, Repr

/-- The feedback channels. -/
structure Fbk where
  chans : List (Nat × Chan)
  /-- levels of A, B, Z after the filter stage, by channel, whether or not it is enabled (R403) -/
  pins : List (Nat × Nat)
  /-- TS has passed and its latch waits for the next edge of the sampler (R29, R415) -/
  latchDue : Bool
  deriving DecidableEq, Repr

def Chan.reset : Chan :=
  { count := 0, tEdge := 0, startT := 0, ref := none, hist := [], edges := [], errs := [], decCyc := none, ssiLast := none,
    frameAt := none, chgT := 0, frameBad := false, starting := false, below := 0, felt := 0, feltOn := false, feltPins := 0, feltRef := none, feltSsi := none }
def Fbk.reset : Fbk := { chans := [], pins := [], latchDue := false }

/-- A PWM channel beside its registers (R439 to R462).  Edges are numbers of 2.5 ns edges of the PWM clock. -/
structure PwmCh where
  /-- the counter runs; it waits for the next T0 strobe (R453) -/
  run : Bool
  wait : Bool
  /-- counter value cnt at PWM edge edge, counting down (R439) -/
  edge : Nat
  cnt : Nat
  down : Bool
  /-- dither index, period starts since the counter started, and the period within the cycle (R440, R445) -/
  dith : Nat
  starts : Nat
  per : Option Nat
  /-- the top event of this period has occurred; edge of the latest CMPB event (R461) -/
  top : Bool
  cmpb : Option Nat
  /-- REF, and whether it has risen and fallen in this period (R446, R447) -/
  ref : Bool
  rose : Bool
  fell : Bool
  /-- H and L as the dead time lets them be, the edges at which they turned off, the output that waits for its turn-on:
  true for H, with its edge (R451) -/
  h : Bool
  l : Bool
  hOff : Nat
  lOff : Nat
  pend : Option (Bool × Nat)
  /-- a cleared trip waits for the period start (R458) -/
  resume : Bool
  /-- D in force (R448, R449) -/
  d : Nat
  /-- occurrences since the latest request, requests since the latest IRQ event, the cycle or idle tick of that event
  (R461, R462) -/
  presc : Nat
  since : Nat
  irqKey : Option Nat
  deriving DecidableEq, Repr

/-- The PWM block (R439 to R468). -/
structure Pwm where
  chans : List (Nat × PwmCh)
  /-- raw filtered levels of the trip inputs (R455) -/
  tin : Nat
  /-- end edge of the open blanking window of each group (R459) -/
  blank : List (Nat × Option Nat)
  /-- enable lines of the sets: safety processor, Felt (R454) -/
  gateSp : Nat
  gateFelt : Nat
  /-- cycle whose T0 strobe the counters have taken (R440) -/
  strobe : Option Nat
  /-- channels that have raised a request not yet offered to converters and acquisition units (R462) -/
  reqs : List Nat
  /-- channels whose PWM_CFG has been written since power came on: their output balls are driven (R697) -/
  driven : List Nat
  deriving DecidableEq, Repr

def PwmCh.reset : PwmCh :=
  { run := false, wait := false, edge := 0, cnt := 0, down := false, dith := 0, starts := 0, per := none, top := false, cmpb := none,
    ref := false, rose := false, fell := false, h := false, l := false, hOff := 0, lOff := 0, pend := none,
    resume := false, d := 0, presc := 0, since := 0, irqKey := none }
def Pwm.reset : Pwm := { chans := [], tin := 0, blank := [], gateSp := 0, gateFelt := 0, strobe := none, reqs := [], driven := [] }

/-- A link end: Damask port 0 to 3, Laend lane 4 and 5 (R537, R561, R585).  Times T72. -/
structure Link where
  /-- entry into TRAIN, the latest valid LINK frame received, the latest request sent -/
  since : Nat
  heard : Nat
  sent : Nat
  /-- number of the next request, requests without response: REQ_ID and t1 -/
  reqNo : Nat
  reqs : List (Nat × Nat)
  /-- UID the neighbour has named since LOCK -/
  uid : Option Nat
  /-- twice the valid measurements d, newest first, at most 16 -/
  meas : List Int
  deriving DecidableEq, Repr

def Link.reset : Link := { since := 0, heard := 0, sent := 0, reqNo := 0, reqs := [], uid := none, meas := [] }

/-- A Damask frame, or a part of one after preemption (R538): header fields, payload, poisoned code blocks; the ingress it
came in by and its start-of-frame time there, the earliest instant at which it can leave (T72); the held command it ends. -/
structure DFrame where
  cls : Nat
  cont : Bool
  more : Bool
  kind : Nat
  dst : Nat
  src : Nat
  stream : Nat
  hops : Nat
  fseq : Nat
  cyc : Nat
  rlen : Nat
  rptr : Nat
  route : Nat
  payload : List Byte
  bad : List Nat
  ing : Option Nat
  sof : Nat
  exit : Nat
  key : Option Nat
  deriving DecidableEq, Repr

/-- A frame that an egress sends: payload bytes sent with the present unit, the end of that unit in 1/1280 ns; a LINK
frame is one unit (R548, R549). -/
structure DCur where
  frame : DFrame
  off : Nat
  ends : Nat
  link : Bool
  deriving DecidableEq, Repr

/-- A frame of which a part has come in: payload bytes still to come, the egresses its first part took (R539, R549). -/
structure DIn where
  frame : DFrame
  left : Nat
  egress : List Nat
  deriving DecidableEq, Repr

/-- A Damask port beside its registers (R548 to R551). -/
structure DPort where
  q0 : List DFrame
  q1 : List DFrame
  q2 : List DFrame
  /-- the remainder of a preempted frame -/
  rest : Option DFrame
  cur : Option DCur
  /-- LINK payloads that wait for the unit in progress -/
  links : List (List Byte)
  /-- frames in progress on the ingress -/
  inn : List DIn
  deriving DecidableEq, Repr

/-- A message being reassembled (R541): its class and kind, the FSEQ of its latest frame, the time of that frame, bytes so
far, whether it has already been discarded. -/
structure Reasm where
  src : Nat
  stream : Nat
  cls : Nat
  fseq : Nat
  time : Nat
  data : List Byte
  drop : Bool
  deriving DecidableEq, Repr

/-- A node as the root knows it (R543, R555): route and way back as egress ports, its port records: state, neighbour's
port, neighbour's UID. -/
structure DNode where
  uid : Nat
  fixed : Nat
  addr : Nat
  route : List Nat
  back : List Nat
  ports : List (Nat × Nat × Nat)
  deriving DecidableEq, Repr

/-- What the root does in a discovery (R555 to R557). -/
inductive DiscTask where
  | probe (route back : List Nat) (uid : Nat)
  | assign (route back : List Nat) (uid addr : Nat)
  | routes (uid addr : Nat)
  deriving DecidableEq, Repr

/-- A discovery in progress: nodes found, tasks left with the one in progress first, tries of it, when it was sent (T72),
TABLE_ID of the table sent last. -/
structure Disc where
  nodes : List DNode
  todo : List DiscTask
  tries : Nat
  sentAt : Nat
  table : Nat
  deriving DecidableEq, Repr

/-- A source of time as the receiver keeps it (R563 to R566): its latest accepted round, raw arrival, tau, ingress, HOPS,
rounds of exclusion left. -/
structure TSrc where
  r : Nat
  f : Nat
  tau : Int
  port : Nat
  hops : Nat
  excl : Nat
  deriving DecidableEq, Repr

/-- Synchronisation beside its registers (R562 to R569). -/
structure Sync where
  /-- the round to be closed next, its offsets (1/256 ns) and rate errors -/
  round : Nat
  offs : List Int
  rhos : List Rat
  srcs : List (Nat × Option TSrc)
  /-- LISTEN_T runs from here, T72 -/
  heard : Nat
  /-- consecutive rounds within SYNC_TOL -/
  good : Nat
  yielded : Bool
  /-- the round whose TIME frame was sent last -/
  sentR : Option Nat
  deriving DecidableEq, Repr

/-- A mode agreement (R571, R572): the other participants, who has voted YES and who is ready, whether this unit has
announced the switch, which steps are done. -/
structure Agree where
  id : Nat
  m : Nat
  ks : Nat
  prop : Nat
  mine : Bool
  peers : List Nat
  yes : List Nat
  ready : List Nat
  joined : Bool
  step : Nat
  commit : Bool
  deriving DecidableEq, Repr

/-- The Damask node (R536 to R584). -/
structure Dmk where
  ports : List (Nat × DPort)
  /-- FSEQ of the next frame, number of the next HOST_SEND and of the next agreement -/
  fseq : Nat
  sendNo : Nat
  agreeNo : Nat
  /-- FSEQ of the last broadcast by source (R558) -/
  bcast : List (Nat × Option Nat)
  reasm : List Reasm
  /-- this node has a route table; the parts of one that comes in: TABLE_ID, time of the first part, parts (R545) -/
  hasTable : Bool
  parts : Option (Nat × Nat × List (Nat × List Nat))
  /-- HOST frames that wait for room in class 2 (R575) -/
  feed : List DFrame
  /-- class-1 frames held by shaping, and what each stream has sent: time T72 and bytes (R574) -/
  shaped : List DFrame
  shapeLog : List (Nat × List (Nat × Nat))
  /-- a discovery is due; the one in progress; nodes of the latest one; TABLE_ID counter -/
  discDue : Bool
  disc : Option Disc
  known : List DNode
  tableNo : Nat
  /-- class-0 records that have sent in the present cycle (R552) -/
  c0Sent : List Nat
  sync : Sync
  agree : Option Agree
  /-- first copies taken: OP, sender, agreement (R546); frames to repeat: destination, payload, times left (R571) -/
  modeSeen : List (Nat × Nat × Nat)
  repeats : List (Nat × List Byte × Nat)
  /-- the participants watched for a split, from cycle k_s + 1 (R573) -/
  watch : Option (Nat × List Nat)
  deriving DecidableEq, Repr

def DPort.reset : DPort := { q0 := [], q1 := [], q2 := [], rest := none, cur := none, links := [], inn := [] }
def Sync.reset : Sync := { round := 0, offs := [], rhos := [], srcs := [], heard := 0, good := 0, yielded := false, sentR := none }
def Dmk.reset : Dmk :=
  { ports := [], fseq := 0, sendNo := 0, agreeNo := 0, bcast := [], reasm := [], hasTable := false, parts := none, feed := [],
    shaped := [], shapeLog := [], discDue := false, disc := none, known := [], tableNo := 0, c0Sent := [],
    sync := .reset, agree := none, modeSeen := [], repeats := [], watch := none }

/-- What a STATE frame carries of one item (R592, R602): the item's data beside registers and SRAM words.  The layout of
its bytes is the running Walno runtime's; the model takes the contents themselves (log 36). -/
inductive StateItem where
  | law (n : Nat) (x : Law)
  | group (g : Nat) (x : Group)
  | axis (a : Nat) (x : Axis)
  | cmp (u : Nat) (x : Cmp)
  | aux (u : Nat) (x : Aux)
  /-- factors in force and pending -/
  | sensors (fac facNext : List (Nat × (Nat × Nat))) (accepted : List (Nat × Option Frame))
  | context (n : Nat) (wake : Nat)
  /-- inputs tested since power-up, inputs with a DISC fault (R361) -/
  | safety (tested disc : Nat)
  deriving DecidableEq, Repr

/-- A state item: the cycle of capture, its registers by offset, its SRAM words by address. -/
structure StateMsg where
  cyc : Nat
  item : StateItem
  regs : List (Nat × Word)
  words : List (Nat × Nat)
  deriving DecidableEq, Repr

/-- A health report (R615). -/
structure Hb where
  k : Nat
  role : Nat
  pstate : Nat
  mism : Bool
  fault : Nat
  uid : Nat
  deriving DecidableEq, Repr

/-- What a decision does at the next TC (R596, R616, R618, R619). -/
inductive PairPlan where
  | fail (reason : Nat)
  | promote
  | isolate
  | swap
  /-- the active goes on alone, with or without a controlled stop -/
  | alone (stop : Bool)
  deriving DecidableEq, Repr

/-- A mirror item received or to be sent (R590): part, instance, node, flags (VALID, VIA_B, LAST), data. -/
structure MirItem where
  part : Nat
  inst : Nat
  node : Nat
  flags : Nat
  data : List Byte
  deriving DecidableEq, Repr

/-- An item of a ROLE frame that waits for its cycle (R593). -/
structure RoleItem where
  item : Nat
  ring : Nat
  cyc : Nat
  data : List Byte
  deriving DecidableEq, Repr

/-- The pair (R585 to R627). -/
structure Lnd where
  /-- LSEQ of the next frame, those taken, those with a failed copy (R588) -/
  lseq : Nat
  taken : List Nat
  failed : List (Nat × Nat)
  /-- the partner's identity; EN has risen and JOIN has not begun; instant of JOIN, T72 (R595, R598) -/
  info : Option PairInfo
  armed : Bool
  joinAt : Nat
  /-- EN has fallen on a standby: its cell cycle still runs (R595) -/
  leaving : Bool
  /-- cycle in which the role ACTIVE was taken (R619) -/
  since : Nat
  /-- health reports received, newest first; cycles in a row with the report absent, with it present (R617, R595) -/
  hbs : List Hb
  hbGone : Nat
  hbBack : Nat
  /-- the partner's commanding frames: seen in this cycle, cycles in a row without, with (R617 to R619) -/
  seen : Bool
  gone : Nat
  here : Nat
  /-- cycle last judged for HB, and at TR -/
  hbCyc : Option Nat
  trCyc : Option Nat
  /-- FAULT bits since the latest T0, and those of the cycle before (R615) -/
  fault : Nat
  faultHb : Nat
  /-- own and partner's digests by cycle, newest first (R614) -/
  own : List (Nat × List Byte)
  theirs : List (Nat × List Byte)
  /-- cycle of a mismatch that waits for its decision; a mismatch in the latest cycle compared; the plan for the next TC -/
  mism : Option Nat
  mismHb : Bool
  plan : Option PairPlan
  /-- compared cycles without mismatch in SHADOW, mismatches in SHADOW since JOIN (R595) -/
  clean : Nat
  restarts : Nat
  /-- HST_ECC_CORR_CNT at JOIN, self-test passes, time of the latest (R615, R621) -/
  corrBase : Nat
  passes : Nat
  passAt : Nat
  /-- signals raised in this cycle, mirror parts sent in it (R603) -/
  raised : Nat
  sentParts : List (Nat × Nat)
  /-- mirror items received for the present cycle; it is complete; own copies kept aside (R604, R605) -/
  items : List MirItem
  mirDone : Bool
  copies : List (Nat × Nat × Nat × List Byte)
  /-- the partner's safety demands of the latest cycle: causes by group (R610) -/
  demands : List (Nat × Nat)
  /-- state items still to be sent, or installed (R602) -/
  toSend : List Nat
  installed : List Nat
  /-- inputs tested, with a DISC fault, by the active's record (R361, R611) -/
  tested : Nat
  disced : Nat
  /-- items that wait for their cycle (R593), frames of STREAM begun in this cycle: branch and type (R608) -/
  role : List RoleItem
  streams : List (Nat × Nat)
  deriving DecidableEq, Repr

def Lnd.reset : Lnd :=
  { lseq := 0, taken := [], failed := [], info := none, armed := false, joinAt := 0, leaving := false, since := 0, hbs := [],
    hbGone := 0, hbBack := 0, seen := false, gone := 0, here := 0, hbCyc := none, trCyc := none, fault := 0, faultHb := 0,
    own := [], theirs := [], mism := none, mismHb := false, plan := none, clean := 0, restarts := 0, corrBase := 0, passes := 0,
    passAt := 0, raised := 0, sentParts := [], items := [], mirDone := false, copies := [], demands := [], toSend := [],
    installed := [], tested := 0, disced := 0, role := [], streams := [] }

/-- A trigger condition beside its registers (R633 to R635).  Sample numbers count samples since START. -/
structure AcqCond where
  /-- side: 1 HIGH, -1 LOW, 0 unknown; the sample that entered it; a TIMEOUT has fired in this stay -/
  side : Int
  since : Nat
  fired : Bool
  /-- last sample beyond the far side of the first threshold, first sample beyond it since (RUNT, SLEW) -/
  low : Option Nat
  beyond : Option Nat
  /-- the EXT event is usable (R635) -/
  ext : Bool
  deriving DecidableEq, Repr

/-- The trigger of a record (R638, R642): its stamp without INV bits, ring index, number among the stored samples, MET,
PRIMARY, DUR. -/
structure AcqTrig where
  stamp : Nat
  ring : Nat
  at_ : Nat
  met : Nat
  primary : Nat
  dur : Nat
  deriving DecidableEq, Repr

/-- An acquisition unit beside its registers (R637 to R646). -/
structure AcqUnit where
  /-- record number -/
  recNo : Nat
  /-- samples since START, dropped ones included, and those stored -/
  n : Nat
  stored : Nat
  conds : List (Nat × AcqCond)
  /-- a FORCE waits for the next sample (R636) -/
  force : Bool
  trig : Option AcqTrig
  preN : Nat
  postN : Nat
  /-- a sample was dropped in this record; stored samples before which one was -/
  gap : Bool
  gaps : List Nat
  /-- per channel: valid values, their sum, MIN, MAX (R643) -/
  meas : List (Nat × (Nat × Int × Int × Int))
  /-- samples of the record already streamed; SEQ of the next chunk (R644) -/
  streamed : Nat
  seq : Nat
  /-- samples dropped in the present cycle (R641) -/
  drops : Nat
  /-- cycle last sampled (SMODE 0); next engine edge of the grid not yet sampled (SMODE 1) -/
  lastCyc : Option Nat
  nextEdge : Nat
  /-- a STOP waits for the sample of its own edge (R648) -/
  stop : Bool
  deriving DecidableEq, Repr

/-- The acquisition units (R628 to R653). -/
structure Acq where
  units : List (Nat × AcqUnit)
  /-- origin of the sample grid, corrected ns, and TBS_RATE_EFF there (R631) -/
  t0 : Nat
  rate : Int
  deriving DecidableEq, Repr

def AcqCond.reset : AcqCond := { side := 0, since := 0, fired := false, low := none, beyond := none, ext := false }
def AcqUnit.reset : AcqUnit :=
  { recNo := 0, n := 0, stored := 0, conds := [], force := false, trig := none, preN := 0, postN := 0, gap := false, gaps := [],
    meas := [], streamed := 0, seq := 0, drops := 0, lastCyc := none, nextEdge := 0, stop := false }
def Acq.reset : Acq := { units := [], t0 := 0, rate := 0 }

/-- The fuses of both dies (R666): programmed key slots with the SHA-256 of their public keys, revoked slots, counters. -/
structure Fuses where
  uid : Nat
  uidFelt : Nat
  /-- ID_SEED, 32 bytes -/
  seed : List Byte
  bootKeys : List (Nat × List Byte)
  bootRev : Nat
  bootSvn : Nat
  safeKeys : List (Nat × List Byte)
  safeRev : Nat
  safeSvn : Nat
  deriving DecidableEq, Repr

/-- A flash write in progress: offset, bytes, the held command it ends (none: a recovery write). -/
structure FlashOp where
  ofs : Nat
  data : List Byte
  key : Nat
  deriving DecidableEq, Repr

/-- A fuse burn in progress (R680, R681): domain, whether it revokes, the target value or the slot. -/
structure Burn where
  dom : Nat
  revoke : Bool
  val : Nat
  key : Nat
  deriving DecidableEq, Repr

/-- An attestation in progress (R676): nonce, host buffer, the latched bytes 0 to 255. -/
structure Attest where
  nonce : List Byte
  host : Nat
  body : Option (List Byte)
  deriving DecidableEq, Repr

/-- Reset, boot and security beside the registers (R654 to R688). -/
structure Boot where
  /-- flash bytes; an unlisted byte reads as 0xFF -/
  flash : List Host.Cell
  fuses : Fuses
  /-- the second bank is being tried, and the first one's reason (R670) -/
  second : Bool
  first : Nat
  /-- digests of sections 1 to 3 of the running image (R664) -/
  digests : List (List Byte)
  /-- FRC at which an accepted device reset takes effect, at which the watchdog expired (R658, R659) -/
  rstAt : Option Nat
  wdogAt : Option Nat
  flashOps : List FlashOp
  rec_ : Option FlashOp
  burns : List Burn
  attest : Option Attest
  /-- number of the next held boot command -/
  opNo : Nat
  deriving DecidableEq, Repr

/-- The thermal rule (R707, R708): levels in force (bit n: level n), samples in a row at or above the entry value and at or
below the leave value by level, FRC of the next sample. -/
structure Therm where
  levels : Nat
  up : List (Nat × Nat)
  down : List (Nat × Nat)
  next : Nat
  deriving DecidableEq, Repr

def Fuses.reset : Fuses :=
  { uid := 0, uidFelt := 0, seed := [], bootKeys := [], bootRev := 0, bootSvn := 0, safeKeys := [], safeRev := 0, safeSvn := 0 }
def Boot.reset : Boot :=
  { flash := [], fuses := .reset, second := false, first := 0, digests := [], rstAt := none, wdogAt := none, flashOps := [],
    rec_ := none, burns := [], attest := none, opNo := 0 }
def Therm.reset : Therm := { levels := 0, up := [], down := [], next := 0 }

/-- What leaves the controller, in the order in which it leaves. -/
inductive Output where
  /-- A write of 8-byte fields to host memory (R124, R125, R130). -/
  | dma (addr : Nat) (fields : List (BitVec 64))
  /-- A write of bytes to host memory. -/
  | dmaBytes (addr : Nat) (bytes : List Byte)
  /-- A read of host memory: the doorbell block, a line of the index table, a descriptor (R92, R94). -/
  | hostRead (addr len : Nat)
  /-- The value that a BAR0 read returns (R91). -/
  | barRead (off : Nat) (value : Word)
  /-- An MSI-X message: address and data of its table entry (R129). -/
  | msix (vector addr data : Nat)
  /-- One unit of a Damask frame out of a port: the header (empty in a later unit), payload bytes, its poisoned code
  blocks, whether the terminate block follows (R538, R540, R549). -/
  | dmk (port : Nat) (hdr payload : List Byte) (bad : List Nat) (last : Bool)
  /-- A Twill frame out of a port of a branch: byte 1 to the FCS (R498). -/
  | twill (branch port : Nat) (bytes : List Byte)
  /-- A Laend frame on a lane: header and payload (R587, R588). -/
  | lnd (lane : Nat) (hdr payload : List Byte)
  /-- A STATE frame on a lane: header and item (R592). -/
  | lndState (lane : Nat) (hdr : List Byte) (item : StateMsg)
  deriving DecidableEq, Repr

def TbParams.reset : TbParams := { offset := 0, rate := 0, slew := 0, anchor := 0 }

def Tbs.reset : Tbs :=
  { par := .reset, prev := .reset, applyEdge := 0, pend := none, stepFrom := none, slewAmt := 0, slewAcc := 0, slewBase := 0, nextT0 := 0,
    started := false, stopping := false, k := 0, t0 := 0, t0Edge := 0, tsDone := true, trDone := true, tcDone := true,
    trgNext := [], trgLate := [] }

def Hst.reset : Hst :=
  { dbDue := none, hb := 0, hbSeen := false, hbStale := 0, sqMask := 0, cqMask := 0, eqMask := 0, dbGood := false,
    dbMiss := false, rejSince := false, wrote := [], putOff := [], sqTail := [], cqHead := [], eqHead := [], eqLost := [], fence := [], queue := [],
    comps := [], fetched := 0, lastSq := 63, vecDue := [], vecSent := [], linkUp := false, config := .reset, d3hot := false,
    d3Refused := false, tickNo := 0, corrPosted := false, events := [] }

def Sch.reset : Sch :=
  { tick := 0, ready := [], delay := [], wake := [], lastDisp := [], age := [], aged := 0, saved := [], ended := [], reserv := none,
    cores := [], relCyc := [], under := [], runLanes := [], l0Held := [] }

end Sys2Proof.Machine
end

