-- ==== Sys2Proof/Syntax.lean ====
section
/-! DEFINITION. The commands of the controller, one constructor per row of the opcode table, in its order. -/

namespace Sys2Proof

open Sys2Proof.Machine

/-- A command.  Operands named h are the descriptor a command comes by; what the world outside shows (a level, a code, bytes
received) is an operand of the event that brings it. -/
inductive Instr where
  /-- CELL_CYCLE_T0 (R31): the next cycle begins, where its T0 has come; late are the axes whose set points its evaluations do
  not complete by TC (R254). -/
  | cellCycleT0 (late : List Nat := [])
  /-- CELL_CYCLE_TS (R35). -/
  | cellCycleTs
  /-- CELL_CYCLE_TR (R35). -/
  | cellCycleTr
  /-- CELL_CYCLE_TC (R39). -/
  | cellCycleTc
  /-- CYCLE_END (R79). -/
  | cycleEnd
  /-- CYCLE_START (R78): RUN is written 1. -/
  | cycleStart
  /-- CYCLE_STOP (R79): RUN is written 0. -/
  | cycleStop
  /-- PERIOD_WRITE (R80). -/
  | periodWrite (period : Nat)
  /-- TBS_ARM (R61): TBS_P_CMD is written with ARM and the parts it uses. -/
  | tbsArm (step rate slew : Bool)
  /-- TBS_CANCEL (R68). -/
  | tbsCancel
  /-- APPLY_CHANGE (R63). -/
  | applyChange
  /-- SLEW_DONE (R65). -/
  | slewDone
  /-- TIME_READ_LATCH (R72): a BAR0 read of size bytes. -/
  | timeReadLatch (off size : Nat)
  /-- TIMED_START_FIRE (R81): every unit whose target has come fires. -/
  | timedStartFire
  /-- REF_LOSS (R85). -/
  | refLoss
  /-- PLL_LOCK_REGAIN (R85). -/
  | pllLockRegain
  /-- SCRUB_ROW (R46): the bits that have turned over in the next row since its last write, of data bytes and of check bytes. -/
  | scrubRow (data check : List ByteFlip)
  /-- D3HOT_REQUEST (R90). -/
  | d3hotRequest
  /-- IDLE_TICK (R92). -/
  | idleTick
  /-- DOORBELL_COMPLETION (R93). -/
  | doorbellCompletion (good : Bool) (data : List Byte)
  /-- DOORBELL_DEADLINE (R93). -/
  | doorbellDeadline
  /-- RIT_LINE_READ (R94). -/
  | ritLineRead (line : Nat) (good : Bool) (data : List Byte)
  /-- DESCRIPTOR_FETCH (R94). -/
  | descriptorFetch (sq : Nat) (good : Bool) (desc : Desc)
  /-- FENCE_RELEASE (R111). -/
  | fenceRelease (sq : Nat)
  /-- COMPLETION_WRITE (R106). -/
  | completionWrite
  /-- OVERFLOW_EVENT (R108). -/
  | overflowEvent (ring : Nat)
  /-- MSIX_MESSAGE (R128). -/
  | msixMessage (vector : Nat)
  /-- NOP (R119). -/
  | nop (h : DescHdr)
  /-- REG_WRITE (R119): pairs of offset and value. -/
  | regWrite (h : DescHdr) (items : List (Nat × Nat))
  /-- REG_READ (R119). -/
  | regRead (h : DescHdr) (offs : List Nat)
  /-- WORD_WRITE (R120): word address, COUNT, host pointer and the bytes there. -/
  | wordWrite (h : DescHdr) (waddr count ptr : Nat) (data : List Byte)
  /-- WORD_READ (R120). -/
  | wordRead (h : DescHdr) (waddr count ptr : Nat)
  /-- TABLE_WRITE (R121): TABLE, FIRST, COUNT, host pointer and the bytes there. -/
  | tableWrite (h : DescHdr) (table first count ptr : Nat) (data : List Byte)
  /-- TABLE_READ (R121). -/
  | tableRead (h : DescHdr) (table first count ptr : Nat)
  /-- TIME_CORR (R120): the bits of field 2, STEP, RATE, SLEW and AT. -/
  | timeCorr (h : DescHdr) (ctl step rate slew at_ : Nat)
  /-- STOP (R119). -/
  | stop (h : DescHdr) (groups kind : Nat)
  /-- CLEAR_MISS (R123): a mask of 128 axes. -/
  | clearMiss (h : DescHdr) (axes : Nat)
  /-- REGISTER_WRITE (R131): a BAR0 write; full says that it is a 4-byte write with all byte enables set (R91). -/
  | registerWrite (off value : Nat) (full : Bool)
  /-- COMMIT_LOCK_SET (R134). -/
  | commitLockSet
  /-- COMMIT_LOCK_CLEAR (R134). -/
  | commitLockClear
  /-- RING_ENABLE (R107). -/
  | ringEnable (kind n : Nat)
  /-- RING_DISABLE (R109). -/
  | ringDisable (kind n : Nat)
  /-- CTX_ENABLE (R141): by descriptor, or by a write of each context's register. -/
  | ctxEnable (h : Option DescHdr) (mask : Nat)
  /-- CTX_DISABLE (R140). -/
  | ctxDisable (h : Option DescHdr) (mask : Nat)
  /-- CTX_RELEASE (R162). -/
  | ctxRelease (h : DescHdr) (mask : Nat)
  /-- CLR_STAT (R167). -/
  | clrStat
  /-- DELAY_TICK (R138). -/
  | delayTick
  /-- AGE_PROMOTE (R155): at a tick that has come. -/
  | agePromote
  /-- DISPATCH (R149): the context the dispatcher places next, with the measured latency in engine cycles. -/
  | dispatch (n latency : Nat)
  /-- PREEMPT (R153): the context is at an interruption point, its state is saved. -/
  | preempt (n : Nat)
  /-- CTX_COMPLETE (R140). -/
  | ctxComplete (n : Nat)
  /-- SVC_DISPATCH (R151): a service error ends the service and halts the context (R238). -/
  | svcDispatch
  /-- SVC_COMPLETE (R151): the service of a core has returned. -/
  | svcComplete (core : Nat)
  /-- LAW_ENABLE (R213). -/
  | lawEnable (n : Nat)
  /-- LAW_DISABLE (R213). -/
  | lawDisable (n : Nat)
  /-- WALNO_NOP (R226). -/
  | walnoNop (ctx : Nat)
  /-- END (R232). -/
  | endRun (ctx : Nat)
  /-- BR (R226). -/
  | br (ctx : Nat) (target : Nat)
  /-- BRC (R231). -/
  | brc (ctx : Nat) (acc cond target : Nat)
  /-- LOOP (R235). -/
  | loop (ctx : Nat) (count len : Nat)
  /-- REP (R233). -/
  | rep (ctx : Nat) (count : Nat)
  /-- MAC (R226). -/
  | mac (ctx : Nat) (acc xg xpm sg spm sb : Nat)
  /-- MSU (R226). -/
  | msu (ctx : Nat) (acc xg xpm sg spm sb : Nat)
  /-- MUL (R226). -/
  | mul (ctx : Nat) (acc xg xpm sg spm sb : Nat)
  /-- MULN (R226). -/
  | muln (ctx : Nat) (acc xg xpm sg spm sb : Nat)
  /-- CLR (R226). -/
  | clr (ctx : Nat) (acc : Nat)
  /-- MOV (R226). -/
  | mov (ctx : Nat) (acc src : Nat)
  /-- ADDA (R226). -/
  | adda (ctx : Nat) (acc src : Nat)
  /-- SUBA (R226). -/
  | suba (ctx : Nat) (acc src : Nat)
  /-- NEG (R226). -/
  | neg (ctx : Nat) (acc : Nat)
  /-- CLMP (R226). -/
  | clmp (ctx : Nat) (acc lo hi : Nat)
  /-- LDE (R228). -/
  | lde (ctx : Nat) (acc g pm lane : Nat)
  /-- LDQ (R226). -/
  | ldq (ctx : Nat) (acc g pm lane f : Nat)
  /-- LDI (R230). -/
  | ldi (ctx : Nat) (acc src inst field : Nat)
  /-- STA (R229). -/
  | sta (ctx : Nat) (acc g pm lane : Nat)
  /-- STQ (R226). -/
  | stq (ctx : Nat) (acc g pm lane f : Nat)
  /-- AGSET (R222). -/
  | agset (ctx : Nat) (g base len unit : Nat)
  /-- AGSTG (R228). -/
  | agstg (ctx : Nat) (g hdr ls step : Nat)
  /-- AGMOD (R222). -/
  | agmod (ctx : Nat) (g step ls exp : Nat)
  /-- AGPTR (R222). -/
  | agptr (ctx : Nat) (g ptr : Nat)
  /-- PROG_LOAD (R242): slot, first word, number of words, CRC-32C. -/
  | progLoad (h : DescHdr) (slot base len crc : Nat)
  /-- PROG_UNLOAD (R243). -/
  | progUnload (h : DescHdr) (slot : Nat)
  /-- PROG_VERIFY_DONE (R243). -/
  | progVerifyDone
  /-- MOVE (R258): arm, REL, the targets of joints 0 to 11. -/
  | move (h : DescHdr) (arm : Nat) (rel : Bool) (targets : List Int) (ptr : Nat)
  /-- VEL (R262): axis and speed, s40.24. -/
  | vel (h : DescHdr) (axis : Nat) (speed : Int)
  /-- KNOT_PUSH (R264). -/
  | knotPush (h : DescHdr) (axis : Nat) (knots : List Knot) (ptr : Nat)
  /-- TBL_START (R265). -/
  | tblStart (h : DescHdr) (group : Nat)
  /-- TBL_CLEAR (R289). -/
  | tblClear (h : DescHdr) (axis : Nat)
  /-- PAUSE (R272). -/
  | pause (h : DescHdr) (groups : Nat)
  /-- RESUME (R272). -/
  | resume (h : DescHdr) (groups : Nat)
  /-- ABORT (R272). -/
  | abort (h : DescHdr) (groups : Nat)
  /-- HOME (R277). -/
  | home (h : DescHdr) (axis : Nat)
  /-- SET_POS (R280). -/
  | setPos (h : DescHdr) (axis : Nat) (pos : Int) (ptr : Nat)
  /-- AUX_MOVE (R286). -/
  | auxMove (h : DescHdr) (aux : Nat) (rel : Bool) (target : Int) (ptr : Nat)
  /-- AUX_VEL (R286). -/
  | auxVel (h : DescHdr) (aux : Nat) (speed : Int)
  /-- LIMIT_INPUT_CONFIRM (R274): input j (0 positive limit, 1 negative limit, 2 home) of an enabled axis, on a general
input, shows the state active; gpi holds the levels of the other general inputs at that moment. -/
  | limitInputConfirm (a j : Nat) (active : Bool) (gpi : Nat)
  /-- AXIS_ENABLE (R297): the general inputs' levels at that moment. -/
  | axisEnable (a gpi : Nat)
  /-- CMP_ARM (R283): ARM is written 1, or a new C is committed. -/
  | cmpArm (c : Nat) (pos : Option Int)
  /-- CMP_PULSE_END (R282). -/
  | cmpPulseEnd (c : Nat)
  /-- AUX_HOLD_CURRENT (R288): the channel has stood still for HOLD_DLY. -/
  | auxHoldCurrent (n : Nat)
  /-- SENSOR_FRAME (R309): a frame over Damask for an enabled sensor that takes its frames there. -/
  | sensorFrame (input : Nat) (data : List Byte)
  /-- SENS_FRAME (R338). -/
  | sensFrame (h : DescHdr) (sensor ptr : Nat) (data : List Byte)
  /-- SEP_COMPUTE (R313): the length of the computation in engine cycles. -/
  | sepCompute (cycles : Nat)
  /-- SEP_HANDOVER (R314, R331): what has turned over of the records on the way to the safety processor and to Felt; whether the
two copies of Felt's voxel map differ (R347). -/
  | sepHandover (sp felt : List PairFlip := []) (mapsDiffer : Bool := false)
  /-- SEP_LATE (R314). -/
  | sepLate
  /-- SAFETY_VERDICT (R315): channel 0 the safety processor, 1 Felt; bad: its pair fails on the crossing. -/
  | safetyVerdict (ch g : Nat) (bad : Bool)
  /-- SEP_ENABLE (R317). -/
  | sepEnable
  /-- POSITION_RECORD (R346): in a channel, 0 the safety processor, 1 Felt; what turns over on the way. -/
  | positionRecord (ch : Nat) (flips : List PairFlip)
  /-- DATA_TIMEOUT (R346). -/
  | dataTimeout
  /-- SS_TMAX_EXPIRY (R365). -/
  | ssTmaxExpiry (g : Nat)
  /-- CROSS_COMPARE (R347): differ says that the channels' states, causes or check values are found to differ. -/
  | crossCompare (differ : Bool) (ch : Nat)
  /-- SUPPLY_MONITOR_FAULT (R347). -/
  | supplyMonitorFault (ch : Nat)
  /-- OSCILLATOR_FAULT (R347). -/
  | oscillatorFault (ch : Nat)
  /-- PARAM_RECHECK (R347): the check value a channel recomputes. -/
  | paramRecheck (ch value : Nat)
  /-- SAFE_INPUT_CHANGE (R356, R703): terminal b of input i in a channel. -/
  | safeInputChange (ch input b : Nat) (level : Terminal)
  /-- DISC_LATCH (R357). -/
  | discLatch (input : Nat)
  /-- TEST_PULSE_CHECK (R358). -/
  | testPulseCheck (input : Nat) (good : Bool)
  /-- RESET_EDGE (R359): the release of a reset input in both channels. -/
  | resetEdge (input : Nat)
  /-- RESET_STUCK (R359). -/
  | resetStuck (input : Nat)
  /-- PARAM_OPEN (R395). -/
  | paramOpen (h : DescHdr)
  /-- PARAM_CLOSE (R351). -/
  | paramClose (h : DescHdr)
  /-- CONFIRM (R352): the check value and its complement. -/
  | confirm (h : DescHdr) (value compl : Nat)
  /-- CONFIRM_TIMEOUT (R352). -/
  | confirmTimeout
  /-- RELEASE (R367): a group mask and its complement. -/
  | release (h : DescHdr) (groups compl : Nat)
  /-- BCH_TIMEOUT (R382). -/
  | bchTimeout (a : Nat)
  /-- SAFE_OUTPUT_TEST (R379). -/
  | safeOutputTest (o element : Nat) (seenOff : Bool)
  /-- EDM_TIMEOUT (R380). -/
  | edmTimeout (o : Nat)
  /-- FEEDBACK_INPUT_CHANGE (R403): the inputs of mask (A, B, Z) of a channel take the other level; raw times at which they first showed it. -/
  | feedbackInputChange (n mask ta tb tz : Nat)
  /-- SSI_FRAME_DONE (R411): the bits clocked in, and whether the line answered ready and ended as a monoflop should. -/
  | ssiFrameDone (n raw : Nat) (ready mono : Bool)
  /-- LOSS_CHANGE (R420): the inputs whose amplitude lies below the threshold. -/
  | lossChange (n mask : Nat)
  /-- CLR_FAULT (R422). -/
  | clrFault (n : Nat)
  /-- FBK_ENABLE (R436). -/
  | fbkEnable (n : Nat)
  /-- FELT_FEEDBACK_LATCH (R430, R431): the filtered changes of the channel's line pairs since the previous latch, levels and
  complement lines, and the SSI frame snooped in this cycle. -/
  | feltFeedbackLatch (n : Nat) (told : List (Nat × Nat) × Option Nat)
  /-- PWM_ENABLE (R453). -/
  | pwmEnable (n : Nat)
  /-- PWM_RELOAD (R439). -/
  | pwmReload (n : Nat)
  /-- PWM_SYNC_RELOAD (R440). -/
  | pwmSyncReload
  /-- PWM_HOLD_LIMIT (R441). -/
  | pwmHoldLimit (n : Nat)
  /-- PWM_DUTY_WRITE (R449). -/
  | pwmDutyWrite (n duty : Nat)
  /-- PWM_PER_WRITE (R450). -/
  | pwmPerWrite (n per : Nat)
  /-- PWM_REF_EDGE (R446). -/
  | pwmRefEdge (n : Nat)
  /-- DEAD_TIME_END (R451). -/
  | deadTimeEnd (n : Nat)
  /-- BLANK_WINDOW_CLOSE (R460). -/
  | blankWindowClose (g : Nat)
  /-- TRIP_LATCH (R455): the filtered level of trip input i. -/
  | tripLatch (input : Nat) (level : Bool)
  /-- TRIP_FORCE (R455). -/
  | tripForce (g : Nat)
  /-- TRIP_CLEAR (R458). -/
  | tripClear (g : Nat)
  /-- GATE_LINE_CHANGE (R454): channel 0 the safety processor, 1 Felt. -/
  | gateLineChange (ch set : Nat)
  /-- ADC_ENABLE (R480). -/
  | adcEnable (c : Nat)
  /-- CONVERSION_DONE (R470): the code converted. -/
  | conversionDone (c code : Nat)
  /-- SCAN_GO (R476). -/
  | scanGo (c : Nat)
  /-- INJ_GO (R477). -/
  | injGo (c : Nat)
  /-- CAL (R480). -/
  | cal (c : Nat)
  /-- CLR_OPEN (R486). -/
  | clrOpen (c : Nat)
  /-- CAL_DONE (R481). -/
  | calDone (c : Nat)
  /-- REF_SETTLE (R482). -/
  | refSettle (c : Nat)
  /-- EXT_REF_CHANGE (R482). -/
  | extRefChange (ok : Bool)
  /-- ADC_RESULT_READ (R484). -/
  | adcResultRead (c : Nat)
  /-- TDAC_WRITE (R488). -/
  | tdacWrite (c code tol : Nat)
  /-- TWL_ENABLE (R526). -/
  | twlEnable (b : Nat)
  /-- TWL_DISABLE (R526). -/
  | twlDisable (b : Nat)
  /-- SYNC_FRAME_SEND (R501). -/
  | syncFrameSend (b : Nat)
  /-- POLL_FRAME_SEND (R501). -/
  | pollFrameSend (b : Nat)
  /-- SVC_FRAME_SEND (R524). -/
  | svcFrameSend (b : Nat)
  /-- SAFE_FRAME_SEND (R508). -/
  | safeFrameSend (b : Nat)
  /-- CMD_FRAME_SEND (R509). -/
  | cmdFrameSend (b : Nat)
  /-- TWILL_COPY_RECEIVE (R512): raw time of its start, byte 1 to the FCS. -/
  | twillCopyReceive (b port raw : Nat) (bytes : List Byte)
  /-- RING_OPEN (R514). -/
  | ringOpen (b port : Nat)
  /-- BRANCH_STATE_ADVANCE (R526). -/
  | branchStateAdvance (b : Nat)
  /-- MODE_SWITCH (R522): mode and cycle. -/
  | modeSwitch (h : DescHdr) (mode cycle : Nat)
  /-- MODE_SWITCH_CHECK (R522). -/
  | modeSwitchCheck
  /-- MODE_SWITCH_APPLY (R522). -/
  | modeSwitchApply
  /-- SVC_XFER (R531): branch, node, host buffer and the request there. -/
  | svcXfer (h : DescHdr) (b node ptr : Nat) (req : List Byte)
  /-- SVC_TIMEOUT (R524). -/
  | svcTimeout (b : Nat)
  /-- GUARD_BLOCK (R519): edges blocked. -/
  | guardBlock (b edges : Nat)
  /-- DMK_PORT_ENABLE (R537). -/
  | dmkPortEnable (p : Nat)
  /-- DMK_PORT_DISABLE (R537). -/
  | dmkPortDisable (p : Nat)
  /-- LINK_TRAIN_DONE (R537). -/
  | linkTrainDone (p : Nat)
  /-- TRAIN_TIMEOUT (R537). -/
  | trainTimeout (p : Nat)
  /-- LINK_FRAME_SEND (R537). -/
  | linkFrameSend (p : Nat)
  /-- LINK_FRAME_RECEIVE (R542). -/
  | linkFrameReceive (p raw : Nat) (payload : List Byte)
  /-- LINK_LOSS (R537): reason 0 loss of block lock, 1 too many sync-header errors, 2 no LINK frame for 4 ms. -/
  | linkLoss (p reason : Nat)
  /-- DAMASK_FRAME_RECEIVE (R539): header and payload as sent, the bits of its code blocks that turned over (of data bytes,
of check bytes), the time the frame takes to the egress (T72). -/
  | damaskFrameReceive (port raw : Nat) (hdr payload : List Byte) (flips check : List ByteFlip) (residence : Nat)
  /-- REASSEMBLY_TIMEOUT (R541). -/
  | reassemblyTimeout (src stream : Nat)
  /-- EGRESS_UNIT_END (R549). -/
  | egressUnitEnd (p : Nat)
  /-- C0_SEND (R552). -/
  | c0Send (r : Nat)
  /-- DISCOVERY (R555): a change of the fabric has been reported. -/
  | discovery (reported : Bool)
  /-- DISC_REPEAT (R543). -/
  | discRepeat
  /-- ROUTE_TABLE_TIMEOUT (R545). -/
  | routeTableTimeout
  /-- TIME_FRAME_SEND (R562). -/
  | timeFrameSend
  /-- ROUND_CLOSE (R564): the partner of a pair has reached SYNC (R598). -/
  | roundClose (partnerSync : Bool)
  /-- LISTEN_TIMEOUT (R567). -/
  | listenTimeout
  /-- MODE_PROPOSE (R572). -/
  | modePropose (h : DescHdr) (mode cycle : Nat)
  /-- MODE_AGREEMENT_STEP (R572). -/
  | modeAgreementStep
  /-- REDISCOVER (R580). -/
  | rediscover (h : DescHdr)
  /-- HOST_SEND (R575): destination, stream, host pointer and the message there. -/
  | hostSend (h : DescHdr) (dst stream ptr : Nat) (data : List Byte)
  /-- PAIR_ENABLE (R595): what the partner tells of itself at JOIN. -/
  | pairEnable (info : PairInfo)
  /-- PAIR_DISABLE (R595). -/
  | pairDisable
  /-- LAEND_FRAME_RECEIVE (R588): lane, raw time of its start, header and payload as sent, the bits of its code blocks
that turned over (of data bytes, of check bytes), the contents of a STATE frame's item. -/
  | laendFrameReceive (lane raw : Nat) (hdr payload : List Byte) (flips check : List ByteFlip) (item : Option StateMsg)
  /-- MIRROR_DEADLINE (R605). -/
  | mirrorDeadline
  /-- STREAM_TIMEOUT (R608). -/
  | streamTimeout (b type : Nat)
  /-- DIGEST_TIMEOUT (R614). -/
  | digestTimeout
  /-- HB_DEADLINE (R617). -/
  | hbDeadline
  /-- SELF_TEST_PASS (R621): the part that failed, 0: none. -/
  | selfTestPass (part : Nat)
  /-- SWITCHOVER (R622): the descriptor is validated; the roles change at the TC before the T0 at which it takes effect. -/
  | switchover (h : DescHdr)
  /-- ACQ_START (R639). -/
  | acqStart (h : DescHdr) (units : Nat)
  /-- ACQ_STOP (R637). -/
  | acqStop (h : DescHdr) (units : Nat)
  /-- ACQ_FORCE (R636). -/
  | acqForce (h : DescHdr) (units : Nat)
  /-- ACQ_SAMPLE (R631): the engine edge of the grid (none: the edge that observes TC), the units whose staging queue or ring
has no room, the levels of the general inputs. -/
  | acqSample (edge : Option Nat) (full gpi : Nat)
  /-- POWER_ON_RESET (R654). -/
  | powerOnReset (left : List Byte) (burned : Nat)
  /-- EXTERNAL_RESET (R654). -/
  | externalReset (left : List Byte) (burned : Nat)
  /-- BOOT_RST (R658). -/
  | bootRst (value : Nat)
  /-- DEVICE_RESET (R658). -/
  | deviceReset (left : List Byte) (burned : Nat)
  /-- WATCHDOG_EXPIRY (R659). -/
  | watchdogExpiry
  /-- WATCHDOG_RESET (R659). -/
  | watchdogReset (left : List Byte) (burned : Nat)
  /-- LINK_RESET (R657): the link as it trains again, where it does. -/
  | linkReset (perst : Bool) (left : List Byte) (burned : Nat) (link : Option PcieLink)
  /-- BOOT_ROM_DONE (R667). -/
  | bootRomDone (fusesOk flashOk vfuse : Bool) (link : Option PcieLink)
  /-- BOOT_LOAD_DONE (R670). -/
  | bootLoadDone
  /-- BOOT_VERIFY_DONE (R671). -/
  | bootVerifyDone
  /-- BOOT_SAFETY_DONE (R669). -/
  | bootSafetyDone (spOk feltOk : Bool)
  /-- BOOTED (R667). -/
  | booted (link : Option PcieLink)
  /-- ATTEST (R676). -/
  | attest (h : DescHdr) (ptr : Nat) (nonce : List Byte)
  /-- ATTEST_DONE (R677). -/
  | attestDone
  /-- FLASH_WRITE (R678). -/
  | flashWrite (h : DescHdr) (ofs ptr : Nat) (data : List Byte)
  /-- FLASH_VERIFY (R679). -/
  | flashVerify (h : DescHdr)
  /-- SVN_COMMIT (R680): domain, and whether VFUSE is in its range. -/
  | svnCommit (h : DescHdr) (dom : Nat) (vfuse : Bool)
  /-- KEY_REVOKE (R681): domain, slot, and whether VFUSE is in its range. -/
  | keyRevoke (h : DescHdr) (dom slot : Nat) (vfuse : Bool)
  /-- RECOVERY_WRITE (R682). -/
  | recoveryWrite
  /-- RECOVERY_RESET (R682). -/
  | recoveryReset
  /-- THERMAL_SAMPLE (R707): the four sensors in millidegrees, none: the self-check failed. -/
  | thermalSample (readings : List (Option Int))
  /-- PARAM_CLOSE_DONE (R351): agree says that both channels find the same. -/
  | paramCloseDone (agree : Bool)
  /-- FLASH_WRITE_DONE (R678): a write that failed has left bytes in its range. -/
  | flashWriteDone (ok : Bool) (left : List Byte)
  /-- FUSE_BURN_DONE (R680): the fuses a failed burn has reached. -/
  | fuseBurnDone (ok : Bool) (n : Nat)
  /-- RECOVERY_WRITE_DONE (R682). -/
  | recoveryWriteDone (ok : Bool) (left : List Byte)
  /-- PWM_TOP (R461). -/
  | pwmTop (n : Nat)
  /-- PWM_CMPB (R461). -/
  | pwmCmpb (n : Nat)
  /-- JOIN_SYNC_TIMEOUT (R598). -/
  | joinSyncTimeout
  /-- TDAC_SETTLED (R488). -/
  | tdacSettled (c : Nat)
  deriving DecidableEq, Repr

end Sys2Proof
end

