-- ==== Sys2Proof/Config.lean ====
section
/-! DEFINITION. What one device or implementation fixes and the values the spec leaves open: constants without a body, so that nothing can be proved about which value they have. Each has its entry in notes/assumptions. -/

namespace Sys2Proof.Machine.Config

/-- Where the spec gives a value's format but not its rounding: whether the upper neighbour is taken (log 20).  The
first argument names the place, the second is the exact value. -/
opaque roundUp : Nat → Rat → Bool

/-- Deviation of a profile's path parameter from its exact value, before it is held to the bound of R258 (log 21): the exact
parameter, the start of the profile, the path time since its start.  The joints of one MOVE share it. -/
opaque profileDev : Rat → Int → Nat → Rat

/-- Deviation of the machine's sine (0) and cosine (1) of an angle, in turns, before it is held to its bound (R184, R187,
R287 and R304 give no precision; log 22). -/
opaque trigDev : Nat → Rat → Rat

/-- The prediction of an invalid measurement: row j of the observer's output map applied to the state estimate (R206; the
spec gives no place that holds this map; log 23): law, j, the estimate. -/
opaque measPrediction : Nat → Nat → List Rat → Rat

/-- The bus voltage that a converter code stands for on an auxiliary channel's VBUS_IN (R287 gives no scale; log 25). -/
opaque busVolts : Nat → Int → Rat

/-- CTRL bit FCLR of a node's command slice (R508 gives no register that sets it; log 26): branch, node, cycle. -/
opaque fclr : Nat → Nat → Nat → Bool

/-- What the MIN, MAX and MEAN registers of an acquisition unit hold after a START (R643 gives their values only from DONE
until then; log 40): unit, register number, record number. -/
opaque measAfterStart : Nat → Nat → Nat → Nat

/-- SLH-DSA with parameter set SHA2-256s, as FIPS 205 defines it and the spec does not repeat it (R664, log 43): does a
signature verify under a public key over a message with a context string; the signature number n that a key pair (SK.seed,
SK.prf, PK.seed) makes; PK.root of SK.seed and PK.seed. -/
opaque slhVerify : List (BitVec 8) → List (BitVec 8) → List (BitVec 8) → List (BitVec 8) → Bool
opaque slhSign : List (BitVec 8) → List (BitVec 8) → List (BitVec 8) → List (BitVec 8) → List (BitVec 8) → Nat → List (BitVec 8)
opaque slhRoot : List (BitVec 8) → List (BitVec 8) → List (BitVec 8)

/-- The versions that SAF_VER shows (the spec gives the fields no source but their names; log 81): of the safety processor's
firmware (0) whose code has a digest, of the Felt die's logic (1). -/
opaque safVersion : Nat → List (BitVec 8) → Nat

/-- Where CEN_LIB_ENTRY points within the law library (R240 says that it points into it; log 44): its base and length. -/
opaque libEntry : Nat → Nat → Nat

/-- The field index that the completion of a rejected table copy or block command names (R124 and R132 name an offending
item; where a check spans several fields the spec does not say which; log 47): opcode, field 2, code. -/
opaque offendingField : Nat → Nat → Nat → Nat

/-- The word address that CEN_EXC_PC records of a service error (R238 gives a service no program word; log 50): context, error number. -/
opaque serviceExcWord : Nat → Nat → Nat

end Sys2Proof.Machine.Config
end

