-- ==== Sys2Proof/Machine/RegMap.lean ====
section
/-! DEFINITION. The BAR0 register map: one row per register of the register tables of spec/ (address, instances, access masks of its fields, reset value), block by block, and one named field per row of the field tables. Access types: R14; repeated blocks: R20. -/

namespace Sys2Proof.Machine

/-! Byte offset in BAR0 of instance 0 of each register. -/
namespace R
def TBS_CTL : Nat := 0x10000
def TBS_STAT : Nat := 0x10004
def TBS_FLAG : Nat := 0x10008
def TBS_FRC_0 : Nat := 0x10010
def TBS_FRC_1 : Nat := 0x10014
def TBS_NOW_0 : Nat := 0x10020
def TBS_NOW_1 : Nat := 0x10024
def TBS_NOW_2 : Nat := 0x10028
def TBS_OFFSET_0 : Nat := 0x10030
def TBS_OFFSET_1 : Nat := 0x10034
def TBS_OFFSET_2 : Nat := 0x10038
def TBS_ANCHOR_0 : Nat := 0x10040
def TBS_ANCHOR_1 : Nat := 0x10044
def TBS_RATE : Nat := 0x10048
def TBS_RATE_EFF : Nat := 0x1004C
def TBS_P_STEP_0 : Nat := 0x10050
def TBS_P_STEP_1 : Nat := 0x10054
def TBS_P_STEP_2 : Nat := 0x10058
def TBS_P_RATE : Nat := 0x10060
def TBS_P_SLEW : Nat := 0x10064
def TBS_SLEW_LIM : Nat := 0x10068
def TBS_P_AT_0 : Nat := 0x10070
def TBS_P_AT_1 : Nat := 0x10074
def TBS_P_AT_2 : Nat := 0x10078
def TBS_P_CMD : Nat := 0x1007C
def TBS_SLEW_REM : Nat := 0x10080
def TBS_CYC_CTL : Nat := 0x10090
def TBS_CYC_PHASE : Nat := 0x10094
def TBS_TS : Nat := 0x10098
def TBS_TR : Nat := 0x1009C
def TBS_CYC_START_0 : Nat := 0x100A0
def TBS_CYC_START_1 : Nat := 0x100A4
def TBS_CYC_START_2 : Nat := 0x100A8
def TBS_CYC_NUM_0 : Nat := 0x100B0
def TBS_CYC_NUM_1 : Nat := 0x100B4
def TBS_TRG_AT_0 : Nat := 0x10100
def TBS_TRG_AT_1 : Nat := 0x10104
def TBS_TRG_AT_2 : Nat := 0x10108
def TBS_TRG_PER : Nat := 0x1010C
def TBS_TRG_CTL : Nat := 0x10110
def TBS_TRG_STAT : Nat := 0x10114
def HST_ID : Nat := 0
def HST_REV : Nat := 4
def HST_STAT : Nat := 8
def HST_CTL : Nat := 0xC
def HST_LOCK : Nat := 0x10
def HST_DB_BASE_0 : Nat := 0x20
def HST_DB_BASE_1 : Nat := 0x24
def HST_MIR_BASE_0 : Nat := 0x28
def HST_MIR_BASE_1 : Nat := 0x2C
def HST_RIT_BASE_0 : Nat := 0x30
def HST_RIT_BASE_1 : Nat := 0x34
def HST_DB_DL : Nat := 0x38
def HST_FETCH : Nat := 0x3C
def HST_DB_LIMIT : Nat := 0x40
def HST_HB_LIMIT : Nat := 0x44
def HST_LOSS_CTL : Nat := 0x48
def HST_DB_CNT : Nat := 0x4C
def HST_ERR_CODE : Nat := 0x50
def HST_ERR_ADDR : Nat := 0x54
def HST_ERR_CNT : Nat := 0x58
def HST_FAULT_CODE : Nat := 0x60
def HST_FAULT_SRC : Nat := 0x64
def HST_FAULT_CNT : Nat := 0x68
def HST_FAULT_FLAG : Nat := 0x6C
def HST_ECC_CORR_CNT : Nat := 0x70
def HST_ECC_CORR_LOC : Nat := 0x74
def HST_ECC_UNC_CNT : Nat := 0x78
def HST_ECC_UNC_LOC : Nat := 0x7C
def HST_SQ_BASE_0 : Nat := 0x1000
def HST_SQ_BASE_1 : Nat := 0x1004
def HST_SQ_CFG : Nat := 0x1008
def HST_SQ_STAT : Nat := 0x100C
def HST_CQ_BASE_0 : Nat := 0x1800
def HST_CQ_BASE_1 : Nat := 0x1804
def HST_CQ_CFG : Nat := 0x1808
def HST_CQ_STAT : Nat := 0x180C
def HST_EQ_BASE_0 : Nat := 0x2000
def HST_EQ_BASE_1 : Nat := 0x2004
def HST_EQ_CFG : Nat := 0x2008
def HST_EQ_STAT : Nat := 0x200C
def HST_EV_ROUTE_0 : Nat := 0x2100
def HST_EV_ROUTE_1 : Nat := 0x2104
def HST_CYC_IRQ : Nat := 0x2108
def MSIX_ADDR_0 : Nat := 0x8000
def MSIX_ADDR_1 : Nat := 0x8004
def MSIX_DATA : Nat := 0x8008
def MSIX_CTL : Nat := 0x800C
def MSIX_PBA_0 : Nat := 0x9000
def MSIX_PBA_1 : Nat := 0x9004
def SCH_CTX_CTL : Nat := 0x20000
def SCH_CTX_ENTRY : Nat := 0x20004
def SCH_CTX_ARG : Nat := 0x20008
def SCH_CTX_DEP : Nat := 0x2000C
def SCH_CTX_SIG_0 : Nat := 0x20010
def SCH_CTX_SIG_1 : Nat := 0x20014
def SCH_CTX_SUCC_0 : Nat := 0x20018
def SCH_CTX_SUCC_1 : Nat := 0x2001C
def SCH_CTX_SUCC_2 : Nat := 0x20020
def SCH_CTX_SUCC_3 : Nat := 0x20024
def SCH_CTX_TIME : Nat := 0x20028
def SCH_CTX_WAKE_0 : Nat := 0x2002C
def SCH_CTX_WAKE_1 : Nat := 0x20030
def SCH_CTX_STAT : Nat := 0x20034
def SCH_CTX_FLAG : Nat := 0x20038
def SCH_CTX_CNT : Nat := 0x2003C
def SCH_CTL : Nat := 0x22000
def SCH_STAT : Nat := 0x22004
def SCH_REP_CAP : Nat := 0x22008
def SCH_AGE : Nat := 0x2200C
def SCH_L0_LANES : Nat := 0x22010
def SCH_L0_MAX : Nat := 0x22014
def SCH_FLAG : Nat := 0x22018
def SCH_TICK_0 : Nat := 0x22020
def SCH_TICK_1 : Nat := 0x22024
def CEN_CTL : Nat := 0x40000
def CEN_STAT : Nat := 0x40004
def CEN_FLAG : Nat := 0x40008
def CEN_OVF_CNT : Nat := 0x4000C
def CEN_LIB_ENTRY : Nat := 0x40010
def CEN_RUN_MAX : Nat := 0x40014
def CEN_LAW_EN_0 : Nat := 0x40020
def CEN_LAW_EN_1 : Nat := 0x40024
def CEN_LAW_EN_2 : Nat := 0x40028
def CEN_LAW_EN_3 : Nat := 0x4002C
def CEN_LAW_EN_4 : Nat := 0x40030
def CEN_LAW_EN_5 : Nat := 0x40034
def CEN_LAW_EN_6 : Nat := 0x40038
def CEN_LAW_EN_7 : Nat := 0x4003C
def CEN_LAW_CTL : Nat := 0x50000
def CEN_LAW_DIM : Nat := 0x50004
def CEN_LAW_GS : Nat := 0x50008
def CEN_LAW_STAT : Nat := 0x5000C
def CEN_LAW_FLAG : Nat := 0x50010
def CEN_LAW_CNT : Nat := 0x50014
def CEN_LAW_RUNT : Nat := 0x50018
def CEN_PROG_BASE : Nat := 0x40100
def CEN_PROG_LEN : Nat := 0x40104
def CEN_PROG_CHK : Nat := 0x40108
def CEN_PROG_STAT : Nat := 0x4010C
def CEN_CTX_DPF : Nat := 0x40400
def CEN_CACHE_STAT : Nat := 0x40600
def CEN_DP_FLAG : Nat := 0x40604
def CEN_EXC_LAST : Nat := 0x40608
def CEN_EXC_PC : Nat := 0x4060C
def CEN_VER_ERR : Nat := 0x40610
def TRJ_CTL : Nat := 0x80000
def TRJ_STAT : Nat := 0x80004
def TRJ_FLAG : Nat := 0x80008
def TRJ_OVR : Nat := 0x8000C
def TRJ_SRATE : Nat := 0x80010
def TRJ_SJERK : Nat := 0x80014
def TRJ_RSAFE : Nat := 0x80018
def TRJ_SCALE : Nat := 0x8001C
def TRJ_SCALE_C : Nat := 0x80020
def TRJ_LIM : Nat := 0x80024
def TRJ_LIM_C : Nat := 0x80028
def TRJ_PCLK_0 : Nat := 0x80030
def TRJ_PCLK_1 : Nat := 0x80034
def TRJ_PCLK_2 : Nat := 0x80038
def TRJ_TBL0_0 : Nat := 0x80040
def TRJ_TBL0_1 : Nat := 0x80044
def TRJ_TBL0_2 : Nat := 0x80048
def TRJ_ARM_CTL : Nat := 0x81000
def TRJ_ARM_MAP_0 : Nat := 0x81004
def TRJ_ARM_MAP_1 : Nat := 0x81008
def TRJ_ARM_MAP_2 : Nat := 0x8100C
def TRJ_ARM_STAT : Nat := 0x81010
def TRJ_CMP_CTL : Nat := 0x82000
def TRJ_CMP_WIDTH : Nat := 0x82004
def TRJ_CMP_CNT : Nat := 0x82008
def TRJ_CMP_STAT : Nat := 0x8200C
def TRJ_CMP_POS_0 : Nat := 0x82010
def TRJ_CMP_POS_1 : Nat := 0x82014
def TRJ_CMP_POS_2 : Nat := 0x82018
def TRJ_CMP_STEP_0 : Nat := 0x82020
def TRJ_CMP_STEP_1 : Nat := 0x82024
def TRJ_CMP_STEP_2 : Nat := 0x82028
def TRJ_CMP_TIME_0 : Nat := 0x82030
def TRJ_CMP_TIME_1 : Nat := 0x82034
def TRJ_CMP_TIME_2 : Nat := 0x82038
def AX_CTL : Nat := 0x100000
def AX_STAT : Nat := 0x100004
def AX_FLAG : Nat := 0x100008
def AX_MISS : Nat := 0x10000C
def AX_SP_0 : Nat := 0x100010
def AX_SP_1 : Nat := 0x100014
def AX_SP_2 : Nat := 0x100018
def AX_SPD_0 : Nat := 0x100020
def AX_SPD_1 : Nat := 0x100024
def AX_SPD_2 : Nat := 0x100028
def AX_POS_0 : Nat := 0x100030
def AX_POS_1 : Nat := 0x100034
def AX_POS_2 : Nat := 0x100038
def AX_POS_OFF_0 : Nat := 0x100040
def AX_POS_OFF_1 : Nat := 0x100044
def AX_POS_OFF_2 : Nat := 0x100048
def AX_FRAME : Nat := 0x100050
def AX_IN_SEL : Nat := 0x100054
def AX_IN_FILT : Nat := 0x100058
def AUX_CTL : Nat := 0x120000
def AUX_STAT : Nat := 0x120004
def AUX_FLAG : Nat := 0x120008
def AUX_SP_0 : Nat := 0x120010
def AUX_SP_1 : Nat := 0x120014
def AUX_SP_2 : Nat := 0x120018
def AUX_SPD_0 : Nat := 0x120020
def AUX_SPD_1 : Nat := 0x120024
def AUX_SPD_2 : Nat := 0x120028
def AUX_VOLT : Nat := 0x120030
def AUX_CUR : Nat := 0x120034
def SEP_CTL : Nat := 0x140000
def SEP_STAT : Nat := 0x140004
def SEP_FLAG : Nat := 0x140008
def SEP_HO : Nat := 0x14000C
def SEP_VH : Nat := 0x140010
def SEP_EXPORT : Nat := 0x140014
def SEP_EXP_CONN : Nat := 0x140018
def SEP_BUDGET : Nat := 0x14001C
def SEP_RUNT : Nat := 0x140020
def SEP_SCYC_0 : Nat := 0x140028
def SEP_SCYC_1 : Nat := 0x14002C
def SEP_G_CAP : Nat := 0x140100
def SEP_G_L : Nat := 0x140104
def SEP_G_STAT : Nat := 0x140108
def SEP_G_OBS : Nat := 0x14010C
def SEP_G_D : Nat := 0x140110
def SEP_S_STAT : Nat := 0x140200
def SEP_S_AGE : Nat := 0x140204
def SEP_S_SEQ : Nat := 0x140208
def SEP_S_GOOD : Nat := 0x14020C
def SEP_S_BAD : Nat := 0x140210
def SEP_S_FLAG : Nat := 0x140214
def SEP_A_L : Nat := 0x140400
def SEP_A_D : Nat := 0x140404
def SEP_A_OBS : Nat := 0x140408
def SAF_STATE : Nat := 0x180000
def SAF_CHK : Nat := 0x180004
def SAF_CHK_C : Nat := 0x180008
def SAF_CHK_CONF : Nat := 0x18000C
def SAF_FLAG : Nat := 0x180010
def SAF_FAULT : Nat := 0x180014
def SAF_IN : Nat := 0x180018
def SAF_IN_STAT : Nat := 0x18001C
def SAF_OUT : Nat := 0x180020
def SAF_VER : Nat := 0x180024
def SAF_G_STAT : Nat := 0x180100
def SAF_G_CAUSE : Nat := 0x180104
def SAF_AX_STAT : Nat := 0x181000
def SAF_AX_BCH : Nat := 0x181004
def FBK_CTL : Nat := 0x1A0000
def FBK_CFG : Nat := 0x1A0004
def FBK_SPDCFG : Nat := 0x1A0008
def FBK_SSI : Nat := 0x1A000C
def FBK_SSI_T : Nat := 0x1A0010
def FBK_POS_0 : Nat := 0x1A0020
def FBK_POS_1 : Nat := 0x1A0024
def FBK_POS_2 : Nat := 0x1A0028
def FBK_SPEED_0 : Nat := 0x1A0030
def FBK_SPEED_1 : Nat := 0x1A0034
def FBK_SPEED_2 : Nat := 0x1A0038
def FBK_TLAT_0 : Nat := 0x1A0040
def FBK_TLAT_1 : Nat := 0x1A0044
def FBK_TLAT_2 : Nat := 0x1A0048
def FBK_TEDGE_0 : Nat := 0x1A0050
def FBK_TEDGE_1 : Nat := 0x1A0054
def FBK_TEDGE_2 : Nat := 0x1A0058
def FBK_IDX_POS_0 : Nat := 0x1A0060
def FBK_IDX_POS_1 : Nat := 0x1A0064
def FBK_IDX_POS_2 : Nat := 0x1A0068
def FBK_IDX_TIME_0 : Nat := 0x1A0070
def FBK_IDX_TIME_1 : Nat := 0x1A0074
def FBK_IDX_TIME_2 : Nat := 0x1A0078
def FBK_STAT : Nat := 0x1A0080
def FBK_FLAG : Nat := 0x1A0084
def FBK_ERR_CNT : Nat := 0x1A0088
def FBK_IDX_CNT : Nat := 0x1A008C
def FBK_SSI_RAW_0 : Nat := 0x1A0090
def FBK_SSI_RAW_1 : Nat := 0x1A0094
def FBK_EN_MAP : Nat := 0x1A2000
def FBK_FAULT_MAP : Nat := 0x1A2004
def FBK_LOSS_MAP : Nat := 0x1A2008
def PWM_CTL : Nat := 0x1C0000
def PWM_CFG : Nat := 0x1C0004
def PWM_PER : Nat := 0x1C0008
def PWM_DUTY : Nat := 0x1C000C
def PWM_DT : Nat := 0x1C0010
def PWM_CMPB : Nat := 0x1C0014
def PWM_IRQ : Nat := 0x1C0018
def PWM_STAT : Nat := 0x1C001C
def PWM_FLAG : Nat := 0x1C0020
def PWM_APPLIED : Nat := 0x1C0024
def PWM_IRQ_CNT : Nat := 0x1C0028
def PWM_TSTAMP_0 : Nat := 0x1C0030
def PWM_TSTAMP_1 : Nat := 0x1C0034
def PWM_TSTAMP_2 : Nat := 0x1C0038
def PWM_TIN_CFG : Nat := 0x1C3000
def PWM_TGRP_CFG : Nat := 0x1C3040
def PWM_TGRP_CMD : Nat := 0x1C3044
def PWM_TGRP_STAT : Nat := 0x1C3048
def PWM_TRIP_STAT : Nat := 0x1C3140
def PWM_TRIP_CNT : Nat := 0x1C3144
def PWM_EN_MAP_0 : Nat := 0x1C3150
def PWM_EN_MAP_1 : Nat := 0x1C3154
def PWM_EN_MAP_2 : Nat := 0x1C3158
def PWM_OWN_MAP_0 : Nat := 0x1C3160
def PWM_OWN_MAP_1 : Nat := 0x1C3164
def PWM_OWN_MAP_2 : Nat := 0x1C3168
def PWM_GATE_MAP : Nat := 0x1C3170
def ADC_CTL : Nat := 0x1E0000
def ADC_CFG : Nat := 0x1E0004
def ADC_MASK : Nat := 0x1E0008
def ADC_CMD : Nat := 0x1E000C
def ADC_STAT : Nat := 0x1E0010
def ADC_FLAG : Nat := 0x1E0014
def ADC_RESULT : Nat := 0x1E0018
def ADC_RES_TIME_0 : Nat := 0x1E0020
def ADC_RES_TIME_1 : Nat := 0x1E0024
def ADC_RES_TIME_2 : Nat := 0x1E0028
def ADC_BUF_BASE : Nat := 0x1E0030
def ADC_BUF_LEN : Nat := 0x1E0034
def ADC_BUF_PTR : Nat := 0x1E0038
def ADC_CNT : Nat := 0x1E003C
def ADC_IN_CFG : Nat := 0x1E0040
def ADC_TDAC : Nat := 0x1E0060
def ADC_CAL_TIME_0 : Nat := 0x1E0070
def ADC_CAL_TIME_1 : Nat := 0x1E0074
def ADC_CAL_TIME_2 : Nat := 0x1E0078
def ADC_REF_STAT : Nat := 0x1E1000
def ADC_EN_MAP : Nat := 0x1E1004
def ADC_OPEN_MAP_0 : Nat := 0x1E1010
def ADC_OPEN_MAP_1 : Nat := 0x1E1014
def ADC_OPEN_MAP_2 : Nat := 0x1E1018
def ADC_OPEN_MAP_3 : Nat := 0x1E101C
def TWL_CTL : Nat := 0x200000
def TWL_CFG : Nat := 0x200004
def TWL_DLY_A : Nat := 0x200008
def TWL_DLY_B : Nat := 0x20000C
def TWL_STAT : Nat := 0x200010
def TWL_FLAG : Nat := 0x200014
def TWL_D_AB : Nat := 0x200018
def TWL_D_BA : Nat := 0x20001C
def TWL_CNT_CRC : Nat := 0x200020
def TWL_CNT_OOW : Nat := 0x200024
def TWL_CNT_GUARD : Nat := 0x200028
def TWL_N_STAT : Nat := 0x200100
def TWL_N_PDLY : Nat := 0x200104
def TWL_N_DEV : Nat := 0x200108
def TWL_N_CNT : Nat := 0x20010C
def TWL_G_CTL : Nat := 0x204000
def TWL_G_MODE : Nat := 0x204004
def TWL_G_SW_AT_0 : Nat := 0x204008
def TWL_G_SW_AT_1 : Nat := 0x20400C
def DMK_P_CTL : Nat := 0x240000
def DMK_P_STAT : Nat := 0x240004
def DMK_P_FLAG : Nat := 0x240008
def DMK_P_DLY : Nat := 0x24000C
def DMK_P_LDLY : Nat := 0x240010
def DMK_P_NUID_0 : Nat := 0x240018
def DMK_P_NUID_1 : Nat := 0x24001C
def DMK_P_CNT_HDR : Nat := 0x240020
def DMK_P_CNT_ECC : Nat := 0x240024
def DMK_P_CNT_OVF : Nat := 0x240028
def DMK_P_CNT_PRE : Nat := 0x24002C
def DMK_P_RES_MAX : Nat := 0x240030
def DMK_CTL : Nat := 0x244000
def DMK_ADDR : Nat := 0x244004
def DMK_STAT : Nat := 0x244008
def DMK_FLAG : Nat := 0x24400C
def DMK_UID_0 : Nat := 0x244010
def DMK_UID_1 : Nat := 0x244014
def DMK_POOL : Nat := 0x244018
def DMK_SYNC_CFG : Nat := 0x244020
def DMK_SYNC_STAT : Nat := 0x244024
def DMK_SYNC_DEV : Nat := 0x244028
def DMK_STEP_LIM : Nat := 0x24402C
def DMK_SYNC_TOL : Nat := 0x244030
def DMK_RATE_EST : Nat := 0x244034
def DMK_MODE_STAT : Nat := 0x244040
def DMK_MODE_AT_0 : Nat := 0x244048
def DMK_MODE_AT_1 : Nat := 0x24404C
def DMK_HRX_BASE_0 : Nat := 0x244050
def DMK_HRX_BASE_1 : Nat := 0x244054
def DMK_HRX_SIZE : Nat := 0x244058
def DMK_HRX_PTR : Nat := 0x24405C
def DMK_CNT_RX : Nat := 0x244060
def LND_CTL : Nat := 0x280000
def LND_CFG : Nat := 0x280004
def LND_SHADOW : Nat := 0x280008
def LND_STAT : Nat := 0x28000C
def LND_FLAG : Nat := 0x280010
def LND_FAIL : Nat := 0x280014
def LND_DIGEST : Nat := 0x280018
def LND_PDIGEST : Nat := 0x28001C
def LND_PUID_0 : Nat := 0x280020
def LND_PUID_1 : Nat := 0x280024
def LND_CNT : Nat := 0x280028
def LND_MIR_MAX : Nat := 0x28002C
def LND_PROM_AT_0 : Nat := 0x280030
def LND_PROM_AT_1 : Nat := 0x280034
def LND_L_STAT : Nat := 0x280100
def LND_L_DLY : Nat := 0x280104
def LND_L_LDLY : Nat := 0x280108
def LND_L_CNT : Nat := 0x28010C
def ACQ_CFG : Nat := 0x2A0000
def ACQ_SPER : Nat := 0x2A0004
def ACQ_PRE : Nat := 0x2A0008
def ACQ_POST : Nat := 0x2A000C
def ACQ_BUF_BASE : Nat := 0x2A0010
def ACQ_BUF_LEN : Nat := 0x2A0014
def ACQ_STAT : Nat := 0x2A0018
def ACQ_FLAG : Nat := 0x2A001C
def ACQ_CH_SEL : Nat := 0x2A0020
def ACQ_TC_CTL : Nat := 0x2A0100
def ACQ_TC_TA : Nat := 0x2A0104
def ACQ_TC_TB : Nat := 0x2A0108
def ACQ_TC_LO_0 : Nat := 0x2A0110
def ACQ_TC_LO_1 : Nat := 0x2A0114
def ACQ_TC_LO_2 : Nat := 0x2A0118
def ACQ_TC_HI_0 : Nat := 0x2A0120
def ACQ_TC_HI_1 : Nat := 0x2A0124
def ACQ_TC_HI_2 : Nat := 0x2A0128
def ACQ_TRIG_TIME_0 : Nat := 0x2A0200
def ACQ_TRIG_TIME_1 : Nat := 0x2A0204
def ACQ_TRIG_TIME_2 : Nat := 0x2A0208
def ACQ_REC_INFO : Nat := 0x2A0210
def ACQ_PRE_N : Nat := 0x2A0214
def ACQ_POST_N : Nat := 0x2A0218
def ACQ_DUR : Nat := 0x2A021C
def ACQ_CNT : Nat := 0x2A0220
def ACQ_MIN_0 : Nat := 0x2A0240
def ACQ_MIN_1 : Nat := 0x2A0244
def ACQ_MIN_2 : Nat := 0x2A0248
def ACQ_MAX_0 : Nat := 0x2A0250
def ACQ_MAX_1 : Nat := 0x2A0254
def ACQ_MAX_2 : Nat := 0x2A0258
def ACQ_MEAN_0 : Nat := 0x2A0260
def ACQ_MEAN_1 : Nat := 0x2A0264
def ACQ_MEAN_2 : Nat := 0x2A0268
def ACQ_HS_BASE_0 : Nat := 0x2A0380
def ACQ_HS_BASE_1 : Nat := 0x2A0384
def ACQ_HS_SIZE : Nat := 0x2A0388
def ACQ_HS_PTR : Nat := 0x2A038C
def ACQ_HS_SEQ : Nat := 0x2A0390
def ACQ_G_STAT : Nat := 0x2A2000
def ACQ_G_FLAG : Nat := 0x2A2004
def BOOT_STAT : Nat := 0x2C0000
def BOOT_CAUSE : Nat := 0x2C0004
def BOOT_RST : Nat := 0x2C0008
def BOOT_CFG : Nat := 0x2C000C
def BOOT_NEXT : Nat := 0x2C0010
def BOOT_SVN : Nat := 0x2C0014
def BOOT_IMG : Nat := 0x2C0018
def BOOT_KEYS : Nat := 0x2C001C
def BOOT_UID_0 : Nat := 0x2C0020
def BOOT_UID_1 : Nat := 0x2C0024
def BOOT_SEQ : Nat := 0x2C0028
def BOOT_IDPK : Nat := 0x2C0040
def BOOT_REC_OFS : Nat := 0x2C0080
def BOOT_REC_LEN : Nat := 0x2C0084
def BOOT_REC_CMD : Nat := 0x2C0088
def BOOT_REC_STAT : Nat := 0x2C008C
def BOOT_REC_WIN : Nat := 0x2C8000
end R

/-- Time base registers (R86 to R88). -/
def regsTbs : List RegDef := [
  ⟨R.TBS_CTL, 0, 1, 0, 1, 3, 0, 0, 0, 3, 0⟩,
  ⟨R.TBS_STAT, 0, 1, 0, 1, 0, 0, 0, 0, 0xF, 0⟩,
  ⟨R.TBS_FLAG, 0, 1, 0, 1, 0, 0, 7, 0, 7, 0⟩,
  ⟨R.TBS_FRC_0, 0, 1, 0, 1, 0, 0, 0, 0, 0xFFFFFFFF, 0⟩,
  ⟨R.TBS_FRC_1, 0, 1, 0, 1, 0, 0, 0, 0, 0xFFFFFFFF, 0⟩,
  ⟨R.TBS_NOW_0, 0, 1, 0, 1, 0, 0, 0, 0, 0xFFFFFFFF, 0⟩,
  ⟨R.TBS_NOW_1, 0, 1, 0, 1, 0, 0, 0, 0, 0xFFFFFFFF, 0⟩,
  ⟨R.TBS_NOW_2, 0, 1, 0, 1, 0, 0, 0, 0, 0xFF, 0⟩,
  ⟨R.TBS_OFFSET_0, 0, 1, 0, 1, 0, 0, 0, 0, 0xFFFFFFFF, 0⟩,
  ⟨R.TBS_OFFSET_1, 0, 1, 0, 1, 0, 0, 0, 0, 0xFFFFFFFF, 0⟩,
  ⟨R.TBS_OFFSET_2, 0, 1, 0, 1, 0, 0, 0, 0, 0xFF, 0⟩,
  ⟨R.TBS_ANCHOR_0, 0, 1, 0, 1, 0, 0, 0, 0, 0xFFFFFFFF, 0⟩,
  ⟨R.TBS_ANCHOR_1, 0, 1, 0, 1, 0, 0, 0, 0, 0xFFFFFFFF, 0⟩,
  ⟨R.TBS_RATE, 0, 1, 0, 1, 0, 0, 0, 0, 0xFFFFFFFF, 0⟩,
  ⟨R.TBS_RATE_EFF, 0, 1, 0, 1, 0, 0, 0, 0, 0xFFFFFFFF, 0⟩,
  ⟨R.TBS_P_STEP_0, 0, 1, 0, 1, 0xFFFFFFFF, 0, 0, 0, 0xFFFFFFFF, 0⟩,
  ⟨R.TBS_P_STEP_1, 0, 1, 0, 1, 0xFFFFFFFF, 0, 0, 0, 0xFFFFFFFF, 0⟩,
  ⟨R.TBS_P_STEP_2, 0, 1, 0, 1, 0xFF, 0, 0, 0, 0xFF, 0⟩,
  ⟨R.TBS_P_RATE, 0, 1, 0, 1, 0xFFFFFFFF, 0, 0, 0, 0xFFFFFFFF, 0⟩,
  ⟨R.TBS_P_SLEW, 0, 1, 0, 1, 0xFFFFFFFF, 0, 0, 0, 0xFFFFFFFF, 0⟩,
  ⟨R.TBS_SLEW_LIM, 0, 1, 0, 1, 0xFFFFFFFF, 0, 0, 0, 0xFFFFFFFF, 0x68DB8BB⟩,
  ⟨R.TBS_P_AT_0, 0, 1, 0, 1, 0xFFFFFFFF, 0, 0, 0, 0xFFFFFFFF, 0⟩,
  ⟨R.TBS_P_AT_1, 0, 1, 0, 1, 0xFFFFFFFF, 0, 0, 0, 0xFFFFFFFF, 0⟩,
  ⟨R.TBS_P_AT_2, 0, 1, 0, 1, 0xFF, 0, 0, 0, 0xFF, 0⟩,
  ⟨R.TBS_P_CMD, 0, 1, 0, 1, 0, 0, 0, 0x73, 0x73, 0⟩,
  ⟨R.TBS_SLEW_REM, 0, 1, 0, 1, 0, 0, 0, 0, 0xFFFFFFFF, 0⟩,
  ⟨R.TBS_CYC_CTL, 0, 1, 0, 1, 0x103, 3, 0, 0, 0x103, 0⟩,
  ⟨R.TBS_CYC_PHASE, 0, 1, 0, 1, 0x3FFFF, 0x3FFFF, 0, 0, 0x3FFFF, 0⟩,
  ⟨R.TBS_TS, 0, 1, 0, 1, 0x7FFFF, 0x7FFFF, 0, 0, 0x7FFFF, 0⟩,
  ⟨R.TBS_TR, 0, 1, 0, 1, 0x1FFFFF, 0x1FFFFF, 0, 0, 0x1FFFFF, 0x17700⟩,
  ⟨R.TBS_CYC_START_0, 0, 1, 0, 1, 0xFFFFFFFF, 0, 0, 0, 0xFFFFFFFF, 0⟩,
  ⟨R.TBS_CYC_START_1, 0, 1, 0, 1, 0xFFFFFFFF, 0, 0, 0, 0xFFFFFFFF, 0⟩,
  ⟨R.TBS_CYC_START_2, 0, 1, 0, 1, 0xFF, 0, 0, 0, 0xFF, 0⟩,
  ⟨R.TBS_CYC_NUM_0, 0, 1, 0, 1, 0, 0, 0, 0, 0xFFFFFFFF, 0⟩,
  ⟨R.TBS_CYC_NUM_1, 0, 1, 0, 1, 0, 0, 0, 0, 0xFFFFFFFF, 0⟩,
  ⟨R.TBS_TRG_AT_0, 0x20, 16, 0, 1, 0xFFFFFFFF, 0, 0, 0, 0xFFFFFFFF, 0⟩,
  ⟨R.TBS_TRG_AT_1, 0x20, 16, 0, 1, 0xFFFFFFFF, 0, 0, 0, 0xFFFFFFFF, 0⟩,
  ⟨R.TBS_TRG_AT_2, 0x20, 16, 0, 1, 0xFF, 0, 0, 0, 0xFF, 0⟩,
  ⟨R.TBS_TRG_PER, 0x20, 16, 0, 1, 0xFFFFFFFF, 0, 0, 0, 0xFFFFFFFF, 0⟩,
  ⟨R.TBS_TRG_CTL, 0x20, 16, 0, 1, 0x1F7, 0, 0, 0, 0x1F7, 0⟩,
  ⟨R.TBS_TRG_STAT, 0x20, 16, 0, 1, 0, 0, 0xFF07, 0, 0xFF07, 0⟩]

/-- Host interface registers (R129, R135, R136). -/
def regsHst : List RegDef := [
  ⟨R.HST_ID, 0, 1, 0, 1, 0, 0, 0, 0, 0xFFFFFFFF, 0x12967D3A⟩,
  ⟨R.HST_REV, 0, 1, 0, 1, 0, 0, 0, 0, 0xFF, 0xB1⟩,
  ⟨R.HST_STAT, 0, 1, 0, 1, 0, 0, 0, 0, 0x7FD, 0⟩,
  ⟨R.HST_CTL, 0, 1, 0, 1, 1, 0, 0, 0, 1, 0⟩,
  ⟨R.HST_LOCK, 0, 1, 0, 1, 1, 0, 0, 0, 1, 0⟩,
  ⟨R.HST_DB_BASE_0, 0, 1, 0, 1, 0xFFFFFFFF, 0, 0, 0, 0xFFFFFFFF, 0⟩,
  ⟨R.HST_DB_BASE_1, 0, 1, 0, 1, 0xFFFFFFFF, 0, 0, 0, 0xFFFFFFFF, 0⟩,
  ⟨R.HST_MIR_BASE_0, 0, 1, 0, 1, 0xFFFFFFFF, 0, 0, 0, 0xFFFFFFFF, 0⟩,
  ⟨R.HST_MIR_BASE_1, 0, 1, 0, 1, 0xFFFFFFFF, 0, 0, 0, 0xFFFFFFFF, 0⟩,
  ⟨R.HST_RIT_BASE_0, 0, 1, 0, 1, 0xFFFFFFFF, 0, 0, 0, 0xFFFFFFFF, 0⟩,
  ⟨R.HST_RIT_BASE_1, 0, 1, 0, 1, 0xFFFFFFFF, 0, 0, 0, 0xFFFFFFFF, 0⟩,
  ⟨R.HST_DB_DL, 0, 1, 0, 1, 0x7FFF, 0, 0, 0, 0x7FFF, 0x1F40⟩,
  ⟨R.HST_FETCH, 0, 1, 0, 1, 0x7FF, 0, 0, 0, 0x7FF, 0x100⟩,
  ⟨R.HST_DB_LIMIT, 0, 1, 0, 1, 0xFFFF, 0xFFFF, 0, 0, 0xFFFF, 0xC80⟩,
  ⟨R.HST_HB_LIMIT, 0, 1, 0, 1, 0xFFFF, 0xFFFF, 0, 0, 0xFFFF, 0⟩,
  ⟨R.HST_LOSS_CTL, 0, 1, 0, 1, 3, 3, 0, 0, 3, 1⟩,
  ⟨R.HST_DB_CNT, 0, 1, 0, 1, 0, 0, 0, 0, 0xFFFFFFFF, 0⟩,
  ⟨R.HST_ERR_CODE, 0, 1, 0, 1, 0, 0, 0, 0, 0xFFFF, 0⟩,
  ⟨R.HST_ERR_ADDR, 0, 1, 0, 1, 0, 0, 0, 0, 0xFFFFFF, 0⟩,
  ⟨R.HST_ERR_CNT, 0, 1, 0, 1, 0, 0, 0, 0, 0xFFFFFFFF, 0⟩,
  ⟨R.HST_FAULT_CODE, 0, 1, 0, 1, 0, 0, 0, 0, 0xFFFF, 0⟩,
  ⟨R.HST_FAULT_SRC, 0, 1, 0, 1, 0, 0, 0, 0, 0xFFFFFFFF, 0⟩,
  ⟨R.HST_FAULT_CNT, 0, 1, 0, 1, 0, 0, 0, 0, 0xFFFFFFFF, 0⟩,
  ⟨R.HST_FAULT_FLAG, 0, 1, 0, 1, 0, 0, 0x7F, 0, 0x7F, 0⟩,
  ⟨R.HST_ECC_CORR_CNT, 0, 1, 0, 1, 0, 0, 0, 0, 0xFFFFFFFF, 0⟩,
  ⟨R.HST_ECC_CORR_LOC, 0, 1, 0, 1, 0, 0, 0, 0, 0x3FFFFFFF, 0⟩,
  ⟨R.HST_ECC_UNC_CNT, 0, 1, 0, 1, 0, 0, 0, 0, 0xFFFFFFFF, 0⟩,
  ⟨R.HST_ECC_UNC_LOC, 0, 1, 0, 1, 0, 0, 0, 0, 0x3FFFFFFF, 0⟩,
  ⟨R.HST_SQ_BASE_0, 0x20, 64, 0, 1, 0xFFFFFFFF, 0, 0, 0, 0xFFFFFFFF, 0⟩,
  ⟨R.HST_SQ_BASE_1, 0x20, 64, 0, 1, 0xFFFFFFFF, 0, 0, 0, 0xFFFFFFFF, 0⟩,
  ⟨R.HST_SQ_CFG, 0x20, 64, 0, 1, 0x80033F0F, 0, 0, 0, 0x80033F0F, 4⟩,
  ⟨R.HST_SQ_STAT, 0x20, 64, 0, 1, 0, 0, 0, 0, 0x70FFF, 0⟩,
  ⟨R.HST_CQ_BASE_0, 0x20, 64, 0, 1, 0xFFFFFFFF, 0, 0, 0, 0xFFFFFFFF, 0⟩,
  ⟨R.HST_CQ_BASE_1, 0x20, 64, 0, 1, 0xFFFFFFFF, 0, 0, 0, 0xFFFFFFFF, 0⟩,
  ⟨R.HST_CQ_CFG, 0x20, 64, 0, 1, 0x80013F0F, 0, 0, 0, 0x80013F0F, 4⟩,
  ⟨R.HST_CQ_STAT, 0x20, 64, 0, 1, 0, 0, 0, 0, 0x11FFF, 0⟩,
  ⟨R.HST_EQ_BASE_0, 0x20, 8, 0, 1, 0xFFFFFFFF, 0, 0, 0, 0xFFFFFFFF, 0⟩,
  ⟨R.HST_EQ_BASE_1, 0x20, 8, 0, 1, 0xFFFFFFFF, 0, 0, 0, 0xFFFFFFFF, 0⟩,
  ⟨R.HST_EQ_CFG, 0x20, 8, 0, 1, 0x80013F0F, 0, 0, 0, 0x80013F0F, 4⟩,
  ⟨R.HST_EQ_STAT, 0x20, 8, 0, 1, 0, 0, 0, 0, 0xFFFF1FFF, 0⟩,
  ⟨R.HST_EV_ROUTE_0, 0, 1, 0, 1, 0xFFFFFF0F, 0, 0, 0, 0xFFFFFF0F, 0x88888808⟩,
  ⟨R.HST_EV_ROUTE_1, 0, 1, 0, 1, 0xFFFFFFF, 0, 0, 0, 0xFFFFFFF, 0x8888888⟩,
  ⟨R.HST_CYC_IRQ, 0, 1, 0, 1, 0x13F, 0, 0, 0, 0x13F, 0⟩,
  ⟨R.MSIX_ADDR_0, 0x10, 64, 0, 1, 0xFFFFFFFF, 0, 0, 0, 0xFFFFFFFF, 0⟩,
  ⟨R.MSIX_ADDR_1, 0x10, 64, 0, 1, 0xFFFFFFFF, 0, 0, 0, 0xFFFFFFFF, 0⟩,
  ⟨R.MSIX_DATA, 0x10, 64, 0, 1, 0xFFFFFFFF, 0, 0, 0, 0xFFFFFFFF, 0⟩,
  ⟨R.MSIX_CTL, 0x10, 64, 0, 1, 1, 0, 0, 0, 1, 1⟩,
  ⟨R.MSIX_PBA_0, 0, 1, 0, 1, 0, 0, 0, 0, 0xFFFFFFFF, 0⟩,
  ⟨R.MSIX_PBA_1, 0, 1, 0, 1, 0, 0, 0, 0, 0xFFFFFFFF, 0⟩]

/-- Task scheduler registers (R165 to R167). -/
def regsSch : List RegDef := [
  ⟨R.SCH_CTX_CTL, 0x40, 128, 0, 1, 0x1F7FF, 0, 0, 0, 0x1F7FF, 0⟩,
  ⟨R.SCH_CTX_ENTRY, 0x40, 128, 0, 1, 0x3FFFFF, 0, 0, 0, 0x3FFFFF, 0⟩,
  ⟨R.SCH_CTX_ARG, 0x40, 128, 0, 1, 0x3FFFFF, 0, 0, 0, 0x3FFFFF, 0⟩,
  ⟨R.SCH_CTX_DEP, 0x40, 128, 0, 1, 0xFF, 0, 0, 0, 0xFF, 1⟩,
  ⟨R.SCH_CTX_SIG_0, 0x40, 128, 0, 1, 0xFFFFFFFF, 0, 0, 0, 0xFFFFFFFF, 0⟩,
  ⟨R.SCH_CTX_SIG_1, 0x40, 128, 0, 1, 0xFFFFFFFF, 0, 0, 0, 0xFFFFFFFF, 0⟩,
  ⟨R.SCH_CTX_SUCC_0, 0x40, 128, 0, 1, 0xFFFFFFFF, 0, 0, 0, 0xFFFFFFFF, 0⟩,
  ⟨R.SCH_CTX_SUCC_1, 0x40, 128, 0, 1, 0xFFFFFFFF, 0, 0, 0, 0xFFFFFFFF, 0⟩,
  ⟨R.SCH_CTX_SUCC_2, 0x40, 128, 0, 1, 0xFFFFFFFF, 0, 0, 0, 0xFFFFFFFF, 0⟩,
  ⟨R.SCH_CTX_SUCC_3, 0x40, 128, 0, 1, 0xFFFFFFFF, 0, 0, 0, 0xFFFFFFFF, 0⟩,
  ⟨R.SCH_CTX_TIME, 0x40, 128, 0, 1, 0xFFFFFFFF, 0, 0, 0, 0xFFFFFFFF, 0⟩,
  ⟨R.SCH_CTX_WAKE_0, 0x40, 128, 0, 1, 0xFFFFFFFF, 0, 0, 0, 0xFFFFFFFF, 0⟩,
  ⟨R.SCH_CTX_WAKE_1, 0x40, 128, 0, 1, 0xFFFFFFFF, 0, 0, 0, 0xFFFFFFFF, 0⟩,
  ⟨R.SCH_CTX_STAT, 0x40, 128, 0, 1, 0, 0, 0, 0, 0x1FFFF7, 0⟩,
  ⟨R.SCH_CTX_FLAG, 0x40, 128, 0, 1, 0, 0, 0x3F, 0, 0x3F, 0⟩,
  ⟨R.SCH_CTX_CNT, 0x40, 128, 0, 1, 0, 0, 0, 0, 0xFFFFFFFF, 0⟩,
  ⟨R.SCH_CTL, 0, 1, 0, 1, 1, 0, 0, 2, 3, 0⟩,
  ⟨R.SCH_STAT, 0, 1, 0, 1, 0, 0, 0, 0, 0xFFFFFFFF, 0⟩,
  ⟨R.SCH_REP_CAP, 0, 1, 0, 1, 0x1FFF, 0x1FFF, 0, 0, 0x1FFF, 0x40⟩,
  ⟨R.SCH_AGE, 0, 1, 0, 1, 0xFFF, 0, 0, 0, 0xFFF, 0x64⟩,
  ⟨R.SCH_L0_LANES, 0, 1, 0, 1, 0, 0, 0, 0, 0xFFFF, 0⟩,
  ⟨R.SCH_L0_MAX, 0, 1, 0, 1, 0, 0, 0, 0, 0xFFFF, 0⟩,
  ⟨R.SCH_FLAG, 0, 1, 0, 1, 0, 0, 0xF, 0, 0xF, 0⟩,
  ⟨R.SCH_TICK_0, 0, 1, 0, 1, 0, 0, 0, 0, 0xFFFFFFFF, 0⟩,
  ⟨R.SCH_TICK_1, 0, 1, 0, 1, 0, 0, 0, 0, 0xFFFFFFFF, 0⟩]

/-- Control engine registers (R212, R213). -/
def regsCen : List RegDef := [
  ⟨R.CEN_CTL, 0, 1, 0, 1, 0xF1, 0xF1, 0, 0, 0xF1, 0x20⟩,
  ⟨R.CEN_STAT, 0, 1, 0, 1, 0, 0, 0, 0, 0x1FF, 0⟩,
  ⟨R.CEN_FLAG, 0, 1, 0, 1, 0, 0, 0x1FF, 0, 0x1FF, 0⟩,
  ⟨R.CEN_OVF_CNT, 0, 1, 0, 1, 0, 0, 0, 0, 0xFFFFFFFF, 0⟩,
  ⟨R.CEN_LIB_ENTRY, 0, 1, 0, 1, 0, 0, 0, 0, 0x3FFFFF, 0⟩,
  ⟨R.CEN_RUN_MAX, 0, 1, 0, 1, 0, 0, 0, 0, 0xFFFFFF, 0⟩,
  ⟨R.CEN_LAW_EN_0, 0, 1, 0, 1, 0, 0, 0, 0, 0xFFFFFFFF, 0⟩,
  ⟨R.CEN_LAW_EN_1, 0, 1, 0, 1, 0, 0, 0, 0, 0xFFFFFFFF, 0⟩,
  ⟨R.CEN_LAW_EN_2, 0, 1, 0, 1, 0, 0, 0, 0, 0xFFFFFFFF, 0⟩,
  ⟨R.CEN_LAW_EN_3, 0, 1, 0, 1, 0, 0, 0, 0, 0xFFFFFFFF, 0⟩,
  ⟨R.CEN_LAW_EN_4, 0, 1, 0, 1, 0, 0, 0, 0, 0xFFFFFFFF, 0⟩,
  ⟨R.CEN_LAW_EN_5, 0, 1, 0, 1, 0, 0, 0, 0, 0xFFFFFFFF, 0⟩,
  ⟨R.CEN_LAW_EN_6, 0, 1, 0, 1, 0, 0, 0, 0, 0xFFFFFFFF, 0⟩,
  ⟨R.CEN_LAW_EN_7, 0, 1, 0, 1, 0, 0, 0, 0, 0xFFFFFFFF, 0⟩,
  ⟨R.CEN_LAW_CTL, 0x100, 256, 0, 1, 0xFF7F1F, 0, 0, 0, 0xFF7F1F, 0⟩,
  ⟨R.CEN_LAW_DIM, 0x100, 256, 0, 1, 0x7777F, 0, 0, 0, 0x7777F, 0x1011⟩,
  ⟨R.CEN_LAW_GS, 0x100, 256, 0, 1, 0x7F7F7FFF, 0, 0, 0, 0x7F7F7FFF, 0x1000000⟩,
  ⟨R.CEN_LAW_STAT, 0x100, 256, 0, 1, 0, 0, 0, 0, 0x3277FFF, 0⟩,
  ⟨R.CEN_LAW_FLAG, 0x100, 256, 0, 1, 0, 0, 0x1FFF, 0, 0x1FFF, 0⟩,
  ⟨R.CEN_LAW_CNT, 0x100, 256, 0, 1, 0, 0, 0, 0, 0xFFFFFFFF, 0⟩,
  ⟨R.CEN_LAW_RUNT, 0x100, 256, 0, 1, 0, 0, 0, 0, 0xFFFFFFFF, 0⟩]

/-- Datapath registers of the control engine registers (R245, R246). -/
def regsDp : List RegDef := [
  ⟨R.CEN_PROG_BASE, 0x10, 32, 0, 1, 0, 0, 0, 0, 0x3FFFFF, 0⟩,
  ⟨R.CEN_PROG_LEN, 0x10, 32, 0, 1, 0, 0, 0, 0, 0x3FFF, 0⟩,
  ⟨R.CEN_PROG_CHK, 0x10, 32, 0, 1, 0, 0, 0, 0, 0xFFFFFFFF, 0⟩,
  ⟨R.CEN_PROG_STAT, 0x10, 32, 0, 1, 0, 0, 0, 0, 0xFF03, 0⟩,
  ⟨R.CEN_CTX_DPF, 4, 128, 0, 1, 0, 0, 0xF, 0, 0xF, 0⟩,
  ⟨R.CEN_CACHE_STAT, 0, 1, 0, 1, 0, 0, 0, 0, 0xFFFFFFFF, 0⟩,
  ⟨R.CEN_DP_FLAG, 0, 1, 0, 1, 0, 0, 0x1F, 0, 0x1F, 0⟩,
  ⟨R.CEN_EXC_LAST, 0, 1, 0, 1, 0, 0, 0, 0, 0xFF7F, 0⟩,
  ⟨R.CEN_EXC_PC, 0, 1, 0, 1, 0, 0, 0, 0, 0x3FFFFF, 0⟩,
  ⟨R.CEN_VER_ERR, 0, 1, 0, 1, 0, 0, 0, 0, 0xF3FFFFF, 0⟩]

/-- Trajectory groups, axes, auxiliary steppers registers (R294 to R299). -/
def regsTrj : List RegDef := [
  ⟨R.TRJ_CTL, 0x100, 8, 0, 1, 0x33, 0x33, 0, 0, 0x33, 0⟩,
  ⟨R.TRJ_STAT, 0x100, 8, 0, 1, 0, 0, 0, 0, 0x11F07, 0⟩,
  ⟨R.TRJ_FLAG, 0x100, 8, 0, 1, 0, 0, 0xFF, 0, 0xFF, 0⟩,
  ⟨R.TRJ_OVR, 0x100, 8, 0, 1, 0xFFFFFF, 0, 0, 0, 0xFFFFFF, 0x800000⟩,
  ⟨R.TRJ_SRATE, 0x100, 8, 0, 1, 0xFFFF, 0xFFFF, 0, 0, 0xFFFF, 0x200⟩,
  ⟨R.TRJ_SJERK, 0x100, 8, 0, 1, 0xFFFF, 0xFFFF, 0, 0, 0xFFFF, 0x320⟩,
  ⟨R.TRJ_RSAFE, 0x100, 8, 0, 1, 0xFFFFFFFF, 0xFFFFFFFF, 0, 0, 0xFFFFFFFF, 0xF5FF0A00⟩,
  ⟨R.TRJ_SCALE, 0x100, 8, 0, 1, 0, 0, 0, 0, 0xFFFFFF, 0⟩,
  ⟨R.TRJ_SCALE_C, 0x100, 8, 0, 1, 0, 0, 0, 0, 0xFFFFFF, 0xFFFFFF⟩,
  ⟨R.TRJ_LIM, 0x100, 8, 0, 1, 0, 0, 0, 0, 0xFFFFFF, 0⟩,
  ⟨R.TRJ_LIM_C, 0x100, 8, 0, 1, 0, 0, 0, 0, 0xFFFFFF, 0xFFFFFF⟩,
  ⟨R.TRJ_PCLK_0, 0x100, 8, 0, 1, 0, 0, 0, 0, 0xFFFFFFFF, 0⟩,
  ⟨R.TRJ_PCLK_1, 0x100, 8, 0, 1, 0, 0, 0, 0, 0xFFFFFFFF, 0⟩,
  ⟨R.TRJ_PCLK_2, 0x100, 8, 0, 1, 0, 0, 0, 0, 0xFF, 0⟩,
  ⟨R.TRJ_TBL0_0, 0x100, 8, 0, 1, 0, 0, 0, 0, 0xFFFFFFFF, 0⟩,
  ⟨R.TRJ_TBL0_1, 0x100, 8, 0, 1, 0, 0, 0, 0, 0xFFFFFFFF, 0⟩,
  ⟨R.TRJ_TBL0_2, 0x100, 8, 0, 1, 0, 0, 0, 0, 0xFF, 0⟩,
  ⟨R.TRJ_ARM_CTL, 0x40, 16, 0, 1, 0xF71, 0xF71, 0, 0, 0xF71, 0⟩,
  ⟨R.TRJ_ARM_MAP_0, 0x40, 16, 0, 1, 0x7F7F7F7F, 0x7F7F7F7F, 0, 0, 0x7F7F7F7F, 0⟩,
  ⟨R.TRJ_ARM_MAP_1, 0x40, 16, 0, 1, 0x7F7F7F7F, 0x7F7F7F7F, 0, 0, 0x7F7F7F7F, 0⟩,
  ⟨R.TRJ_ARM_MAP_2, 0x40, 16, 0, 1, 0x7F7F7F7F, 0x7F7F7F7F, 0, 0, 0x7F7F7F7F, 0⟩,
  ⟨R.TRJ_ARM_STAT, 0x40, 16, 0, 1, 0, 0, 0, 0, 3, 0⟩,
  ⟨R.TRJ_CMP_CTL, 0x40, 32, 0, 1, 0x3F37F03, 0, 0, 0, 0x3F37F03, 0⟩,
  ⟨R.TRJ_CMP_WIDTH, 0x40, 32, 0, 1, 0xFFFFF, 0, 0, 0, 0xFFFFF, 0x3E8⟩,
  ⟨R.TRJ_CMP_CNT, 0x40, 32, 0, 1, 0xFFFF, 0, 0, 0, 0xFFFF, 0⟩,
  ⟨R.TRJ_CMP_STAT, 0x40, 32, 0, 1, 0, 0, 7, 0, 0xFFFF0107, 0⟩,
  ⟨R.TRJ_CMP_POS_0, 0x40, 32, 0, 1, 0xFFFFFFFF, 0, 0, 0, 0xFFFFFFFF, 0⟩,
  ⟨R.TRJ_CMP_POS_1, 0x40, 32, 0, 1, 0xFFFFFFFF, 0, 0, 0, 0xFFFFFFFF, 0⟩,
  ⟨R.TRJ_CMP_POS_2, 0x40, 32, 0, 1, 0xFF, 0, 0, 0, 0xFF, 0⟩,
  ⟨R.TRJ_CMP_STEP_0, 0x40, 32, 0, 1, 0xFFFFFFFF, 0, 0, 0, 0xFFFFFFFF, 0⟩,
  ⟨R.TRJ_CMP_STEP_1, 0x40, 32, 0, 1, 0xFFFFFFFF, 0, 0, 0, 0xFFFFFFFF, 0⟩,
  ⟨R.TRJ_CMP_STEP_2, 0x40, 32, 0, 1, 0xFF, 0, 0, 0, 0xFF, 0⟩,
  ⟨R.TRJ_CMP_TIME_0, 0x40, 32, 0, 1, 0, 0, 0, 0, 0xFFFFFFFF, 0⟩,
  ⟨R.TRJ_CMP_TIME_1, 0x40, 32, 0, 1, 0, 0, 0, 0, 0xFFFFFFFF, 0⟩,
  ⟨R.TRJ_CMP_TIME_2, 0x40, 32, 0, 1, 0, 0, 0, 0, 0xFF, 0⟩,
  ⟨R.AX_CTL, 0x400, 128, 0, 1, 0x1F1F71F3, 0x1F1F71F3, 0, 0, 0x1F1F71F3, 0⟩,
  ⟨R.AX_STAT, 0x400, 128, 0, 1, 0, 0, 0, 0, 0xFFFF01F7, 0⟩,
  ⟨R.AX_FLAG, 0x400, 128, 0, 1, 0, 0, 0x1FF, 0, 0x1FF, 0⟩,
  ⟨R.AX_MISS, 0x400, 128, 0, 1, 0, 0, 0, 0, 0x301, 0⟩,
  ⟨R.AX_SP_0, 0x400, 128, 0, 1, 0, 0, 0, 0, 0xFFFFFFFF, 0⟩,
  ⟨R.AX_SP_1, 0x400, 128, 0, 1, 0, 0, 0, 0, 0xFFFFFFFF, 0⟩,
  ⟨R.AX_SP_2, 0x400, 128, 0, 1, 0, 0, 0, 0, 0xFF, 0⟩,
  ⟨R.AX_SPD_0, 0x400, 128, 0, 1, 0, 0, 0, 0, 0xFFFFFFFF, 0⟩,
  ⟨R.AX_SPD_1, 0x400, 128, 0, 1, 0, 0, 0, 0, 0xFFFFFFFF, 0⟩,
  ⟨R.AX_SPD_2, 0x400, 128, 0, 1, 0, 0, 0, 0, 0xFF, 0⟩,
  ⟨R.AX_POS_0, 0x400, 128, 0, 1, 0, 0, 0, 0, 0xFFFFFFFF, 0⟩,
  ⟨R.AX_POS_1, 0x400, 128, 0, 1, 0, 0, 0, 0, 0xFFFFFFFF, 0⟩,
  ⟨R.AX_POS_2, 0x400, 128, 0, 1, 0, 0, 0, 0, 0xFF, 0⟩,
  ⟨R.AX_POS_OFF_0, 0x400, 128, 0, 1, 0, 0, 0, 0, 0xFFFFFFFF, 0⟩,
  ⟨R.AX_POS_OFF_1, 0x400, 128, 0, 1, 0, 0, 0, 0, 0xFFFFFFFF, 0⟩,
  ⟨R.AX_POS_OFF_2, 0x400, 128, 0, 1, 0, 0, 0, 0, 0xFF, 0⟩,
  ⟨R.AX_FRAME, 0x400, 128, 0, 1, 0, 0, 0, 0, 0xFFFF, 0⟩,
  ⟨R.AX_IN_SEL, 0x400, 128, 0, 1, 0x7FFFFFF, 0x7FFFFFF, 0, 0, 0x7FFFFFF, 0⟩,
  ⟨R.AX_IN_FILT, 0x400, 128, 0, 1, 0x3FF, 0x3FF, 0, 0, 0x3FF, 0xA⟩,
  ⟨R.AUX_CTL, 0x200, 16, 0, 1, 0xFFFF77F3, 0xFFFF77F3, 0, 0, 0xFFFF77F3, 0⟩,
  ⟨R.AUX_STAT, 0x200, 16, 0, 1, 0, 0, 0, 0, 0xF, 0⟩,
  ⟨R.AUX_FLAG, 0x200, 16, 0, 1, 0, 0, 0xF, 0, 0xF, 0⟩,
  ⟨R.AUX_SP_0, 0x200, 16, 0, 1, 0, 0, 0, 0, 0xFFFFFFFF, 0⟩,
  ⟨R.AUX_SP_1, 0x200, 16, 0, 1, 0, 0, 0, 0, 0xFFFFFFFF, 0⟩,
  ⟨R.AUX_SP_2, 0x200, 16, 0, 1, 0, 0, 0, 0, 0xFF, 0⟩,
  ⟨R.AUX_SPD_0, 0x200, 16, 0, 1, 0, 0, 0, 0, 0xFFFFFFFF, 0⟩,
  ⟨R.AUX_SPD_1, 0x200, 16, 0, 1, 0, 0, 0, 0, 0xFFFFFFFF, 0⟩,
  ⟨R.AUX_SPD_2, 0x200, 16, 0, 1, 0, 0, 0, 0, 0xFF, 0⟩,
  ⟨R.AUX_VOLT, 0x200, 16, 0, 1, 0, 0, 0, 0, 0xFFFFFFFF, 0⟩,
  ⟨R.AUX_CUR, 0x200, 16, 0, 1, 0, 0, 0, 0, 0xFFFF, 0⟩]

/-- Separation engine registers (R339, R340). -/
def regsSep : List RegDef := [
  ⟨R.SEP_CTL, 0, 1, 0, 1, 0x1F, 0x1B, 0, 0, 0x1F, 0⟩,
  ⟨R.SEP_STAT, 0, 1, 0, 1, 0, 0, 0, 0, 0xFF07, 0⟩,
  ⟨R.SEP_FLAG, 0, 1, 0, 1, 0, 0, 0x1FF, 0, 0x1FF, 0⟩,
  ⟨R.SEP_HO, 0, 1, 0, 1, 0x3FF, 0x3FF, 0, 0, 0x3FF, 0xA0⟩,
  ⟨R.SEP_VH, 0, 1, 0, 1, 0xFFFFFFFF, 0xFFFFFFFF, 0, 0, 0xFFFFFFFF, 0xF9BF0640⟩,
  ⟨R.SEP_EXPORT, 0, 1, 0, 1, 0xFFFFFF, 0xFFFFFF, 0, 0, 0xFFFFFF, 0⟩,
  ⟨R.SEP_EXP_CONN, 0, 1, 0, 1, 0xFFFFFFFF, 0xFFFFFFFF, 0, 0, 0xFFFFFFFF, 0⟩,
  ⟨R.SEP_BUDGET, 0, 1, 0, 1, 0, 0, 0, 0, 0xFFFFFFFF, 0⟩,
  ⟨R.SEP_RUNT, 0, 1, 0, 1, 0, 0, 0, 0, 0xFFFFFFFF, 0⟩,
  ⟨R.SEP_SCYC_0, 0, 1, 0, 1, 0, 0, 0, 0, 0xFFFFFFFF, 0⟩,
  ⟨R.SEP_SCYC_1, 0, 1, 0, 1, 0, 0, 0, 0, 0xFFFFFFFF, 0⟩,
  ⟨R.SEP_G_CAP, 0x20, 8, 0, 1, 0xFFFFFFFF, 0xFFFFFFFF, 0, 0, 0xFFFFFFFF, 0x7FFF8000⟩,
  ⟨R.SEP_G_L, 0x20, 8, 0, 1, 0, 0, 0, 0, 0xFFFFFF, 0⟩,
  ⟨R.SEP_G_STAT, 0x20, 8, 0, 1, 0, 0, 0, 0, 0xF77, 0⟩,
  ⟨R.SEP_G_OBS, 0x20, 8, 0, 1, 0, 0, 0, 0, 0xFF03FF, 0⟩,
  ⟨R.SEP_G_D, 0x20, 8, 0, 1, 0, 0, 0, 0, 0xFFFFFFFF, 0⟩,
  ⟨R.SEP_S_STAT, 0x20, 16, 0, 1, 0, 0, 0, 0, 0x7FFFF03, 0⟩,
  ⟨R.SEP_S_AGE, 0x20, 16, 0, 1, 0, 0, 0, 0, 0xFFFFFFFF, 0⟩,
  ⟨R.SEP_S_SEQ, 0x20, 16, 0, 1, 0, 0, 0, 0, 0xFFFFFFFF, 0⟩,
  ⟨R.SEP_S_GOOD, 0x20, 16, 0, 1, 0, 0, 0, 0, 0xFFFFFFFF, 0⟩,
  ⟨R.SEP_S_BAD, 0x20, 16, 0, 1, 0, 0, 0, 0, 0xFFFFFFFF, 0⟩,
  ⟨R.SEP_S_FLAG, 0x20, 16, 0, 1, 0, 0, 0xFF, 0, 0xFF, 0⟩,
  ⟨R.SEP_A_L, 0x10, 16, 0, 1, 0, 0, 0, 0, 0xFFFFFF, 0⟩,
  ⟨R.SEP_A_D, 0x10, 16, 0, 1, 0, 0, 0, 0, 0xFFFFFFFF, 0⟩,
  ⟨R.SEP_A_OBS, 0x10, 16, 0, 1, 0, 0, 0, 0, 0xFF03FF, 0⟩]

/-- Safety window registers (R396, R397). -/
def regsSaf : List RegDef := [
  ⟨R.SAF_STATE, 0, 1, 0, 1, 0, 0, 0, 0, 0x3F, 1⟩,
  ⟨R.SAF_CHK, 0, 1, 0, 1, 0, 0, 0, 0, 0xFFFFFFFF, 0⟩,
  ⟨R.SAF_CHK_C, 0, 1, 0, 1, 0, 0, 0, 0, 0xFFFFFFFF, 0xFFFFFFFF⟩,
  ⟨R.SAF_CHK_CONF, 0, 1, 0, 1, 0, 0, 0, 0, 0xFFFFFFFF, 0⟩,
  ⟨R.SAF_FLAG, 0, 1, 0, 1, 0, 0, 0x7F, 0, 0x7F, 0⟩,
  ⟨R.SAF_FAULT, 0, 1, 0, 1, 0, 0, 0, 0, 0x1FF, 0⟩,
  ⟨R.SAF_IN, 0, 1, 0, 1, 0, 0, 0, 0, 0xFFFFFFFF, 0⟩,
  ⟨R.SAF_IN_STAT, 0, 1, 0, 1, 0, 0, 0, 0, 0xFFFFFFFF, 0⟩,
  ⟨R.SAF_OUT, 0, 1, 0, 1, 0, 0, 0, 0, 0xFFFFFF, 0⟩,
  ⟨R.SAF_VER, 0, 1, 0, 1, 0, 0, 0, 0, 0xFFFFFFFF, 0⟩,
  ⟨R.SAF_G_STAT, 0x10, 8, 0, 1, 0, 0, 0, 0, 0x307, 0⟩,
  ⟨R.SAF_G_CAUSE, 0x10, 8, 0, 1, 0, 0, 0, 0, 0x7FFF, 1⟩,
  ⟨R.SAF_AX_STAT, 0x10, 128, 0, 1, 0, 0, 0, 0, 0xFF07, 1⟩,
  ⟨R.SAF_AX_BCH, 0x10, 128, 0, 1, 0, 0, 0, 0, 0xFFFFFFFF, 0⟩]

/-- Feedback registers (R435, R436). -/
def regsFbk : List RegDef := [
  ⟨R.FBK_CTL, 0x100, 32, 0, 1, 1, 0, 0, 2, 3, 0⟩,
  ⟨R.FBK_CFG, 0x100, 32, 0, 1, 0xFFFF0FF7, 0xFFFF0FF7, 0, 0, 0xFFFF0FF7, 0x3E840020⟩,
  ⟨R.FBK_SPDCFG, 0x100, 32, 0, 1, 0xFFFF0F7F, 0xFFFF0F7F, 0, 0, 0xFFFF0F7F, 0x27100001⟩,
  ⟨R.FBK_SSI, 0x100, 32, 0, 1, 0x3F7FFF, 0x3F7FFF, 0, 0, 0x3F7FFF, 0x19⟩,
  ⟨R.FBK_SSI_T, 0x100, 32, 0, 1, 0x7FFFFF, 0x7FFFFF, 0, 0, 0x7FFFFF, 0x140013⟩,
  ⟨R.FBK_POS_0, 0x100, 32, 0, 1, 0, 0, 0, 0, 0xFFFFFFFF, 0⟩,
  ⟨R.FBK_POS_1, 0x100, 32, 0, 1, 0, 0, 0, 0, 0xFFFFFFFF, 0⟩,
  ⟨R.FBK_POS_2, 0x100, 32, 0, 1, 0, 0, 0, 0, 0xFF, 0⟩,
  ⟨R.FBK_SPEED_0, 0x100, 32, 0, 1, 0, 0, 0, 0, 0xFFFFFFFF, 0⟩,
  ⟨R.FBK_SPEED_1, 0x100, 32, 0, 1, 0, 0, 0, 0, 0xFFFFFFFF, 0⟩,
  ⟨R.FBK_SPEED_2, 0x100, 32, 0, 1, 0, 0, 0, 0, 0xFF, 0⟩,
  ⟨R.FBK_TLAT_0, 0x100, 32, 0, 1, 0, 0, 0, 0, 0xFFFFFFFF, 0⟩,
  ⟨R.FBK_TLAT_1, 0x100, 32, 0, 1, 0, 0, 0, 0, 0xFFFFFFFF, 0⟩,
  ⟨R.FBK_TLAT_2, 0x100, 32, 0, 1, 0, 0, 0, 0, 0xFF, 0⟩,
  ⟨R.FBK_TEDGE_0, 0x100, 32, 0, 1, 0, 0, 0, 0, 0xFFFFFFFF, 0⟩,
  ⟨R.FBK_TEDGE_1, 0x100, 32, 0, 1, 0, 0, 0, 0, 0xFFFFFFFF, 0⟩,
  ⟨R.FBK_TEDGE_2, 0x100, 32, 0, 1, 0, 0, 0, 0, 0xFF, 0⟩,
  ⟨R.FBK_IDX_POS_0, 0x100, 32, 0, 1, 0, 0, 0, 0, 0xFFFFFFFF, 0⟩,
  ⟨R.FBK_IDX_POS_1, 0x100, 32, 0, 1, 0, 0, 0, 0, 0xFFFFFFFF, 0⟩,
  ⟨R.FBK_IDX_POS_2, 0x100, 32, 0, 1, 0, 0, 0, 0, 0xFF, 0⟩,
  ⟨R.FBK_IDX_TIME_0, 0x100, 32, 0, 1, 0, 0, 0, 0, 0xFFFFFFFF, 0⟩,
  ⟨R.FBK_IDX_TIME_1, 0x100, 32, 0, 1, 0, 0, 0, 0, 0xFFFFFFFF, 0⟩,
  ⟨R.FBK_IDX_TIME_2, 0x100, 32, 0, 1, 0, 0, 0, 0, 0xFF, 0⟩,
  ⟨R.FBK_STAT, 0x100, 32, 0, 1, 0, 0, 0, 0, 0xF77F, 0⟩,
  ⟨R.FBK_FLAG, 0x100, 32, 0, 1, 0, 0, 0x3FF, 0, 0x3FF, 0⟩,
  ⟨R.FBK_ERR_CNT, 0x100, 32, 0, 1, 0, 0, 0, 0, 0xFFFFFFFF, 0⟩,
  ⟨R.FBK_IDX_CNT, 0x100, 32, 0, 1, 0, 0, 0, 0, 0xFFFFFFFF, 0⟩,
  ⟨R.FBK_SSI_RAW_0, 0x100, 32, 0, 1, 0, 0, 0, 0, 0xFFFFFFFF, 0⟩,
  ⟨R.FBK_SSI_RAW_1, 0x100, 32, 0, 1, 0, 0, 0, 0, 0xFFFFF, 0⟩,
  ⟨R.FBK_EN_MAP, 0, 1, 0, 1, 0, 0, 0, 0, 0xFFFFFFFF, 0⟩,
  ⟨R.FBK_FAULT_MAP, 0, 1, 0, 1, 0, 0, 0, 0, 0xFFFFFFFF, 0⟩,
  ⟨R.FBK_LOSS_MAP, 0, 1, 0, 1, 0, 0, 0, 0, 0xFFFFFFFF, 0⟩]

/-- PWM registers (R464 to R466). -/
def regsPwm : List RegDef := [
  ⟨R.PWM_CTL, 0x80, 72, 0, 1, 1, 0, 0, 0, 1, 0⟩,
  ⟨R.PWM_CFG, 0x80, 72, 0, 1, 0x1F0F, 0x1F0F, 0, 0, 0x1F0F, 0⟩,
  ⟨R.PWM_PER, 0x80, 72, 0, 1, 0x1FFFF, 0, 0, 0, 0x1FFFF, 0x30D4⟩,
  ⟨R.PWM_DUTY, 0x80, 72, 0, 1, 0x1FFFFF, 0, 0, 0, 0x1FFFFF, 0⟩,
  ⟨R.PWM_DT, 0x80, 72, 0, 1, 0x3FF, 0x3FF, 0, 0, 0x3FF, 0x28⟩,
  ⟨R.PWM_CMPB, 0x80, 72, 0, 1, 0x1FFFF, 0, 0, 0, 0x1FFFF, 0⟩,
  ⟨R.PWM_IRQ, 0x80, 72, 0, 1, 0x1FF, 0, 0, 0, 0x1FF, 0⟩,
  ⟨R.PWM_STAT, 0x80, 72, 0, 1, 0, 0, 0, 0, 0xFFFFFFF, 0⟩,
  ⟨R.PWM_FLAG, 0x80, 72, 0, 1, 0, 0, 7, 0, 7, 0⟩,
  ⟨R.PWM_APPLIED, 0x80, 72, 0, 1, 0, 0, 0, 0, 0x1FFFFF, 0⟩,
  ⟨R.PWM_IRQ_CNT, 0x80, 72, 0, 1, 0, 0, 0, 0, 0xFFFFFFFF, 0⟩,
  ⟨R.PWM_TSTAMP_0, 0x80, 72, 0, 1, 0, 0, 0, 0, 0xFFFFFFFF, 0⟩,
  ⟨R.PWM_TSTAMP_1, 0x80, 72, 0, 1, 0, 0, 0, 0, 0xFFFFFFFF, 0⟩,
  ⟨R.PWM_TSTAMP_2, 0x80, 72, 0, 1, 0, 0, 0, 0, 0xFF, 0⟩,
  ⟨R.PWM_TIN_CFG, 4, 8, 0, 1, 0x3F, 0x3F, 0, 0, 0x3F, 0⟩,
  ⟨R.PWM_TGRP_CFG, 0x10, 16, 0, 1, 0xFF7F01FF, 0, 0, 0, 0xFF7F01FF, 0⟩,
  ⟨R.PWM_TGRP_CMD, 0x10, 16, 0, 1, 0, 0, 0, 3, 3, 0⟩,
  ⟨R.PWM_TGRP_STAT, 0x10, 16, 0, 1, 0, 0, 0, 0, 0xFF0F, 0⟩,
  ⟨R.PWM_TRIP_STAT, 0, 1, 0, 1, 0, 0, 0, 0, 0xFFFFFF, 0⟩,
  ⟨R.PWM_TRIP_CNT, 0, 1, 0, 1, 0, 0, 0, 0, 0xFFFFFFFF, 0⟩,
  ⟨R.PWM_EN_MAP_0, 0, 1, 0, 1, 0, 0, 0, 0, 0xFFFFFFFF, 0⟩,
  ⟨R.PWM_EN_MAP_1, 0, 1, 0, 1, 0, 0, 0, 0, 0xFFFFFFFF, 0⟩,
  ⟨R.PWM_EN_MAP_2, 0, 1, 0, 1, 0, 0, 0, 0, 0xFF, 0⟩,
  ⟨R.PWM_OWN_MAP_0, 0, 1, 0, 1, 0, 0, 0, 0, 0xFFFFFFFF, 0⟩,
  ⟨R.PWM_OWN_MAP_1, 0, 1, 0, 1, 0, 0, 0, 0, 0xFFFFFFFF, 0⟩,
  ⟨R.PWM_OWN_MAP_2, 0, 1, 0, 1, 0, 0, 0, 0, 0xFF, 0⟩,
  ⟨R.PWM_GATE_MAP, 0, 1, 0, 1, 0, 0, 0, 0, 0xFFFFFF, 0⟩]

/-- Converters registers (R491, R492). -/
def regsAdc : List RegDef := [
  ⟨R.ADC_CTL, 0x100, 16, 0, 1, 1, 0, 0, 0, 1, 0⟩,
  ⟨R.ADC_CFG, 0x100, 16, 0, 1, 0xF7F17F37, 0xF7F17F37, 0, 0, 0xF7F17F37, 0⟩,
  ⟨R.ADC_MASK, 0x100, 16, 0, 1, 0xFFFF, 0, 0, 0, 0xFFFF, 0⟩,
  ⟨R.ADC_CMD, 0x100, 16, 0, 1, 0, 0, 0, 0xF, 0xF, 0⟩,
  ⟨R.ADC_STAT, 0x100, 16, 0, 1, 0, 0, 0, 0, 0xFF3F, 0⟩,
  ⟨R.ADC_FLAG, 0x100, 16, 0, 1, 0, 0, 0x1FF, 0, 0x1FF, 0⟩,
  ⟨R.ADC_RESULT, 0x100, 16, 0, 1, 0, 0, 0, 0, 0x8FFFFFFF, 0⟩,
  ⟨R.ADC_RES_TIME_0, 0x100, 16, 0, 1, 0, 0, 0, 0, 0xFFFFFFFF, 0⟩,
  ⟨R.ADC_RES_TIME_1, 0x100, 16, 0, 1, 0, 0, 0, 0, 0xFFFFFFFF, 0⟩,
  ⟨R.ADC_RES_TIME_2, 0x100, 16, 0, 1, 0, 0, 0, 0, 0xFF, 0⟩,
  ⟨R.ADC_BUF_BASE, 0x100, 16, 0, 1, 0x3FFFFF, 0x3FFFFF, 0, 0, 0x3FFFFF, 0⟩,
  ⟨R.ADC_BUF_LEN, 0x100, 16, 0, 1, 0x3FFF, 0x3FFF, 0, 0, 0x3FFF, 0⟩,
  ⟨R.ADC_BUF_PTR, 0x100, 16, 0, 1, 0, 0, 0, 0, 0xFFFF3FFF, 0⟩,
  ⟨R.ADC_CNT, 0x100, 16, 0, 1, 0, 0, 0, 0, 0xFFFFFFFF, 0⟩,
  ⟨R.ADC_IN_CFG, 0x100, 16, 4, 8, 0xFFFFF1F, 0, 0, 0, 0xFFFFF1F, 0⟩,
  ⟨R.ADC_TDAC, 0x100, 16, 0, 1, 0xFF0FFF, 0, 0, 0, 0xFF0FFF, 0x100000⟩,
  ⟨R.ADC_CAL_TIME_0, 0x100, 16, 0, 1, 0, 0, 0, 0, 0xFFFFFFFF, 0⟩,
  ⟨R.ADC_CAL_TIME_1, 0x100, 16, 0, 1, 0, 0, 0, 0, 0xFFFFFFFF, 0⟩,
  ⟨R.ADC_CAL_TIME_2, 0x100, 16, 0, 1, 0, 0, 0, 0, 0xFF, 0⟩,
  ⟨R.ADC_REF_STAT, 0, 1, 0, 1, 0, 0, 0, 0, 3, 0⟩,
  ⟨R.ADC_EN_MAP, 0, 1, 0, 1, 0, 0, 0, 0, 0xFFFF, 0⟩,
  ⟨R.ADC_OPEN_MAP_0, 0, 1, 0, 1, 0, 0, 0, 0, 0xFFFFFFFF, 0⟩,
  ⟨R.ADC_OPEN_MAP_1, 0, 1, 0, 1, 0, 0, 0, 0, 0xFFFFFFFF, 0⟩,
  ⟨R.ADC_OPEN_MAP_2, 0, 1, 0, 1, 0, 0, 0, 0, 0xFFFFFFFF, 0⟩,
  ⟨R.ADC_OPEN_MAP_3, 0, 1, 0, 1, 0, 0, 0, 0, 0xFFFFFFFF, 0⟩]

/-- Twill registers (R532, R533). -/
def regsTwl : List RegDef := [
  ⟨R.TWL_CTL, 0x800, 8, 0, 1, 1, 0, 0, 0, 1, 0⟩,
  ⟨R.TWL_CFG, 0x800, 8, 0, 1, 0x3FFF007F, 0x3FFF007F, 0, 0, 0x3FFF007F, 0x3840001⟩,
  ⟨R.TWL_DLY_A, 0x800, 8, 0, 1, 0xFFFFFFFF, 0xFFFFFFFF, 0, 0, 0xFFFFFFFF, 0⟩,
  ⟨R.TWL_DLY_B, 0x800, 8, 0, 1, 0xFFFFFFFF, 0xFFFFFFFF, 0, 0, 0xFFFFFFFF, 0⟩,
  ⟨R.TWL_STAT, 0x800, 8, 0, 1, 0, 0, 0, 0, 0xFFFF007F, 0⟩,
  ⟨R.TWL_FLAG, 0x800, 8, 0, 1, 0, 0, 0x3FF, 0, 0x3FF, 0⟩,
  ⟨R.TWL_D_AB, 0x800, 8, 0, 1, 0, 0, 0, 0, 0xFFFFFFFF, 0⟩,
  ⟨R.TWL_D_BA, 0x800, 8, 0, 1, 0, 0, 0, 0, 0xFFFFFFFF, 0⟩,
  ⟨R.TWL_CNT_CRC, 0x800, 8, 0, 1, 0, 0, 0, 0, 0xFFFFFFFF, 0⟩,
  ⟨R.TWL_CNT_OOW, 0x800, 8, 0, 1, 0, 0, 0, 0, 0xFFFFFFFF, 0⟩,
  ⟨R.TWL_CNT_GUARD, 0x800, 8, 0, 1, 0, 0, 0, 0, 0xFFFFFFFF, 0⟩,
  ⟨R.TWL_N_STAT, 0x800, 8, 0x10, 16, 0, 0, 0, 0, 0x1FFFFF, 0⟩,
  ⟨R.TWL_N_PDLY, 0x800, 8, 0x10, 16, 0, 0, 0, 0, 0xFFFFFFFF, 0⟩,
  ⟨R.TWL_N_DEV, 0x800, 8, 0x10, 16, 0, 0, 0, 0, 0xFFFFFFFF, 0⟩,
  ⟨R.TWL_N_CNT, 0x800, 8, 0x10, 16, 0, 0, 0, 0, 0xFFFFFFFF, 0⟩,
  ⟨R.TWL_G_CTL, 0, 1, 0, 1, 1, 1, 0, 0, 1, 0⟩,
  ⟨R.TWL_G_MODE, 0, 1, 0, 1, 0, 0, 0, 0, 0xF7, 0⟩,
  ⟨R.TWL_G_SW_AT_0, 0, 1, 0, 1, 0, 0, 0, 0, 0xFFFFFFFF, 0⟩,
  ⟨R.TWL_G_SW_AT_1, 0, 1, 0, 1, 0, 0, 0, 0, 0xFFFFFFFF, 0⟩]

/-- Damask registers (R581, R582). -/
def regsDmk : List RegDef := [
  ⟨R.DMK_P_CTL, 0x1000, 4, 0, 1, 7, 0, 0, 0, 7, 0⟩,
  ⟨R.DMK_P_STAT, 0x1000, 4, 0, 1, 0, 0, 0, 0, 0x3F, 0⟩,
  ⟨R.DMK_P_FLAG, 0x1000, 4, 0, 1, 0, 0, 0x1F, 0, 0x1F, 0⟩,
  ⟨R.DMK_P_DLY, 0x1000, 4, 0, 1, 0xFFFFFFFF, 0xFFFFFFFF, 0, 0, 0xFFFFFFFF, 0⟩,
  ⟨R.DMK_P_LDLY, 0x1000, 4, 0, 1, 0, 0, 0, 0, 0xFFFFFFFF, 0⟩,
  ⟨R.DMK_P_NUID_0, 0x1000, 4, 0, 1, 0, 0, 0, 0, 0xFFFFFFFF, 0⟩,
  ⟨R.DMK_P_NUID_1, 0x1000, 4, 0, 1, 0, 0, 0, 0, 0xFFFFFFFF, 0⟩,
  ⟨R.DMK_P_CNT_HDR, 0x1000, 4, 0, 1, 0, 0, 0, 0, 0xFFFFFFFF, 0⟩,
  ⟨R.DMK_P_CNT_ECC, 0x1000, 4, 0, 1, 0, 0, 0, 0, 0xFFFFFFFF, 0⟩,
  ⟨R.DMK_P_CNT_OVF, 0x1000, 4, 0, 1, 0, 0, 0, 0, 0xFFFFFFFF, 0⟩,
  ⟨R.DMK_P_CNT_PRE, 0x1000, 4, 0, 1, 0, 0, 0, 0, 0xFFFFFFFF, 0⟩,
  ⟨R.DMK_P_RES_MAX, 0x1000, 4, 0, 1, 0, 0, 0, 0, 0xFFFF, 0⟩,
  ⟨R.DMK_CTL, 0, 1, 0, 1, 0xF, 0xF, 0, 0, 0xF, 0⟩,
  ⟨R.DMK_ADDR, 0, 1, 0, 1, 0xFFF, 0xFFF, 0, 0, 0xFFF0FFF, 0⟩,
  ⟨R.DMK_STAT, 0, 1, 0, 1, 0, 0, 0, 0, 0xFFF0003, 0⟩,
  ⟨R.DMK_FLAG, 0, 1, 0, 1, 0, 0, 0x1FF, 0, 0x1FF, 0⟩,
  ⟨R.DMK_UID_0, 0, 1, 0, 1, 0, 0, 0, 0, 0xFFFFFFFF, 0⟩,
  ⟨R.DMK_UID_1, 0, 1, 0, 1, 0, 0, 0, 0, 0xFFFFFFFF, 0⟩,
  ⟨R.DMK_POOL, 0, 1, 0, 1, 0xFFF, 0xFFF, 0, 0, 0xFFF, 1⟩,
  ⟨R.DMK_SYNC_CFG, 0, 1, 0, 1, 0xDFF, 0xDFF, 0, 0, 0xDFF, 0x480⟩,
  ⟨R.DMK_SYNC_STAT, 0, 1, 0, 1, 0, 0, 0, 0, 0xFFFF01F7, 0⟩,
  ⟨R.DMK_SYNC_DEV, 0, 1, 0, 1, 0, 0, 0, 0, 0xFFFFFFFF, 0⟩,
  ⟨R.DMK_STEP_LIM, 0, 1, 0, 1, 0xFFFFF, 0xFFFFF, 0, 0, 0xFFFFF, 0x3E8⟩,
  ⟨R.DMK_SYNC_TOL, 0, 1, 0, 1, 0xFFFF, 0xFFFF, 0, 0, 0xFFFF, 0x200⟩,
  ⟨R.DMK_RATE_EST, 0, 1, 0, 1, 0, 0, 0, 0, 0xFFFFFFFF, 0⟩,
  ⟨R.DMK_MODE_STAT, 0, 1, 0, 1, 0, 0, 0, 0, 0x1F, 0⟩,
  ⟨R.DMK_MODE_AT_0, 0, 1, 0, 1, 0, 0, 0, 0, 0xFFFFFFFF, 0⟩,
  ⟨R.DMK_MODE_AT_1, 0, 1, 0, 1, 0, 0, 0, 0, 0xFFFFFFFF, 0⟩,
  ⟨R.DMK_HRX_BASE_0, 0, 1, 0, 1, 0xFFFFFFFF, 0, 0, 0, 0xFFFFFFFF, 0⟩,
  ⟨R.DMK_HRX_BASE_1, 0, 1, 0, 1, 0xFFFFFFFF, 0, 0, 0, 0xFFFFFFFF, 0⟩,
  ⟨R.DMK_HRX_SIZE, 0, 1, 0, 1, 0xFFFFFF, 0, 0, 0, 0xFFFFFF, 0⟩,
  ⟨R.DMK_HRX_PTR, 0, 1, 0, 1, 0, 0, 0, 0, 0xFFFFFFFF, 0⟩,
  ⟨R.DMK_CNT_RX, 0, 1, 0, 1, 0, 0, 0, 0, 0xFFFFFFFF, 0⟩]

/-- Laend registers (R624, R625). -/
def regsLnd : List RegDef := [
  ⟨R.LND_CTL, 0, 1, 0, 1, 1, 0, 0, 0, 1, 0⟩,
  ⟨R.LND_CFG, 0, 1, 0, 1, 0xFFFF33, 0xFFFF33, 0, 0, 0xFFFF33, 0xC0400⟩,
  ⟨R.LND_SHADOW, 0, 1, 0, 1, 0xFFFF, 0xFFFF, 0, 0, 0xFFFF, 0x1000⟩,
  ⟨R.LND_STAT, 0, 1, 0, 1, 0, 0, 0, 0, 0x7FF, 0⟩,
  ⟨R.LND_FLAG, 0, 1, 0, 1, 0, 0, 0x3FF, 0, 0x3FF, 0⟩,
  ⟨R.LND_FAIL, 0, 1, 0, 1, 0, 0, 0, 0, 0xFFFF, 0⟩,
  ⟨R.LND_DIGEST, 0, 1, 0, 1, 0, 0, 0, 0, 0xFFFFFFFF, 0⟩,
  ⟨R.LND_PDIGEST, 0, 1, 0, 1, 0, 0, 0, 0, 0xFFFFFFFF, 0⟩,
  ⟨R.LND_PUID_0, 0, 1, 0, 1, 0, 0, 0, 0, 0xFFFFFFFF, 0⟩,
  ⟨R.LND_PUID_1, 0, 1, 0, 1, 0, 0, 0, 0, 0xFFFFFFFF, 0⟩,
  ⟨R.LND_CNT, 0, 1, 0, 1, 0, 0, 0, 0, 0xFFFFFFFF, 0⟩,
  ⟨R.LND_MIR_MAX, 0, 1, 0, 1, 0, 0, 0, 0, 0xFFFF, 0⟩,
  ⟨R.LND_PROM_AT_0, 0, 1, 0, 1, 0, 0, 0, 0, 0xFFFFFFFF, 0⟩,
  ⟨R.LND_PROM_AT_1, 0, 1, 0, 1, 0, 0, 0, 0, 0xFFFFFFFF, 0⟩,
  ⟨R.LND_L_STAT, 0x20, 2, 0, 1, 0, 0, 0, 0, 7, 0⟩,
  ⟨R.LND_L_DLY, 0x20, 2, 0, 1, 0xFFFFFFFF, 0xFFFFFFFF, 0, 0, 0xFFFFFFFF, 0⟩,
  ⟨R.LND_L_LDLY, 0x20, 2, 0, 1, 0, 0, 0, 0, 0xFFFFFFFF, 0⟩,
  ⟨R.LND_L_CNT, 0x20, 2, 0, 1, 0, 0, 0, 0, 0xFFFFFFFF, 0⟩]

/-- Acquisition registers (R650, R651). -/
def regsAcq : List RegDef := [
  ⟨R.ACQ_CFG, 0x400, 8, 0, 1, 0x7F, 0, 0, 0, 0x7F, 1⟩,
  ⟨R.ACQ_SPER, 0x400, 8, 0, 1, 0x7FFF, 0, 0, 0, 0x7FFF, 0xC8⟩,
  ⟨R.ACQ_PRE, 0x400, 8, 0, 1, 0x3FFF, 0, 0, 0, 0x3FFF, 0⟩,
  ⟨R.ACQ_POST, 0x400, 8, 0, 1, 0xFFFFFFFF, 0, 0, 0, 0xFFFFFFFF, 0⟩,
  ⟨R.ACQ_BUF_BASE, 0x400, 8, 0, 1, 0x3FFFFF, 0, 0, 0, 0x3FFFFF, 0⟩,
  ⟨R.ACQ_BUF_LEN, 0x400, 8, 0, 1, 0x3FFFFF, 0, 0, 0, 0x3FFFFF, 0⟩,
  ⟨R.ACQ_STAT, 0x400, 8, 0, 1, 0, 0, 0, 0, 0xFFFFFF07, 0⟩,
  ⟨R.ACQ_FLAG, 0x400, 8, 0, 1, 0, 0, 0x3FF, 0, 0x3FF, 0⟩,
  ⟨R.ACQ_CH_SEL, 0x400, 8, 4, 4, 0x3FFFFF1F, 0, 0, 0, 0x3FFFFF1F, 0⟩,
  ⟨R.ACQ_TC_CTL, 0x400, 8, 0x40, 4, 0xFF0F7F, 0, 0, 0, 0xFF0F7F, 0⟩,
  ⟨R.ACQ_TC_TA, 0x400, 8, 0x40, 4, 0xFFFFFFFF, 0, 0, 0, 0xFFFFFFFF, 0⟩,
  ⟨R.ACQ_TC_TB, 0x400, 8, 0x40, 4, 0xFFFFFFFF, 0, 0, 0, 0xFFFFFFFF, 0⟩,
  ⟨R.ACQ_TC_LO_0, 0x400, 8, 0x40, 4, 0xFFFFFFFF, 0, 0, 0, 0xFFFFFFFF, 0⟩,
  ⟨R.ACQ_TC_LO_1, 0x400, 8, 0x40, 4, 0xFFFFFFFF, 0, 0, 0, 0xFFFFFFFF, 0⟩,
  ⟨R.ACQ_TC_LO_2, 0x400, 8, 0x40, 4, 0xFF, 0, 0, 0, 0xFF, 0⟩,
  ⟨R.ACQ_TC_HI_0, 0x400, 8, 0x40, 4, 0xFFFFFFFF, 0, 0, 0, 0xFFFFFFFF, 0⟩,
  ⟨R.ACQ_TC_HI_1, 0x400, 8, 0x40, 4, 0xFFFFFFFF, 0, 0, 0, 0xFFFFFFFF, 0⟩,
  ⟨R.ACQ_TC_HI_2, 0x400, 8, 0x40, 4, 0xFF, 0, 0, 0, 0xFF, 0⟩,
  ⟨R.ACQ_TRIG_TIME_0, 0x400, 8, 0, 1, 0, 0, 0, 0, 0xFFFFFFFF, 0⟩,
  ⟨R.ACQ_TRIG_TIME_1, 0x400, 8, 0, 1, 0, 0, 0, 0, 0xFFFFFFFF, 0⟩,
  ⟨R.ACQ_TRIG_TIME_2, 0x400, 8, 0, 1, 0, 0, 0, 0, 0xFF, 0⟩,
  ⟨R.ACQ_REC_INFO, 0x400, 8, 0, 1, 0, 0, 0, 0, 0x71F, 0⟩,
  ⟨R.ACQ_PRE_N, 0x400, 8, 0, 1, 0, 0, 0, 0, 0xFFFFFFFF, 0⟩,
  ⟨R.ACQ_POST_N, 0x400, 8, 0, 1, 0, 0, 0, 0, 0xFFFFFFFF, 0⟩,
  ⟨R.ACQ_DUR, 0x400, 8, 0, 1, 0, 0, 0, 0, 0xFFFFFFFF, 0⟩,
  ⟨R.ACQ_CNT, 0x400, 8, 0, 1, 0, 0, 0, 0, 0xFFFFFFFF, 0⟩,
  ⟨R.ACQ_MIN_0, 0x400, 8, 0x40, 4, 0, 0, 0, 0, 0xFFFFFFFF, 0⟩,
  ⟨R.ACQ_MIN_1, 0x400, 8, 0x40, 4, 0, 0, 0, 0, 0xFFFFFFFF, 0⟩,
  ⟨R.ACQ_MIN_2, 0x400, 8, 0x40, 4, 0, 0, 0, 0, 0xFF, 0⟩,
  ⟨R.ACQ_MAX_0, 0x400, 8, 0x40, 4, 0, 0, 0, 0, 0xFFFFFFFF, 0⟩,
  ⟨R.ACQ_MAX_1, 0x400, 8, 0x40, 4, 0, 0, 0, 0, 0xFFFFFFFF, 0⟩,
  ⟨R.ACQ_MAX_2, 0x400, 8, 0x40, 4, 0, 0, 0, 0, 0xFF, 0⟩,
  ⟨R.ACQ_MEAN_0, 0x400, 8, 0x40, 4, 0, 0, 0, 0, 0xFFFFFFFF, 0⟩,
  ⟨R.ACQ_MEAN_1, 0x400, 8, 0x40, 4, 0, 0, 0, 0, 0xFFFFFFFF, 0⟩,
  ⟨R.ACQ_MEAN_2, 0x400, 8, 0x40, 4, 0, 0, 0, 0, 0xFF, 0⟩,
  ⟨R.ACQ_HS_BASE_0, 0x400, 8, 0, 1, 0xFFFFFFFF, 0, 0, 0, 0xFFFFFFFF, 0⟩,
  ⟨R.ACQ_HS_BASE_1, 0x400, 8, 0, 1, 0xFFFFFFFF, 0, 0, 0, 0xFFFFFFFF, 0⟩,
  ⟨R.ACQ_HS_SIZE, 0x400, 8, 0, 1, 0xFFFFFFF, 0, 0, 0, 0xFFFFFFF, 0⟩,
  ⟨R.ACQ_HS_PTR, 0x400, 8, 0, 1, 0, 0, 0, 0, 0xFFFFFFF, 0⟩,
  ⟨R.ACQ_HS_SEQ, 0x400, 8, 0, 1, 0, 0, 0, 0, 0xFFFFFFFF, 0⟩,
  ⟨R.ACQ_G_STAT, 0, 1, 0, 1, 0, 0, 0, 0, 0x1000000, 0⟩,
  ⟨R.ACQ_G_FLAG, 0, 1, 0, 1, 0, 0, 0xFFFF, 0, 0xFFFF, 0⟩]

/-- Boot and security registers (R685, R686). -/
def regsBoot : List RegDef := [
  ⟨R.BOOT_STAT, 0, 1, 0, 1, 0, 0, 0, 0, 0x1FF3F, 0⟩,
  ⟨R.BOOT_CAUSE, 0, 1, 0, 1, 0, 0, 0x1F, 0, 0x1F, 1⟩,
  ⟨R.BOOT_RST, 0, 1, 0, 1, 0, 0, 0, 0xFFFF0001, 0xFFFF0001, 0⟩,
  ⟨R.BOOT_CFG, 0, 1, 0, 1, 0x103FF, 0x103FF, 0, 0, 0x103FF, 0x64⟩,
  ⟨R.BOOT_NEXT, 0, 1, 0, 1, 3, 0, 0, 0, 3, 0⟩,
  ⟨R.BOOT_SVN, 0, 1, 0, 1, 0, 0, 0, 0, 0xFFFF, 0⟩,
  ⟨R.BOOT_IMG, 0, 1, 0, 1, 0, 0, 0, 0, 0xFFFFFFFF, 0⟩,
  ⟨R.BOOT_KEYS, 0, 1, 0, 1, 0, 0, 0, 0, 0x7FFF, 0⟩,
  ⟨R.BOOT_UID_0, 0, 1, 0, 1, 0, 0, 0, 0, 0xFFFFFFFF, 0⟩,
  ⟨R.BOOT_UID_1, 0, 1, 0, 1, 0, 0, 0, 0, 0xFFFFFFFF, 0⟩,
  ⟨R.BOOT_SEQ, 0, 1, 0, 1, 0, 0, 0, 0, 0xFFFFFFFF, 0⟩,
  ⟨R.BOOT_IDPK, 0, 1, 4, 16, 0, 0, 0, 0, 0xFFFFFFFF, 0⟩,
  ⟨R.BOOT_REC_OFS, 0, 1, 0, 1, 0x1FFFFFF, 0, 0, 0, 0x1FFFFFF, 0⟩,
  ⟨R.BOOT_REC_LEN, 0, 1, 0, 1, 0xFFFF, 0, 0, 0, 0xFFFF, 0⟩,
  ⟨R.BOOT_REC_CMD, 0, 1, 0, 1, 0, 0, 0, 3, 3, 0⟩,
  ⟨R.BOOT_REC_STAT, 0, 1, 0, 1, 0, 0, 0, 0, 3, 0⟩,
  ⟨R.BOOT_REC_WIN, 0, 1, 4, 8192, 0xFFFFFFFF, 0, 0, 0, 0xFFFFFFFF, 0⟩]

end Sys2Proof.Machine
end

