-- ==== Sys2Proof/Machine/RegFields.lean ====
section
/-! DEFINITION. The named fields of the BAR0 registers: one per row of the field tables of spec/ (R87, R88, R136, R167, R213, R246, R295, R297, R299, R340, R397, R436, R466, R492, R533, R582, R625, R651, R686), named REGISTER_FIELD; a value register without a field row is REGISTER_V. -/

namespace Sys2Proof.Machine.F
def TBS_CTL_SRC : Fld := ⟨R.TBS_CTL, 0, 0, 0, 2⟩
def TBS_STAT_PLL_LOCK : Fld := ⟨R.TBS_STAT, 0, 0, 0, 1⟩
def TBS_STAT_PENDING : Fld := ⟨R.TBS_STAT, 0, 0, 1, 1⟩
def TBS_STAT_SLEWING : Fld := ⟨R.TBS_STAT, 0, 0, 2, 1⟩
def TBS_STAT_CYC_RUN : Fld := ⟨R.TBS_STAT, 0, 0, 3, 1⟩
def TBS_FLAG_REF_LOSS : Fld := ⟨R.TBS_FLAG, 0, 0, 0, 1⟩
def TBS_FLAG_APPLIED : Fld := ⟨R.TBS_FLAG, 0, 0, 1, 1⟩
def TBS_FLAG_SLEW_DONE : Fld := ⟨R.TBS_FLAG, 0, 0, 2, 1⟩
def TBS_P_CMD_ARM : Fld := ⟨R.TBS_P_CMD, 0, 0, 0, 1⟩
def TBS_P_CMD_CANCEL : Fld := ⟨R.TBS_P_CMD, 0, 0, 1, 1⟩
def TBS_P_CMD_USE_STEP : Fld := ⟨R.TBS_P_CMD, 0, 0, 4, 1⟩
def TBS_P_CMD_USE_RATE : Fld := ⟨R.TBS_P_CMD, 0, 0, 5, 1⟩
def TBS_P_CMD_USE_SLEW : Fld := ⟨R.TBS_P_CMD, 0, 0, 6, 1⟩
def TBS_CYC_CTL_PERIOD : Fld := ⟨R.TBS_CYC_CTL, 0, 0, 0, 2⟩
def TBS_CYC_CTL_RUN : Fld := ⟨R.TBS_CYC_CTL, 0, 0, 8, 1⟩
def TBS_TRG_CTL_KIND : Fld := ⟨R.TBS_TRG_CTL, 0x20, 0, 0, 3⟩
def TBS_TRG_CTL_TARGET : Fld := ⟨R.TBS_TRG_CTL, 0x20, 0, 4, 4⟩
def TBS_TRG_CTL_EN : Fld := ⟨R.TBS_TRG_CTL, 0x20, 0, 8, 1⟩
def TBS_TRG_STAT_FIRED : Fld := ⟨R.TBS_TRG_STAT, 0x20, 0, 0, 1⟩
def TBS_TRG_STAT_COALESCED : Fld := ⟨R.TBS_TRG_STAT, 0x20, 0, 1, 1⟩
def TBS_TRG_STAT_LATE : Fld := ⟨R.TBS_TRG_STAT, 0x20, 0, 2, 1⟩
def TBS_TRG_STAT_MISSED : Fld := ⟨R.TBS_TRG_STAT, 0x20, 0, 8, 8⟩
def HST_ID_VENDOR : Fld := ⟨R.HST_ID, 0, 0, 0, 16⟩
def HST_ID_DEVICE : Fld := ⟨R.HST_ID, 0, 0, 16, 16⟩
def HST_REV_STEPPING : Fld := ⟨R.HST_REV, 0, 0, 0, 8⟩
def HST_STAT_RUNTIME : Fld := ⟨R.HST_STAT, 0, 0, 0, 1⟩
def HST_STAT_WIDTH : Fld := ⟨R.HST_STAT, 0, 0, 2, 3⟩
def HST_STAT_SPEED : Fld := ⟨R.HST_STAT, 0, 0, 5, 3⟩
def HST_STAT_BME : Fld := ⟨R.HST_STAT, 0, 0, 8, 1⟩
def HST_STAT_HOST_LOSS : Fld := ⟨R.HST_STAT, 0, 0, 9, 1⟩
def HST_STAT_IDLE_POLL : Fld := ⟨R.HST_STAT, 0, 0, 10, 1⟩
def HST_CTL_EN : Fld := ⟨R.HST_CTL, 0, 0, 0, 1⟩
def HST_LOCK_COMMIT : Fld := ⟨R.HST_LOCK, 0, 0, 0, 1⟩
def HST_DB_BASE_ADDR : Fld := ⟨R.HST_DB_BASE_0, 0, 0, 0, 64⟩
def HST_MIR_BASE_ADDR : Fld := ⟨R.HST_MIR_BASE_0, 0, 0, 0, 64⟩
def HST_RIT_BASE_ADDR : Fld := ⟨R.HST_RIT_BASE_0, 0, 0, 0, 64⟩
def HST_DB_DL_DL : Fld := ⟨R.HST_DB_DL, 0, 0, 0, 15⟩
def HST_FETCH_BUDGET : Fld := ⟨R.HST_FETCH, 0, 0, 0, 11⟩
def HST_DB_LIMIT_LIMIT : Fld := ⟨R.HST_DB_LIMIT, 0, 0, 0, 16⟩
def HST_HB_LIMIT_LIMIT : Fld := ⟨R.HST_HB_LIMIT, 0, 0, 0, 16⟩
def HST_LOSS_CTL_ACTION : Fld := ⟨R.HST_LOSS_CTL, 0, 0, 0, 2⟩
def HST_DB_CNT_CONSEC : Fld := ⟨R.HST_DB_CNT, 0, 0, 0, 16⟩
def HST_DB_CNT_TOTAL : Fld := ⟨R.HST_DB_CNT, 0, 0, 16, 16⟩
def HST_ERR_CODE_CODE : Fld := ⟨R.HST_ERR_CODE, 0, 0, 0, 16⟩
def HST_ERR_ADDR_OFFSET : Fld := ⟨R.HST_ERR_ADDR, 0, 0, 0, 24⟩
def HST_ERR_CNT_COUNT : Fld := ⟨R.HST_ERR_CNT, 0, 0, 0, 32⟩
def HST_FAULT_CODE_CODE : Fld := ⟨R.HST_FAULT_CODE, 0, 0, 0, 16⟩
def HST_FAULT_SRC_BLOCK : Fld := ⟨R.HST_FAULT_SRC, 0, 0, 0, 8⟩
def HST_FAULT_SRC_VALUE : Fld := ⟨R.HST_FAULT_SRC, 0, 0, 8, 8⟩
def HST_FAULT_SRC_INST : Fld := ⟨R.HST_FAULT_SRC, 0, 0, 16, 16⟩
def HST_FAULT_CNT_COUNT : Fld := ⟨R.HST_FAULT_CNT, 0, 0, 0, 32⟩
def HST_FAULT_FLAG_ECC_CORR : Fld := ⟨R.HST_FAULT_FLAG, 0, 0, 0, 1⟩
def HST_FAULT_FLAG_ECC_UNC : Fld := ⟨R.HST_FAULT_FLAG, 0, 0, 1, 1⟩
def HST_FAULT_FLAG_PAIR : Fld := ⟨R.HST_FAULT_FLAG, 0, 0, 2, 1⟩
def HST_FAULT_FLAG_HOST_LOSS : Fld := ⟨R.HST_FAULT_FLAG, 0, 0, 3, 1⟩
def HST_FAULT_FLAG_DB_MISS : Fld := ⟨R.HST_FAULT_FLAG, 0, 0, 4, 1⟩
def HST_FAULT_FLAG_RIT_MISS : Fld := ⟨R.HST_FAULT_FLAG, 0, 0, 5, 1⟩
def HST_FAULT_FLAG_REJ : Fld := ⟨R.HST_FAULT_FLAG, 0, 0, 6, 1⟩
def HST_ECC_CORR_LOC_ROW : Fld := ⟨R.HST_ECC_CORR_LOC, 0, 0, 0, 18⟩
def HST_ECC_UNC_LOC_ROW : Fld := ⟨R.HST_ECC_UNC_LOC, 0, 0, 0, 18⟩
def HST_ECC_CORR_LOC_BLOCK : Fld := ⟨R.HST_ECC_CORR_LOC, 0, 0, 18, 4⟩
def HST_ECC_UNC_LOC_BLOCK : Fld := ⟨R.HST_ECC_UNC_LOC, 0, 0, 18, 4⟩
def HST_ECC_CORR_LOC_BYTE : Fld := ⟨R.HST_ECC_CORR_LOC, 0, 0, 22, 5⟩
def HST_ECC_UNC_LOC_BYTE : Fld := ⟨R.HST_ECC_UNC_LOC, 0, 0, 22, 5⟩
def HST_ECC_CORR_LOC_SRC : Fld := ⟨R.HST_ECC_CORR_LOC, 0, 0, 27, 3⟩
def HST_ECC_UNC_LOC_SRC : Fld := ⟨R.HST_ECC_UNC_LOC, 0, 0, 27, 3⟩
def HST_SQ_CFG_SIZE : Fld := ⟨R.HST_SQ_CFG, 0x20, 0, 0, 4⟩
def HST_SQ_CFG_CQ : Fld := ⟨R.HST_SQ_CFG, 0x20, 0, 8, 6⟩
def HST_SQ_CFG_CLASS : Fld := ⟨R.HST_SQ_CFG, 0x20, 0, 16, 2⟩
def HST_SQ_CFG_EN : Fld := ⟨R.HST_SQ_CFG, 0x20, 0, 31, 1⟩
def HST_SQ_STAT_HEAD : Fld := ⟨R.HST_SQ_STAT, 0x20, 0, 0, 12⟩
def HST_SQ_STAT_HALT : Fld := ⟨R.HST_SQ_STAT, 0x20, 0, 16, 1⟩
def HST_SQ_STAT_CAUSE : Fld := ⟨R.HST_SQ_STAT, 0x20, 0, 17, 2⟩
def HST_CQ_CFG_SIZE : Fld := ⟨R.HST_CQ_CFG, 0x20, 0, 0, 4⟩
def HST_EQ_CFG_SIZE : Fld := ⟨R.HST_EQ_CFG, 0x20, 0, 0, 4⟩
def HST_CQ_CFG_VECTOR : Fld := ⟨R.HST_CQ_CFG, 0x20, 0, 8, 6⟩
def HST_EQ_CFG_VECTOR : Fld := ⟨R.HST_EQ_CFG, 0x20, 0, 8, 6⟩
def HST_CQ_CFG_IRQ_EN : Fld := ⟨R.HST_CQ_CFG, 0x20, 0, 16, 1⟩
def HST_EQ_CFG_IRQ_EN : Fld := ⟨R.HST_EQ_CFG, 0x20, 0, 16, 1⟩
def HST_CQ_CFG_EN : Fld := ⟨R.HST_CQ_CFG, 0x20, 0, 31, 1⟩
def HST_EQ_CFG_EN : Fld := ⟨R.HST_EQ_CFG, 0x20, 0, 31, 1⟩
def HST_CQ_STAT_TAIL : Fld := ⟨R.HST_CQ_STAT, 0x20, 0, 0, 12⟩
def HST_EQ_STAT_TAIL : Fld := ⟨R.HST_EQ_STAT, 0x20, 0, 0, 12⟩
def HST_CQ_STAT_PHASE : Fld := ⟨R.HST_CQ_STAT, 0x20, 0, 12, 1⟩
def HST_EQ_STAT_PHASE : Fld := ⟨R.HST_EQ_STAT, 0x20, 0, 12, 1⟩
def HST_CQ_STAT_HALT : Fld := ⟨R.HST_CQ_STAT, 0x20, 0, 16, 1⟩
def HST_EQ_STAT_HALT : Fld := ⟨R.HST_EQ_STAT, 0x20, 0, 16, 1⟩
def HST_EQ_STAT_DROP : Fld := ⟨R.HST_EQ_STAT, 0x20, 0, 17, 15⟩
def HST_CYC_IRQ_VECTOR : Fld := ⟨R.HST_CYC_IRQ, 0, 0, 0, 6⟩
def HST_CYC_IRQ_EN : Fld := ⟨R.HST_CYC_IRQ, 0, 0, 8, 1⟩
def SCH_CTX_CTL_EN : Fld := ⟨R.SCH_CTX_CTL, 0x40, 0, 0, 1⟩
def SCH_CTX_CTL_MODE : Fld := ⟨R.SCH_CTX_CTL, 0x40, 0, 1, 2⟩
def SCH_CTX_CTL_TARGET : Fld := ⟨R.SCH_CTX_CTL, 0x40, 0, 3, 1⟩
def SCH_CTX_CTL_LEVEL : Fld := ⟨R.SCH_CTX_CTL, 0x40, 0, 4, 4⟩
def SCH_CTX_CTL_LANES : Fld := ⟨R.SCH_CTX_CTL, 0x40, 0, 8, 3⟩
def SCH_CTX_CTL_LANE_BASE : Fld := ⟨R.SCH_CTX_CTL, 0x40, 0, 12, 4⟩
def SCH_CTX_CTL_AGE_EN : Fld := ⟨R.SCH_CTX_CTL, 0x40, 0, 16, 1⟩
def SCH_CTX_ENTRY_ENTRY : Fld := ⟨R.SCH_CTX_ENTRY, 0x40, 0, 0, 22⟩
def SCH_CTX_ARG_ARG : Fld := ⟨R.SCH_CTX_ARG, 0x40, 0, 0, 22⟩
def SCH_CTX_DEP_DEP_INIT : Fld := ⟨R.SCH_CTX_DEP, 0x40, 0, 0, 8⟩
def SCH_CTX_SIG_SIG : Fld := ⟨R.SCH_CTX_SIG_0, 0x40, 0, 0, 64⟩
def SCH_CTX_SUCC_SUCC : Fld := ⟨R.SCH_CTX_SUCC_0, 0x40, 0, 0, 128⟩
def SCH_CTX_TIME_DELAY : Fld := ⟨R.SCH_CTX_TIME, 0x40, 0, 0, 16⟩
def SCH_CTX_TIME_PERIOD : Fld := ⟨R.SCH_CTX_TIME, 0x40, 0, 16, 16⟩
def SCH_CTX_WAKE_WAKE : Fld := ⟨R.SCH_CTX_WAKE_0, 0x40, 0, 0, 64⟩
def SCH_CTX_STAT_STATE : Fld := ⟨R.SCH_CTX_STAT, 0x40, 0, 0, 3⟩
def SCH_CTX_STAT_CUR_LEVEL : Fld := ⟨R.SCH_CTX_STAT, 0x40, 0, 4, 4⟩
def SCH_CTX_STAT_DEP_CNT : Fld := ⟨R.SCH_CTX_STAT, 0x40, 0, 8, 8⟩
def SCH_CTX_STAT_LANE_AT : Fld := ⟨R.SCH_CTX_STAT, 0x40, 0, 16, 4⟩
def SCH_CTX_STAT_STOPPING : Fld := ⟨R.SCH_CTX_STAT, 0x40, 0, 20, 1⟩
def SCH_CTX_FLAG_DEP_UNDER : Fld := ⟨R.SCH_CTX_FLAG, 0x40, 0, 0, 1⟩
def SCH_CTX_FLAG_LATE : Fld := ⟨R.SCH_CTX_FLAG, 0x40, 0, 1, 1⟩
def SCH_CTX_FLAG_PREEMPTED : Fld := ⟨R.SCH_CTX_FLAG, 0x40, 0, 2, 1⟩
def SCH_CTX_FLAG_AGED : Fld := ⟨R.SCH_CTX_FLAG, 0x40, 0, 3, 1⟩
def SCH_CTX_FLAG_PERIOD_SKIP : Fld := ⟨R.SCH_CTX_FLAG, 0x40, 0, 4, 1⟩
def SCH_CTX_FLAG_FAULT : Fld := ⟨R.SCH_CTX_FLAG, 0x40, 0, 5, 1⟩
def SCH_CTX_CNT_RUNS : Fld := ⟨R.SCH_CTX_CNT, 0x40, 0, 0, 16⟩
def SCH_CTX_CNT_UNDER : Fld := ⟨R.SCH_CTX_CNT, 0x40, 0, 16, 16⟩
def SCH_CTL_EN : Fld := ⟨R.SCH_CTL, 0, 0, 0, 1⟩
def SCH_CTL_CLR_STAT : Fld := ⟨R.SCH_CTL, 0, 0, 1, 1⟩
def SCH_STAT_LANE_BUSY : Fld := ⟨R.SCH_STAT, 0, 0, 0, 16⟩
def SCH_STAT_SVC_BUSY : Fld := ⟨R.SCH_STAT, 0, 0, 16, 8⟩
def SCH_STAT_READY_CNT : Fld := ⟨R.SCH_STAT, 0, 0, 24, 8⟩
def SCH_REP_CAP_CAP : Fld := ⟨R.SCH_REP_CAP, 0, 0, 0, 13⟩
def SCH_AGE_AGE_T : Fld := ⟨R.SCH_AGE, 0, 0, 0, 12⟩
def SCH_L0_LANES_LANES : Fld := ⟨R.SCH_L0_LANES, 0, 0, 0, 16⟩
def SCH_L0_MAX_MAX : Fld := ⟨R.SCH_L0_MAX, 0, 0, 0, 16⟩
def SCH_FLAG_DEP_UNDER : Fld := ⟨R.SCH_FLAG, 0, 0, 0, 1⟩
def SCH_FLAG_LATE : Fld := ⟨R.SCH_FLAG, 0, 0, 1, 1⟩
def SCH_FLAG_FAULT : Fld := ⟨R.SCH_FLAG, 0, 0, 2, 1⟩
def SCH_FLAG_L0_OVER : Fld := ⟨R.SCH_FLAG, 0, 0, 3, 1⟩
def SCH_TICK_TICK : Fld := ⟨R.SCH_TICK_0, 0, 0, 0, 64⟩
def CEN_CTL_OVF_ACT : Fld := ⟨R.CEN_CTL, 0, 0, 0, 1⟩
def CEN_CTL_GROW_MAX : Fld := ⟨R.CEN_CTL, 0, 0, 4, 4⟩
def CEN_STAT_LAWS : Fld := ⟨R.CEN_STAT, 0, 0, 0, 9⟩
def CEN_FLAG_ACC_OVF : Fld := ⟨R.CEN_FLAG, 0, 0, 0, 1⟩
def CEN_FLAG_STORE_SAT : Fld := ⟨R.CEN_FLAG, 0, 0, 1, 1⟩
def CEN_FLAG_EXP_OVF : Fld := ⟨R.CEN_FLAG, 0, 0, 2, 1⟩
def CEN_FLAG_GS_LATE : Fld := ⟨R.CEN_FLAG, 0, 0, 3, 1⟩
def CEN_FLAG_GS_FAULT : Fld := ⟨R.CEN_FLAG, 0, 0, 4, 1⟩
def CEN_FLAG_OBS_GAP : Fld := ⟨R.CEN_FLAG, 0, 0, 5, 1⟩
def CEN_FLAG_OBS_RESET : Fld := ⟨R.CEN_FLAG, 0, 0, 6, 1⟩
def CEN_FLAG_MEAS_MISS : Fld := ⟨R.CEN_FLAG, 0, 0, 7, 1⟩
def CEN_FLAG_MEAS_STOP : Fld := ⟨R.CEN_FLAG, 0, 0, 8, 1⟩
def CEN_OVF_CNT_ACC : Fld := ⟨R.CEN_OVF_CNT, 0, 0, 0, 16⟩
def CEN_OVF_CNT_STORE : Fld := ⟨R.CEN_OVF_CNT, 0, 0, 16, 16⟩
def CEN_LIB_ENTRY_ENTRY : Fld := ⟨R.CEN_LIB_ENTRY, 0, 0, 0, 22⟩
def CEN_RUN_MAX_CYCLES : Fld := ⟨R.CEN_RUN_MAX, 0, 0, 0, 16⟩
def CEN_RUN_MAX_LAW : Fld := ⟨R.CEN_RUN_MAX, 0, 0, 16, 8⟩
def CEN_LAW_CTL_EN : Fld := ⟨R.CEN_LAW_CTL, 0x100, 0, 0, 1⟩
def CEN_LAW_CTL_KIND : Fld := ⟨R.CEN_LAW_CTL, 0x100, 0, 1, 2⟩
def CEN_LAW_CTL_CI_MODE : Fld := ⟨R.CEN_LAW_CTL, 0x100, 0, 3, 1⟩
def CEN_LAW_CTL_CHAIN : Fld := ⟨R.CEN_LAW_CTL, 0x100, 0, 4, 1⟩
def CEN_LAW_CTL_CTX : Fld := ⟨R.CEN_LAW_CTL, 0x100, 0, 8, 7⟩
def CEN_LAW_CTL_INT_OUT : Fld := ⟨R.CEN_LAW_CTL, 0x100, 0, 16, 8⟩
def CEN_LAW_DIM_N : Fld := ⟨R.CEN_LAW_DIM, 0x100, 0, 0, 4⟩
def CEN_LAW_DIM_M : Fld := ⟨R.CEN_LAW_DIM, 0x100, 0, 4, 3⟩
def CEN_LAW_DIM_Q : Fld := ⟨R.CEN_LAW_DIM, 0x100, 0, 8, 3⟩
def CEN_LAW_DIM_P : Fld := ⟨R.CEN_LAW_DIM, 0x100, 0, 12, 3⟩
def CEN_LAW_DIM_S : Fld := ⟨R.CEN_LAW_DIM, 0x100, 0, 16, 3⟩
def CEN_LAW_GS_VARS : Fld := ⟨R.CEN_LAW_GS, 0x100, 0, 0, 2⟩
def CEN_LAW_GS_SRC1 : Fld := ⟨R.CEN_LAW_GS, 0x100, 0, 2, 3⟩
def CEN_LAW_GS_SRC2 : Fld := ⟨R.CEN_LAW_GS, 0x100, 0, 5, 3⟩
def CEN_LAW_GS_SEL1 : Fld := ⟨R.CEN_LAW_GS, 0x100, 0, 8, 7⟩
def CEN_LAW_GS_SEL2 : Fld := ⟨R.CEN_LAW_GS, 0x100, 0, 16, 7⟩
def CEN_LAW_GS_DIV : Fld := ⟨R.CEN_LAW_GS, 0x100, 0, 24, 7⟩
def CEN_LAW_STAT_SAT : Fld := ⟨R.CEN_LAW_STAT, 0x100, 0, 0, 4⟩
def CEN_LAW_STAT_FREEZE : Fld := ⟨R.CEN_LAW_STAT, 0x100, 0, 4, 4⟩
def CEN_LAW_STAT_ICLAMP : Fld := ⟨R.CEN_LAW_STAT, 0x100, 0, 8, 4⟩
def CEN_LAW_STAT_SEG1 : Fld := ⟨R.CEN_LAW_STAT, 0x100, 0, 12, 3⟩
def CEN_LAW_STAT_SEG2 : Fld := ⟨R.CEN_LAW_STAT, 0x100, 0, 16, 3⟩
def CEN_LAW_STAT_GS_PEND : Fld := ⟨R.CEN_LAW_STAT, 0x100, 0, 21, 1⟩
def CEN_LAW_STAT_GAP : Fld := ⟨R.CEN_LAW_STAT, 0x100, 0, 24, 2⟩
def CEN_LAW_FLAG_SAT : Fld := ⟨R.CEN_LAW_FLAG, 0x100, 0, 0, 1⟩
def CEN_LAW_FLAG_FREEZE : Fld := ⟨R.CEN_LAW_FLAG, 0x100, 0, 1, 1⟩
def CEN_LAW_FLAG_ICLAMP : Fld := ⟨R.CEN_LAW_FLAG, 0x100, 0, 2, 1⟩
def CEN_LAW_FLAG_ACC_OVF : Fld := ⟨R.CEN_LAW_FLAG, 0x100, 0, 3, 1⟩
def CEN_LAW_FLAG_STORE_SAT : Fld := ⟨R.CEN_LAW_FLAG, 0x100, 0, 4, 1⟩
def CEN_LAW_FLAG_EXP_OVF : Fld := ⟨R.CEN_LAW_FLAG, 0x100, 0, 5, 1⟩
def CEN_LAW_FLAG_GS_LATE : Fld := ⟨R.CEN_LAW_FLAG, 0x100, 0, 6, 1⟩
def CEN_LAW_FLAG_GS_OUT : Fld := ⟨R.CEN_LAW_FLAG, 0x100, 0, 7, 1⟩
def CEN_LAW_FLAG_GS_FAULT : Fld := ⟨R.CEN_LAW_FLAG, 0x100, 0, 8, 1⟩
def CEN_LAW_FLAG_OBS_GAP : Fld := ⟨R.CEN_LAW_FLAG, 0x100, 0, 9, 1⟩
def CEN_LAW_FLAG_OBS_RESET : Fld := ⟨R.CEN_LAW_FLAG, 0x100, 0, 10, 1⟩
def CEN_LAW_FLAG_MEAS_MISS : Fld := ⟨R.CEN_LAW_FLAG, 0x100, 0, 11, 1⟩
def CEN_LAW_FLAG_LATE : Fld := ⟨R.CEN_LAW_FLAG, 0x100, 0, 12, 1⟩
def CEN_LAW_CNT_RUNS : Fld := ⟨R.CEN_LAW_CNT, 0x100, 0, 0, 16⟩
def CEN_LAW_CNT_LATE : Fld := ⟨R.CEN_LAW_CNT, 0x100, 0, 16, 16⟩
def CEN_LAW_RUNT_LAST : Fld := ⟨R.CEN_LAW_RUNT, 0x100, 0, 0, 16⟩
def CEN_LAW_RUNT_MAX : Fld := ⟨R.CEN_LAW_RUNT, 0x100, 0, 16, 16⟩
def CEN_PROG_BASE_BASE : Fld := ⟨R.CEN_PROG_BASE, 0x10, 0, 0, 22⟩
def CEN_PROG_LEN_LEN : Fld := ⟨R.CEN_PROG_LEN, 0x10, 0, 0, 14⟩
def CEN_PROG_CHK_CRC : Fld := ⟨R.CEN_PROG_CHK, 0x10, 0, 0, 32⟩
def CEN_PROG_STAT_VALID : Fld := ⟨R.CEN_PROG_STAT, 0x10, 0, 0, 1⟩
def CEN_PROG_STAT_LIB : Fld := ⟨R.CEN_PROG_STAT, 0x10, 0, 1, 1⟩
def CEN_PROG_STAT_REFS : Fld := ⟨R.CEN_PROG_STAT, 0x10, 0, 8, 8⟩
def CEN_CTX_DPF_FOLD : Fld := ⟨R.CEN_CTX_DPF, 4, 0, 0, 1⟩
def CEN_CTX_DPF_LOOP_NC : Fld := ⟨R.CEN_CTX_DPF, 4, 0, 1, 1⟩
def CEN_CTX_DPF_INV : Fld := ⟨R.CEN_CTX_DPF, 4, 0, 2, 1⟩
def CEN_CTX_DPF_POISON : Fld := ⟨R.CEN_CTX_DPF, 4, 0, 3, 1⟩
def CEN_DP_FLAG_FOLD : Fld := ⟨R.CEN_DP_FLAG, 0, 0, 0, 1⟩
def CEN_DP_FLAG_LOOP_NC : Fld := ⟨R.CEN_DP_FLAG, 0, 0, 1, 1⟩
def CEN_DP_FLAG_INV : Fld := ⟨R.CEN_DP_FLAG, 0, 0, 2, 1⟩
def CEN_DP_FLAG_POISON : Fld := ⟨R.CEN_DP_FLAG, 0, 0, 3, 1⟩
def CEN_DP_FLAG_EXC : Fld := ⟨R.CEN_DP_FLAG, 0, 0, 4, 1⟩
def CEN_EXC_LAST_CTX : Fld := ⟨R.CEN_EXC_LAST, 0, 0, 0, 7⟩
def CEN_EXC_LAST_NUM : Fld := ⟨R.CEN_EXC_LAST, 0, 0, 8, 8⟩
def CEN_EXC_PC_PC : Fld := ⟨R.CEN_EXC_PC, 0, 0, 0, 22⟩
def CEN_VER_ERR_WORD : Fld := ⟨R.CEN_VER_ERR, 0, 0, 0, 22⟩
def CEN_VER_ERR_RULE : Fld := ⟨R.CEN_VER_ERR, 0, 0, 24, 4⟩
def TRJ_CTL_DIV : Fld := ⟨R.TRJ_CTL, 0x100, 0, 0, 2⟩
def TRJ_CTL_PSI : Fld := ⟨R.TRJ_CTL, 0x100, 0, 4, 2⟩
def TRJ_STAT_STATE : Fld := ⟨R.TRJ_STAT, 0x100, 0, 0, 3⟩
def TRJ_STAT_PAUSE : Fld := ⟨R.TRJ_STAT, 0x100, 0, 8, 1⟩
def TRJ_STAT_LIMIT : Fld := ⟨R.TRJ_STAT, 0x100, 0, 9, 1⟩
def TRJ_STAT_SOFT : Fld := ⟨R.TRJ_STAT, 0x100, 0, 10, 1⟩
def TRJ_STAT_STARVE : Fld := ⟨R.TRJ_STAT, 0x100, 0, 11, 1⟩
def TRJ_STAT_LFAULT : Fld := ⟨R.TRJ_STAT, 0x100, 0, 12, 1⟩
def TRJ_STAT_FORCED : Fld := ⟨R.TRJ_STAT, 0x100, 0, 16, 1⟩
def TRJ_FLAG_FORCED : Fld := ⟨R.TRJ_FLAG, 0x100, 0, 0, 1⟩
def TRJ_FLAG_L_ZERO : Fld := ⟨R.TRJ_FLAG, 0x100, 0, 1, 1⟩
def TRJ_FLAG_LIMIT_TRIP : Fld := ⟨R.TRJ_FLAG, 0x100, 0, 2, 1⟩
def TRJ_FLAG_SOFT_CLAMP : Fld := ⟨R.TRJ_FLAG, 0x100, 0, 3, 1⟩
def TRJ_FLAG_UNDERRUN : Fld := ⟨R.TRJ_FLAG, 0x100, 0, 4, 1⟩
def TRJ_FLAG_PAIR : Fld := ⟨R.TRJ_FLAG, 0x100, 0, 5, 1⟩
def TRJ_FLAG_LATE : Fld := ⟨R.TRJ_FLAG, 0x100, 0, 6, 1⟩
def TRJ_FLAG_CMD_LOST : Fld := ⟨R.TRJ_FLAG, 0x100, 0, 7, 1⟩
def TRJ_OVR_OVR : Fld := ⟨R.TRJ_OVR, 0x100, 0, 0, 24⟩
def TRJ_SRATE_RATE : Fld := ⟨R.TRJ_SRATE, 0x100, 0, 0, 16⟩
def TRJ_SJERK_JERK : Fld := ⟨R.TRJ_SJERK, 0x100, 0, 0, 16⟩
def TRJ_RSAFE_RSAFE : Fld := ⟨R.TRJ_RSAFE, 0x100, 0, 0, 16⟩
def TRJ_RSAFE_RSAFE_C : Fld := ⟨R.TRJ_RSAFE, 0x100, 0, 16, 16⟩
def TRJ_ARM_CTL_EN : Fld := ⟨R.TRJ_ARM_CTL, 0x40, 0, 0, 1⟩
def TRJ_ARM_CTL_GROUP : Fld := ⟨R.TRJ_ARM_CTL, 0x40, 0, 4, 3⟩
def TRJ_ARM_CTL_NJ : Fld := ⟨R.TRJ_ARM_CTL, 0x40, 0, 8, 4⟩
def TRJ_ARM_STAT_MOVING : Fld := ⟨R.TRJ_ARM_STAT, 0x40, 0, 0, 1⟩
def TRJ_ARM_STAT_COORD : Fld := ⟨R.TRJ_ARM_STAT, 0x40, 0, 1, 1⟩
def TRJ_CMP_CTL_ARM : Fld := ⟨R.TRJ_CMP_CTL, 0x40, 0, 0, 1⟩
def TRJ_CMP_CTL_SRC : Fld := ⟨R.TRJ_CMP_CTL, 0x40, 0, 1, 1⟩
def TRJ_CMP_CTL_INST : Fld := ⟨R.TRJ_CMP_CTL, 0x40, 0, 8, 7⟩
def TRJ_CMP_CTL_DIR : Fld := ⟨R.TRJ_CMP_CTL, 0x40, 0, 16, 2⟩
def TRJ_CMP_CTL_OUT : Fld := ⟨R.TRJ_CMP_CTL, 0x40, 0, 20, 4⟩
def TRJ_CMP_CTL_OUT_EN : Fld := ⟨R.TRJ_CMP_CTL, 0x40, 0, 24, 1⟩
def TRJ_CMP_CTL_POL : Fld := ⟨R.TRJ_CMP_CTL, 0x40, 0, 25, 1⟩
def TRJ_CMP_WIDTH_WIDTH : Fld := ⟨R.TRJ_CMP_WIDTH, 0x40, 0, 0, 20⟩
def TRJ_CMP_CNT_COUNT : Fld := ⟨R.TRJ_CMP_CNT, 0x40, 0, 0, 16⟩
def TRJ_CMP_STAT_FIRED : Fld := ⟨R.TRJ_CMP_STAT, 0x40, 0, 0, 1⟩
def TRJ_CMP_STAT_BEHIND : Fld := ⟨R.TRJ_CMP_STAT, 0x40, 0, 1, 1⟩
def TRJ_CMP_STAT_LATE : Fld := ⟨R.TRJ_CMP_STAT, 0x40, 0, 2, 1⟩
def TRJ_CMP_STAT_ARMED : Fld := ⟨R.TRJ_CMP_STAT, 0x40, 0, 8, 1⟩
def TRJ_CMP_STAT_FIRES : Fld := ⟨R.TRJ_CMP_STAT, 0x40, 0, 16, 16⟩
def AX_CTL_EN : Fld := ⟨R.AX_CTL, 0x400, 0, 0, 1⟩
def AX_CTL_LOCAL : Fld := ⟨R.AX_CTL, 0x400, 0, 1, 1⟩
def AX_CTL_PWMSET : Fld := ⟨R.AX_CTL, 0x400, 0, 4, 5⟩
def AX_CTL_BRANCH : Fld := ⟨R.AX_CTL, 0x400, 0, 12, 3⟩
def AX_CTL_NODE : Fld := ⟨R.AX_CTL, 0x400, 0, 16, 4⟩
def AX_CTL_PSRC : Fld := ⟨R.AX_CTL, 0x400, 0, 20, 1⟩
def AX_CTL_PCHAN : Fld := ⟨R.AX_CTL, 0x400, 0, 24, 5⟩
def AX_STAT_MODE : Fld := ⟨R.AX_STAT, 0x400, 0, 0, 3⟩
def AX_STAT_HOMED : Fld := ⟨R.AX_STAT, 0x400, 0, 4, 1⟩
def AX_STAT_LIM_P : Fld := ⟨R.AX_STAT, 0x400, 0, 5, 1⟩
def AX_STAT_LIM_N : Fld := ⟨R.AX_STAT, 0x400, 0, 6, 1⟩
def AX_STAT_HOME_IN : Fld := ⟨R.AX_STAT, 0x400, 0, 7, 1⟩
def AX_STAT_POWER : Fld := ⟨R.AX_STAT, 0x400, 0, 8, 1⟩
def AX_STAT_KNOT_HEAD : Fld := ⟨R.AX_STAT, 0x400, 0, 16, 8⟩
def AX_STAT_KNOT_USED : Fld := ⟨R.AX_STAT, 0x400, 0, 24, 8⟩
def AX_FLAG_LATE : Fld := ⟨R.AX_FLAG, 0x400, 0, 0, 1⟩
def AX_FLAG_REPLACED : Fld := ⟨R.AX_FLAG, 0x400, 0, 1, 1⟩
def AX_FLAG_LIMIT_TRIP : Fld := ⟨R.AX_FLAG, 0x400, 0, 2, 1⟩
def AX_FLAG_HOME_FAIL : Fld := ⟨R.AX_FLAG, 0x400, 0, 3, 1⟩
def AX_FLAG_SOFT_CLAMP : Fld := ⟨R.AX_FLAG, 0x400, 0, 4, 1⟩
def AX_FLAG_SOFT_STOP : Fld := ⟨R.AX_FLAG, 0x400, 0, 5, 1⟩
def AX_FLAG_UNDERRUN : Fld := ⟨R.AX_FLAG, 0x400, 0, 6, 1⟩
def AX_FLAG_FRAME_SHIFT : Fld := ⟨R.AX_FLAG, 0x400, 0, 7, 1⟩
def AX_FLAG_MOVE_DONE : Fld := ⟨R.AX_FLAG, 0x400, 0, 8, 1⟩
def AX_MISS_MISS : Fld := ⟨R.AX_MISS, 0x400, 0, 0, 1⟩
def AX_MISS_COUNT : Fld := ⟨R.AX_MISS, 0x400, 0, 8, 2⟩
def AX_IN_SEL_POL : Fld := ⟨R.AX_IN_SEL, 0x400, 0, 24, 3⟩
def AX_IN_FILT_FILT : Fld := ⟨R.AX_IN_FILT, 0x400, 0, 0, 10⟩
def AUX_CTL_EN : Fld := ⟨R.AUX_CTL, 0x200, 0, 0, 1⟩
def AUX_CTL_OUT : Fld := ⟨R.AUX_CTL, 0x200, 0, 1, 1⟩
def AUX_CTL_BASE : Fld := ⟨R.AUX_CTL, 0x200, 0, 4, 7⟩
def AUX_CTL_BRANCH : Fld := ⟨R.AUX_CTL, 0x200, 0, 12, 3⟩
def AUX_CTL_NODE : Fld := ⟨R.AUX_CTL, 0x200, 0, 16, 4⟩
def AUX_CTL_ATT : Fld := ⟨R.AUX_CTL, 0x200, 0, 20, 1⟩
def AUX_CTL_GRP : Fld := ⟨R.AUX_CTL, 0x200, 0, 21, 3⟩
def AUX_CTL_MICRO : Fld := ⟨R.AUX_CTL, 0x200, 0, 24, 8⟩
def AUX_STAT_MODE : Fld := ⟨R.AUX_STAT, 0x200, 0, 0, 2⟩
def AUX_STAT_REDUCED : Fld := ⟨R.AUX_STAT, 0x200, 0, 2, 1⟩
def AUX_STAT_SAT : Fld := ⟨R.AUX_STAT, 0x200, 0, 3, 1⟩
def AUX_FLAG_MOVE_DONE : Fld := ⟨R.AUX_FLAG, 0x200, 0, 0, 1⟩
def AUX_FLAG_SAT : Fld := ⟨R.AUX_FLAG, 0x200, 0, 1, 1⟩
def AUX_FLAG_REDUCED : Fld := ⟨R.AUX_FLAG, 0x200, 0, 2, 1⟩
def AUX_FLAG_REPLACED : Fld := ⟨R.AUX_FLAG, 0x200, 0, 3, 1⟩
def AUX_VOLT_VA : Fld := ⟨R.AUX_VOLT, 0x200, 0, 0, 16⟩
def AUX_VOLT_VB : Fld := ⟨R.AUX_VOLT, 0x200, 0, 16, 16⟩
def AUX_CUR_I : Fld := ⟨R.AUX_CUR, 0x200, 0, 0, 16⟩
def SEP_CTL_EN : Fld := ⟨R.SEP_CTL, 0, 0, 0, 1⟩
def SEP_CTL_SCYC : Fld := ⟨R.SEP_CTL, 0, 0, 1, 1⟩
def SEP_CTL_NOREF : Fld := ⟨R.SEP_CTL, 0, 0, 2, 1⟩
def SEP_CTL_EXP_EN : Fld := ⟨R.SEP_CTL, 0, 0, 3, 1⟩
def SEP_CTL_CAPONLY : Fld := ⟨R.SEP_CTL, 0, 0, 4, 1⟩
def SEP_STAT_RUN : Fld := ⟨R.SEP_STAT, 0, 0, 0, 1⟩
def SEP_STAT_SHED : Fld := ⟨R.SEP_STAT, 0, 0, 1, 1⟩
def SEP_STAT_SHED_TH : Fld := ⟨R.SEP_STAT, 0, 0, 2, 1⟩
def SEP_STAT_ZERO : Fld := ⟨R.SEP_STAT, 0, 0, 8, 8⟩
def SEP_FLAG_LATE : Fld := ⟨R.SEP_FLAG, 0, 0, 0, 1⟩
def SEP_FLAG_VETO_SP : Fld := ⟨R.SEP_FLAG, 0, 0, 1, 1⟩
def SEP_FLAG_VETO_FELT : Fld := ⟨R.SEP_FLAG, 0, 0, 2, 1⟩
def SEP_FLAG_DROP : Fld := ⟨R.SEP_FLAG, 0, 0, 3, 1⟩
def SEP_FLAG_DROP_STOP : Fld := ⟨R.SEP_FLAG, 0, 0, 4, 1⟩
def SEP_FLAG_CONTACT : Fld := ⟨R.SEP_FLAG, 0, 0, 5, 1⟩
def SEP_FLAG_TABLE : Fld := ⟨R.SEP_FLAG, 0, 0, 6, 1⟩
def SEP_FLAG_INPUT : Fld := ⟨R.SEP_FLAG, 0, 0, 7, 1⟩
def SEP_FLAG_FRAME_BAD : Fld := ⟨R.SEP_FLAG, 0, 0, 8, 1⟩
def SEP_HO_HO : Fld := ⟨R.SEP_HO, 0, 0, 0, 10⟩
def SEP_VH_VH : Fld := ⟨R.SEP_VH, 0, 0, 0, 16⟩
def SEP_VH_VH_C : Fld := ⟨R.SEP_VH, 0, 0, 16, 16⟩
def SEP_EXPORT_STREAM : Fld := ⟨R.SEP_EXPORT, 0, 0, 0, 8⟩
def SEP_EXPORT_EXPORT_ID : Fld := ⟨R.SEP_EXPORT, 0, 0, 8, 16⟩
def SEP_EXP_CONN_CONN : Fld := ⟨R.SEP_EXP_CONN, 0, 0, 0, 32⟩
def SEP_BUDGET_CYCLES : Fld := ⟨R.SEP_BUDGET, 0, 0, 0, 32⟩
def SEP_RUNT_LAST : Fld := ⟨R.SEP_RUNT, 0, 0, 0, 16⟩
def SEP_RUNT_MAX : Fld := ⟨R.SEP_RUNT, 0, 0, 16, 16⟩
def SEP_G_CAP_CAP : Fld := ⟨R.SEP_G_CAP, 0x20, 0, 0, 16⟩
def SEP_G_CAP_CAP_C : Fld := ⟨R.SEP_G_CAP, 0x20, 0, 16, 16⟩
def SEP_G_L_L : Fld := ⟨R.SEP_G_L, 0x20, 0, 0, 24⟩
def SEP_G_STAT_ACC_SP : Fld := ⟨R.SEP_G_STAT, 0x20, 0, 0, 1⟩
def SEP_G_STAT_ACC_FELT : Fld := ⟨R.SEP_G_STAT, 0x20, 0, 1, 1⟩
def SEP_G_STAT_LATE : Fld := ⟨R.SEP_G_STAT, 0x20, 0, 2, 1⟩
def SEP_G_STAT_CAUSE : Fld := ⟨R.SEP_G_STAT, 0x20, 0, 4, 3⟩
def SEP_G_STAT_ARM : Fld := ⟨R.SEP_G_STAT, 0x20, 0, 8, 4⟩
def SEP_G_OBS_OBS : Fld := ⟨R.SEP_G_OBS, 0x20, 0, 0, 10⟩
def SEP_A_OBS_OBS : Fld := ⟨R.SEP_A_OBS, 0x10, 0, 0, 10⟩
def SEP_G_OBS_CAPS : Fld := ⟨R.SEP_G_OBS, 0x20, 0, 16, 8⟩
def SEP_A_OBS_CAPS : Fld := ⟨R.SEP_A_OBS, 0x10, 0, 16, 8⟩
def SEP_G_D_D : Fld := ⟨R.SEP_G_D, 0x20, 0, 0, 32⟩
def SEP_A_D_D : Fld := ⟨R.SEP_A_D, 0x10, 0, 0, 32⟩
def SEP_A_L_L : Fld := ⟨R.SEP_A_L, 0x10, 0, 0, 24⟩
def SEP_S_STAT_STATE : Fld := ⟨R.SEP_S_STAT, 0x20, 0, 0, 2⟩
def SEP_S_STAT_LATE_RUN : Fld := ⟨R.SEP_S_STAT, 0x20, 0, 8, 8⟩
def SEP_S_STAT_COUNT : Fld := ⟨R.SEP_S_STAT, 0x20, 0, 16, 11⟩
def SEP_S_AGE_AGE : Fld := ⟨R.SEP_S_AGE, 0x20, 0, 0, 32⟩
def SEP_S_SEQ_SEQ : Fld := ⟨R.SEP_S_SEQ, 0x20, 0, 0, 32⟩
def SEP_S_GOOD_GOOD : Fld := ⟨R.SEP_S_GOOD, 0x20, 0, 0, 32⟩
def SEP_S_BAD_DISC : Fld := ⟨R.SEP_S_BAD, 0x20, 0, 0, 16⟩
def SEP_S_BAD_GAP : Fld := ⟨R.SEP_S_BAD, 0x20, 0, 16, 16⟩
def SEP_S_FLAG_CODE : Fld := ⟨R.SEP_S_FLAG, 0x20, 0, 0, 1⟩
def SEP_S_FLAG_ID : Fld := ⟨R.SEP_S_FLAG, 0x20, 0, 1, 1⟩
def SEP_S_FLAG_SEQ : Fld := ⟨R.SEP_S_FLAG, 0x20, 0, 2, 1⟩
def SEP_S_FLAG_TIME : Fld := ⟨R.SEP_S_FLAG, 0x20, 0, 3, 1⟩
def SEP_S_FLAG_COUNT : Fld := ⟨R.SEP_S_FLAG, 0x20, 0, 4, 1⟩
def SEP_S_FLAG_GAP : Fld := ⟨R.SEP_S_FLAG, 0x20, 0, 5, 1⟩
def SEP_S_FLAG_FULL : Fld := ⟨R.SEP_S_FLAG, 0x20, 0, 6, 1⟩
def SEP_S_FLAG_DEGRADED : Fld := ⟨R.SEP_S_FLAG, 0x20, 0, 7, 1⟩
def SAF_STATE_STATE : Fld := ⟨R.SAF_STATE, 0, 0, 0, 4⟩
def SAF_STATE_CONF_PEND : Fld := ⟨R.SAF_STATE, 0, 0, 4, 1⟩
def SAF_STATE_CHK_VALID : Fld := ⟨R.SAF_STATE, 0, 0, 5, 1⟩
def SAF_CHK_CHK : Fld := ⟨R.SAF_CHK, 0, 0, 0, 32⟩
def SAF_CHK_CONF_CHK : Fld := ⟨R.SAF_CHK_CONF, 0, 0, 0, 32⟩
def SAF_CHK_C_CHK_C : Fld := ⟨R.SAF_CHK_C, 0, 0, 0, 32⟩
def SAF_FLAG_STOP : Fld := ⟨R.SAF_FLAG, 0, 0, 0, 1⟩
def SAF_FLAG_DISC : Fld := ⟨R.SAF_FLAG, 0, 0, 1, 1⟩
def SAF_FLAG_BCH : Fld := ⟨R.SAF_FLAG, 0, 0, 2, 1⟩
def SAF_FLAG_EDM : Fld := ⟨R.SAF_FLAG, 0, 0, 3, 1⟩
def SAF_FLAG_TIMEOUT : Fld := ⟨R.SAF_FLAG, 0, 0, 4, 1⟩
def SAF_FLAG_RESET_STUCK : Fld := ⟨R.SAF_FLAG, 0, 0, 5, 1⟩
def SAF_FLAG_VETO : Fld := ⟨R.SAF_FLAG, 0, 0, 6, 1⟩
def SAF_FAULT_REASON : Fld := ⟨R.SAF_FAULT, 0, 0, 0, 8⟩
def SAF_FAULT_CH : Fld := ⟨R.SAF_FAULT, 0, 0, 8, 1⟩
def SAF_IN_STAT_DISC : Fld := ⟨R.SAF_IN_STAT, 0, 0, 0, 16⟩
def SAF_IN_STAT_PEND : Fld := ⟨R.SAF_IN_STAT, 0, 0, 16, 16⟩
def SAF_OUT_ON : Fld := ⟨R.SAF_OUT, 0, 0, 0, 8⟩
def SAF_OUT_EDM_F : Fld := ⟨R.SAF_OUT, 0, 0, 8, 8⟩
def SAF_OUT_FB : Fld := ⟨R.SAF_OUT, 0, 0, 16, 8⟩
def SAF_VER_SP : Fld := ⟨R.SAF_VER, 0, 0, 0, 16⟩
def SAF_VER_FELT : Fld := ⟨R.SAF_VER, 0, 0, 16, 16⟩
def SAF_G_STAT_STATE : Fld := ⟨R.SAF_G_STAT, 0x10, 0, 0, 3⟩
def SAF_G_STAT_ACC_SP : Fld := ⟨R.SAF_G_STAT, 0x10, 0, 8, 1⟩
def SAF_G_STAT_ACC_FELT : Fld := ⟨R.SAF_G_STAT, 0x10, 0, 9, 1⟩
def SAF_G_CAUSE_START : Fld := ⟨R.SAF_G_CAUSE, 0x10, 0, 0, 1⟩
def SAF_G_CAUSE_ESTOP : Fld := ⟨R.SAF_G_CAUSE, 0x10, 0, 1, 1⟩
def SAF_G_CAUSE_GUARD : Fld := ⟨R.SAF_G_CAUSE, 0x10, 0, 2, 1⟩
def SAF_G_CAUSE_HOST : Fld := ⟨R.SAF_G_CAUSE, 0x10, 0, 3, 1⟩
def SAF_G_CAUSE_CSTOP : Fld := ⟨R.SAF_G_CAUSE, 0x10, 0, 4, 1⟩
def SAF_G_CAUSE_SLS : Fld := ⟨R.SAF_G_CAUSE, 0x10, 0, 5, 1⟩
def SAF_G_CAUSE_SLP : Fld := ⟨R.SAF_G_CAUSE, 0x10, 0, 6, 1⟩
def SAF_G_CAUSE_SOS : Fld := ⟨R.SAF_G_CAUSE, 0x10, 0, 7, 1⟩
def SAF_G_CAUSE_ZONE : Fld := ⟨R.SAF_G_CAUSE, 0x10, 0, 8, 1⟩
def SAF_G_CAUSE_ENV : Fld := ⟨R.SAF_G_CAUSE, 0x10, 0, 9, 1⟩
def SAF_G_CAUSE_BCH : Fld := ⟨R.SAF_G_CAUSE, 0x10, 0, 10, 1⟩
def SAF_G_CAUSE_POS : Fld := ⟨R.SAF_G_CAUSE, 0x10, 0, 11, 1⟩
def SAF_G_CAUSE_PAIR : Fld := ⟨R.SAF_G_CAUSE, 0x10, 0, 12, 1⟩
def SAF_G_CAUSE_DATA : Fld := ⟨R.SAF_G_CAUSE, 0x10, 0, 13, 1⟩
def SAF_G_CAUSE_TMAX : Fld := ⟨R.SAF_G_CAUSE, 0x10, 0, 14, 1⟩
def SAF_AX_STAT_STO : Fld := ⟨R.SAF_AX_STAT, 0x10, 0, 0, 1⟩
def SAF_AX_STAT_SOS : Fld := ⟨R.SAF_AX_STAT, 0x10, 0, 1, 1⟩
def SAF_AX_STAT_SLS : Fld := ⟨R.SAF_AX_STAT, 0x10, 0, 2, 1⟩
def SAF_AX_STAT_WD_CNT : Fld := ⟨R.SAF_AX_STAT, 0x10, 0, 8, 8⟩
def SAF_AX_BCH_BAD : Fld := ⟨R.SAF_AX_BCH, 0x10, 0, 0, 16⟩
def SAF_AX_BCH_POS : Fld := ⟨R.SAF_AX_BCH, 0x10, 0, 16, 16⟩
def FBK_CTL_EN : Fld := ⟨R.FBK_CTL, 0x100, 0, 0, 1⟩
def FBK_CTL_CLR_FAULT : Fld := ⟨R.FBK_CTL, 0x100, 0, 1, 1⟩
def FBK_CFG_MODE : Fld := ⟨R.FBK_CFG, 0x100, 0, 0, 2⟩
def FBK_CFG_DIR : Fld := ⟨R.FBK_CFG, 0x100, 0, 2, 1⟩
def FBK_CFG_FILT : Fld := ⟨R.FBK_CFG, 0x100, 0, 4, 4⟩
def FBK_CFG_SPDM : Fld := ⟨R.FBK_CFG, 0x100, 0, 8, 1⟩
def FBK_CFG_EXTRAP : Fld := ⟨R.FBK_CFG, 0x100, 0, 9, 1⟩
def FBK_CFG_IDX_GATE : Fld := ⟨R.FBK_CFG, 0x100, 0, 10, 1⟩
def FBK_CFG_IDX_POL : Fld := ⟨R.FBK_CFG, 0x100, 0, 11, 1⟩
def FBK_CFG_ERR_LIM : Fld := ⟨R.FBK_CFG, 0x100, 0, 16, 4⟩
def FBK_CFG_ERR_WIN : Fld := ⟨R.FBK_CFG, 0x100, 0, 20, 12⟩
def FBK_SPDCFG_WIN : Fld := ⟨R.FBK_SPDCFG, 0x100, 0, 0, 7⟩
def FBK_SPDCFG_EDGES : Fld := ⟨R.FBK_SPDCFG, 0x100, 0, 8, 4⟩
def FBK_SPDCFG_STILL : Fld := ⟨R.FBK_SPDCFG, 0x100, 0, 16, 16⟩
def FBK_SSI_LEN : Fld := ⟨R.FBK_SSI, 0x100, 0, 0, 6⟩
def FBK_SSI_STAT : Fld := ⟨R.FBK_SSI, 0x100, 0, 6, 2⟩
def FBK_SSI_PAR : Fld := ⟨R.FBK_SSI, 0x100, 0, 8, 2⟩
def FBK_SSI_GRAY : Fld := ⟨R.FBK_SSI, 0x100, 0, 10, 1⟩
def FBK_SSI_ERR_BIT : Fld := ⟨R.FBK_SSI, 0x100, 0, 11, 2⟩
def FBK_SSI_ERR_HI : Fld := ⟨R.FBK_SSI, 0x100, 0, 13, 1⟩
def FBK_SSI_SIGNED : Fld := ⟨R.FBK_SSI, 0x100, 0, 14, 1⟩
def FBK_SSI_JUMP : Fld := ⟨R.FBK_SSI, 0x100, 0, 16, 6⟩
def FBK_SSI_T_DIV : Fld := ⟨R.FBK_SSI_T, 0x100, 0, 0, 10⟩
def FBK_SSI_T_DLY : Fld := ⟨R.FBK_SSI_T, 0x100, 0, 10, 6⟩
def FBK_SSI_T_TM : Fld := ⟨R.FBK_SSI_T, 0x100, 0, 16, 7⟩
def FBK_STAT_A : Fld := ⟨R.FBK_STAT, 0x100, 0, 0, 1⟩
def FBK_STAT_B : Fld := ⟨R.FBK_STAT, 0x100, 0, 1, 1⟩
def FBK_STAT_Z : Fld := ⟨R.FBK_STAT, 0x100, 0, 2, 1⟩
def FBK_STAT_VALID : Fld := ⟨R.FBK_STAT, 0x100, 0, 3, 1⟩
def FBK_STAT_FAULT : Fld := ⟨R.FBK_STAT, 0x100, 0, 4, 1⟩
def FBK_STAT_LOSS : Fld := ⟨R.FBK_STAT, 0x100, 0, 5, 1⟩
def FBK_STAT_STILL : Fld := ⟨R.FBK_STAT, 0x100, 0, 6, 1⟩
def FBK_STAT_HALL : Fld := ⟨R.FBK_STAT, 0x100, 0, 8, 3⟩
def FBK_STAT_WINCNT : Fld := ⟨R.FBK_STAT, 0x100, 0, 12, 4⟩
def FBK_FLAG_DBL : Fld := ⟨R.FBK_FLAG, 0x100, 0, 0, 1⟩
def FBK_FLAG_HALL_STATE : Fld := ⟨R.FBK_FLAG, 0x100, 0, 1, 1⟩
def FBK_FLAG_HALL_STEP : Fld := ⟨R.FBK_FLAG, 0x100, 0, 2, 1⟩
def FBK_FLAG_SSI_FRAME : Fld := ⟨R.FBK_FLAG, 0x100, 0, 3, 1⟩
def FBK_FLAG_SSI_PAR : Fld := ⟨R.FBK_FLAG, 0x100, 0, 4, 1⟩
def FBK_FLAG_SSI_ERR : Fld := ⟨R.FBK_FLAG, 0x100, 0, 5, 1⟩
def FBK_FLAG_JUMP : Fld := ⟨R.FBK_FLAG, 0x100, 0, 6, 1⟩
def FBK_FLAG_LOSS : Fld := ⟨R.FBK_FLAG, 0x100, 0, 7, 1⟩
def FBK_FLAG_FAULT : Fld := ⟨R.FBK_FLAG, 0x100, 0, 8, 1⟩
def FBK_FLAG_IDX : Fld := ⟨R.FBK_FLAG, 0x100, 0, 9, 1⟩
def FBK_ERR_CNT_DEC : Fld := ⟨R.FBK_ERR_CNT, 0x100, 0, 0, 16⟩
def FBK_ERR_CNT_FAULTS : Fld := ⟨R.FBK_ERR_CNT, 0x100, 0, 16, 16⟩
def FBK_IDX_CNT_IDX : Fld := ⟨R.FBK_IDX_CNT, 0x100, 0, 0, 32⟩
def FBK_SSI_RAW_RAW : Fld := ⟨R.FBK_SSI_RAW_0, 0x100, 0, 0, 52⟩
def FBK_EN_MAP_MAP : Fld := ⟨R.FBK_EN_MAP, 0, 0, 0, 32⟩
def FBK_FAULT_MAP_MAP : Fld := ⟨R.FBK_FAULT_MAP, 0, 0, 0, 32⟩
def FBK_LOSS_MAP_MAP : Fld := ⟨R.FBK_LOSS_MAP, 0, 0, 0, 32⟩
def PWM_CTL_EN : Fld := ⟨R.PWM_CTL, 0x80, 0, 0, 1⟩
def PWM_CFG_MODE : Fld := ⟨R.PWM_CFG, 0x80, 0, 0, 1⟩
def PWM_CFG_SYNC : Fld := ⟨R.PWM_CFG, 0x80, 0, 1, 1⟩
def PWM_CFG_POL_H : Fld := ⟨R.PWM_CFG, 0x80, 0, 2, 1⟩
def PWM_CFG_POL_L : Fld := ⟨R.PWM_CFG, 0x80, 0, 3, 1⟩
def PWM_CFG_TGRP : Fld := ⟨R.PWM_CFG, 0x80, 0, 8, 4⟩
def PWM_CFG_TSTATE : Fld := ⟨R.PWM_CFG, 0x80, 0, 12, 1⟩
def PWM_PER_PER : Fld := ⟨R.PWM_PER, 0x80, 0, 0, 17⟩
def PWM_DUTY_DUTY : Fld := ⟨R.PWM_DUTY, 0x80, 0, 0, 21⟩
def PWM_DT_DT : Fld := ⟨R.PWM_DT, 0x80, 0, 0, 10⟩
def PWM_CMPB_CMPB : Fld := ⟨R.PWM_CMPB, 0x80, 0, 0, 17⟩
def PWM_IRQ_ZERO : Fld := ⟨R.PWM_IRQ, 0x80, 0, 0, 1⟩
def PWM_IRQ_TOP : Fld := ⟨R.PWM_IRQ, 0x80, 0, 1, 1⟩
def PWM_IRQ_CMPA : Fld := ⟨R.PWM_IRQ, 0x80, 0, 2, 1⟩
def PWM_IRQ_CMPB : Fld := ⟨R.PWM_IRQ, 0x80, 0, 3, 1⟩
def PWM_IRQ_PRESC : Fld := ⟨R.PWM_IRQ, 0x80, 0, 4, 4⟩
def PWM_IRQ_EV_EN : Fld := ⟨R.PWM_IRQ, 0x80, 0, 8, 1⟩
def PWM_STAT_CNT : Fld := ⟨R.PWM_STAT, 0x80, 0, 0, 17⟩
def PWM_STAT_DOWN : Fld := ⟨R.PWM_STAT, 0x80, 0, 17, 1⟩
def PWM_STAT_REF : Fld := ⟨R.PWM_STAT, 0x80, 0, 18, 1⟩
def PWM_STAT_H : Fld := ⟨R.PWM_STAT, 0x80, 0, 19, 1⟩
def PWM_STAT_L : Fld := ⟨R.PWM_STAT, 0x80, 0, 20, 1⟩
def PWM_STAT_TRIPPED : Fld := ⟨R.PWM_STAT, 0x80, 0, 21, 1⟩
def PWM_STAT_GATE : Fld := ⟨R.PWM_STAT, 0x80, 0, 22, 1⟩
def PWM_STAT_OWNED : Fld := ⟨R.PWM_STAT, 0x80, 0, 23, 1⟩
def PWM_STAT_DITHER : Fld := ⟨R.PWM_STAT, 0x80, 0, 24, 4⟩
def PWM_FLAG_SYNC_LOST : Fld := ⟨R.PWM_FLAG, 0x80, 0, 0, 1⟩
def PWM_FLAG_TRIP : Fld := ⟨R.PWM_FLAG, 0x80, 0, 1, 1⟩
def PWM_FLAG_SWALLOW : Fld := ⟨R.PWM_FLAG, 0x80, 0, 2, 1⟩
def PWM_APPLIED_D : Fld := ⟨R.PWM_APPLIED, 0x80, 0, 0, 21⟩
def PWM_IRQ_CNT_COUNT : Fld := ⟨R.PWM_IRQ_CNT, 0x80, 0, 0, 32⟩
def PWM_TIN_CFG_FILT : Fld := ⟨R.PWM_TIN_CFG, 4, 0, 0, 4⟩
def PWM_TIN_CFG_POL : Fld := ⟨R.PWM_TIN_CFG, 4, 0, 4, 1⟩
def PWM_TIN_CFG_EN : Fld := ⟨R.PWM_TIN_CFG, 4, 0, 5, 1⟩
def PWM_TGRP_CFG_MASK : Fld := ⟨R.PWM_TGRP_CFG, 0x10, 0, 0, 8⟩
def PWM_TGRP_CFG_BL_EN : Fld := ⟨R.PWM_TGRP_CFG, 0x10, 0, 8, 1⟩
def PWM_TGRP_CFG_BL_SRC : Fld := ⟨R.PWM_TGRP_CFG, 0x10, 0, 16, 7⟩
def PWM_TGRP_CFG_BL_LEN : Fld := ⟨R.PWM_TGRP_CFG, 0x10, 0, 24, 8⟩
def PWM_TGRP_CMD_CLEAR : Fld := ⟨R.PWM_TGRP_CMD, 0x10, 0, 0, 1⟩
def PWM_TGRP_CMD_FORCE : Fld := ⟨R.PWM_TGRP_CMD, 0x10, 0, 1, 1⟩
def PWM_TGRP_STAT_LATCHED : Fld := ⟨R.PWM_TGRP_STAT, 0x10, 0, 0, 1⟩
def PWM_TGRP_STAT_ACTIVE : Fld := ⟨R.PWM_TGRP_STAT, 0x10, 0, 1, 1⟩
def PWM_TGRP_STAT_BLANKED : Fld := ⟨R.PWM_TGRP_STAT, 0x10, 0, 2, 1⟩
def PWM_TGRP_STAT_FORCED : Fld := ⟨R.PWM_TGRP_STAT, 0x10, 0, 3, 1⟩
def PWM_TGRP_STAT_CAUSE : Fld := ⟨R.PWM_TGRP_STAT, 0x10, 0, 8, 8⟩
def PWM_TRIP_STAT_LATCHED : Fld := ⟨R.PWM_TRIP_STAT, 0, 0, 0, 16⟩
def PWM_TRIP_STAT_LEVEL : Fld := ⟨R.PWM_TRIP_STAT, 0, 0, 16, 8⟩
def PWM_TRIP_CNT_COUNT : Fld := ⟨R.PWM_TRIP_CNT, 0, 0, 0, 32⟩
def PWM_GATE_MAP_SETS : Fld := ⟨R.PWM_GATE_MAP, 0, 0, 0, 24⟩
def ADC_CTL_EN : Fld := ⟨R.ADC_CTL, 0x100, 0, 0, 1⟩
def ADC_CFG_REF_SEL : Fld := ⟨R.ADC_CFG, 0x100, 0, 0, 2⟩
def ADC_CFG_DEST : Fld := ⟨R.ADC_CFG, 0x100, 0, 2, 1⟩
def ADC_CFG_SCAN_SRC : Fld := ⟨R.ADC_CFG, 0x100, 0, 4, 2⟩
def ADC_CFG_SCAN_PWM : Fld := ⟨R.ADC_CFG, 0x100, 0, 8, 7⟩
def ADC_CFG_INJ_SRC : Fld := ⟨R.ADC_CFG, 0x100, 0, 16, 1⟩
def ADC_CFG_INJ_PWM : Fld := ⟨R.ADC_CFG, 0x100, 0, 20, 7⟩
def ADC_CFG_INJ_IN : Fld := ⟨R.ADC_CFG, 0x100, 0, 28, 3⟩
def ADC_CFG_INJ_TEST : Fld := ⟨R.ADC_CFG, 0x100, 0, 31, 1⟩
def ADC_MASK_TS_MASK : Fld := ⟨R.ADC_MASK, 0x100, 0, 0, 8⟩
def ADC_MASK_SCAN_MASK : Fld := ⟨R.ADC_MASK, 0x100, 0, 8, 8⟩
def ADC_CMD_SCAN_GO : Fld := ⟨R.ADC_CMD, 0x100, 0, 0, 1⟩
def ADC_CMD_INJ_GO : Fld := ⟨R.ADC_CMD, 0x100, 0, 1, 1⟩
def ADC_CMD_CAL : Fld := ⟨R.ADC_CMD, 0x100, 0, 2, 1⟩
def ADC_CMD_CLR_OPEN : Fld := ⟨R.ADC_CMD, 0x100, 0, 3, 1⟩
def ADC_STAT_REF_OK : Fld := ⟨R.ADC_STAT, 0x100, 0, 0, 1⟩
def ADC_STAT_SCANNING : Fld := ⟨R.ADC_STAT, 0x100, 0, 1, 1⟩
def ADC_STAT_INJ_PEND : Fld := ⟨R.ADC_STAT, 0x100, 0, 2, 1⟩
def ADC_STAT_CAL_PEND : Fld := ⟨R.ADC_STAT, 0x100, 0, 3, 1⟩
def ADC_STAT_CAL_RUN : Fld := ⟨R.ADC_STAT, 0x100, 0, 4, 1⟩
def ADC_STAT_CAL_VALID : Fld := ⟨R.ADC_STAT, 0x100, 0, 5, 1⟩
def ADC_STAT_OPEN : Fld := ⟨R.ADC_STAT, 0x100, 0, 8, 8⟩
def ADC_FLAG_OVR : Fld := ⟨R.ADC_FLAG, 0x100, 0, 0, 1⟩
def ADC_FLAG_INJ_LATE : Fld := ⟨R.ADC_FLAG, 0x100, 0, 1, 1⟩
def ADC_FLAG_INJ_DROP : Fld := ⟨R.ADC_FLAG, 0x100, 0, 2, 1⟩
def ADC_FLAG_SCAN_DROP : Fld := ⟨R.ADC_FLAG, 0x100, 0, 3, 1⟩
def ADC_FLAG_CAL_DONE : Fld := ⟨R.ADC_FLAG, 0x100, 0, 4, 1⟩
def ADC_FLAG_CAL_ABORT : Fld := ⟨R.ADC_FLAG, 0x100, 0, 5, 1⟩
def ADC_FLAG_OPEN : Fld := ⟨R.ADC_FLAG, 0x100, 0, 6, 1⟩
def ADC_FLAG_TEST_FAIL : Fld := ⟨R.ADC_FLAG, 0x100, 0, 7, 1⟩
def ADC_FLAG_REF_LOSS : Fld := ⟨R.ADC_FLAG, 0x100, 0, 8, 1⟩
def ADC_RESULT_CODE : Fld := ⟨R.ADC_RESULT, 0x100, 0, 0, 14⟩
def ADC_RESULT_INPUT : Fld := ⟨R.ADC_RESULT, 0x100, 0, 14, 7⟩
def ADC_RESULT_INJ : Fld := ⟨R.ADC_RESULT, 0x100, 0, 21, 1⟩
def ADC_RESULT_TEST : Fld := ⟨R.ADC_RESULT, 0x100, 0, 22, 1⟩
def ADC_RESULT_OPEN : Fld := ⟨R.ADC_RESULT, 0x100, 0, 23, 1⟩
def ADC_RESULT_UNSET : Fld := ⟨R.ADC_RESULT, 0x100, 0, 24, 1⟩
def ADC_RESULT_LATE : Fld := ⟨R.ADC_RESULT, 0x100, 0, 25, 1⟩
def ADC_RESULT_OVR : Fld := ⟨R.ADC_RESULT, 0x100, 0, 26, 1⟩
def ADC_RESULT_SCAN_END : Fld := ⟨R.ADC_RESULT, 0x100, 0, 27, 1⟩
def ADC_RESULT_NEW : Fld := ⟨R.ADC_RESULT, 0x100, 0, 31, 1⟩
def ADC_BUF_BASE_BASE : Fld := ⟨R.ADC_BUF_BASE, 0x100, 0, 0, 22⟩
def ADC_BUF_LEN_LEN : Fld := ⟨R.ADC_BUF_LEN, 0x100, 0, 0, 14⟩
def ADC_BUF_PTR_PTR : Fld := ⟨R.ADC_BUF_PTR, 0x100, 0, 0, 14⟩
def ADC_BUF_PTR_WRAPS : Fld := ⟨R.ADC_BUF_PTR, 0x100, 0, 16, 16⟩
def ADC_CNT_OVR : Fld := ⟨R.ADC_CNT, 0x100, 0, 0, 16⟩
def ADC_CNT_DROP : Fld := ⟨R.ADC_CNT, 0x100, 0, 16, 16⟩
def ADC_IN_CFG_CODING : Fld := ⟨R.ADC_IN_CFG, 0x100, 4, 0, 1⟩
def ADC_IN_CFG_OW : Fld := ⟨R.ADC_IN_CFG, 0x100, 4, 1, 2⟩
def ADC_IN_CFG_OWI : Fld := ⟨R.ADC_IN_CFG, 0x100, 4, 3, 1⟩
def ADC_IN_CFG_OW_INV : Fld := ⟨R.ADC_IN_CFG, 0x100, 4, 4, 1⟩
def ADC_IN_CFG_OW_LIM : Fld := ⟨R.ADC_IN_CFG, 0x100, 4, 8, 8⟩
def ADC_IN_CFG_OFS : Fld := ⟨R.ADC_IN_CFG, 0x100, 4, 16, 12⟩
def ADC_TDAC_DAC_CODE : Fld := ⟨R.ADC_TDAC, 0x100, 0, 0, 12⟩
def ADC_TDAC_TOL : Fld := ⟨R.ADC_TDAC, 0x100, 0, 16, 8⟩
def ADC_REF_STAT_EXT_OK : Fld := ⟨R.ADC_REF_STAT, 0, 0, 0, 1⟩
def ADC_REF_STAT_INT_OK : Fld := ⟨R.ADC_REF_STAT, 0, 0, 1, 1⟩
def ADC_EN_MAP_MAP : Fld := ⟨R.ADC_EN_MAP, 0, 0, 0, 16⟩
def ADC_OPEN_MAP_MAP : Fld := ⟨R.ADC_OPEN_MAP_0, 0, 0, 0, 128⟩
def TWL_CTL_EN : Fld := ⟨R.TWL_CTL, 0x800, 0, 0, 1⟩
def TWL_CFG_NODES : Fld := ⟨R.TWL_CFG, 0x800, 0, 0, 5⟩
def TWL_CFG_PAIRED : Fld := ⟨R.TWL_CFG, 0x800, 0, 5, 1⟩
def TWL_CFG_END : Fld := ⟨R.TWL_CFG, 0x800, 0, 6, 1⟩
def TWL_CFG_DMAX : Fld := ⟨R.TWL_CFG, 0x800, 0, 16, 14⟩
def TWL_DLY_A_TXD : Fld := ⟨R.TWL_DLY_A, 0x800, 0, 0, 16⟩
def TWL_DLY_B_TXD : Fld := ⟨R.TWL_DLY_B, 0x800, 0, 0, 16⟩
def TWL_DLY_A_RXD : Fld := ⟨R.TWL_DLY_A, 0x800, 0, 16, 16⟩
def TWL_DLY_B_RXD : Fld := ⟨R.TWL_DLY_B, 0x800, 0, 16, 16⟩
def TWL_STAT_STATE : Fld := ⟨R.TWL_STAT, 0x800, 0, 0, 3⟩
def TWL_STAT_LOCK_A : Fld := ⟨R.TWL_STAT, 0x800, 0, 3, 1⟩
def TWL_STAT_LOCK_B : Fld := ⟨R.TWL_STAT, 0x800, 0, 4, 1⟩
def TWL_STAT_RING_OPEN : Fld := ⟨R.TWL_STAT, 0x800, 0, 5, 1⟩
def TWL_STAT_HOLD : Fld := ⟨R.TWL_STAT, 0x800, 0, 6, 1⟩
def TWL_STAT_NODE_OK : Fld := ⟨R.TWL_STAT, 0x800, 0, 16, 16⟩
def TWL_FLAG_TOPO : Fld := ⟨R.TWL_FLAG, 0x800, 0, 0, 1⟩
def TWL_FLAG_BUDGET : Fld := ⟨R.TWL_FLAG, 0x800, 0, 1, 1⟩
def TWL_FLAG_RING_OPEN : Fld := ⟨R.TWL_FLAG, 0x800, 0, 2, 1⟩
def TWL_FLAG_OOW : Fld := ⟨R.TWL_FLAG, 0x800, 0, 3, 1⟩
def TWL_FLAG_EDGE : Fld := ⟨R.TWL_FLAG, 0x800, 0, 4, 1⟩
def TWL_FLAG_CMD_LATE : Fld := ⟨R.TWL_FLAG, 0x800, 0, 5, 1⟩
def TWL_FLAG_DIFF : Fld := ⟨R.TWL_FLAG, 0x800, 0, 6, 1⟩
def TWL_FLAG_GUARD : Fld := ⟨R.TWL_FLAG, 0x800, 0, 7, 1⟩
def TWL_FLAG_SW_FAIL : Fld := ⟨R.TWL_FLAG, 0x800, 0, 8, 1⟩
def TWL_FLAG_HOLD : Fld := ⟨R.TWL_FLAG, 0x800, 0, 9, 1⟩
def TWL_D_AB_D : Fld := ⟨R.TWL_D_AB, 0x800, 0, 0, 32⟩
def TWL_D_BA_D : Fld := ⟨R.TWL_D_BA, 0x800, 0, 0, 32⟩
def TWL_CNT_CRC_A : Fld := ⟨R.TWL_CNT_CRC, 0x800, 0, 0, 16⟩
def TWL_CNT_CRC_B : Fld := ⟨R.TWL_CNT_CRC, 0x800, 0, 16, 16⟩
def TWL_CNT_OOW_COUNT : Fld := ⟨R.TWL_CNT_OOW, 0x800, 0, 0, 32⟩
def TWL_CNT_GUARD_COUNT : Fld := ⟨R.TWL_CNT_GUARD, 0x800, 0, 0, 32⟩
def TWL_N_STAT_NSTAT : Fld := ⟨R.TWL_N_STAT, 0x800, 0x10, 0, 16⟩
def TWL_N_STAT_VALID : Fld := ⟨R.TWL_N_STAT, 0x800, 0x10, 16, 1⟩
def TWL_N_STAT_VIA_B : Fld := ⟨R.TWL_N_STAT, 0x800, 0x10, 17, 1⟩
def TWL_N_STAT_EDGE : Fld := ⟨R.TWL_N_STAT, 0x800, 0x10, 18, 1⟩
def TWL_N_STAT_RESYNC : Fld := ⟨R.TWL_N_STAT, 0x800, 0x10, 19, 1⟩
def TWL_N_STAT_CMD_LATE : Fld := ⟨R.TWL_N_STAT, 0x800, 0x10, 20, 1⟩
def TWL_N_PDLY_PDLY : Fld := ⟨R.TWL_N_PDLY, 0x800, 0x10, 0, 32⟩
def TWL_N_DEV_DEV : Fld := ⟨R.TWL_N_DEV, 0x800, 0x10, 0, 32⟩
def TWL_N_CNT_MISS : Fld := ⟨R.TWL_N_CNT, 0x800, 0x10, 0, 16⟩
def TWL_N_CNT_DIFF : Fld := ⟨R.TWL_N_CNT, 0x800, 0x10, 16, 16⟩
def TWL_G_CTL_SW_SRC : Fld := ⟨R.TWL_G_CTL, 0, 0, 0, 1⟩
def TWL_G_MODE_MODE : Fld := ⟨R.TWL_G_MODE, 0, 0, 0, 3⟩
def TWL_G_MODE_NEXT : Fld := ⟨R.TWL_G_MODE, 0, 0, 4, 3⟩
def TWL_G_MODE_SWP : Fld := ⟨R.TWL_G_MODE, 0, 0, 7, 1⟩
def TWL_G_SW_AT_SW_AT : Fld := ⟨R.TWL_G_SW_AT_0, 0, 0, 0, 64⟩
def DMK_P_CTL_EN : Fld := ⟨R.DMK_P_CTL, 0x1000, 0, 0, 1⟩
def DMK_P_CTL_LINK_MODE : Fld := ⟨R.DMK_P_CTL, 0x1000, 0, 1, 2⟩
def DMK_P_STAT_STATE : Fld := ⟨R.DMK_P_STAT, 0x1000, 0, 0, 3⟩
def DMK_P_STAT_NPORT : Fld := ⟨R.DMK_P_STAT, 0x1000, 0, 3, 2⟩
def DMK_P_STAT_LDLY_V : Fld := ⟨R.DMK_P_STAT, 0x1000, 0, 5, 1⟩
def DMK_P_FLAG_DOWN : Fld := ⟨R.DMK_P_FLAG, 0x1000, 0, 0, 1⟩
def DMK_P_FLAG_TRAIN_FAIL : Fld := ⟨R.DMK_P_FLAG, 0x1000, 0, 1, 1⟩
def DMK_P_FLAG_HIBER : Fld := ⟨R.DMK_P_FLAG, 0x1000, 0, 2, 1⟩
def DMK_P_FLAG_OVERFLOW : Fld := ⟨R.DMK_P_FLAG, 0x1000, 0, 3, 1⟩
def DMK_P_FLAG_POISON : Fld := ⟨R.DMK_P_FLAG, 0x1000, 0, 4, 1⟩
def DMK_P_DLY_TXD : Fld := ⟨R.DMK_P_DLY, 0x1000, 0, 0, 16⟩
def DMK_P_DLY_RXD : Fld := ⟨R.DMK_P_DLY, 0x1000, 0, 16, 16⟩
def DMK_P_LDLY_LDLY : Fld := ⟨R.DMK_P_LDLY, 0x1000, 0, 0, 32⟩
def DMK_P_CNT_HDR_HDR : Fld := ⟨R.DMK_P_CNT_HDR, 0x1000, 0, 0, 16⟩
def DMK_P_CNT_HDR_HIBER : Fld := ⟨R.DMK_P_CNT_HDR, 0x1000, 0, 16, 16⟩
def DMK_P_CNT_ECC_CORR : Fld := ⟨R.DMK_P_CNT_ECC, 0x1000, 0, 0, 16⟩
def DMK_P_CNT_ECC_UNC : Fld := ⟨R.DMK_P_CNT_ECC, 0x1000, 0, 16, 16⟩
def DMK_P_CNT_OVF_C1 : Fld := ⟨R.DMK_P_CNT_OVF, 0x1000, 0, 0, 16⟩
def DMK_P_CNT_OVF_C2 : Fld := ⟨R.DMK_P_CNT_OVF, 0x1000, 0, 16, 16⟩
def DMK_P_CNT_PRE_PRE : Fld := ⟨R.DMK_P_CNT_PRE, 0x1000, 0, 0, 32⟩
def DMK_P_RES_MAX_RES : Fld := ⟨R.DMK_P_RES_MAX, 0x1000, 0, 0, 16⟩
def DMK_CTL_EN : Fld := ⟨R.DMK_CTL, 0, 0, 0, 1⟩
def DMK_CTL_ROOT : Fld := ⟨R.DMK_CTL, 0, 0, 1, 1⟩
def DMK_CTL_POOL_EN : Fld := ⟨R.DMK_CTL, 0, 0, 2, 1⟩
def DMK_CTL_FIXED : Fld := ⟨R.DMK_CTL, 0, 0, 3, 1⟩
def DMK_ADDR_FADDR : Fld := ⟨R.DMK_ADDR, 0, 0, 0, 12⟩
def DMK_ADDR_ADDR : Fld := ⟨R.DMK_ADDR, 0, 0, 16, 12⟩
def DMK_STAT_ROOT_ACT : Fld := ⟨R.DMK_STAT, 0, 0, 0, 1⟩
def DMK_STAT_ASSIGNED : Fld := ⟨R.DMK_STAT, 0, 0, 1, 1⟩
def DMK_STAT_NODES : Fld := ⟨R.DMK_STAT, 0, 0, 16, 12⟩
def DMK_FLAG_ROOT_CONFLICT : Fld := ⟨R.DMK_FLAG, 0, 0, 0, 1⟩
def DMK_FLAG_ADDR_LOST : Fld := ⟨R.DMK_FLAG, 0, 0, 1, 1⟩
def DMK_FLAG_C0_LATE : Fld := ⟨R.DMK_FLAG, 0, 0, 2, 1⟩
def DMK_FLAG_C0_COLL : Fld := ⟨R.DMK_FLAG, 0, 0, 3, 1⟩
def DMK_FLAG_MODE_SPLIT : Fld := ⟨R.DMK_FLAG, 0, 0, 4, 1⟩
def DMK_FLAG_UNCLAIMED : Fld := ⟨R.DMK_FLAG, 0, 0, 5, 1⟩
def DMK_FLAG_SEQ_GAP : Fld := ⟨R.DMK_FLAG, 0, 0, 6, 1⟩
def DMK_FLAG_HOLDOVER : Fld := ⟨R.DMK_FLAG, 0, 0, 7, 1⟩
def DMK_FLAG_OUT : Fld := ⟨R.DMK_FLAG, 0, 0, 8, 1⟩
def DMK_POOL_POOL_BASE : Fld := ⟨R.DMK_POOL, 0, 0, 0, 12⟩
def DMK_SYNC_CFG_SYNC_EN : Fld := ⟨R.DMK_SYNC_CFG, 0, 0, 0, 1⟩
def DMK_SYNC_CFG_SRC_EN : Fld := ⟨R.DMK_SYNC_CFG, 0, 0, 1, 1⟩
def DMK_SYNC_CFG_SLOT : Fld := ⟨R.DMK_SYNC_CFG, 0, 0, 2, 4⟩
def DMK_SYNC_CFG_INT : Fld := ⟨R.DMK_SYNC_CFG, 0, 0, 6, 3⟩
def DMK_SYNC_CFG_K : Fld := ⟨R.DMK_SYNC_CFG, 0, 0, 10, 2⟩
def DMK_SYNC_STAT_STATE : Fld := ⟨R.DMK_SYNC_STAT, 0, 0, 0, 3⟩
def DMK_SYNC_STAT_N : Fld := ⟨R.DMK_SYNC_STAT, 0, 0, 4, 5⟩
def DMK_SYNC_STAT_SKIP : Fld := ⟨R.DMK_SYNC_STAT, 0, 0, 16, 16⟩
def DMK_SYNC_DEV_DEV : Fld := ⟨R.DMK_SYNC_DEV, 0, 0, 0, 32⟩
def DMK_STEP_LIM_LIM : Fld := ⟨R.DMK_STEP_LIM, 0, 0, 0, 20⟩
def DMK_SYNC_TOL_TOL : Fld := ⟨R.DMK_SYNC_TOL, 0, 0, 0, 16⟩
def DMK_RATE_EST_RATE : Fld := ⟨R.DMK_RATE_EST, 0, 0, 0, 32⟩
def DMK_MODE_STAT_ACTIVE : Fld := ⟨R.DMK_MODE_STAT, 0, 0, 0, 1⟩
def DMK_MODE_STAT_MODE : Fld := ⟨R.DMK_MODE_STAT, 0, 0, 1, 3⟩
def DMK_MODE_STAT_PROPOSER : Fld := ⟨R.DMK_MODE_STAT, 0, 0, 4, 1⟩
def DMK_MODE_AT_K_S : Fld := ⟨R.DMK_MODE_AT_0, 0, 0, 0, 64⟩
def DMK_HRX_BASE_ADDR : Fld := ⟨R.DMK_HRX_BASE_0, 0, 0, 0, 64⟩
def DMK_HRX_SIZE_SIZE : Fld := ⟨R.DMK_HRX_SIZE, 0, 0, 0, 24⟩
def DMK_HRX_PTR_PTR : Fld := ⟨R.DMK_HRX_PTR, 0, 0, 0, 24⟩
def DMK_HRX_PTR_WRAPS : Fld := ⟨R.DMK_HRX_PTR, 0, 0, 24, 8⟩
def DMK_CNT_RX_UNCLAIMED : Fld := ⟨R.DMK_CNT_RX, 0, 0, 0, 16⟩
def DMK_CNT_RX_GAP : Fld := ⟨R.DMK_CNT_RX, 0, 0, 16, 16⟩
def LND_CTL_EN : Fld := ⟨R.LND_CTL, 0, 0, 0, 1⟩
def LND_CFG_PREF : Fld := ⟨R.LND_CFG, 0, 0, 0, 1⟩
def LND_CFG_DIV_STOP : Fld := ⟨R.LND_CFG, 0, 0, 1, 1⟩
def LND_CFG_LINK_MODE : Fld := ⟨R.LND_CFG, 0, 0, 4, 2⟩
def LND_CFG_HB_DL : Fld := ⟨R.LND_CFG, 0, 0, 8, 8⟩
def LND_CFG_MIR_DL : Fld := ⟨R.LND_CFG, 0, 0, 16, 8⟩
def LND_SHADOW_SHADOW_N : Fld := ⟨R.LND_SHADOW, 0, 0, 0, 16⟩
def LND_STAT_ROLE : Fld := ⟨R.LND_STAT, 0, 0, 0, 2⟩
def LND_STAT_PSTATE : Fld := ⟨R.LND_STAT, 0, 0, 2, 3⟩
def LND_STAT_LINK : Fld := ⟨R.LND_STAT, 0, 0, 5, 1⟩
def LND_STAT_HB_OK : Fld := ⟨R.LND_STAT, 0, 0, 6, 1⟩
def LND_STAT_UNMIRRORED : Fld := ⟨R.LND_STAT, 0, 0, 7, 1⟩
def LND_STAT_PARTNER : Fld := ⟨R.LND_STAT, 0, 0, 8, 1⟩
def LND_STAT_UP0 : Fld := ⟨R.LND_STAT, 0, 0, 9, 1⟩
def LND_STAT_UP1 : Fld := ⟨R.LND_STAT, 0, 0, 10, 1⟩
def LND_FLAG_MISMATCH : Fld := ⟨R.LND_FLAG, 0, 0, 0, 1⟩
def LND_FLAG_HB_LOST : Fld := ⟨R.LND_FLAG, 0, 0, 1, 1⟩
def LND_FLAG_MIRROR_LATE : Fld := ⟨R.LND_FLAG, 0, 0, 2, 1⟩
def LND_FLAG_ISOLATED : Fld := ⟨R.LND_FLAG, 0, 0, 3, 1⟩
def LND_FLAG_PROMOTED : Fld := ⟨R.LND_FLAG, 0, 0, 4, 1⟩
def LND_FLAG_FAILED : Fld := ⟨R.LND_FLAG, 0, 0, 5, 1⟩
def LND_FLAG_JOIN_FAIL : Fld := ⟨R.LND_FLAG, 0, 0, 6, 1⟩
def LND_FLAG_COPY_RESTART : Fld := ⟨R.LND_FLAG, 0, 0, 7, 1⟩
def LND_FLAG_DIGEST_MISS : Fld := ⟨R.LND_FLAG, 0, 0, 8, 1⟩
def LND_FLAG_SELFTEST : Fld := ⟨R.LND_FLAG, 0, 0, 9, 1⟩
def LND_FAIL_FAIL : Fld := ⟨R.LND_FAIL, 0, 0, 0, 8⟩
def LND_FAIL_JOIN : Fld := ⟨R.LND_FAIL, 0, 0, 8, 8⟩
def LND_DIGEST_DIGEST : Fld := ⟨R.LND_DIGEST, 0, 0, 0, 32⟩
def LND_PDIGEST_DIGEST : Fld := ⟨R.LND_PDIGEST, 0, 0, 0, 32⟩
def LND_PUID_UID : Fld := ⟨R.LND_PUID_0, 0, 0, 0, 64⟩
def LND_CNT_MISMATCH : Fld := ⟨R.LND_CNT, 0, 0, 0, 16⟩
def LND_CNT_UNMIR : Fld := ⟨R.LND_CNT, 0, 0, 16, 16⟩
def LND_MIR_MAX_NS : Fld := ⟨R.LND_MIR_MAX, 0, 0, 0, 16⟩
def LND_PROM_AT_CYC : Fld := ⟨R.LND_PROM_AT_0, 0, 0, 0, 64⟩
def LND_L_STAT_STATE : Fld := ⟨R.LND_L_STAT, 0x20, 0, 0, 3⟩
def LND_L_DLY_TXD : Fld := ⟨R.LND_L_DLY, 0x20, 0, 0, 16⟩
def LND_L_DLY_RXD : Fld := ⟨R.LND_L_DLY, 0x20, 0, 16, 16⟩
def LND_L_LDLY_LDLY : Fld := ⟨R.LND_L_LDLY, 0x20, 0, 0, 32⟩
def LND_L_CNT_LOST : Fld := ⟨R.LND_L_CNT, 0x20, 0, 0, 16⟩
def LND_L_CNT_UNC : Fld := ⟨R.LND_L_CNT, 0x20, 0, 16, 16⟩
def ACQ_CFG_SMODE : Fld := ⟨R.ACQ_CFG, 0x400, 0, 0, 1⟩
def ACQ_CFG_NCH : Fld := ⟨R.ACQ_CFG, 0x400, 0, 1, 3⟩
def ACQ_CFG_STREAM : Fld := ⟨R.ACQ_CFG, 0x400, 0, 4, 1⟩
def ACQ_CFG_AUTO : Fld := ⟨R.ACQ_CFG, 0x400, 0, 5, 1⟩
def ACQ_CFG_ARM_EARLY : Fld := ⟨R.ACQ_CFG, 0x400, 0, 6, 1⟩
def ACQ_SPER_SPER : Fld := ⟨R.ACQ_SPER, 0x400, 0, 0, 15⟩
def ACQ_PRE_PRE : Fld := ⟨R.ACQ_PRE, 0x400, 0, 0, 14⟩
def ACQ_POST_POST : Fld := ⟨R.ACQ_POST, 0x400, 0, 0, 32⟩
def ACQ_BUF_BASE_BASE : Fld := ⟨R.ACQ_BUF_BASE, 0x400, 0, 0, 22⟩
def ACQ_BUF_LEN_LEN : Fld := ⟨R.ACQ_BUF_LEN, 0x400, 0, 0, 22⟩
def ACQ_STAT_STATE : Fld := ⟨R.ACQ_STAT, 0x400, 0, 0, 3⟩
def ACQ_STAT_RECNUM : Fld := ⟨R.ACQ_STAT, 0x400, 0, 8, 24⟩
def ACQ_FLAG_DONE : Fld := ⟨R.ACQ_FLAG, 0x400, 0, 0, 1⟩
def ACQ_FLAG_SHORT : Fld := ⟨R.ACQ_FLAG, 0x400, 0, 1, 1⟩
def ACQ_FLAG_GAP : Fld := ⟨R.ACQ_FLAG, 0x400, 0, 2, 1⟩
def ACQ_FLAG_SHED : Fld := ⟨R.ACQ_FLAG, 0x400, 0, 3, 1⟩
def ACQ_FLAG_STOPPED : Fld := ⟨R.ACQ_FLAG, 0x400, 0, 4, 1⟩
def ACQ_FLAG_ARM_LOST : Fld := ⟨R.ACQ_FLAG, 0x400, 0, 5, 1⟩
def ACQ_FLAG_FORCE_LOST : Fld := ⟨R.ACQ_FLAG, 0x400, 0, 6, 1⟩
def ACQ_FLAG_NOVAL : Fld := ⟨R.ACQ_FLAG, 0x400, 0, 7, 1⟩
def ACQ_FLAG_HS_WRAP : Fld := ⟨R.ACQ_FLAG, 0x400, 0, 8, 1⟩
def ACQ_FLAG_DROP : Fld := ⟨R.ACQ_FLAG, 0x400, 0, 9, 1⟩
def ACQ_CH_SEL_SRC : Fld := ⟨R.ACQ_CH_SEL, 0x400, 4, 0, 5⟩
def ACQ_CH_SEL_INST : Fld := ⟨R.ACQ_CH_SEL, 0x400, 4, 8, 8⟩
def ACQ_CH_SEL_FIELD : Fld := ⟨R.ACQ_CH_SEL, 0x400, 4, 16, 14⟩
def ACQ_TC_CTL_KIND : Fld := ⟨R.ACQ_TC_CTL, 0x400, 0x40, 0, 3⟩
def ACQ_TC_CTL_CH : Fld := ⟨R.ACQ_TC_CTL, 0x400, 0x40, 3, 2⟩
def ACQ_TC_CTL_POL : Fld := ⟨R.ACQ_TC_CTL, 0x400, 0x40, 5, 2⟩
def ACQ_TC_CTL_REL : Fld := ⟨R.ACQ_TC_CTL, 0x400, 0x40, 8, 3⟩
def ACQ_TC_CTL_EN : Fld := ⟨R.ACQ_TC_CTL, 0x400, 0x40, 11, 1⟩
def ACQ_TC_CTL_EXT_SEL : Fld := ⟨R.ACQ_TC_CTL, 0x400, 0x40, 16, 8⟩
def ACQ_TC_TA_T : Fld := ⟨R.ACQ_TC_TA, 0x400, 0x40, 0, 32⟩
def ACQ_TC_TB_T : Fld := ⟨R.ACQ_TC_TB, 0x400, 0x40, 0, 32⟩
def ACQ_TC_LO_LEVEL : Fld := ⟨R.ACQ_TC_LO_0, 0x400, 0x40, 0, 72⟩
def ACQ_TC_HI_LEVEL : Fld := ⟨R.ACQ_TC_HI_0, 0x400, 0x40, 0, 72⟩
def ACQ_REC_INFO_MET : Fld := ⟨R.ACQ_REC_INFO, 0x400, 0, 0, 5⟩
def ACQ_REC_INFO_PRIMARY : Fld := ⟨R.ACQ_REC_INFO, 0x400, 0, 8, 3⟩
def ACQ_PRE_N_N : Fld := ⟨R.ACQ_PRE_N, 0x400, 0, 0, 32⟩
def ACQ_POST_N_N : Fld := ⟨R.ACQ_POST_N, 0x400, 0, 0, 32⟩
def ACQ_DUR_N : Fld := ⟨R.ACQ_DUR, 0x400, 0, 0, 32⟩
def ACQ_CNT_DROP : Fld := ⟨R.ACQ_CNT, 0x400, 0, 0, 16⟩
def ACQ_CNT_EARLY : Fld := ⟨R.ACQ_CNT, 0x400, 0, 16, 16⟩
def ACQ_MIN_VALUE : Fld := ⟨R.ACQ_MIN_0, 0x400, 0x40, 0, 72⟩
def ACQ_MAX_VALUE : Fld := ⟨R.ACQ_MAX_0, 0x400, 0x40, 0, 72⟩
def ACQ_MEAN_VALUE : Fld := ⟨R.ACQ_MEAN_0, 0x400, 0x40, 0, 72⟩
def ACQ_HS_BASE_ADDR : Fld := ⟨R.ACQ_HS_BASE_0, 0x400, 0, 0, 64⟩
def ACQ_HS_SIZE_SIZE : Fld := ⟨R.ACQ_HS_SIZE, 0x400, 0, 0, 28⟩
def ACQ_HS_PTR_PTR : Fld := ⟨R.ACQ_HS_PTR, 0x400, 0, 0, 28⟩
def ACQ_HS_SEQ_SEQ : Fld := ⟨R.ACQ_HS_SEQ, 0x400, 0, 0, 32⟩
def ACQ_G_STAT_SHED : Fld := ⟨R.ACQ_G_STAT, 0, 0, 24, 1⟩
def ACQ_G_FLAG_DONE : Fld := ⟨R.ACQ_G_FLAG, 0, 0, 0, 8⟩
def ACQ_G_FLAG_DROP : Fld := ⟨R.ACQ_G_FLAG, 0, 0, 8, 8⟩
def BOOT_STAT_STAGE : Fld := ⟨R.BOOT_STAT, 0, 0, 0, 4⟩
def BOOT_STAT_BANK : Fld := ⟨R.BOOT_STAT, 0, 0, 4, 1⟩
def BOOT_STAT_FALLBACK : Fld := ⟨R.BOOT_STAT, 0, 0, 5, 1⟩
def BOOT_STAT_REASON : Fld := ⟨R.BOOT_STAT, 0, 0, 8, 4⟩
def BOOT_STAT_ALT_REASON : Fld := ⟨R.BOOT_STAT, 0, 0, 12, 4⟩
def BOOT_STAT_VFUSE_OK : Fld := ⟨R.BOOT_STAT, 0, 0, 16, 1⟩
def BOOT_CAUSE_POR : Fld := ⟨R.BOOT_CAUSE, 0, 0, 0, 1⟩
def BOOT_CAUSE_EXT : Fld := ⟨R.BOOT_CAUSE, 0, 0, 1, 1⟩
def BOOT_CAUSE_SOFT : Fld := ⟨R.BOOT_CAUSE, 0, 0, 2, 1⟩
def BOOT_CAUSE_WDOG : Fld := ⟨R.BOOT_CAUSE, 0, 0, 3, 1⟩
def BOOT_CAUSE_LINK : Fld := ⟨R.BOOT_CAUSE, 0, 0, 4, 1⟩
def BOOT_RST_DEV : Fld := ⟨R.BOOT_RST, 0, 0, 0, 1⟩
def BOOT_RST_KEY : Fld := ⟨R.BOOT_RST, 0, 0, 16, 16⟩
def BOOT_CFG_WDOG_T : Fld := ⟨R.BOOT_CFG, 0, 0, 0, 10⟩
def BOOT_CFG_PERST_FULL : Fld := ⟨R.BOOT_CFG, 0, 0, 16, 1⟩
def BOOT_NEXT_BANK : Fld := ⟨R.BOOT_NEXT, 0, 0, 0, 1⟩
def BOOT_NEXT_ONCE : Fld := ⟨R.BOOT_NEXT, 0, 0, 1, 1⟩
def BOOT_SVN_BOOT : Fld := ⟨R.BOOT_SVN, 0, 0, 0, 8⟩
def BOOT_SVN_SAFE : Fld := ⟨R.BOOT_SVN, 0, 0, 8, 8⟩
def BOOT_IMG_SVN : Fld := ⟨R.BOOT_IMG, 0, 0, 0, 16⟩
def BOOT_IMG_SAFE_SVN : Fld := ⟨R.BOOT_IMG, 0, 0, 16, 16⟩
def BOOT_KEYS_BPROG : Fld := ⟨R.BOOT_KEYS, 0, 0, 0, 4⟩
def BOOT_KEYS_BREV : Fld := ⟨R.BOOT_KEYS, 0, 0, 4, 4⟩
def BOOT_KEYS_SPROG : Fld := ⟨R.BOOT_KEYS, 0, 0, 8, 2⟩
def BOOT_KEYS_SREV : Fld := ⟨R.BOOT_KEYS, 0, 0, 10, 2⟩
def BOOT_KEYS_BUSE : Fld := ⟨R.BOOT_KEYS, 0, 0, 12, 2⟩
def BOOT_KEYS_SUSE : Fld := ⟨R.BOOT_KEYS, 0, 0, 14, 1⟩
def BOOT_UID_UID : Fld := ⟨R.BOOT_UID_0, 0, 0, 0, 64⟩
def BOOT_SEQ_SEQ : Fld := ⟨R.BOOT_SEQ, 0, 0, 0, 32⟩
def BOOT_REC_OFS_OFS : Fld := ⟨R.BOOT_REC_OFS, 0, 0, 0, 25⟩
def BOOT_REC_LEN_LEN : Fld := ⟨R.BOOT_REC_LEN, 0, 0, 0, 16⟩
def BOOT_REC_CMD_WRITE : Fld := ⟨R.BOOT_REC_CMD, 0, 0, 0, 1⟩
def BOOT_REC_CMD_RESET : Fld := ⟨R.BOOT_REC_CMD, 0, 0, 1, 1⟩
def BOOT_REC_STAT_BUSY : Fld := ⟨R.BOOT_REC_STAT, 0, 0, 0, 1⟩
def BOOT_REC_STAT_ERR : Fld := ⟨R.BOOT_REC_STAT, 0, 0, 1, 1⟩
def TRJ_SCALE_V : Fld := ⟨R.TRJ_SCALE, 0x100, 0, 0, 24⟩
def TRJ_SCALE_C_V : Fld := ⟨R.TRJ_SCALE_C, 0x100, 0, 0, 24⟩
def TRJ_LIM_V : Fld := ⟨R.TRJ_LIM, 0x100, 0, 0, 24⟩
def TRJ_LIM_C_V : Fld := ⟨R.TRJ_LIM_C, 0x100, 0, 0, 24⟩
def AX_IN_SEL_EN0 : Fld := ⟨R.AX_IN_SEL, 0x400, 0, 7, 1⟩
def AX_IN_SEL_KIND0 : Fld := ⟨R.AX_IN_SEL, 0x400, 0, 6, 1⟩
def AX_IN_SEL_INDEX0 : Fld := ⟨R.AX_IN_SEL, 0x400, 0, 0, 6⟩
def AX_IN_SEL_EN1 : Fld := ⟨R.AX_IN_SEL, 0x400, 0, 15, 1⟩
def AX_IN_SEL_KIND1 : Fld := ⟨R.AX_IN_SEL, 0x400, 0, 14, 1⟩
def AX_IN_SEL_INDEX1 : Fld := ⟨R.AX_IN_SEL, 0x400, 0, 8, 6⟩
def AX_IN_SEL_EN2 : Fld := ⟨R.AX_IN_SEL, 0x400, 0, 23, 1⟩
def AX_IN_SEL_KIND2 : Fld := ⟨R.AX_IN_SEL, 0x400, 0, 22, 1⟩
def AX_IN_SEL_INDEX2 : Fld := ⟨R.AX_IN_SEL, 0x400, 0, 16, 6⟩
def TRJ_ARM_MAP_0_AXIS0 : Fld := ⟨R.TRJ_ARM_MAP_0, 0x40, 0, 0, 7⟩
def TRJ_ARM_MAP_0_AXIS1 : Fld := ⟨R.TRJ_ARM_MAP_0, 0x40, 0, 8, 7⟩
def TRJ_ARM_MAP_0_AXIS2 : Fld := ⟨R.TRJ_ARM_MAP_0, 0x40, 0, 16, 7⟩
def TRJ_ARM_MAP_0_AXIS3 : Fld := ⟨R.TRJ_ARM_MAP_0, 0x40, 0, 24, 7⟩
def TRJ_ARM_MAP_1_AXIS0 : Fld := ⟨R.TRJ_ARM_MAP_1, 0x40, 0, 0, 7⟩
def TRJ_ARM_MAP_1_AXIS1 : Fld := ⟨R.TRJ_ARM_MAP_1, 0x40, 0, 8, 7⟩
def TRJ_ARM_MAP_1_AXIS2 : Fld := ⟨R.TRJ_ARM_MAP_1, 0x40, 0, 16, 7⟩
def TRJ_ARM_MAP_1_AXIS3 : Fld := ⟨R.TRJ_ARM_MAP_1, 0x40, 0, 24, 7⟩
def TRJ_ARM_MAP_2_AXIS0 : Fld := ⟨R.TRJ_ARM_MAP_2, 0x40, 0, 0, 7⟩
def TRJ_ARM_MAP_2_AXIS1 : Fld := ⟨R.TRJ_ARM_MAP_2, 0x40, 0, 8, 7⟩
def TRJ_ARM_MAP_2_AXIS2 : Fld := ⟨R.TRJ_ARM_MAP_2, 0x40, 0, 16, 7⟩
def TRJ_ARM_MAP_2_AXIS3 : Fld := ⟨R.TRJ_ARM_MAP_2, 0x40, 0, 24, 7⟩
def TBS_FRC_V : Fld := ⟨R.TBS_FRC_0, 0, 0, 0, 64⟩
def TBS_NOW_V : Fld := ⟨R.TBS_NOW_0, 0, 0, 0, 72⟩
def TBS_OFFSET_V : Fld := ⟨R.TBS_OFFSET_0, 0, 0, 0, 72⟩
def TBS_ANCHOR_V : Fld := ⟨R.TBS_ANCHOR_0, 0, 0, 0, 64⟩
def TBS_RATE_V : Fld := ⟨R.TBS_RATE, 0, 0, 0, 32⟩
def TBS_RATE_EFF_V : Fld := ⟨R.TBS_RATE_EFF, 0, 0, 0, 32⟩
def TBS_P_STEP_V : Fld := ⟨R.TBS_P_STEP_0, 0, 0, 0, 72⟩
def TBS_P_RATE_V : Fld := ⟨R.TBS_P_RATE, 0, 0, 0, 32⟩
def TBS_P_SLEW_V : Fld := ⟨R.TBS_P_SLEW, 0, 0, 0, 32⟩
def TBS_SLEW_LIM_V : Fld := ⟨R.TBS_SLEW_LIM, 0, 0, 0, 32⟩
def TBS_P_AT_V : Fld := ⟨R.TBS_P_AT_0, 0, 0, 0, 72⟩
def TBS_SLEW_REM_V : Fld := ⟨R.TBS_SLEW_REM, 0, 0, 0, 32⟩
def TBS_CYC_PHASE_V : Fld := ⟨R.TBS_CYC_PHASE, 0, 0, 0, 18⟩
def TBS_TS_V : Fld := ⟨R.TBS_TS, 0, 0, 0, 19⟩
def TBS_TR_V : Fld := ⟨R.TBS_TR, 0, 0, 0, 21⟩
def TBS_CYC_START_V : Fld := ⟨R.TBS_CYC_START_0, 0, 0, 0, 72⟩
def TBS_CYC_NUM_V : Fld := ⟨R.TBS_CYC_NUM_0, 0, 0, 0, 64⟩
def TBS_TRG_AT_V : Fld := ⟨R.TBS_TRG_AT_0, 0x20, 0, 0, 72⟩
def TBS_TRG_PER_V : Fld := ⟨R.TBS_TRG_PER, 0x20, 0, 0, 32⟩
def HST_ECC_CORR_CNT_V : Fld := ⟨R.HST_ECC_CORR_CNT, 0, 0, 0, 32⟩
def HST_ECC_UNC_CNT_V : Fld := ⟨R.HST_ECC_UNC_CNT, 0, 0, 0, 32⟩
def HST_SQ_BASE_V : Fld := ⟨R.HST_SQ_BASE_0, 0x20, 0, 0, 64⟩
def HST_CQ_BASE_V : Fld := ⟨R.HST_CQ_BASE_0, 0x20, 0, 0, 64⟩
def HST_EQ_BASE_V : Fld := ⟨R.HST_EQ_BASE_0, 0x20, 0, 0, 64⟩
def HST_EV_ROUTE_ROUTE : Fld := ⟨R.HST_EV_ROUTE_0, 0, 0, 0, 64⟩
def MSIX_ADDR_V : Fld := ⟨R.MSIX_ADDR_0, 0x10, 0, 0, 64⟩
def MSIX_DATA_V : Fld := ⟨R.MSIX_DATA, 0x10, 0, 0, 32⟩
def MSIX_CTL_V : Fld := ⟨R.MSIX_CTL, 0x10, 0, 0, 1⟩
def MSIX_PBA_V : Fld := ⟨R.MSIX_PBA_0, 0, 0, 0, 64⟩
def CEN_LAW_EN_0_V : Fld := ⟨R.CEN_LAW_EN_0, 0, 0, 0, 256⟩
def CEN_LAW_EN_1_V : Fld := ⟨R.CEN_LAW_EN_1, 0, 0, 0, 32⟩
def CEN_LAW_EN_2_V : Fld := ⟨R.CEN_LAW_EN_2, 0, 0, 0, 32⟩
def CEN_LAW_EN_3_V : Fld := ⟨R.CEN_LAW_EN_3, 0, 0, 0, 32⟩
def CEN_LAW_EN_4_V : Fld := ⟨R.CEN_LAW_EN_4, 0, 0, 0, 32⟩
def CEN_LAW_EN_5_V : Fld := ⟨R.CEN_LAW_EN_5, 0, 0, 0, 32⟩
def CEN_LAW_EN_6_V : Fld := ⟨R.CEN_LAW_EN_6, 0, 0, 0, 32⟩
def CEN_LAW_EN_7_V : Fld := ⟨R.CEN_LAW_EN_7, 0, 0, 0, 32⟩
def CEN_CACHE_STAT_V : Fld := ⟨R.CEN_CACHE_STAT, 0, 0, 0, 32⟩
def TRJ_PCLK_V : Fld := ⟨R.TRJ_PCLK_0, 0x100, 0, 0, 72⟩
def TRJ_TBL0_V : Fld := ⟨R.TRJ_TBL0_0, 0x100, 0, 0, 72⟩
def TRJ_CMP_POS_V : Fld := ⟨R.TRJ_CMP_POS_0, 0x40, 0, 0, 72⟩
def TRJ_CMP_STEP_V : Fld := ⟨R.TRJ_CMP_STEP_0, 0x40, 0, 0, 72⟩
def TRJ_CMP_TIME_V : Fld := ⟨R.TRJ_CMP_TIME_0, 0x40, 0, 0, 72⟩
def AX_SP_V : Fld := ⟨R.AX_SP_0, 0x400, 0, 0, 72⟩
def AX_SPD_V : Fld := ⟨R.AX_SPD_0, 0x400, 0, 0, 72⟩
def AX_POS_V : Fld := ⟨R.AX_POS_0, 0x400, 0, 0, 72⟩
def AX_POS_OFF_V : Fld := ⟨R.AX_POS_OFF_0, 0x400, 0, 0, 72⟩
def AX_FRAME_V : Fld := ⟨R.AX_FRAME, 0x400, 0, 0, 16⟩
def AUX_SP_V : Fld := ⟨R.AUX_SP_0, 0x200, 0, 0, 72⟩
def AUX_SPD_V : Fld := ⟨R.AUX_SPD_0, 0x200, 0, 0, 72⟩
def SEP_SCYC_V : Fld := ⟨R.SEP_SCYC_0, 0, 0, 0, 64⟩
def SAF_IN_V : Fld := ⟨R.SAF_IN, 0, 0, 0, 32⟩
def FBK_POS_V : Fld := ⟨R.FBK_POS_0, 0x100, 0, 0, 72⟩
def FBK_SPEED_V : Fld := ⟨R.FBK_SPEED_0, 0x100, 0, 0, 72⟩
def FBK_TLAT_V : Fld := ⟨R.FBK_TLAT_0, 0x100, 0, 0, 72⟩
def FBK_TEDGE_V : Fld := ⟨R.FBK_TEDGE_0, 0x100, 0, 0, 72⟩
def FBK_IDX_POS_V : Fld := ⟨R.FBK_IDX_POS_0, 0x100, 0, 0, 72⟩
def FBK_IDX_TIME_V : Fld := ⟨R.FBK_IDX_TIME_0, 0x100, 0, 0, 72⟩
def PWM_TSTAMP_V : Fld := ⟨R.PWM_TSTAMP_0, 0x80, 0, 0, 72⟩
def PWM_EN_MAP_V : Fld := ⟨R.PWM_EN_MAP_0, 0, 0, 0, 72⟩
def PWM_OWN_MAP_V : Fld := ⟨R.PWM_OWN_MAP_0, 0, 0, 0, 72⟩
def ADC_RES_TIME_V : Fld := ⟨R.ADC_RES_TIME_0, 0x100, 0, 0, 72⟩
def ADC_CAL_TIME_V : Fld := ⟨R.ADC_CAL_TIME_0, 0x100, 0, 0, 72⟩
def DMK_P_NUID_V : Fld := ⟨R.DMK_P_NUID_0, 0x1000, 0, 0, 64⟩
def DMK_UID_V : Fld := ⟨R.DMK_UID_0, 0, 0, 0, 64⟩
def ACQ_TRIG_TIME_V : Fld := ⟨R.ACQ_TRIG_TIME_0, 0x400, 0, 0, 72⟩
def BOOT_IDPK_V : Fld := ⟨R.BOOT_IDPK, 0, 4, 0, 32⟩
def BOOT_REC_WIN_V : Fld := ⟨R.BOOT_REC_WIN, 0, 4, 0, 32⟩
end Sys2Proof.Machine.F
end

