-- ==== Sys2Proof/Machine/State.lean ====
section
/-! DEFINITION. The state of the controller as plain data. The BAR0 registers are one sparse map (an unlisted register reads as its reset value); what the chapters give the machine beside the registers is in the structures of Data.lean. -/

namespace Sys2Proof.Machine

/-- No rule of the spec ends in a stop of the whole block, so no meaning raises a fault: an error of the host is a code
(R131), an internal fault is a recorded one (R50).  The one name stands for a machine check no command reaches. -/
inductive Fault where
  /-- Raised by no meaning (safe). -/
  | machineCheck
  deriving DecidableEq, Repr

/-- Why a command has no meaning. -/
inductive Refusal where
  /-- Raised by an arm of exec whose command has no meaning in the model yet (safe). -/
  | notModelled (mnemonic : String)
  deriving DecidableEq, Repr

/-- The controller. -/
structure State where
  /-- commands that wait, first in, first out -/
  pending : List Instr
  /-- the free-running counter (R55) -/
  frc : Nat
  /-- BAR0 registers by offset (R19) -/
  regs : List (Nat × Word)
  /-- bits that the hardware has written at the present edge, by register (R53) -/
  upd : List (Nat × Nat)
  /-- values latched by a read of a _0 register, by the offset of the later register (R72) -/
  latch : List (Nat × Word)
  /-- SRAM (R41) -/
  mem : List Host.Cell
  /-- poisoned SRAM words (R45) -/
  poison : List Nat
  /-- next row of the scrubber (R46) -/
  scrub : Nat
  /-- table words (R121) -/
  tabs : List (Nat × W72)
  tbs : Tbs
  hst : Hst
  sch : Sch
  cen : Cen
  dp : Dp
  trj : Trj
  sep : Sep
  saf : Saf
  fbk : Fbk
  pwm : Pwm
  adc : Adc
  twl : Twl
  /-- link ends: Damask port 0 to 3, Laend lane 4 and 5 -/
  links : List (Nat × Link)
  dmk : Dmk
  lnd : Lnd
  acq : Acq
  boot : Boot
  therm : Therm
  /-- what has left the controller, oldest first -/
  out : List Output
  /-- the model's own: number of the next free value -/
  freeCtr : Nat
  deriving DecidableEq, Repr

/-- The machine right after power-on reset. -/
def State.reset : State :=
  { pending := [], frc := 0, regs := [], upd := [], latch := [], mem := [], poison := [], scrub := 0, tabs := [], tbs := .reset,
    hst := .reset, sch := .reset, cen := .reset, dp := .reset, trj := .reset, sep := .reset, saf := .reset, fbk := .reset, pwm := .reset, adc := .reset, twl := .reset,
    links := [], dmk := .reset, lnd := .reset, acq := .reset, boot := .reset, therm := .reset, out := [], freeCtr := 0 }

end Sys2Proof.Machine
end

