-- ==== Sys2Proof/Machine/Ops.lean ====
section
/-! DEFINITION. The named operations every chapter shares: sparse maps, SRAM bytes and words, BAR0 registers and their fields, table words, corrected time, error codes, internal faults and events. -/

namespace Sys2Proof.Machine

/-! ### Updates of one chapter's part of the state -/

def State.withTbs (s : State) (f : Tbs → Tbs) : State := { s with tbs := f s.tbs }
/-- Mark a FAULT bit of the unit's health report (R615). -/
def State.note (s : State) (n : Nat) : State := { s with lnd := { s.lnd with fault := s.lnd.fault ||| 2 ^ n } }

def State.withHst (s : State) (f : Hst → Hst) : State := { s with hst := f s.hst }

/-! ### Sparse maps: sorted by key, an unlisted key reads as the default -/

/-- The value at a key; an unlisted key has the default d k. -/
def mapGet {α : Type} (d : Nat → α) : List (Nat × α) → Nat → α
  | [], k => d k
  | (j, v) :: m, k => if j = k then v else mapGet d m k

/-- Put a value at a key, keeping the keys rising. -/
def mapIns {α : Type} : List (Nat × α) → Nat → α → List (Nat × α)
  | [], k, v => [(k, v)]
  | (j, w) :: m, k, v =>
    if k < j then (k, v) :: (j, w) :: m
    else if j = k then (k, v) :: m
    else (j, w) :: mapIns m k v

/-- Remove a key. -/
def mapDel {α : Type} : List (Nat × α) → Nat → List (Nat × α)
  | [], _ => []
  | (j, w) :: m, k => if j = k then mapDel m k else (j, w) :: mapDel m k

/-- Write a key in the canonical form: a value equal to the default leaves no entry. -/
def mapSet {α : Type} [DecidableEq α] (d : Nat → α) (m : List (Nat × α)) (k : Nat) (v : α) : List (Nat × α) :=
  if v = d k then mapDel m k else mapIns m k v

/-- Every key of the map is above n. -/
def keysAbove {α : Type} : List (Nat × α) → Nat → Bool
  | [], _ => true
  | (j, _) :: m, n => decide (n < j) && keysAbove m n

/-- The canonical form: keys strictly rising, no entry equal to the default. -/
def mapWf {α : Type} [DecidableEq α] (d : Nat → α) : List (Nat × α) → Bool
  | [] => true
  | (j, v) :: m => decide (v ≠ d j) && keysAbove m j && mapWf d m

/-! ### SRAM (R41) -/

/-- What an unlisted SRAM byte reads as: the boot ROM clears the SRAM (R656, R667). -/
def ramDefault (_ : Nat) : Byte := 0

def readByte (m : List Host.Cell) (a : Nat) : Byte := mapGet ramDefault m a

def writeByte (m : List Host.Cell) (a : Nat) (b : Byte) : List Host.Cell := mapSet ramDefault m a b

/-- The canonical form of the SRAM. -/
def Memory.wf (m : List Host.Cell) : Bool := mapWf ramDefault m

/-- n consecutive bytes from address a, least significant first, as one number (R10). -/
def readBytes (m : List Host.Cell) (a : Nat) : Nat → Nat
  | 0 => 0
  | n + 1 => (readByte m a).toNat + 256 * readBytes m (a + 1) n

/-- Store n bytes of v from address a, least significant first. -/
def writeBytes (m : List Host.Cell) (a v : Nat) : Nat → List Host.Cell
  | 0 => m
  | n + 1 => writeBytes (writeByte m a (BitVec.ofNat 8 v)) (a + 1) (v / 256) n

/-- The number of SRAM words (R41). -/
def sramWords : Nat := 2 ^ 22

/-- SRAM word w: bytes 9 w to 9 w + 8 of the model's byte list. -/
def State.readWord (s : State) (w : Nat) : W72 := BitVec.ofNat 72 (readBytes s.mem (9 * w) 9)

/-- Remove a number from a rising list. -/
def listDel (l : List Nat) (n : Nat) : List Nat := l.filter (fun m => m != n)

/-- Put a number into a rising list without repeats. -/
def listIns : List Nat → Nat → List Nat
  | [], n => [n]
  | m :: l, n => if n < m then n :: m :: l else if m = n then m :: l else m :: listIns l n

/-- A word write stores the whole word and leaves it no longer poisoned (R41, R45). -/
def State.writeWord (s : State) (w : Nat) (v : W72) : State :=
  { s with mem := writeBytes s.mem (9 * w) v.toNat 9, poison := listDel s.poison w }

/-- Store a list of words from word address w on. -/
def State.writeWords (s : State) (w : Nat) : List W72 → State
  | [] => s
  | v :: vs => (s.writeWord w v).writeWords (w + 1) vs

/-- n words from word address w on. -/
def State.readWords (s : State) (w : Nat) : Nat → List W72
  | 0 => []
  | n + 1 => s.readWord w :: s.readWords (w + 1) n

/-! ### Bits and signed numbers -/

/-- Bits [lo + w - 1 : lo] of n. -/
def bits (n lo w : Nat) : Nat := n / 2 ^ lo % 2 ^ w

/-- Bit i of n. -/
def bit (n i : Nat) : Bool := n / 2 ^ i % 2 == 1

/-- n with bits [lo + w - 1 : lo] replaced by v. -/
def putBits (n lo w v : Nat) : Nat :=
  n % 2 ^ lo + v % 2 ^ w * 2 ^ lo + n / 2 ^ (lo + w) * 2 ^ (lo + w)

/-- The w-bit two's complement number n. -/
def sx (w n : Nat) : Int := if n % 2 ^ w < 2 ^ (w - 1) then (n % 2 ^ w : Nat) else (n % 2 ^ w : Nat) - (2 ^ w : Nat)

/-- The w-bit two's complement pattern of z. -/
def toBits (w : Nat) (z : Int) : Nat := (z % (2 ^ w : Nat)).toNat

/-- z held inside lo to hi. -/
def clampI (lo hi z : Int) : Int := if z < lo then lo else if hi < z then hi else z

/-- n + 1, saturating at m. -/
def satInc (m n : Nat) : Nat := if n < m then n + 1 else m

def b2n (b : Bool) : Nat := if b then 1 else 0

/-- The indices i < n with bit i of mask set, lowest first. -/
def maskBits (mask n : Nat) : List Nat := (List.range n).filter (fun i => bit mask i)

/-- Bitwise or of two masks. -/
def mor (a b : Nat) : Nat := a ||| b

/-- a with the bits of b cleared. -/
def mclr (a b : Nat) : Nat := a - (a &&& b)

/-! ### Exact arithmetic and its rounding -/

/-- 2 to a signed power. -/
def pow2 (e : Int) : Rat := if 0 ≤ e then ((2 ^ e.toNat : Nat) : Rat) else 1 / ((2 ^ (-e).toNat : Nat) : Rat)

/-- Rounding toward minus infinity, upward, and to nearest with ties to even. -/
def qfloor (q : Rat) : Int := q.num / (q.den : Int)
def qceil (q : Rat) : Int := -((-q.num) / (q.den : Int))
def qround (q : Rat) : Int :=
  let f := qfloor q
  let r := q - (f : Rat)
  if r < 1 / 2 then f else if 1 / 2 < r then f + 1 else if f % 2 = 0 then f else f + 1

/-- Rounding the spec leaves open: one of the two neighbours of an inexact value (log 20). -/
def qopen (place : Nat) (q : Rat) : Int := if q.den = 1 then q.num else if Config.roundUp place q then qfloor q + 1 else qfloor q

def qabs (q : Rat) : Rat := if q < 0 then -q else q
def qmin (a b : Rat) : Rat := if a ≤ b then a else b
def qmax (a b : Rat) : Rat := if a ≤ b then b else a
def isgn (z : Int) : Int := if z < 0 then -1 else if z = 0 then 0 else 1
def qsgn (q : Rat) : Rat := if q < 0 then -1 else if q = 0 then 0 else 1

/-- One step of the integer square root: bit b is kept where the square stays within n. -/
def isqrtBits (n : Nat) : Nat → Nat → Nat
  | 0, r => r
  | b + 1, r =>
    let c := r + 2 ^ b
    isqrtBits n b (if c * c ≤ n then c else r)

/-- The integer square root of n. -/
def isqrt (n : Nat) : Nat := isqrtBits n (Nat.log2 n / 2 + 1) 0

/-- A square root with at least 128 significant bits, rounded to nearest, ties to even (R258: one method of at least 64). -/
def qsqrt (q : Rat) : Rat :=
  let k : Nat := 130 + Nat.log2 q.den / 2
  let r := q * pow2 (2 * k)
  let m := isqrt (qfloor r).toNat
  let half : Rat := ((m * m + m : Nat) : Rat) + 1 / 4
  ((if half < r ∨ (half = r ∧ m % 2 = 1) then m + 1 else m : Nat) : Rat) * pow2 (-k)

/-- 2 pi to 2^-124. -/
def twoPi : Rat := 133628573008120843482460046645233847912 * pow2 (-124)

/-- 1 - x2 / ((k+1)(k+2)) * (1 - x2 / ((k+3)(k+4)) * ...), n factors: the series of the sine and the cosine. -/
def trigSeries (x2 : Rat) : Nat → Nat → Rat
  | 0, _ => 1
  | n + 1, k => 1 - x2 / (((k + 1) * (k + 2) : Nat) : Rat) * trigSeries x2 n (k + 2)

/-- An angle in turns less its whole turns. -/
def turnPart (t : Rat) : Rat := t - (qfloor t : Rat)

/-- A value of the spec's sine or cosine as the machine forms it: the exact one with the deviation that its unstated precision
leaves, at most half a step of an element's mantissa, inside -1 to 1 (log 22). -/
def trigValue (place : Nat) (angle exact : Rat) : Rat :=
  qmax (-1) (qmin 1 (exact + qmax (-pow2 (-36)) (qmin (pow2 (-36)) (Config.trigDev place angle))))

/-- Sine and cosine of an angle in turns; whole turns make no difference. -/
def turnSin (t : Rat) : Rat :=
  let x := twoPi * turnPart t
  trigValue 0 (turnPart t) (x * trigSeries (x * x) 30 1)
def turnCos (t : Rat) : Rat :=
  let x := twoPi * turnPart t
  trigValue 1 (turnPart t) (trigSeries (x * x) 30 0)

/-- A gain or constant: mantissa s1.35 in [35:0], exponent s8.0 in [43:36] (R293). -/
def gainOf (w : Nat) : Rat := ((sx 36 w : Int) : Rat) * pow2 (sx 8 (w / 2 ^ 36) - 35)

/-! ### BAR0 registers -/

/-- The block of a BAR0 offset (R19), as its rows of the register map. -/
def blockRegs (off : Nat) : List RegDef :=
  if off < 0x10000 then regsHst
  else if off < 0x20000 then regsTbs
  else if off < 0x40000 then regsSch
  else if off < 0x80000 then regsCen ++ regsDp
  else if off < 0x140000 then regsTrj
  else if off < 0x180000 then regsSep
  else if off < 0x1A0000 then regsSaf
  else if off < 0x1C0000 then regsFbk
  else if off < 0x1E0000 then regsPwm
  else if off < 0x200000 then regsAdc
  else if off < 0x240000 then regsTwl
  else if off < 0x280000 then regsDmk
  else if off < 0x2A0000 then regsLnd
  else if off < 0x2C0000 then regsAcq
  else if off < 0x300000 then regsBoot
  else []

/-- The instance (i, j) of a register that lies at an offset, where it does (R20). -/
def RegDef.inst (d : RegDef) (off : Nat) : Option (Nat × Nat) :=
  if off < d.base then none
  else
    let r := off - d.base
    let i := if d.stride = 0 then 0 else r / d.stride
    let q := if d.stride = 0 then r else r % d.stride
    let j := if d.sub = 0 then 0 else q / d.sub
    let z := if d.sub = 0 then q else q % d.sub
    if z = 0 ∧ i < d.count ∧ j < d.subCount then some (i, j) else none

def findIn : List RegDef → Nat → Option (RegDef × Nat × Nat)
  | [], _ => none
  | d :: ds, off =>
    match d.inst off with
    | some (i, j) => some (d, i, j)
    | none => findIn ds off

/-- The register at a BAR0 offset; none at a reserved offset (R19). -/
def findReg (off : Nat) : Option (RegDef × Nat × Nat) := findIn (blockRegs off) off

/-- The reset value of the register at an offset, by the register tables. -/
def regReset (off : Nat) : Word :=
  match findReg off with
  | some (d, _, _) => BitVec.ofNat 32 d.reset
  | none => 0

/-- The stored value of the register at an offset. -/
def State.rd (s : State) (off : Nat) : Word := mapGet regReset s.regs off

/-- Bits of a register that the hardware has written at the present edge (R53). -/
def State.updOf (s : State) (off : Nat) : Nat := mapGet (fun _ => 0) s.upd off

/-- The hardware stores a register's value, of which it writes the bits of a mask. -/
def State.put (s : State) (off : Nat) (v : Word) (m : Nat) : State :=
  { s with regs := mapSet regReset s.regs off v, upd := mapSet (fun _ => 0) s.upd off (mor (s.updOf off) m) }

/-- Store a whole register. -/
def State.wr (s : State) (off : Nat) (v : Word) : State := s.put off v (2 ^ 32 - 1)

/-- n consecutive registers as one number, the first least significant (R71). -/
def State.rdN (s : State) (off : Nat) : Nat → Nat
  | 0 => 0
  | n + 1 => (s.rd off).toNat + 2 ^ 32 * s.rdN (off + 4) n

/-- Store n consecutive registers, of which the hardware writes the bits of a mask. -/
def State.wrN (s : State) (off v m : Nat) : Nat → State
  | 0 => s
  | n + 1 => (s.put off (BitVec.ofNat 32 v) (m % 2 ^ 32)).wrN (off + 4) (v / 2 ^ 32) (m / 2 ^ 32) n

/-- The offset of instance (i, j) of a field's first register. -/
def Fld.off (f : Fld) (i j : Nat) : Nat := f.base + i * f.stride + j * f.sub

/-- How many consecutive registers a field's value spans. -/
def Fld.parts (f : Fld) : Nat := (f.lo + f.width + 31) / 32

/-- The value of a field. -/
def State.getF (s : State) (f : Fld) (i : Nat := 0) (j : Nat := 0) : Nat :=
  bits (s.rdN (f.off i j) f.parts) f.lo f.width

/-- Set a field, the register's other bits unchanged. -/
def State.setF (s : State) (f : Fld) (v : Nat) (i : Nat := 0) (j : Nat := 0) : State :=
  s.wrN (f.off i j) (putBits (s.rdN (f.off i j) f.parts) f.lo f.width v) ((2 ^ f.width - 1) * 2 ^ f.lo) f.parts

/-- A one-bit field, read as a flag. -/
def State.getB (s : State) (f : Fld) (i : Nat := 0) (j : Nat := 0) : Bool := s.getF f i j == 1

/-- A field read as a two's complement number. -/
def State.getS (s : State) (f : Fld) (i : Nat := 0) (j : Nat := 0) : Int := sx f.width (s.getF f i j)

/-- Set a field to the two's complement pattern of a number. -/
def State.setS (s : State) (f : Fld) (z : Int) (i : Nat := 0) (j : Nat := 0) : State := s.setF f (toBits f.width z) i j

/-- Set a sticky flag to 1. -/
def State.flag (s : State) (f : Fld) (i : Nat := 0) (j : Nat := 0) : State := s.setF f 1 i j

/-- Set a flag to 1 where a condition holds. -/
def State.flagIf (s : State) (c : Bool) (f : Fld) (i : Nat := 0) (j : Nat := 0) : State :=
  if c then s.flag f i j else s

/-- Count one in a field, saturating at its largest value. -/
def State.incF (s : State) (f : Fld) (i : Nat := 0) (j : Nat := 0) : State :=
  s.setF f (satInc (2 ^ f.width - 1) (s.getF f i j)) i j

/-- Add n to a field, saturating at its largest value. -/
def State.addF (s : State) (f : Fld) (n : Nat) (i : Nat := 0) (j : Nat := 0) : State :=
  s.setF f (min (2 ^ f.width - 1) (s.getF f i j + n)) i j

/-! ### Table records (R121) -/

/-- The key of one word of a table record. -/
def tabKey (table rec word : Nat) : Nat := table * 2 ^ 24 + rec * 2 ^ 8 + word

/-- Is word w of a table the complement half of a value pair that fills whole words?  TRJ_AX_LIMIT and the first words of
TRJ_AUX_PARAM hold a value and, in the next word, its complement (R256, R293). -/
def complWord (table word : Nat) : Bool :=
  (table == 0x0401 && word % 2 == 1 && decide (word < 8)) || (table == 0x0404 && (word == 1 || word == 3))

/-- Does a word of a table hold a pair, value in [35:0] and complement in [71:36]? (R293, R335, R393) -/
def pairWord (table word : Nat) : Bool :=
  (table == 0x0404 && word == 4) || decide (0x0501 ≤ table ∧ table ≤ 0x0505) || decide (0x0601 ≤ table ∧ table ≤ 0x0606)

/-- What an unwritten table word reads as: value 0, and where the word holds the complement of a critical value the
complement of 0 (DESIGN CHOICE, log 11: the spec gives tables no reset contents). -/
def tabDefault (key : Nat) : W72 :=
  let table := key / 2 ^ 24
  let word := key % 2 ^ 8
  if complWord table word then BitVec.ofNat 72 (2 ^ 72 - 1)
  else if pairWord table word then BitVec.ofNat 72 ((2 ^ 36 - 1) * 2 ^ 36)
  else 0

/-- A complement pair is valid: the halves XOR to all ones (R47). -/
def pairOk (w v c : Nat) : Bool := v % 2 ^ w + c % 2 ^ w == 2 ^ w - 1

def State.tw (s : State) (table rec word : Nat) : Nat := (mapGet tabDefault s.tabs (tabKey table rec word)).toNat

/-- Bits [lo + w - 1 : lo] of a table word. -/
def State.tb (s : State) (table rec word lo w : Nat) : Nat := bits (s.tw table rec word) lo w

def State.twS (s : State) (table rec word : Nat) : Int := sx 72 (s.tw table rec word)

/-- A pair word's value half, and whether the pair is valid (R393). -/
def State.pairVal (s : State) (table rec word : Nat) : Nat := s.tw table rec word % 2 ^ 36
def State.pairGood (s : State) (table rec word : Nat) : Bool :=
  pairOk 36 (s.tw table rec word) (s.tw table rec word / 2 ^ 36)

/-- Bits of a pair word's value half. -/
def State.pb (s : State) (table rec word lo w : Nat) : Nat := bits (s.pairVal table rec word) lo w

/-- A pair word's value half as a signed number. -/
def State.pairS (s : State) (table rec word : Nat) : Int := sx 36 (s.pairVal table rec word)

def State.setTw (s : State) (table rec word : Nat) (v : W72) : State :=
  { s with tabs := mapSet tabDefault s.tabs (tabKey table rec word) v }

/-! ### Corrected time (R57) -/

/-- Corrected time in units of 1/256 ns of a raw time in the same units, under one parameter set. -/
def TbParams.time (p : TbParams) (raw : Int) : Int :=
  raw + p.offset + (p.rate + p.slew) * (raw - 256 * (p.anchor : Int)) / 2 ^ 40

/-- Corrected time, T72, at the present edge. -/
def State.now (s : State) : Nat := (s.tbs.par.time (256 * (s.frc : Int))).toNat

/-- Its integer nanoseconds. -/
def State.ns (s : State) : Nat := s.now / 256

/-- Corrected time of a captured event: the parameters in force at the capturing edge (R75), the event resolved to one of the
eight phases of its nanosecond (R56). -/
def State.stamp (s : State) (raw : Nat) : Nat :=
  let r : Int := (raw / 32 * 32 : Nat)
  ((if raw / 256 < s.tbs.applyEdge then s.tbs.prev else s.tbs.par).time r).toNat

/-- The cell-cycle period in nanoseconds (R30). -/
def State.period (s : State) : Nat := 31250 * 2 ^ s.getF F.TBS_CYC_CTL_PERIOD

/-- The cell cycle runs (R78). -/
def State.cycRun (s : State) : Bool := s.getB F.TBS_STAT_CYC_RUN

/-- The commit lock is set (R134). -/
def State.locked (s : State) : Bool := s.getB F.HST_LOCK_COMMIT

/-! ### Error codes -/

namespace EC
def OK : Nat := 0x0000
def BAD_FIELD : Nat := 0x0101
def RANGE : Nat := 0x0102
def BUSY : Nat := 0x0103
def STATE : Nat := 0x0104
def LOCKED : Nat := 0x0105
def NO_RESOURCE : Nat := 0x0106
def PAIR_MISMATCH : Nat := 0x0107
def ALIGN : Nat := 0x0108
def RESERVED_SET : Nat := 0x0109
end EC

/-- The place of a code in the order of R132; a block's own codes rank by value. -/
def codeRank (c : Nat) : Nat :=
  if c = EC.ALIGN then 0 else if c = EC.BAD_FIELD then 1 else if c = EC.RESERVED_SET then 2
  else if c = EC.LOCKED then 3 else if c = EC.STATE then 4 else if c = EC.RANGE then 5
  else if c = EC.PAIR_MISMATCH then 6 else if c = EC.BUSY then 0x20000 else if c = EC.NO_RESOURCE then 0x20001
  else 7 + c

/-- The code that stands first (R132); EC_OK where there is none. -/
def firstCode : List Nat → Nat
  | [] => EC.OK
  | c :: cs =>
    let r := firstCode cs
    if r = EC.OK then c else if codeRank c ≤ codeRank r then c else r

/-- A check: its code where it is broken. -/
def chk (broken : Bool) (code : Nat) : List Nat := if broken then [code] else []

/-! ### Events (R108, R125 to R127) -/

/-- Append one output of the controller. -/
def State.emit (s : State) (o : Output) : State := { s with out := s.out ++ [o] }

/-- Free slots of an event ring, the one that always stays empty not counted (R104, R108). -/
def State.eqFree (s : State) (n : Nat) : Nat :=
  let size := 2 ^ s.getF F.HST_EQ_CFG_SIZE n
  (mapGet (fun _ => 0) s.hst.eqHead n + 2 * size - 1 - s.getF F.HST_EQ_STAT_TAIL n) % size

/-- A vector is masked: its own mask bit, or the Function Mask (R129). -/
def State.vecMasked (s : State) (v : Nat) : Bool := s.hst.config.functionMask || s.getF F.MSIX_CTL_V v == 1

/-- Mark an MSI-X vector as having a message to send (R128). -/
def State.vecDue (s : State) (v : Nat) : State := { s with hst := { s.hst with vecDue := listIns s.hst.vecDue v } }

/-- Write one entry into event ring n at its tail, with its PHASE bit (R107), and advance the tail. -/
def State.eqWrite (s : State) (n : Nat) (e : Event) : State :=
  let tail := s.getF F.HST_EQ_STAT_TAIL n
  let phase := s.getF F.HST_EQ_STAT_PHASE n
  let size := 2 ^ s.getF F.HST_EQ_CFG_SIZE n
  let f0 := e.type % 2 ^ 16 + phase * 2 ^ 16 + e.source % 2 ^ 8 * 2 ^ 24 + e.inst % 2 ^ 32 * 2 ^ 32
  let s1 := s.emit (.dma (s.getF F.HST_EQ_BASE_V n + 32 * tail)
    [BitVec.ofNat 64 f0, BitVec.ofNat 64 e.time, BitVec.ofNat 64 (e.code % 2 ^ 16), BitVec.ofNat 64 e.detail])
  let s2 := s1.setF F.HST_EQ_STAT_TAIL ((tail + 1) % size) n
  let s3 := if tail + 1 = size then s2.setF F.HST_EQ_STAT_PHASE (1 - phase) n else s2
  if s.getB F.HST_EQ_CFG_IRQ_EN n then s3.vecDue (s.getF F.HST_EQ_CFG_VECTOR n) else s3

/-- Drop an event for ring n and count it (R108). -/
def State.eqDrop (s : State) (n : Nat) : State :=
  (s.incF F.HST_EQ_STAT_DROP n).withHst fun h =>
    { h with eqLost := mapSet (fun _ => 0) h.eqLost n (mapGet (fun _ => 0) h.eqLost n + 1) }

/-- The order of events in a ring: time, then source, then instance (R114). -/
def Event.upTo (a b : Event) : Bool :=
  decide (a.time < b.time) || (a.time == b.time && (decide (a.source < b.source) || (a.source == b.source && decide (a.inst ≤ b.inst))))

/-- Post an event, behind those that R114 puts before it; it is written when its nanosecond has passed. -/
def State.post (s : State) (type source inst code detail : Nat) : State :=
  let e : Event := { type := type, source := source, inst := inst, time := s.ns, code := code, detail := detail }
  s.withHst fun h => { h with events := h.events.filter (fun x => x.upTo e) ++ e :: h.events.filter fun x => !x.upTo e }

/-- The type of an OVERFLOW event (R126). -/
def overflowType : Nat := 0x0008

/-- Write an event: an OVERFLOW event into the reserved slot of the ring it names (R108), any other routed by its source
(R127), or dropped when only the reserved slot is left, the ring is disabled or halted (R108). -/
def State.writeEvent (s : State) (e : Event) : State :=
  let route := bits (s.getF F.HST_EV_ROUTE_ROUTE) (4 * e.source) 4
  if e.type = overflowType ∧ e.source = 0 then
    if s.getB F.HST_EQ_CFG_EN e.inst = false ∨ s.getB F.HST_EQ_STAT_HALT e.inst then s else s.eqWrite e.inst e
  else if route < 8 then s
  else
    let n := route % 8
    if s.getB F.HST_EQ_CFG_EN n = false ∨ s.getB F.HST_EQ_STAT_HALT n ∨ s.eqFree n ≤ 1 then s.eqDrop n else s.eqWrite n e

/-- Write the events whose nanosecond has passed. -/
def State.flushEvents (s : State) : State :=
  (s.hst.events.filter fun e => e.time != s.ns).foldl State.writeEvent
    (s.withHst fun h => { h with events := h.events.filter fun e => e.time == s.ns })

/-- A global event: source 0, instance 0 (R126). -/
def State.postG (s : State) (type code detail : Nat) : State := s.post type 0 0 code detail

/-! ### Internal faults (R50) and rejected register writes (R131) -/

/-- Record an internal fault with its code, detecting block, value kind and instance, and post PAIR_FAULT (R50, R99). -/
def State.fault (s : State) (code block value inst : Nat) : State :=
  let s1 := ((s.setF F.HST_FAULT_CODE_CODE code).setF F.HST_FAULT_SRC_BLOCK block).setF F.HST_FAULT_SRC_VALUE value
  let s2 := ((s1.setF F.HST_FAULT_SRC_INST inst).incF F.HST_FAULT_CNT_COUNT).flag F.HST_FAULT_FLAG_PAIR
  (s2.note 1).postG 0x0004 EC.PAIR_MISMATCH (block % 2 ^ 8 + value % 2 ^ 8 * 2 ^ 8 + inst % 2 ^ 16 * 2 ^ 16)

/-- A rejected register write (R131); before the runtime no event is posted (R668). -/
def State.reject (s : State) (off code : Nat) : State :=
  let s1 := ((s.setF F.HST_ERR_CODE_CODE code).setF F.HST_ERR_ADDR_OFFSET off).incF F.HST_ERR_CNT_COUNT
  let s2 := (s1.flag F.HST_FAULT_FLAG_REJ).withHst fun h => { h with rejSince := true }
  if s.getB F.HST_STAT_RUNTIME then s2.postG 0x0001 code off else s2

/-- End a command that was held: its waiting completion takes its code and data (R96, R119). -/
def State.completeHeld (s : State) (key code d0 d1 : Nat) : State :=
  s.withHst fun h => { h with comps := h.comps.map fun c => if c.key = some key then { c with key := none, code := code, d0 := d0, d1 := d1 } else c }

/-- Fresh free value number: the counter a value left open by the spec is drawn with. -/
def State.tick1 (s : State) : State := { s with freeCtr := s.freeCtr + 1 }

/-- Fold a state change over a list of indices. -/
def State.each {α : Type} (s : State) (l : List α) (f : α → State → State) : State := l.foldl (fun t a => f a t) s

end Sys2Proof.Machine
end

