-- ==== Sys2Proof/Machine/Geom.lean ====
section
/-! DEFINITION. Exact geometry of the cell: vectors and frames over the rationals, the chain of an arm, distances of segments and boxes (R302 to R305, R318, R372), and the two checks of cyclic redundancy (R350, R508). -/

namespace Sys2Proof.Machine

/-! ### Cyclic redundancy checks -/

/-- One bit of a reflected CRC. -/
def crcBit (poly c : Nat) : Nat := if c % 2 = 1 then (c / 2) ^^^ poly else c / 2

def crcByte (poly c b : Nat) : Nat := (List.range 8).foldl (fun x _ => crcBit poly x) (c ^^^ b)

/-- CRC-32C with a seed: reflected, final XOR of all ones (R350). -/
def crc32c (seed : Nat) (data : List Byte) : Nat :=
  (data.foldl (fun c b => crcByte 0x82F63B78 c b.toNat) seed) ^^^ 0xFFFFFFFF

/-- n bytes of v, least significant first. -/
def leBytes (v : Nat) : Nat → List Byte
  | 0 => []
  | n + 1 => BitVec.ofNat 8 v :: leBytes (v / 256) n

/-- Bytes i to i + n - 1 of a list as one number, least significant first (R10). -/
def leAt (data : List Byte) (i : Nat) : Nat → Nat
  | 0 => 0
  | n + 1 => (data.getD i 0).toNat + 256 * leAt data (i + 1) n

/-! ### Vectors and frames -/

/-- A vector of the cell frame, 0.1 mm or 0.1 mm/s. -/
structure V3 where
  x : Rat
  y : Rat
  z : Rat
  deriving DecidableEq, Repr

def V3.add (a b : V3) : V3 := ⟨a.x + b.x, a.y + b.y, a.z + b.z⟩
def V3.sub (a b : V3) : V3 := ⟨a.x - b.x, a.y - b.y, a.z - b.z⟩
def V3.scale (k : Rat) (a : V3) : V3 := ⟨k * a.x, k * a.y, k * a.z⟩
def V3.dot (a b : V3) : Rat := a.x * b.x + a.y * b.y + a.z * b.z
def V3.cross (a b : V3) : V3 := ⟨a.y * b.z - a.z * b.y, a.z * b.x - a.x * b.z, a.x * b.y - a.y * b.x⟩
def V3.zero : V3 := ⟨0, 0, 0⟩
/-- The magnitude, to 2^-128. -/
def V3.norm (a : V3) : Rat := qsqrt (a.dot a)
def V3.mid (a b : V3) : V3 := (a.add b).scale (1 / 2)

/-- A frame: three axis vectors and an origin. -/
structure Pose where
  ex : V3
  ey : V3
  ez : V3
  o : V3
  deriving DecidableEq, Repr

/-- A point of a frame in the cell frame. -/
def Pose.at (f : Pose) (p : V3) : V3 := ((f.o.add (f.ex.scale p.x)).add (f.ey.scale p.y)).add (f.ez.scale p.z)


/-- Rotation about the frame's z axis, then translation d along it; then translation a along x, rotation about x (R304). -/
def Pose.link (f : Pose) (theta d a alpha : Rat) : Pose :=
  let c := turnCos theta
  let s := turnSin theta
  let ex := (f.ex.scale c).add (f.ey.scale s)
  let ey := (f.ey.scale c).sub (f.ex.scale s)
  let o := (f.o.add (f.ez.scale d)).add (ex.scale a)
  let ca := turnCos alpha
  let sa := turnSin alpha
  { ex := ex, ey := (ey.scale ca).add (f.ez.scale sa), ez := (f.ez.scale ca).sub (ey.scale sa), o := o }

/-! ### Distances -/

def unitClamp (q : Rat) : Rat := if q < 0 then 0 else if 1 < q then 1 else q

/-- Parameters of the closest points of segments a0 a1 and b0 b1. -/
def segClosest (a0 a1 b0 b1 : V3) : Rat × Rat :=
  let d1 := a1.sub a0
  let d2 := b1.sub b0
  let r := a0.sub b0
  let a := d1.dot d1
  let e := d2.dot d2
  let f := d2.dot r
  if a = 0 ∧ e = 0 then (0, 0)
  else if a = 0 then (0, unitClamp (f / e))
  else
    let c := d1.dot r
    if e = 0 then (unitClamp (-c / a), 0)
    else
      let b := d1.dot d2
      let den := a * e - b * b
      let s := if den = 0 then 0 else unitClamp ((b * f - c * e) / den)
      let t := (b * s + f) / e
      if t < 0 then (unitClamp (-c / a), 0)
      else if 1 < t then (unitClamp ((b - c) / a), 1)
      else (s, t)

def V3.lerp (a b : V3) (t : Rat) : V3 := a.add ((b.sub a).scale t)

/-- The closest points of two segments. -/
def segPoints (a0 a1 b0 b1 : V3) : V3 × V3 :=
  let p := segClosest a0 a1 b0 b1
  (a0.lerp a1 p.1, b0.lerp b1 p.2)

/-- Squared distance of a point from a segment. -/
def pointSeg2 (p a b : V3) : Rat :=
  let d := b.sub a
  let l := d.dot d
  let t := if l = 0 then 0 else unitClamp ((p.sub a).dot d / l)
  let q := (a.lerp b t).sub p
  q.dot q

/-- Squared distance of a point from a box. -/
def pointBox2 (p lo hi : V3) : Rat :=
  let g (x l h : Rat) : Rat := if x < l then l - x else if h < x then x - h else 0
  let q : V3 := ⟨g p.x lo.x hi.x, g p.y lo.y hi.y, g p.z lo.z hi.z⟩
  q.dot q

/-- The parameters at which a segment crosses the planes of a box, and 0 and 1: between two of them in a row the squared
distance from the box is one quadratic. -/
def boxCuts (a b lo hi : V3) : List Rat :=
  let c (p d w : Rat) : List Rat := if d = 0 then [] else [(w - p) / d].filter fun t => decide (0 < t) && decide (t < 1)
  let d := b.sub a
  let l := [0, 1] ++ c a.x d.x lo.x ++ c a.x d.x hi.x ++ c a.y d.y lo.y ++ c a.y d.y hi.y ++ c a.z d.z lo.z ++ c a.z d.z hi.z
  l

/-- The least squared distance of a segment from a box on a piece [t0, t1] where it is one quadratic. -/
def boxPiece (a b lo hi : V3) (t0 t1 : Rat) : Rat :=
  let f (t : Rat) : Rat := pointBox2 (a.lerp b t) lo hi
  let m := (t0 + t1) / 2
  let y0 := f t0
  let y1 := f t1
  let ym := f m
  let k := 2 * y0 + 2 * y1 - 4 * ym
  let least := qmin y0 y1
  if k = 0 then least
  else
    let u := (3 * y0 + y1 - 4 * ym) / (2 * k)
    if 0 < u ∧ u < 1 then qmin least (f (t0 + (t1 - t0) * u)) else least

/-- The next cut after t0 in a list. -/
def nextCut (l : List Rat) (t0 : Rat) : Rat := l.foldl (fun m t => if t0 < t ∧ t < m then t else m) 1

/-- The squared distance of a segment from a box. -/
def segBox2 (a b lo hi : V3) : Rat :=
  let l := boxCuts a b lo hi
  l.foldl (fun m t => if t < 1 then qmin m (boxPiece a b lo hi t (nextCut l t)) else m) (pointBox2 a lo hi)

/-- A point lies inside a box. -/
def inBox (p lo hi : V3) : Bool :=
  decide (lo.x ≤ p.x) && decide (p.x ≤ hi.x) && decide (lo.y ≤ p.y) && decide (p.y ≤ hi.y) && decide (lo.z ≤ p.z)
    && decide (p.z ≤ hi.z)

end Sys2Proof.Machine
end

