-- ==== Sys2Proof/Machine/Tbs.lean ====
section
/-! DEFINITION. The time base (spec chapter 02): changes of corrected time, the cell cycle's instants, latched reads and the checks of the TBS registers. -/

namespace Sys2Proof.Machine

/-! ### Changes of offset and rate -/

/-- The largest magnitude of a rate (R58, R66). -/
def rateMax : Int := 0x20000000

/-- A slew is in progress (R65). -/
def State.slewing (s : State) : Bool := s.getB F.TBS_STAT_SLEWING

/-- A step of a change, 0 where none is included. -/
def TbChange.stepBy (c : TbChange) : Int := c.step.getD 0

/-- The slew that will be in force after a change (R66, R67). -/
def slewAfter (c : TbChange) (s : State) : Bool :=
  match c.slew with
  | some a => decide (a ≠ 0)
  | none => s.slewing

/-- The checks of arming a change, whichever path it comes by (R58, R61, R64, R66, R68).  The negative step is judged by the
corrected time of the edge of arming (DESIGN CHOICE, log 63). -/
def armCodes (c : TbChange) (s : State) : List Nat :=
  chk (c.step.isNone && c.rate.isNone && c.slew.isNone) EC.BAD_FIELD
  ++ chk (decide (c.stepBy ≠ 0) && s.cycRun) EC.STATE
  ++ chk (decide (c.rate.getD 0 < -rateMax) || decide (rateMax < c.rate.getD 0)) EC.RANGE
  ++ chk (decide (c.at_ ≠ 0) && decide (c.at_ < s.now + 256000)) EC.RANGE
  ++ chk (decide ((s.now : Int) + c.stepBy < 0)) EC.RANGE
  ++ chk (slewAfter c s && decide (rateMax < (c.rate.getD s.tbs.par.rate).natAbs + s.getF F.TBS_SLEW_LIM_V)) EC.RANGE
  ++ chk s.tbs.pend.isSome EC.BUSY

/-- Arm a change (R61, R68). -/
def armChange (c : TbChange) (s : State) : State :=
  (s.withTbs fun t => { t with pend := some { c with armEdge := s.frc } }).setF F.TBS_STAT_PENDING 1

/-- Discard the pending change (R68). -/
def cancelChange (s : State) : State :=
  (s.withTbs fun t => { t with pend := none }).setF F.TBS_STAT_PENDING 0

/-- The change that the pending registers hold, with the parts that a command names (R87). -/
def pendingChange (useStep useRate useSlew : Bool) (s : State) : TbChange :=
  { step := if useStep then some (s.getS F.TBS_P_STEP_V) else none,
    rate := if useRate then some (s.getS F.TBS_P_RATE_V) else none,
    slew := if useSlew then some (s.getS F.TBS_P_SLEW_V) else none,
    at_ := s.getF F.TBS_P_AT_V, armEdge := s.frc, by_ := none }

/-- The slew term of an amount (R65). -/
def slewTerm (a : Int) (lim : Nat) : Int := if a = 0 then 0 else if a < 0 then -(lim : Int) else lim

/-- The correction a slew has made at an edge, in units of 2^-40 / 256 ns (R65). -/
def slewMade (t : Tbs) (edge : Nat) : Int := t.slewAcc + t.par.slew * (256 * ((edge : Int) - t.par.anchor))

/-- The armed change's apply edge is the present edge or lies behind (R61).  A change armed at the very edge of a T0 not yet
taken applies at that T0 (DESIGN CHOICE, log 64). -/
def applyDue (c : TbChange) (s : State) : Bool :=
  if c.at_ = 0 then
    if s.cycRun then decide (s.tbs.nextT0 * 256 ≤ s.now) || (decide (s.tbs.t0Edge = s.frc) && decide (c.armEdge < s.frc))
    else decide (c.armEdge < s.frc)
  else decide (c.at_ ≤ s.now)

/-- Apply a change at the present edge (R62, R63, R65, R67).  A slew in progress keeps the term it took at its own apply edge,
whatever TBS_SLEW_LIM holds now (DESIGN CHOICE, log 62). -/
def applyChange (c : TbChange) (s : State) : State :=
  let t := s.tbs
  let a : Int := (s.frc : Int) - t.par.anchor
  let cont := t.par.offset + (t.par.rate + t.par.slew) * (256 * a) / 2 ^ 40 + c.stepBy
  let base := t.slewBase + t.par.rate * (256 * a) / 2 ^ 40 + c.stepBy
  let rate := c.rate.getD t.par.rate
  let lim := s.getF F.TBS_SLEW_LIM_V
  let p : TbParams := match c.slew with
    | some amt => { offset := cont, rate := rate, slew := slewTerm amt lim, anchor := s.frc }
    | none => { offset := cont, rate := rate, slew := t.par.slew, anchor := s.frc }
  let s1 := s.withTbs fun t => { t with
    par := p, prev := t.par, applyEdge := s.frc, pend := none, stepFrom := if c.stepBy = 0 then none else some s.now,
    slewAmt := c.slew.getD t.slewAmt,
    slewAcc := match c.slew with | some _ => 0 | none => slewMade t s.frc,
    slewBase := match c.slew with | some _ => cont | none => base }
  ((s1.setF F.TBS_STAT_PENDING 0).flag F.TBS_FLAG_APPLIED).setF F.TBS_STAT_SLEWING (b2n (slewAfter c s))

/-- The accumulated correction has reached the slew's amount (R65). -/
def slewDue (s : State) : Bool :=
  s.slewing && decide (s.tbs.slewAmt.natAbs * 2 ^ 40 ≤ (slewMade s.tbs s.frc).natAbs)

/-- End the slew: exactly its amount is folded into OFFSET and the effective rate returns to RATE (R65). -/
def endSlew (s : State) : State :=
  let t := s.tbs
  let off := t.slewBase + t.par.rate * (256 * ((s.frc : Int) - t.par.anchor)) / 2 ^ 40 + t.slewAmt
  let s1 := s.withTbs fun t => { t with
    par := { offset := off, rate := t.par.rate, slew := 0, anchor := s.frc }, prev := t.par, applyEdge := s.frc,
    slewAmt := 0, slewAcc := 0, slewBase := off }
  (s1.setF F.TBS_STAT_SLEWING 0).flag F.TBS_FLAG_SLEW_DONE

/-- Outstanding slew, 1/256 ns (TBS_SLEW_REM). -/
def slewRem (s : State) : Int :=
  if s.slewing then s.tbs.slewAmt - slewMade s.tbs s.frc / 2 ^ 40 else 0

/-! ### The cell cycle -/

/-- TC after T0 in nanoseconds (R35). -/
def State.tcNs (s : State) : Nat := s.period - 2000

/-- The instant of TS, of TR, of TC of the present cycle, T72 (R35: units of 125 ps). -/
def State.tsAt (s : State) : Nat := s.tbs.t0 * 256 + s.getF F.TBS_TS_V * 32
def State.trAt (s : State) : Nat := s.tbs.t0 * 256 + s.getF F.TBS_TR_V * 32
def State.tcAt (s : State) : Nat := (s.tbs.t0 + s.tcNs) * 256

/-- Where the phase-selected timed line launches a strobe for an instant that the present edge has reached: the first of the
eight phases since the edge before at which corrected time is at or after it (R77, R81), in raw T72 units. -/
def State.phaseRaw (s : State) (at_ : Nat) : Nat :=
  let edge := 256 * s.frc
  let reached (raw : Nat) : Bool := decide ((at_ : Int) ≤ s.tbs.par.time raw)
  if s.tbs.applyEdge = s.frc ∨ reached (edge - 256) then edge
  else (((List.range 8).map fun j => edge - 224 + 32 * j).find? reached).getD edge

/-- The first instant, in ns, at or after t (T72) with (t - phase) mod P = 0 (R31, R78). -/
def firstT0 (t phase p : Nat) : Nat :=
  let n := (t + 255) / 256
  if n ≤ phase then phase else phase + (n - phase + p - 1) / p * p

/-- The cell cycle starts (R78). -/
def startCycle (s : State) : State :=
  let t := max (s.getF F.TBS_CYC_START_V) (s.now + 256000)
  let first := firstT0 t (s.getF F.TBS_CYC_PHASE_V) s.period
  (s.withTbs fun b => { b with nextT0 := first, started := false, stopping := false, tsDone := true, trDone := true, tcDone := true }).setF
    F.TBS_STAT_CYC_RUN 1

/-- TR's default for a period, in units of 125 ps (R35). -/
def trDefault (p : Nat) : Nat := if p = 31250 then 96000 else p * 2 / 5 * 8

/-- A PERIOD write sets TS to 0, TR to its default and the phase to itself mod P (R80). -/
def periodFollow (s : State) : State :=
  ((s.setF F.TBS_TS_V 0).setF F.TBS_TR_V (trDefault s.period)).setF F.TBS_CYC_PHASE_V (s.getF F.TBS_CYC_PHASE_V % s.period)

/-! ### Reads -/

/-- The value a read of the register at an offset finds, where it is formed from the time base's own state. -/
def tbsView (off : Nat) (s : State) : Option Word :=
  let t := s.tbs
  let o := toBits 72 t.par.offset
  if off = R.TBS_OFFSET_0 then some (BitVec.ofNat 32 o)
  else if off = R.TBS_OFFSET_1 then some (BitVec.ofNat 32 (o / 2 ^ 32))
  else if off = R.TBS_OFFSET_2 then some (BitVec.ofNat 32 (o / 2 ^ 64))
  else if off = R.TBS_ANCHOR_0 then some (BitVec.ofNat 32 t.par.anchor)
  else if off = R.TBS_ANCHOR_1 then some (BitVec.ofNat 32 (t.par.anchor / 2 ^ 32))
  else if off = R.TBS_RATE then some (BitVec.ofNat 32 (toBits 32 t.par.rate))
  else if off = R.TBS_RATE_EFF then some (BitVec.ofNat 32 (toBits 32 (t.par.rate + t.par.slew)))
  else if off = R.TBS_SLEW_REM then some (BitVec.ofNat 32 (toBits 32 (slewRem s)))
  else none

/-- Latch a value of up to 72 bits that a read of the register at off returns: the later registers keep it (R72). -/
def latchAt (off v : Nat) (s : State) : State :=
  let l := mapSet (fun _ => 0) s.latch (off + 4) (BitVec.ofNat 32 (v / 2 ^ 32))
  { s with latch := mapSet (fun _ => 0) l (off + 8) (BitVec.ofNat 32 (v / 2 ^ 64)) }

/-! ### Write checks (R61 to R69, R80, R84, R87, R88) -/

/-- TR lies from TS + 1 us to P - 6 us (R35, R80). -/
def trLegal (ts tr p : Nat) : Bool := decide (ts + 8000 ≤ tr) && decide (tr ≤ (p - 6000) * 8)

/-- Is the offset one of the pending registers? (R69) -/
def isPendReg (off : Nat) : Bool :=
  decide (R.TBS_P_STEP_0 ≤ off ∧ off ≤ R.TBS_P_STEP_2) || off == R.TBS_P_RATE || off == R.TBS_P_SLEW
    || decide (R.TBS_P_AT_0 ≤ off ∧ off ≤ R.TBS_P_AT_2) || off == R.TBS_P_CMD

/-- The change a write of TBS_P_CMD arms. -/
def cmdChange (v : Nat) (s : State) : TbChange := pendingChange (bit v 4) (bit v 5) (bit v 6) s

/-- The checks of a write of v to the TBS register of row base, instance u, whose stored value is old.  staysSto says
that STO is in force on every configured axis (R79). -/
def tbsCodes (base u v old : Nat) (sto : Bool) (s : State) : List Nat :=
  let ch (lo w : Nat) : Bool := decide (bits v lo w ≠ bits old lo w)
  chk (isPendReg base && s.getF F.TBS_CTL_SRC == 1 && (base == R.TBS_P_CMD || decide (v ≠ old))) EC.STATE
  ++ (if base = R.TBS_CTL then chk (decide (2 ≤ bits v 0 2)) EC.BAD_FIELD ++ chk (ch 0 2 && s.tbs.pend.isSome) EC.BUSY
  else if base = R.TBS_P_CMD then
    chk (bit v 0 && bit v 1) EC.BAD_FIELD ++ (if bit v 0 then armCodes (cmdChange v s) s else [])
  else if base = R.TBS_SLEW_LIM then chk (decide (v = 0) || decide (0x20000000 < v)) EC.RANGE
  else if base = R.TBS_CYC_CTL then
    chk (ch 0 2 && s.cycRun) EC.STATE
    ++ chk (ch 8 1 && bit v 8 && s.cycRun) EC.STATE
    ++ chk (ch 8 1 && !bit v 8 && !sto) EC.STATE
  else if base = R.TBS_CYC_PHASE then
    chk (ch 0 18 && s.cycRun) EC.STATE ++ chk (decide (s.period ≤ bits v 0 18)) EC.RANGE
  else if base = R.TBS_TS then
    chk (ch 0 19 && s.cycRun) EC.STATE
    ++ chk (decide (s.period * 2 < bits v 0 19) || !trLegal (bits v 0 19) (s.getF F.TBS_TR_V) s.period) EC.RANGE
  else if base = R.TBS_TR then
    chk (ch 0 21 && s.cycRun) EC.STATE ++ chk (!trLegal (s.getF F.TBS_TS_V) (bits v 0 21) s.period) EC.RANGE
  else if base = R.TBS_TRG_AT_0 ∨ base = R.TBS_TRG_AT_1 ∨ base = R.TBS_TRG_AT_2 then
    chk (decide (v ≠ old) && s.getB F.TBS_TRG_CTL_EN u) EC.BUSY
  else if base = R.TBS_TRG_PER then
    chk (decide (1 ≤ v) && decide (v ≤ 999)) EC.RANGE ++ chk (decide (v ≠ old) && s.getB F.TBS_TRG_CTL_EN u) EC.BUSY
  else if base = R.TBS_TRG_CTL then
    chk (decide (5 ≤ bits v 0 3) || (bit v 8 && bits v 0 3 == 0)) EC.BAD_FIELD
    ++ chk (decide (3 ≤ bits v 0 3) && decide (bits v 0 3 ≤ 4) && decide (8 ≤ bits v 4 4)) EC.RANGE
  else [])

/-- What follows an accepted write of v over old to a TBS register (R78 to R82). -/
def tbsFollow (base u v old : Nat) (s : State) : State :=
  if base = R.TBS_P_CMD then
    if bit v 0 then armChange (cmdChange v s) s else if bit v 1 then cancelChange s else s
  else if base = R.TBS_CYC_CTL then
    let s1 := if bits v 0 2 ≠ bits old 0 2 then periodFollow s else s
    if bit v 8 && !bit old 8 then startCycle s1
    else if !bit v 8 && bit old 8 then
      s1.withTbs fun t => { t with stopping := true }
    else s1
  else if base = R.TBS_TRG_CTL then
    if bit v 8 && !bit old 8 then
      let a := s.getF F.TBS_TRG_AT_V u
      s.withTbs fun t => { t with trgNext := mapSet (fun _ => none) t.trgNext u (some a),
                                  trgLate := if a < s.now then listIns t.trgLate u else listDel t.trgLate u }
    else if !bit v 8 then s.withTbs fun t => { t with trgNext := mapSet (fun _ => none) t.trgNext u none }
    else s
  else s

end Sys2Proof.Machine
end

