-- ==== Sys2Proof/Machine/Sch.lean ====
section
/-! DEFINITION. The task scheduler (spec chapter 04): context states, releases, ready and delay lists, placement on lanes, aging and services' lists. -/

namespace Sys2Proof.Machine

def State.withSch (s : State) (f : Sch → Sch) : State := { s with sch := f s.sch }

/-- Number of contexts (R137). -/
def ctxCount : Nat := 128

/-! ### Context states (R139) -/

def State.ctxSt (s : State) (n : Nat) : Nat := s.getF F.SCH_CTX_STAT_STATE n

namespace CtxSt
def OFF : Nat := 0
def WAIT : Nat := 1
def DELAY : Nat := 2
def READY : Nat := 3
def RUN : Nat := 4
def HALT : Nat := 5
end CtxSt

def State.setCtxSt (s : State) (n st : Nat) : State := s.setF F.SCH_CTX_STAT_STATE st n

/-- The context's target is the service cores. -/
def State.isSvc (s : State) (n : Nat) : Bool := s.getB F.SCH_CTX_CTL_TARGET n

/-- The ready list of a level: service contexts have lists of their own (R151). -/
def listKey (svc : Bool) (level : Nat) : Nat := if svc then 16 + level else level

def State.readyList (s : State) (key : Nat) : List Nat := mapGet (fun _ => []) s.sch.ready key

def State.setReady (s : State) (key : Nat) (l : List Nat) : State :=
  s.withSch fun h => { h with ready := mapSet (fun _ => []) h.ready key l }

def State.delayList (s : State) (key : Nat) : List (Nat × Nat) := mapGet (fun _ => []) s.sch.delay key

def State.setDelay (s : State) (key : Nat) (l : List (Nat × Nat)) : State :=
  s.withSch fun h => { h with delay := mapSet (fun _ => []) h.delay key l }

/-- Remove a context from its ready and delay lists. -/
def unlist (n : Nat) (s : State) : State :=
  s.withSch fun h => { h with
    ready := (h.ready.map fun p => (p.1, p.2.filter (· ≠ n))).filter (fun p => p.2 ≠ []),
    delay := (h.delay.map fun p => (p.1, p.2.filter (fun q => q.1 ≠ n))).filter (fun p => p.2 ≠ []) }

/-! ### Lanes (R148, R149) -/

/-- The lanes of a group of 2^size lanes from base, as a mask. -/
def groupMask (base size : Nat) : Nat := (2 ^ 2 ^ size - 1) * 2 ^ base

/-- The lanes a context holds while it runs: those of its dispatch, also where a stopping context is configured anew. -/
def State.lanesOf (s : State) (n : Nat) : Nat :=
  if s.ctxSt n = CtxSt.RUN then mapGet (fun _ => 0) s.sch.runLanes n else 0

/-- Lanes in use (SCH_STAT.LANE_BUSY). -/
def State.laneBusy (s : State) : Nat := (List.range ctxCount).foldl (fun m n => m ||| s.lanesOf n) 0

/-- The level-0 group of a context (R148). -/
def State.l0Group (s : State) (n : Nat) : Nat :=
  groupMask (s.getF F.SCH_CTX_CTL_LANE_BASE n) (s.getF F.SCH_CTX_CTL_LANES n) % 2 ^ 16

/-- Enabled level-0 contexts' lanes (SCH_L0_LANES), one context left out. -/
def State.l0Lanes (s : State) (but : Option Nat) : Nat :=
  (List.range ctxCount).foldl (fun m n =>
    if s.ctxSt n ≠ CtxSt.OFF ∧ s.getF F.SCH_CTX_CTL_LEVEL n = 0 ∧ some n ≠ but then m ||| s.l0Group n else m) 0

/-- Contexts in READY (SCH_STAT.READY_CNT). -/
def State.readyCount (s : State) : Nat := ((List.range ctxCount).filter fun n => s.ctxSt n == CtxSt.READY).length

/-! ### Entering READY -/

/-- A context becomes READY: at the head (preempted) or the tail of the list of its current level (R147).  A level-0
context notes whether a lower level held a lane of its group at that edge (R157). -/
def makeReady (n : Nat) (head : Bool) (s : State) : State :=
  let key := listKey (s.isSvc n) (s.getF F.SCH_CTX_STAT_CUR_LEVEL n)
  let l := s.readyList key
  let held := decide (s.getF F.SCH_CTX_CTL_LEVEL n = 0) && decide (s.laneBusy &&& s.l0Group n ≠ 0)
  let s1 := (s.setReady key (if head then n :: l else l ++ [n])).setCtxSt n CtxSt.READY
  s1.withSch fun h => { h with
    age := mapSet (fun _ => 0) h.age n 0,
    l0Held := if held then listIns h.l0Held n else listDel h.l0Held n }

/-! ### Placement (R148, R149, R151) -/

/-- The aligned groups of 2^size lanes, lowest first. -/
def groups (size : Nat) : List Nat := (List.range (16 / 2 ^ size)).map (· * 2 ^ size)

/-- Reserved lanes that bind a context (R149). -/
def reservedFor (n : Nat) (s : State) : Nat :=
  match s.sch.reserv with
  | some (h, base) => if h = n then 0 else groupMask base (s.getF F.SCH_CTX_CTL_LANES h)
  | none => 0

/-- The groups of ready level-0 contexts: level 0 wins its lanes (R160). -/
def State.l0Ready (s : State) : Nat := (s.readyList 0).foldl (fun m n => m ||| s.l0Group n) 0

/-- The lowest free aligned group on which a context fits (R149). -/
def fit (n : Nat) (s : State) : Option Nat :=
  let size := s.getF F.SCH_CTX_CTL_LANES n
  let taken := s.laneBusy ||| reservedFor n s ||| s.l0Ready
  (groups size).find? fun b => groupMask b size &&& taken == 0

/-- Ready contexts of levels 1 to 15, highest level first, in list order. -/
def readyOrder (svc : Bool) (s : State) : List Nat :=
  (List.range 15).flatMap fun i => s.readyList (listKey svc (i + 1))

/-- The group of a size with the most free lanes, the lowest on ties (R149). -/
def bestGroup (busy size : Nat) : Nat :=
  let free (b : Nat) : Nat := (maskBits (groupMask b size &&& (65535 - busy % 65536)) 16).length
  (groups size).foldl (fun best b => if free best < free b then b else best) 0

/-- A reservation stays with its holder while that is ready and the head of the highest non-empty list is of no higher
level (R149). -/
def State.keepsReserv (s : State) (hd : Nat) : Bool :=
  match s.sch.reserv with
  | some (h, _) => s.ctxSt h == CtxSt.READY && decide (s.getF F.SCH_CTX_STAT_CUR_LEVEL h ≤ s.getF F.SCH_CTX_STAT_CUR_LEVEL hd)
  | none => false

/-- Bring the reservation up to date: the head of the highest non-empty list, where it does not fit, holds one (R149). -/
def updateReserv (s : State) : State :=
  match readyOrder false s with
  | [] => s.withSch fun h => { h with reserv := none }
  | hd :: _ =>
    if s.keepsReserv hd then s
    else
      let s0 := s.withSch fun h => { h with reserv := none }
      match fit hd s0 with
      | some _ => s0
      | none => s0.withSch fun h =>
          { h with reserv := some (hd, bestGroup s.laneBusy (s.getF F.SCH_CTX_CTL_LANES hd)) }

/-! ### Releases (R140 to R145) -/

/-- Insert into a delay list, sorted by wake tick, an equal tick behind the earlier insertion (R145). -/
def insWake : List (Nat × Nat) → Nat → Nat → List (Nat × Nat)
  | [], n, w => [(n, w)]
  | (m, v) :: l, n, w => if w < v then (n, w) :: (m, v) :: l else (m, v) :: insWake l n w

/-- Put a context on its delay list with a wake tick (R145). -/
def delayCtx (n wake : Nat) (s : State) : State :=
  let key := s.getF F.SCH_CTX_CTL_LEVEL n / 4
  ((s.setDelay key (insWake (s.delayList key) n wake)).setCtxSt n CtxSt.DELAY).withSch fun h =>
    { h with wake := mapSet (fun _ => 0) h.wake n wake }

/-- The tick number (R138). -/
def State.tickNow (s : State) : Nat := s.sch.tick

/-- A context is released in the present cycle (R161). -/
def markReleased (n : Nat) (s : State) : State :=
  s.withSch fun h => { h with relCyc := mapSet (fun _ => none) h.relCyc n (some s.tbs.k) }

/-- The counter of a context has reached 0: READY, or DELAY first (R140). -/
def releaseCtx (n : Nat) (s : State) : State :=
  let s1 := markReleased n s
  let d := s.getF F.SCH_CTX_TIME_DELAY n
  if d = 0 then makeReady n false s1 else delayCtx n (s.tickNow + d) s1

/-- Discarded decrements of a context: flags and counts (R144). -/
def discardDec (n count : Nat) (s : State) : State :=
  let under := min 65535 (s.getF F.SCH_CTX_CNT_UNDER n + count)
  let s1 := ((s.setF F.SCH_CTX_CNT_UNDER under n).flag F.SCH_CTX_FLAG_DEP_UNDER n).flag F.SCH_FLAG_DEP_UNDER
  s1.withSch fun h => { h with under := mapSet (fun _ => 0) h.under n (mapGet (fun _ => 0) h.under n + count) }

/-- The DEP_UNDER events of the cycle that ends, one for each context with the decrements discarded in it (R144, R164;
DEDUCED, log 73: they are posted when the cycle ends). -/
def postUnder (s : State) : State :=
  (s.each s.sch.under fun p t => t.post 0x0201 2 p.1 0x0204 p.2).withSch fun h => { h with under := [] }

/-- Apply the decrements of one edge to one context; the result says whether it is released (R142, R144). -/
def decOne (n count : Nat) (s : State) : Bool × State :=
  let st := s.ctxSt n
  if count = 0 ∨ st = CtxSt.OFF then (false, s)
  else if st ≠ CtxSt.WAIT then (false, discardDec n count s)
  else
    let c := s.getF F.SCH_CTX_STAT_DEP_CNT n
    if count < c then (false, s.setF F.SCH_CTX_STAT_DEP_CNT (c - count) n)
    else
      let s1 := s.setF F.SCH_CTX_STAT_DEP_CNT 0 n
      (true, if c < count then discardDec n (count - c) s1 else s1)

/-- The order in which the releases of one edge enter their lists: within levels 0 and 1 by ascending index, within a
lower level from the index after the one last dispatched (R147). -/
def relKey (n : Nat) (s : State) : Nat :=
  let level := s.getF F.SCH_CTX_CTL_LEVEL n
  if level ≤ 1 then n
  else (n + ctxCount - (mapGet (fun _ => 127) s.sch.lastDisp (listKey (s.isSvc n) level) + 1)) % ctxCount

/-- Insert by key, stable. -/
def insBy (key : Nat → Nat) : List Nat → Nat → List Nat
  | [], n => [n]
  | m :: l, n => if key n < key m then n :: m :: l else m :: insBy key l n

/-- All decrements that fall on one edge: dec n is how many reach context n (R142, R147). -/
def applyDecs (dec : Nat → Nat) (s : State) : State :=
  let r := (List.range ctxCount).foldl (fun (acc : List Nat × State) n =>
    let d := decOne n (dec n) acc.2
    (if d.1 then insBy (fun m => relKey m s) acc.1 n else acc.1, d.2)) ([], s)
  updateReserv (r.2.each r.1 releaseCtx)

/-- Raise the signals of one edge, given as a mask (R143). -/
def raiseNow (mask : Nat) (s : State) : State :=
  applyDecs (fun n => (maskBits (mask &&& s.getF F.SCH_CTX_SIG_SIG n) 64).length) s

/-- A standby that computes from mirrored inputs: PSTATE COPY, SHADOW or READY in role STANDBY (R604). -/
def State.mirrored (s : State) : Bool :=
  s.getF F.LND_STAT_ROLE == 2 && decide (2 ≤ s.getF F.LND_STAT_PSTATE) && decide (s.getF F.LND_STAT_PSTATE ≤ 4)

/-- Signals that a complete mirror raises on a standby: 3, 4, 16 to 23 (R604). -/
def mirrorSignals : Nat := 0xFF0018

/-- Raise signals; on a standby those of its inputs wait for the mirror (R143, R604). -/
def raiseSignals (mask : Nat) (s : State) : State :=
  let s1 := { s with lnd := { s.lnd with raised := s.lnd.raised ||| mask } }
  raiseNow (if s.mirrored then mclr mask mirrorSignals else mask) s1

/-! ### Enable, disable, release (R140, R141, R162) -/

/-- Take a context out of OFF (R140). -/
def enableCtx (n : Nat) (s : State) : State :=
  let s1 := ((((s.setF F.SCH_CTX_CTL_EN 1 n).setF F.SCH_CTX_STAT_CUR_LEVEL (s.getF F.SCH_CTX_CTL_LEVEL n) n).setF
    F.SCH_CTX_CNT_RUNS 0 n).setF F.SCH_CTX_CNT_UNDER 0 n).setF F.SCH_CTX_STAT_STOPPING 0 n
  let s2 := s1.withSch fun h => { h with relCyc := mapSet (fun _ => none) h.relCyc n none, saved := listDel h.saved n,
                                          ended := listDel h.ended n }
  if s.getF F.SCH_CTX_CTL_MODE n = 0 then
    (s2.setF F.SCH_CTX_STAT_DEP_CNT (s.getF F.SCH_CTX_DEP_DEP_INIT n) n).setCtxSt n CtxSt.WAIT
  else
    let w := s.getF F.SCH_CTX_WAKE_WAKE n
    delayCtx n (if w = 0 then s.tickNow + 1 else w) s2

/-- Disable a context (R140). -/
def disableCtx (n : Nat) (s : State) : State :=
  let s0 := s.setF F.SCH_CTX_CTL_EN 0 n
  let st := s.ctxSt n
  if st = CtxSt.WAIT ∨ st = CtxSt.DELAY ∨ st = CtxSt.READY then
    updateReserv (((unlist n s0).setF F.SCH_CTX_STAT_DEP_CNT 0 n).setCtxSt n CtxSt.OFF)
  else if st = CtxSt.RUN then s0.setF F.SCH_CTX_STAT_STOPPING 1 n
  else if st = CtxSt.HALT then s0.setCtxSt n CtxSt.OFF
  else s0

/-- The checks of enabling a context as it is configured (R141, R148, R167).  progOk says that an entry address lies in
a verified program (R244). -/
def enableCodes (progOk : Nat → Bool) (n : Nat) (s : State) : List Nat :=
  let svc := s.isSvc n
  let timed := s.getF F.SCH_CTX_CTL_MODE n == 1
  let dep := s.getF F.SCH_CTX_DEP_DEP_INIT n
  let w := s.getF F.SCH_CTX_WAKE_WAKE n
  let e := s.getF F.SCH_CTX_ENTRY_ENTRY n
  chk (decide (s.ctxSt n ≠ CtxSt.OFF) || !s.getB F.SCH_CTL_EN) EC.STATE
  ++ chk (if timed then dep != 0 else dep == 0) EC.RANGE
  ++ chk (timed && s.getF F.SCH_CTX_TIME_PERIOD n == 0) EC.RANGE
  ++ chk (timed && w != 0 && decide (w < s.tickNow + 2)) EC.RANGE
  ++ chk (!svc && !progOk e) 0x0203
  ++ chk (svc && e % 2 ^ 16 != 1 && e % 2 ^ 16 != 2) EC.BAD_FIELD
  ++ chk (svc && s.getF F.SCH_CTX_ARG_ARG n % 16 != 0) EC.ALIGN
  ++ chk (!svc && s.getF F.SCH_CTX_CTL_LEVEL n == 0 && (s.l0Group n &&& s.l0Lanes (some n)) != 0) 0x0202

/-- CTX_RELEASE: the counters of the named contexts become 0; a context not in WAIT discards a decrement (R144, R162). -/
def releaseMask (mask : Nat) (s : State) : State :=
  applyDecs (fun n => if bit mask n then (if s.ctxSt n = CtxSt.WAIT then s.getF F.SCH_CTX_STAT_DEP_CNT n else 1) else 0) s

/-- Enable the named contexts one after the other; the checks that one of them breaks, each made with those before it
enabled (R148, R162). -/
def enableAll (progOk : Nat → Bool) : List Nat → State → List Nat × State
  | [], s => ([], s)
  | n :: l, s =>
    let r := enableAll progOk l (enableCtx n s)
    (enableCodes progOk n s ++ r.1, r.2)

/-! ### Write checks (R141, R143, R165 to R167) -/

def schCodes (progOk : Nat → Bool) (base n v old : Nat) (s new : State) : List Nat :=
  let cfg := decide (v ≠ old) && s.getB F.SCH_CTX_CTL_EN n
  if base = R.SCH_CTX_CTL then
    let level := bits v 4 4; let lanes := bits v 8 3; let lb := bits v 12 4; let svc := bit v 3
    chk (decide (2 ≤ bits v 1 2)) EC.BAD_FIELD
    ++ chk (decide (5 ≤ lanes) || (svc && lanes != 0)) EC.BAD_FIELD
    ++ chk (decide (level ≠ 0) && lb != 0) EC.BAD_FIELD
    ++ chk (decide (level = 0) && decide (lanes ≤ 4) && decide (lb % 2 ^ lanes ≠ 0)) EC.ALIGN
    ++ chk (bit v 16 && decide (level ≤ 1)) EC.BAD_FIELD
    ++ chk (decide (level = 0) && svc) 0x0201
    ++ chk (decide (v / 2 ≠ old / 2) && bit old 0) EC.STATE
    ++ (if bit v 0 && !bit old 0 then enableCodes progOk n (new.setF F.SCH_CTX_CTL_EN 0 n) else [])
  else if base = R.SCH_CTX_SIG_0 then chk (bit v 7) EC.RESERVED_SET ++ chk cfg EC.STATE
  else if base = R.SCH_CTX_SIG_1 then chk (decide (2 ^ 16 ≤ v)) EC.RESERVED_SET ++ chk cfg EC.STATE
  else if base = R.SCH_CTX_ENTRY ∨ base = R.SCH_CTX_ARG ∨ base = R.SCH_CTX_DEP ∨ base = R.SCH_CTX_TIME
      ∨ base = R.SCH_CTX_WAKE_0 ∨ base = R.SCH_CTX_WAKE_1 ∨ base = R.SCH_CTX_SUCC_0 ∨ base = R.SCH_CTX_SUCC_1
      ∨ base = R.SCH_CTX_SUCC_2 ∨ base = R.SCH_CTX_SUCC_3 then chk cfg EC.STATE
  else if base = R.SCH_CTL then chk (!bit v 0 && bit old 0 && s.cycRun) EC.STATE
  else if base = R.SCH_REP_CAP then
    chk (decide (v < 8) || decide (4096 < v)) EC.RANGE ++ chk (decide (v ≠ old) && s.cycRun) EC.STATE
  else if base = R.SCH_AGE then chk (decide (v = 0)) EC.RANGE
  else []

def schFollow (base n v old : Nat) (s : State) : State :=
  if base = R.SCH_CTX_CTL then
    if bit v 0 && !bit old 0 then enableCtx n s
    else if !bit v 0 && bit old 0 then disableCtx n s
    else s
  else if base = R.SCH_CTL then (if bit v 1 then s.setF F.SCH_L0_MAX_MAX 0 else s)
  else s

/-- Reads formed from the scheduler's own state. -/
def schView (off : Nat) (s : State) : Option Word :=
  if off = R.SCH_STAT then
    let svc := s.sch.cores.foldl (fun m p => m ||| 2 ^ p.1) 0
    some (BitVec.ofNat 32 (s.laneBusy + svc % 256 * 2 ^ 16 + min 255 s.readyCount * 2 ^ 24))
  else if off = R.SCH_L0_LANES then some (BitVec.ofNat 32 (s.l0Lanes none))
  else none

/-! ### Dispatch (R140, R149, R157) -/

/-- The context that the dispatcher places next at levels 1 to 15, and its first lane (R149). -/
def dispChoice (s : State) : Option (Nat × Nat) :=
  (readyOrder false s).findSome? fun n => (fit n s).map fun b => (n, b)

/-- Where a ready context would be placed: level 0 on its own free group (R148), others as the dispatcher chooses. -/
def placeOf (n : Nat) (s : State) : Option Nat :=
  if s.ctxSt n ≠ CtxSt.READY ∨ s.isSvc n then none
  else if s.getF F.SCH_CTX_CTL_LEVEL n = 0 then
    if s.l0Group n &&& s.laneBusy = 0 then some (s.getF F.SCH_CTX_CTL_LANE_BASE n) else none
  else match dispChoice s with
    | some (m, b) => if m = n then some b else none
    | none => none

/-- Put a context on lanes: RUN, its current level back to LEVEL, RUNS counted unless it resumes (R140); it is the one last
dispatched from the list it leaves (R147). -/
def startRun (n lane : Nat) (s : State) : State :=
  let resumed := s.sch.saved.contains n
  let level := s.getF F.SCH_CTX_CTL_LEVEL n
  let key := listKey (s.isSvc n) (s.getF F.SCH_CTX_STAT_CUR_LEVEL n)
  let mask := if s.isSvc n then 0 else groupMask lane (s.getF F.SCH_CTX_CTL_LANES n) % 2 ^ 16
  let s1 := (((unlist n s).setCtxSt n CtxSt.RUN).setF F.SCH_CTX_STAT_LANE_AT lane n).setF F.SCH_CTX_STAT_CUR_LEVEL level n
  let s2 := if resumed then s1 else s1.incF F.SCH_CTX_CNT_RUNS n
  s2.withSch fun h => { h with
    saved := listDel h.saved n, ended := listDel h.ended n, lastDisp := mapSet (fun _ => 127) h.lastDisp key n,
    runLanes := mapSet (fun _ => 0) h.runLanes n mask,
    reserv := match h.reserv with | some (m, b) => if m = n then none else some (m, b) | none => none }

/-- The level-0 bound of a dispatch (R157). -/
def l0Bound (held : Bool) (s : State) : Nat :=
  2 + (if held then max (s.getF F.SCH_REP_CAP_CAP) 8 + 24 else 0) + 16 + 2

/-! ### Completion (R140, R146) -/

/-- The first member of a TIMED series after a tick, and how many members are passed over (R146). -/
def nextWake (prev period tick : Nat) : Nat × Nat :=
  if period = 0 then (prev, 0)
  else
    let n := if tick < prev + period then 1 else (tick - prev) / period + 1
    (prev + n * period, n - 1)

/-- A context completes (R140, R142, R146). -/
def completeCtx (n : Nat) (s : State) : State :=
  let s0 := applyDecs (fun m => if bit (s.getF F.SCH_CTX_SUCC_SUCC n) m then 1 else 0) s
  let s1 := s0.withSch fun h => { h with ended := listDel h.ended n, relCyc := mapSet (fun _ => none) h.relCyc n none }
  if s.getB F.SCH_CTX_STAT_STOPPING n then
    ((s1.setF F.SCH_CTX_STAT_STOPPING 0 n).setF F.SCH_CTX_STAT_DEP_CNT 0 n).setCtxSt n CtxSt.OFF
  else if s.getF F.SCH_CTX_CTL_MODE n = 0 then
    (s1.setF F.SCH_CTX_STAT_DEP_CNT (s.getF F.SCH_CTX_DEP_DEP_INIT n) n).setCtxSt n CtxSt.WAIT
  else
    let w := nextWake (mapGet (fun _ => 0) s.sch.wake n) (s.getF F.SCH_CTX_TIME_PERIOD n) s.tickNow
    let s2 := delayCtx n w.1 s1
    if w.2 = 0 then s2 else (s2.flag F.SCH_CTX_FLAG_PERIOD_SKIP n).post 0x0204 2 n 0x0207 w.2

/-- An execution fault: HALT (R140, R238).  A disable that was pending is pending no longer (DEDUCED, log 74). -/
def haltCtx (n number : Nat) (s0 : State) : State :=
  let s := if s0.getF F.SCH_CTX_STAT_CUR_LEVEL n = 0 then s0.note 3 else s0
  let s1 := updateReserv ((s.setCtxSt n CtxSt.HALT).setF F.SCH_CTX_STAT_STOPPING 0 n)
  ((s1.flag F.SCH_CTX_FLAG_FAULT n).flag F.SCH_FLAG_FAULT).post 0x0203 2 n 0x0206 number

/-! ### Ticks and aging (R138, R145, R155) -/

/-- The tick that has come and the scheduler has not yet observed. -/
def State.tickAt (s : State) : Nat := s.ns / 1000

/-- One READY context at a tick edge: it stays at its level, or rises by one after SCH_AGE of them (R155). -/
def ageCtx (n : Nat) (s : State) : State :=
  let level := s.getF F.SCH_CTX_STAT_CUR_LEVEL n
  let age := mapGet (fun _ => 0) s.sch.age n + 1
  if s.ctxSt n ≠ CtxSt.READY ∨ s.getB F.SCH_CTX_CTL_AGE_EN n = false ∨ level < 2 then s
  else if age < s.getF F.SCH_AGE_AGE_T then s.withSch fun h => { h with age := mapSet (fun _ => 0) h.age n age }
  else
    let s1 := unlist n s
    let key := listKey (s.isSvc n) (level - 1)
    let s2 := s1.setReady key (s1.readyList key ++ [n])
    ((s2.setF F.SCH_CTX_STAT_CUR_LEVEL (level - 1) n).flag F.SCH_CTX_FLAG_AGED n).withSch fun h =>
      { h with age := mapSet (fun _ => 0) h.age n 0 }

/-- Ages and promotions of the tick that has come, once (R155); promotions stand before the releases of the tick (R147). -/
def ageStep (s : State) : State :=
  let w := s.tickAt
  if s.sch.aged = w then s else updateReserv ((s.each (List.range ctxCount) ageCtx).withSch fun h => { h with aged := w })

/-- The contexts of a delay list whose wake tick has come become READY in list order (R145), a TIMED one with its release
(R137, R161). -/
def wakeList (key w : Nat) (s : State) : State :=
  let due := (s.delayList key).takeWhile fun p => decide (p.2 ≤ w)
  let s1 := s.setDelay key ((s.delayList key).dropWhile fun p => decide (p.2 ≤ w))
  s1.each due fun p t => makeReady p.1 false (if t.getF F.SCH_CTX_CTL_MODE p.1 = 1 then markReleased p.1 t else t)

/-- An observed tick. -/
def tickStep (s : State) : State :=
  let w := s.tickAt
  if s.sch.tick = w then s
  else updateReserv ((ageStep s).each [0, 1, 2, 3] fun key t => wakeList key w t) |>.withSch fun h => { h with tick := w }

/-- A context that was released in an earlier cycle than the present one writes late (R161). -/
def State.lateRun (s : State) (n : Nat) : Bool :=
  match mapGet (fun _ => none) s.sch.relCyc n with
  | some k => decide (k < s.tbs.k)
  | none => false

/-- Contexts released in cycle k and not complete at its TC are late (R161). -/
def lateContexts (s : State) : State :=
  s.each (List.range ctxCount) fun n t =>
    if mapGet (fun _ => none) s.sch.relCyc n = some s.tbs.k ∧ s.ctxSt n ≠ CtxSt.OFF ∧ s.ctxSt n ≠ CtxSt.WAIT then
      ((t.flag F.SCH_CTX_FLAG_LATE n).flag F.SCH_FLAG_LATE).post 0x0202 2 n 0x0205 s.tbs.k
    else t

end Sys2Proof.Machine
end

