-- ==== Sys2Proof/Machine/Trj.lean ====
section
/-! DEFINITION. The trajectory engines (spec chapter 07): profiles, the group scale, group states, commands, limits, homing, compare units. -/

namespace Sys2Proof.Machine

def State.withTrj (s : State) (f : Trj → Trj) : State := { s with trj := f s.trj }
def State.ax (s : State) (a : Nat) : Axis := mapGet (fun _ => Axis.reset) s.trj.axes a
def State.setAx (s : State) (a : Nat) (x : Axis) : State :=
  s.withTrj fun t => { t with axes := mapSet (fun _ => Axis.reset) t.axes a x }
def State.modAx (s : State) (a : Nat) (f : Axis → Axis) : State := s.setAx a (f (s.ax a))
def State.grp (s : State) (g : Nat) : Group := mapGet (fun _ => Group.reset) s.trj.groups g
def State.modGrp (s : State) (g : Nat) (f : Group → Group) : State :=
  s.withTrj fun t => { t with groups := mapSet (fun _ => Group.reset) t.groups g (f (mapGet (fun _ => Group.reset) t.groups g)) }
def State.cmp (s : State) (c : Nat) : Cmp := mapGet (fun _ => Cmp.reset) s.trj.cmps c
def State.setCmp (s : State) (c : Nat) (x : Cmp) : State :=
  s.withTrj fun t => { t with cmps := mapSet (fun _ => Cmp.reset) t.cmps c x }
def State.aux (s : State) (n : Nat) : Aux := mapGet (fun _ => Aux.reset) s.trj.auxs n
def State.setAux (s : State) (n : Nat) (x : Aux) : State :=
  s.withTrj fun t => { t with auxs := mapSet (fun _ => Aux.reset) t.auxs n x }

/-! ### The cell: arms, groups, axes -/

/-- The axis of joint i of an arm (TRJ_ARM_MAP). -/
def State.jointAxis (s : State) (arm i : Nat) : Nat :=
  bits (s.rd (R.TRJ_ARM_MAP_0 + 0x40 * arm + 4 * (i / 4))).toNat (8 * (i % 4)) 7

/-- The axes of an arm, joint 0 first. -/
def State.armAxes (s : State) (arm : Nat) : List Nat :=
  (List.range (s.getF F.TRJ_ARM_CTL_NJ arm)).map (s.jointAxis arm)

/-- The enabled arms of a group, lowest first (R2). -/
def State.groupArms (s : State) (g : Nat) : List Nat :=
  (List.range 16).filter fun a => s.getB F.TRJ_ARM_CTL_EN a && s.getF F.TRJ_ARM_CTL_GROUP a == g

/-- The member axes of a group. -/
def State.groupAxes (s : State) (g : Nat) : List Nat := (s.groupArms g).flatMap s.armAxes

/-- The auxiliary channels attached to a group (R286). -/
def State.groupAux (s : State) (g : Nat) : List Nat :=
  (List.range 16).filter fun n => s.getB F.AUX_CTL_EN n && s.getB F.AUX_CTL_ATT n && s.getF F.AUX_CTL_GRP n == g

/-- The enabled arm that maps an axis. -/
def State.armOf (s : State) (a : Nat) : Option Nat :=
  (List.range 16).find? fun m => s.getB F.TRJ_ARM_CTL_EN m && (s.armAxes m).contains a

/-- The group of an axis. -/
def State.groupOf (s : State) (a : Nat) : Option Nat := (s.armOf a).map fun m => s.getF F.TRJ_ARM_CTL_GROUP m

/-- A group holds no arm and no attached channel (R24). -/
def State.inactive (s : State) (g : Nat) : Bool := (s.groupArms g).isEmpty && (s.groupAux g).isEmpty

/-- D and psi of a group (R33). -/
def State.divOf (s : State) (g : Nat) : Nat := 2 ^ s.getF F.TRJ_CTL_DIV g

/-- The group's position loops run in cycle k (R33). -/
def State.dueIn (s : State) (g k : Nat) : Bool :=
  (k + s.divOf g - s.getF F.TRJ_CTL_PSI g) % s.divOf g == 0

/-- Path clock of a group, T72. -/
def State.tau (s : State) (g : Nat) : Nat := s.getF F.TRJ_PCLK_V g

/-! ### Measured position and speed -/

/-- The source position of an axis, P72 (R296, R511). -/
def State.srcPos (s : State) (a : Nat) : Int :=
  if s.getB F.AX_CTL_PSRC a then (mapGet (fun _ => SlotVals.reset) s.twl.slots a).pos * 2 ^ 24
  else s.getS F.FBK_POS_V (s.getF F.AX_CTL_PCHAN a)

/-- Measured position: source + AX_POS_OFF. -/
def State.measPos (s : State) (a : Nat) : Int := sx 72 (toBits 72 (s.srcPos a + s.getS F.AX_POS_OFF_V a))

/-- Measured speed, s48.24. -/
def State.measSpd (s : State) (a : Nat) : Int :=
  if s.getB F.AX_CTL_PSRC a then (mapGet (fun _ => SlotVals.reset) s.twl.slots a).spd * 2 ^ 24
  else s.getS F.FBK_SPEED_V (s.getF F.AX_CTL_PCHAN a)

/-! ### Limits of an axis (R256, R257) -/

/-- P_MIN, P_MAX, V_MAX, A_MAX in use. -/
structure AxLim where
  pmin : Int
  pmax : Int
  vmax : Int
  amax : Int
  deriving DecidableEq, Repr

def State.limPair (s : State) (a i : Nat) : Bool := pairOk 72 (s.tw 0x0401 a (2 * i)) (s.tw 0x0401 a (2 * i + 1))

/-- Every limit pair of an axis is valid. -/
def State.limGood (s : State) (a : Nat) : Bool := (List.range 4).all (s.limPair a)

/-- The limits in use: a failed pair is replaced, P_MIN and P_MAX both by the set point then in force (R257). -/
def State.limits (s : State) (a : Nat) : AxLim :=
  let held := (s.ax a).badSp.getD (s.getS F.AX_SP_V a)
  let both := s.limPair a 0 && s.limPair a 1
  { pmin := if both then s.twS 0x0401 a 0 else held,
    pmax := if both then s.twS 0x0401 a 2 else held,
    vmax := if s.limPair a 2 then s.twS 0x0401 a 4 else 0,
    amax := if s.limPair a 3 then s.twS 0x0401 a 6 else 2 ^ 70 }

/-- MOD of an axis in P72 steps (R270): word 6 of TRJ_AX_REF, whole increments. -/
def State.axMod (s : State) (a : Nat) : Nat := s.tw 0x0403 a 6

/-- The shift SH = MOD * floor(2^44 / MOD), in P72 steps (R270). -/
def State.axShift (s : State) (a : Nat) : Int :=
  let m := s.axMod a / 2 ^ 24
  if m = 0 then 0 else (m * (2 ^ 44 / m) * 2 ^ 24 : Nat)

/-! ### Profiles (R258 to R262) -/

/-- Seconds of path time from a profile's start to tau. -/
def Motion.dt (m : Motion) (tau : Nat) : Rat := (((tau : Int) - m.start : Int) : Rat) / 256000000000

/-- Seconds as a T72 duration rounded up to 1/256 ns (R258). -/
def durUp (t : Rat) : Nat := (qceil (t * 256000000000)).toNat

/-- The piece of a profile in force at t. -/
def segAt : List Seg → Rat → Option Seg
  | [], _ => none
  | g :: gs, t => match segAt gs t with
    | some h => some h
    | none => if g.t ≤ t then some g else none

/-- The profile is complete at tau (R261). -/
def Motion.done (m : Motion) (tau : Nat) : Bool :=
  match m.dur with
  | some d => decide (m.start + d ≤ tau)
  | none => false

/-- Exact position, speed and acceleration in path time at tau. -/
def Motion.exact (m : Motion) (tau : Nat) : Rat × Rat × Rat :=
  if m.done tau then ((m.target : Rat), 0, 0)
  else match segAt m.segs (m.dt tau) with
    | some g => let u := m.dt tau - g.t; (g.p + g.v * u + g.a * u * u / 2, g.v + g.a * u, g.a)
    | none => ((m.target : Rat), 0, 0)

/-- Position set point at tau: p0 + sigma * delta rounded to the nearest P72 step, sigma with a deviation inside the bound of
R258, which the spec leaves open (log 21); exact at the end (R261). -/
def Motion.pos (m : Motion) (tau : Nat) : Int :=
  if m.done tau then m.target
  else
    let p := (m.exact tau).1
    let p0 := match m.segs with | g :: _ => g.p | [] => p
    let delta := (m.target : Rat) - p0
    let dev := if delta = 0 then 0
      else qmax (-pow2 (-40)) (qmin (pow2 (-40)) (Config.profileDev ((p - p0) / delta) m.start (tau - m.start)))
    qround (p + dev * delta)

/-- Pieces of a profile from rest over d >= 0 with speed and acceleration limits, starting at time t0, direction sg;
and its end time. -/
def restSegs (t0 p0 d v a sg : Rat) : List Seg × Rat :=
  if d = 0 ∨ a = 0 ∨ v = 0 then ([{ t := t0, p := p0, v := 0, a := 0 }], t0)
  else if d * a ≤ v * v then
    let t := qsqrt (d / a)
    ([{ t := t0, p := p0, v := 0, a := sg * a },
      { t := t0 + t, p := p0 + sg * d / 2, v := sg * a * t, a := -(sg * a) }], t0 + 2 * t)
  else
    let ta := v / a
    let da := v * v / (2 * a)
    let tc := (d - 2 * da) / v
    ([{ t := t0, p := p0, v := 0, a := sg * a }, { t := t0 + ta, p := p0 + sg * da, v := sg * v, a := 0 },
      { t := t0 + ta + tc, p := p0 + sg * (d - da), v := sg * v, a := -(sg * a) }], t0 + 2 * ta + tc)

/-- A coordinated move of one joint over delta, with the common limits vs, as of the path parameter (R258). -/
def coordMotion (tau : Nat) (p0 delta : Int) (vs as_ : Rat) : Motion :=
  let r := restSegs 0 0 1 vs as_ 1
  { start := tau, dur := some (durUp r.2), target := p0 + delta,
    segs := r.1.map fun g => { t := g.t, p := (p0 : Rat) + g.p * delta, v := g.v * delta, a := g.a * delta } }

/-- Brake from (p, v) at a to rest: end position and time. -/
def stopPoint (p v a : Rat) : Rat := if a = 0 then p else p + v * qabs v / (2 * a)
def stopTime (v a : Rat) : Rat := if a = 0 then 0 else qabs v / a

/-- A replacing move of one joint from (p0, v0) to p1 (R259, R260). -/
def replaceMotion (tau : Nat) (p0 v0 : Rat) (p1 : Int) (vmax amax : Rat) : Motion :=
  let ps := stopPoint p0 v0 amax
  let fin (r : List Seg × Rat) : Motion := { start := tau, segs := r.1, dur := some (durUp r.2), target := p1 }
  if v0 = 0 then
    let d := (p1 : Rat) - p0
    fin (restSegs 0 p0 (qabs d) vmax amax (qsgn d))
  else if 0 ≤ ((p1 : Rat) - ps) * qsgn v0 then
    let sg := qsgn v0
    let u := qabs v0
    let d := qabs ((p1 : Rat) - p0)
    if vmax < u then
      let t1 := (u - vmax) / amax
      let d1 := (u * u - vmax * vmax) / (2 * amax)
      let d3 := vmax * vmax / (2 * amax)
      let t2 := if vmax = 0 then 0 else (d - d1 - d3) / vmax
      fin ([{ t := 0, p := p0, v := v0, a := -(sg * amax) }, { t := t1, p := p0 + sg * d1, v := sg * vmax, a := 0 },
        { t := t1 + t2, p := p0 + sg * (d - d3), v := sg * vmax, a := -(sg * amax) }], t1 + t2 + stopTime vmax amax)
    else
      let w2 := amax * d + u * u / 2
      if w2 ≤ vmax * vmax then
        let w := qsqrt w2
        let t1 := (w - u) / amax
        fin ([{ t := 0, p := p0, v := v0, a := sg * amax },
          { t := t1, p := p0 + sg * (w2 - u * u) / (2 * amax), v := sg * w, a := -(sg * amax) }], t1 + w / amax)
      else
        let t1 := (vmax - u) / amax
        let d1 := (vmax * vmax - u * u) / (2 * amax)
        let d3 := vmax * vmax / (2 * amax)
        let t2 := (d - d1 - d3) / vmax
        fin ([{ t := 0, p := p0, v := v0, a := sg * amax }, { t := t1, p := p0 + sg * d1, v := sg * vmax, a := 0 },
          { t := t1 + t2, p := p0 + sg * (d - d3), v := sg * vmax, a := -(sg * amax) }], t1 + t2 + vmax / amax)
  else
    let tb := stopTime v0 amax
    let d := (p1 : Rat) - ps
    let r := restSegs tb ps (qabs d) vmax amax (qsgn d)
    fin ({ t := 0, p := p0, v := v0, a := -(qsgn v0 * amax) } :: r.1, r.2)

/-- Speed to v at a, then held (R262): pieces, and the time and position at which v is reached. -/
def rampSegs (p0 v0 v a : Rat) : List Seg × Rat × Rat :=
  let dv := v - v0
  if a = 0 then ([{ t := 0, p := p0, v := v0, a := 0 }], 0, p0)
  else
    let t := qabs dv / a
    let p := p0 + (v0 + v) / 2 * t
    ([{ t := 0, p := p0, v := v0, a := qsgn dv * a }, { t := t, p := p, v := v, a := 0 }], t, p)

/-- A motion at a speed without soft limits, which ends only when the speed is 0. -/
def freeVel (tau : Nat) (p0 v0 v a : Rat) : Motion :=
  let r := rampSegs p0 v0 v a
  if v = 0 then { start := tau, segs := r.1, dur := some (durUp r.2.1), target := qround r.2.2 }
  else { start := tau, segs := r.1, dur := none, target := qround p0 }

/-- VEL under soft limits: the motion and the time at which it brakes for a limit (R262). -/
def velMotion (tau : Nat) (p0 v0 : Rat) (v : Int) (lim : AxLim) (endless : Bool) : Motion × Option Rat :=
  let a : Rat := lim.amax
  if v = 0 ∨ endless then (freeVel tau p0 v0 v a, none)
  else
    let sg : Rat := qsgn v
    let l : Rat := if 0 < v then lim.pmax else lim.pmin
    let room := (l - p0) * sg
    let u := v0 * sg
    let vv := qabs v
    let brake (t p w : Rat) : Seg := { t := t, p := p, v := sg * w, a := -(sg * a) }
    if (l - stopPoint p0 v0 a) * sg < 0 then
      ({ start := tau, segs := [{ t := 0, p := p0, v := v0, a := -(qsgn v0 * a) }], dur := some (durUp (stopTime v0 a)),
         target := qround (stopPoint p0 v0 a) }, some 0)
    else
      let r := rampSegs p0 v0 v a
      let left := (l - r.2.2) * sg - vv * vv / (2 * a)
      if left < 0 then
        let w2 := (2 * a * room + u * u) / 2
        let w := if w2 ≤ 0 then 0 else qsqrt w2
        let t1 := if w < u then 0 else (w - u) / a
        ({ start := tau, segs := [{ t := 0, p := p0, v := v0, a := sg * a }, brake t1 (p0 + sg * (w * w - u * u) / (2 * a)) w],
           dur := some (durUp (t1 + w / a)), target := qround l }, some t1)
      else
        let t2 := r.2.1 + left / vv
        ({ start := tau, segs := r.1 ++ [brake t2 (l - sg * vv * vv / (2 * a)) vv],
           dur := some (durUp (t2 + vv / a)), target := qround l }, some t2)

/-- The motion of a plan. -/
def Plan.motion : Plan → Option Motion
  | .move _ m => some m
  | .vel m _ _ => some m
  | .homing _ m _ => some m
  | _ => Option.none

/-- Move every position of a motion by d. -/
def Motion.shift (m : Motion) (d : Int) : Motion :=
  { m with target := m.target + d, segs := m.segs.map fun g => { g with p := g.p + d } }

/-- Move every position of a plan by d (R270, R280). -/
def Plan.shift (p : Plan) (d : Int) : Plan :=
  match p with
  | .move arm m => .move arm (m.shift d)
  | .vel m v t => .vel (m.shift d) v t
  | .homing ph m f => .homing ph (m.shift d) (f + d)
  | .none => .none
  | .table => .table

/-- Position set point and path-time speed of an axis at a path time (R259), P72 steps. -/
def State.pathState (s : State) (a tau : Nat) : Rat × Rat :=
  match (s.ax a).plan.motion with
  | some m => ((m.pos tau : Int), (m.exact tau).2.1)
  | none => ((s.getS F.AX_SP_V a : Int), 0)

/-- AX_STAT.MODE of a plan. -/
def planMode : Plan → Nat
  | .none => 0
  | .move _ _ => 1
  | .table => 2
  | .vel _ _ _ => 3
  | .homing _ _ _ => 4

def State.setPlan (s : State) (a : Nat) (p : Plan) : State :=
  (s.modAx a fun x => { x with plan := p }).setF F.AX_STAT_MODE (planMode p) a

/-! ### Group states (R271, R272) -/

namespace GSt
def OFF : Nat := 0
def IDLE : Nat := 1
def RUN : Nat := 2
def HOLD : Nat := 3
def STOP : Nat := 4
def TRACK : Nat := 5
def HOMING : Nat := 6
end GSt

def State.gst (s : State) (g : Nat) : Nat := s.getF F.TRJ_STAT_STATE g
def State.setGst (s : State) (g st : Nat) : State := s.setF F.TRJ_STAT_STATE st g

/-- A stop is asserted: the safety state of the group is not RUN (R362, R365). -/
def State.stopAsserted (s : State) (g : Nat) : Bool := s.getF F.SAF_G_STAT_STATE g != 4 || s.getF F.SAF_STATE_STATE != 5

/-- Scale in force. -/
def State.scale (s : State) (g : Nat) : Nat := s.getF F.TRJ_SCALE_V g

/-- Set the applied scale with its complement (R18). -/
def State.setScale (s : State) (g v : Nat) : State :=
  (s.setF F.TRJ_SCALE_V v g).setF F.TRJ_SCALE_C_V (2 ^ 24 - 1 - v) g

/-- Discard the plans of a group's members (R272). -/
def dropPlans (g : Nat) (s : State) : State :=
  let s1 := s.each (s.groupAxes g) fun a t => t.setPlan a .none
  let s2 := s1.each (s.groupArms g) fun m t => (t.setF F.TRJ_ARM_STAT_MOVING 0 m).setF F.TRJ_ARM_STAT_COORD 0 m
  s2.each (s.groupAux g) fun n t => (t.setAux n { t.aux n with plan := .none }).setF F.AUX_STAT_MODE 0 n

/-- Is any limit of the group latched? -/
def State.limLatched (s : State) (g : Nat) : Bool :=
  (s.groupAxes g).any fun a => s.getB F.AX_STAT_LIM_P a || s.getB F.AX_STAT_LIM_N a

/-- Clear the hold causes; LIMIT stays while a limit is latched (R272). -/
def clearCauses (g : Nat) (s : State) : State :=
  let s1 := (((s.setF F.TRJ_STAT_PAUSE 0 g).setF F.TRJ_STAT_SOFT 0 g).setF F.TRJ_STAT_STARVE 0 g).setF F.TRJ_STAT_LFAULT 0 g
  if s.limLatched g then s1 else s1.setF F.TRJ_STAT_LIMIT 0 g

/-- A member follows a plan. -/
def State.planned (s : State) (g : Nat) : Bool :=
  ((s.groupAxes g).any fun a => (s.ax a).plan != .none) || ((s.groupAux g).any fun n => (s.aux n).plan != .none)

/-- Homing of an axis fails (R279). -/
def homeFail (a reason : Nat) (s : State) : State :=
  match (s.ax a).plan with
  | .homing _ m f =>
    let tau := (s.groupOf a).elim 0 s.tau
    let e := m.exact tau
    let r := freeVel tau e.1 e.2.1 0 ((s.limits a).amax : Rat)
    let s1 := s.setPlan a (.homing .failing r f)
    ((s1.flag F.AX_FLAG_HOME_FAIL a).setF F.AX_STAT_HOMED 0 a).post 0x0404 4 a 0x0409 reason
  | _ => s

/-- Fail the homings of a group (R272, R279 reason 4). -/
def failHomings (g : Nat) (s : State) : State :=
  s.each (s.groupAxes g) fun a t => match (t.ax a).plan with
    | .homing .failing _ _ => t
    | .homing _ _ _ => homeFail a 4 t
    | _ => t

/-- A member's power stage is disabled: TRACK (R272), found by the engine while the cell cycle runs (log 51). -/
def groupTrack (g : Nat) (s : State) : State :=
  if s.gst g = GSt.OFF ∨ s.gst g = GSt.TRACK ∨ s.cycRun = false then s
  else
    let s1 := clearCauses g (dropPlans g (failHomings g s))
    ((s1.setGst g GSt.TRACK).setScale g 0).modGrp g fun x => { x with sd := 0 }

/-- SS1 or SS2 asserted for the group: STOP (R272). -/
def groupStop (g : Nat) (s : State) : State :=
  let st := s.gst g
  if st = GSt.IDLE ∨ st = GSt.RUN ∨ st = GSt.HOLD ∨ st = GSt.HOMING then (failHomings g s).setGst g GSt.STOP else s

/-- Every member's stage is enabled. -/
def State.allPowered (s : State) (g : Nat) : Bool :=
  (s.groupAxes g).all (fun a => s.getB F.AX_STAT_POWER a) && (s.groupAux g).all (fun n => (s.aux n).power)

/-- Let the group follow its members' stages and its safety state (R272). -/
def groupFollow (g : Nat) (s : State) : State :=
  if s.gst g = GSt.OFF then s
  else if !s.allPowered g then groupTrack g s
  else if s.stopAsserted g then groupStop g s
  else if s.gst g = GSt.TRACK then s.setGst g GSt.IDLE
  else if s.gst g = GSt.STOP then
    if s.planned g then (s.setGst g GSt.HOLD).setF F.TRJ_STAT_PAUSE 1 g else clearCauses g (s.setGst g GSt.IDLE)
  else s

/-- Put a group into HOLD with a cause, or add the cause (R272). -/
def groupHold (g : Nat) (cause : Fld) (s : State) : State :=
  let st := s.gst g
  if st = GSt.RUN then (s.setGst g GSt.HOLD).setF cause 1 g
  else if st = GSt.HOLD ∨ st = GSt.STOP then s.setF cause 1 g
  else s

/-- Members have joined or left: OFF and IDLE, with CYC_RUN = 0 (R24, R272). -/
def groupMembers (g : Nat) (s : State) : State :=
  if s.cycRun then groupFollow g s
  else if s.inactive g then (if s.gst g = GSt.IDLE ∨ s.gst g = GSt.TRACK then s.setGst g GSt.OFF else s)
  else if s.gst g = GSt.OFF then groupFollow g (s.setGst g GSt.IDLE)
  else groupFollow g s

/-! ### The scale (R250) -/

/-- One evaluation's scale step: s, sd, forced from the previous s and sd, the targets, the rates and dt in ns. -/
def scaleStep (s : Nat) (sd : Int) (ls st ovrRate jerk rsafe dtNs : Nat) : Nat × Int × Bool :=
  let e : Int := (st : Int) - s
  let r : Int := isgn e * (min (ovrRate * 2 ^ 15) (isqrt (jerk * e.natAbs * 2 ^ 20)) : Nat)
  let jdt : Int := (jerk * dtNs * 2 ^ 23 / (16 * 1000000000) : Nat)
  let sd1 := sd + clampI (-jdt) jdt (r - sd)
  let s1 : Int := s + sd1 * dtNs / 1000000000
  let past := (decide (0 ≤ e) && decide ((st : Int) < s1)) || (decide (e < 0) && decide (s1 < st))
  let s2 : Int := if past then st else s1
  let sd2 : Int := if past then 0 else sd1
  let fall : Int := ((rsafe * dtNs * 2 ^ 23 + (64 * 1000000000 - 1)) / (64 * 1000000000) : Nat)
  let sf : Int := if (ls : Int) < s - fall then s - fall else ls
  if sf < s2 then (sf.toNat, 0, true) else (s2.toNat, sd2, false)

/-- The pair of R_SAFE is valid (R47). -/
def State.rsafeGood (s : State) (g : Nat) : Bool := pairOk 16 (s.getF F.TRJ_RSAFE_RSAFE g) (s.getF F.TRJ_RSAFE_RSAFE_C g)

/-- R_SAFE in use, units of 1/64 per second: a failed pair is replaced by its fail-safe value (R257). -/
def State.rsafe (s : State) (g : Nat) : Nat := if s.rsafeGood g then s.getF F.TRJ_RSAFE_RSAFE g else 65535

/-- A limit pair of a group found bad in use: the fault, and HOLD with LFAULT (R50, R257). -/
def limitFault (g inst : Nat) (s : State) : State :=
  groupHold g F.TRJ_STAT_LFAULT ((s.fault EC.PAIR_MISMATCH 0x04 2 inst).flag F.TRJ_FLAG_PAIR g)

/-- R_SAFE is read by an evaluation: its pair is checked (R257). -/
def checkRsafe (g : Nat) (s : State) : State :=
  let bad := !s.rsafeGood g
  let s1 := if bad && !(s.grp g).rsBad then limitFault g g s else s
  if (s1.grp g).rsBad = bad then s1 else s1.modGrp g fun x => { x with rsBad := bad }

/-- A forced cause holds the group (R250). -/
def State.forcedHold (s : State) (g : Nat) : Bool :=
  s.gst g == GSt.HOLD && (s.getB F.TRJ_STAT_LIMIT g || s.getB F.TRJ_STAT_SOFT g || s.getB F.TRJ_STAT_STARVE g
    || s.getB F.TRJ_STAT_LFAULT g)

/-- The safety target L_s (R250). -/
def State.lsOf (s : State) (g : Nat) : Nat :=
  if s.gst g = GSt.STOP ∨ s.stopAsserted g ∨ s.forcedHold g then 0 else s.getF F.TRJ_LIM_V g

/-- Take up the factor in force at an evaluation, its complement with it (R48, R252); a failed pair counts as 0 and is a fault
(R50). -/
def takeFactor (g : Nat) (s : State) : State :=
  let p := mapGet (fun _ => (0, 2 ^ 24 - 1)) s.sep.fac g
  let good := pairOk 24 p.1 p.2
  let l := if good && !s.inactive g then p else (0, 2 ^ 24 - 1)
  let s0 := if good then s else s.fault EC.PAIR_MISMATCH 0x04 3 g
  let s1 := (s0.flagIf ((s.grp g).facDue && !s.inactive g && l.1 == 0) F.TRJ_FLAG_L_ZERO g).modGrp g fun x => { x with facDue := false }
  (s1.setF F.TRJ_LIM_V l.1 g).setF F.TRJ_LIM_C_V l.2 g

/-- Compute the scale of one evaluation (R250, R273: none in TRACK). -/
def evalScale (g : Nat) (s : State) : State :=
  let old := s.scale g
  if s.gst g = GSt.TRACK then s.modGrp g fun x => { x with sPrev := old }
  else
    let ls := s.lsOf g
    let st := if s.gst g = GSt.HOLD && s.getB F.TRJ_STAT_PAUSE g then 0 else min ls (s.getF F.TRJ_OVR_OVR g)
    let r := scaleStep old (s.grp g).sd ls st (s.getF F.TRJ_SRATE_RATE g) (s.getF F.TRJ_SJERK_JERK g) (s.rsafe g)
      (s.divOf g * s.period)
    let s1 := (s.setScale g r.1).modGrp g fun x => { x with sd := r.2.1, sPrev := old }
    (s1.setF F.TRJ_STAT_FORCED (b2n r.2.2) g).flagIf r.2.2 F.TRJ_FLAG_FORCED g

/-! ### Set points (R253) -/

def scaleQ (s : Nat) : Rat := (s : Rat) / 8388608

/-- Speed, acceleration set points from the path speed and acceleration (R253), s48.24. -/
def State.spdAcc (s : State) (g : Nat) (v a : Rat) : Int × Int :=
  let sc := scaleQ (s.scale g)
  let sdot := (sc - scaleQ (s.grp g).sPrev) * 1000000000 / ((s.divOf g * s.period : Nat) : Rat)
  (qopen 0 (sc * v), qopen 1 (sc * sc * a + sdot * v))

/-- Torque feed-forward (R253), s48.24 amperes. -/
def State.torqueFf (s : State) (a : Nat) (spd acc : Int) : Int :=
  let q (i : Nat) := gainOf (s.tw 0x0402 a i)
  qopen 2 (q 0 * acc + q 1 * spd + q 2 * isgn spd * 16777216)

/-- Put an axis's set points in force. -/
def State.putSp (s : State) (a : Nat) (p spd acc ff : Int) : State :=
  ((s.setS F.AX_SP_V p a).setS F.AX_SPD_V spd a).modAx a fun x => { x with acc := acc, ff := ff }

/-! ### Segment tables (R266 to R270) -/

/-- A signed 8-bit difference modulo 256. -/
def diff8 (a b : Nat) : Int := sx 8 (a + 256 - b % 256)

/-- A knot's position in the present frame (R270). -/
def State.knotPos (s : State) (a : Nat) (k : Knot) : Int :=
  if s.axMod a = 0 then k.pos else k.pos - diff8 (s.getF F.AX_FRAME_V a) k.ftag * s.axShift a

/-- Hermite evaluation between two knots (R266): position, speed, acceleration in path time. -/
def hermite (p0 p1 v0 v1 h u : Rat) : Rat × Rat × Rat :=
  if h = 0 then (p1, 0, 0)
  else
    ((2 * u * u * u - 3 * u * u + 1) * p0 + (u * u * u - 2 * u * u + u) * h * v0 + (3 * u * u - 2 * u * u * u) * p1
      + (u * u * u - u * u) * h * v1,
     (6 * u * u - 6 * u) * (p0 - p1) / h + (3 * u * u - 4 * u + 1) * v0 + (3 * u * u - 2 * u) * v1,
     (12 * u - 6) * (p0 - p1) / (h * h) + (6 * u - 4) * v0 / h + (6 * u - 2) * v1 / h)

/-- Drop the knots that the path time has passed: the following knot is the left end (R266). -/
def dropKnots (pt : Int) : List Knot → List Knot
  | k :: n :: ks => if (n.t : Int) ≤ pt then dropKnots pt (n :: ks) else k :: n :: ks
  | ks => ks

/-- Update the ring's head slot and count. -/
def State.setKnots (s : State) (a : Nat) (ks : List Knot) : State :=
  let gone := (s.ax a).knots.length - ks.length
  ((s.setF F.AX_STAT_KNOT_HEAD ((s.getF F.AX_STAT_KNOT_HEAD a + gone) % 256) a).setF F.AX_STAT_KNOT_USED (min 255 ks.length) a).modAx
    a fun x => { x with knots := ks }

/-- Position, speed, acceleration of a table axis at path time pt after the table origin; and whether it has ended. -/
def State.tablePoint (s : State) (a : Nat) (pt : Int) (ks : List Knot) : Rat × Rat × Rat × Bool :=
  match ks with
  | k :: n :: _ =>
    let h : Rat := (((n.t : Int) - k.t : Int) : Rat) / 256000000000
    let u : Rat := ((pt - k.t : Int) : Rat) / (((n.t : Int) - k.t : Int) : Rat)
    let r := hermite (s.knotPos a k : Int) (s.knotPos a n : Int) (k.vel : Int) (n.vel : Int) h u
    (r.1, r.2.1, r.2.2, false)
  | [k] => ((s.knotPos a k : Int), 0, 0, k.last && decide ((k.t : Int) ≤ pt))
  | [] => ((s.getS F.AX_SP_V a : Int), 0, 0, true)

/-- Coverage of a table axis in seconds of path time; none where its last knot is an END knot (R269). -/
def State.coverage (s : State) (a g : Nat) : Option Rat :=
  match (s.ax a).knots.getLast? with
  | some k => if k.last then none
      else some ((((s.getF F.TRJ_TBL0_V g + k.t : Nat) : Int) - s.tau g : Int) / (256000000000 : Rat))
  | none => none

/-- The table axes of a group. -/
def State.tableAxes (s : State) (g : Nat) : List Nat := (s.groupAxes g).filter fun a => (s.ax a).plan == .table

/-- R_SAFE in 1/s. -/
def State.rsafeQ (s : State) (g : Nat) : Rat := (s.rsafe g : Rat) / 64

/-- Starvation of a group's tables (R269). -/
def checkCoverage (g : Nat) (s : State) : State :=
  let dp : Rat := ((s.divOf g * s.period : Nat) : Rat) / 1000000000
  let sc := scaleQ (s.scale g)
  let bound := if s.rsafe g = 0 then 0 else sc * sc / (2 * s.rsafeQ g) + 2 * sc * dp
  let cov := (s.tableAxes g).filterMap fun a => (s.coverage a g).map fun c => (a, c)
  if s.getB F.TRJ_STAT_STARVE g then
    let ok := cov.all fun p => decide (1 / (2 * s.rsafeQ g) + 2 * dp ≤ p.2)
    if ok then s.setF F.TRJ_STAT_STARVE 0 g else s
  else match cov.filter (fun p => decide (p.2 ≤ bound)) with
    | [] => s
    | c :: cs =>
      let least := cs.foldl (fun m p => if p.2 < m.2 then p else m) c
      let s1 := groupHold g F.TRJ_STAT_STARVE s
      let s2 := ((c :: cs).foldl (fun t p => t.flag F.AX_FLAG_UNDERRUN p.1) s1).flag F.TRJ_FLAG_UNDERRUN g
      s2.post 0x0405 4 least.1 0x0407 g

/-! ### Compare units (R281 to R284) -/

def sideOf (x c : Int) : Int := if x < c then -1 else if c < x then 1 else 0

/-- Does C lie behind when the side is taken (R283)? v is the speed of the source. -/
def cmpBehind (dir : Nat) (x c v : Int) : Bool :=
  if dir = 1 then decide (c < x)
  else if dir = 2 then decide (x < c)
  else (decide (c < x) && decide (0 < v)) || (decide (x < c) && decide (v < 0))

/-- Take the side from x; setting BEHIND at arming (R283) or passing at a step (R284). -/
def cmpTake (c : Nat) (x v : Int) (stepping : Bool) (s : State) : State :=
  let u := s.cmp c
  let sd := sideOf x u.c
  if sd = 0 then s.setCmp c { u with side := 0 }
  else
    let behind := cmpBehind (s.getF F.TRJ_CMP_CTL_DIR c) x u.c v
    if stepping then s.setCmp c { u with side := sd, passed := behind }
    else
      let s1 := s.setCmp c { u with side := sd, any := behind }
      if behind then (s1.flag F.TRJ_CMP_STAT_BEHIND c).post 0x0408 4 c EC.OK s.tbs.k else s1

/-- TRJ_CMP_POS shows C (R294); no update of the hardware that a host write could meet (R291). -/
def showC (c : Nat) (s : State) : State := s.wrN (F.TRJ_CMP_POS_V.off c 0) (toBits 72 (s.cmp c).c) 0 3

/-- Arm a unit at x (R283). -/
def cmpArm (c : Nat) (x v : Int) (s : State) : State :=
  let s1 := s.setCmp c { s.cmp c with side := 0, any := false, passed := false, armedAt := some s.frc }
  let s2 := (s1.setF F.TRJ_CMP_STAT_ARMED 1 c).setF F.TRJ_CMP_STAT_FIRES 0 c
  cmpTake c x v false s2

/-- A pulse that has ended gives way to the later one. -/
def Cmp.turn (now : Nat) (u : Cmp) : Cmp :=
  match u.pulse with
  | some (_, e) => if e ≤ now then { u with pulse := u.pulse2, pulse2 := none } else u
  | none => u

/-- A fire at from_ starts a pulse, or extends the pulse it falls into (R282). -/
def Cmp.pulseFrom (from_ stop : Nat) (u : Cmp) : Cmp :=
  match u.pulse, u.pulse2 with
  | none, _ => { u with pulse := some (from_, stop) }
  | some (b, e), none => if from_ ≤ e then { u with pulse := some (b, stop) } else { u with pulse2 := some (from_, stop) }
  | some _, some (b, _) => { u with pulse2 := some (b, stop) }

/-- Is the output of the unit pulsed at an instant? -/
def Cmp.on (now : Nat) (u : Cmp) : Bool :=
  let inside (p : Option (Nat × Nat)) : Bool := match p with
    | some (b, e) => decide (b ≤ now) && decide (now < e)
    | none => false
  inside u.pulse || inside u.pulse2

/-- The unit as it stands, should an arming take the fire back (R291). -/
def State.cmpPrior (s : State) (c : Nat) (u : Cmp) : CmpPrior :=
  { edge := s.frc, c := u.c, side := u.side, any := u.any, passed := u.passed, pulse := u.pulse, pulse2 := u.pulse2,
    ctl := s.rd (R.TRJ_CMP_CTL + 0x40 * c), stat := s.rd (R.TRJ_CMP_STAT + 0x40 * c), time := s.getF F.TRJ_CMP_TIME_V c }

/-- An arming by TRJ_CMP_POS at the edge of a fire: the fire has not been (R291). -/
def cmpUndo (c : Nat) (s : State) : State :=
  match (s.cmp c).prior with
  | none => s
  | some p =>
    if p.edge ≠ s.frc then s
    else
      let s1 := s.setCmp c { s.cmp c with c := p.c, side := p.side, any := p.any, passed := p.passed, pulse := p.pulse, pulse2 := p.pulse2,
                                          prior := none }
      let s2 := ((s1.put (R.TRJ_CMP_CTL + 0x40 * c) p.ctl 0).put (R.TRJ_CMP_STAT + 0x40 * c) p.stat 0).wrN (F.TRJ_CMP_TIME_V.off c 0) p.time 0 3
      s2.withTrj fun t => { t with fired := listDel t.fired c }

/-- A unit fires at a time, its pulse starting at from_ (R282); then it steps or disarms (R284). -/
def cmpFire (c : Nat) (x v : Int) (time from_ : Nat) (late : Bool) (s : State) : State :=
  let u := ((s.cmp c).turn s.now).pulseFrom from_ (from_ + 256 * s.getF F.TRJ_CMP_WIDTH_WIDTH c)
  let prior := some (s.cmpPrior c (s.cmp c))
  let s1 := ((s.setF F.TRJ_CMP_TIME_V time c).flag F.TRJ_CMP_STAT_FIRED c).incF F.TRJ_CMP_STAT_FIRES c
  let s2 := (s1.flagIf late F.TRJ_CMP_STAT_LATE c).withTrj fun t => { t with fired := listIns t.fired c }
  let cnt := s.getF F.TRJ_CMP_CNT_COUNT c
  let fires := s2.getF F.TRJ_CMP_STAT_FIRES c
  let stopNow := u.step = 0 ∨ (cnt ≠ 0 ∧ cnt ≤ fires)
  let s3 := showC c (s2.setCmp c { u with any := false, passed := false, c := if u.step = 0 then u.c else u.c + u.step, prior := prior })
  if stopNow then ((s3.setF F.TRJ_CMP_STAT_ARMED 0 c).setF F.TRJ_CMP_CTL_ARM 0 c) else cmpTake c x v true s3

/-- One comparison of an armed unit (R282 to R284); the comparison that meets an arming is not made (R291). -/
def cmpCompare (c : Nat) (x v : Int) (time from_ : Nat) (s : State) : State :=
  let u := s.cmp c
  if s.getB F.TRJ_CMP_STAT_ARMED c = false ∨ u.armedAt = some s.frc then s
  else if u.passed then cmpFire c x v time from_ true s
  else if u.side = 0 then cmpTake c x v (s.getF F.TRJ_CMP_STAT_FIRES c != 0) s
  else
    let rising := u.side = -1 ∧ u.c ≤ x
    let falling := u.side = 1 ∧ x ≤ u.c
    if rising ∨ falling then
      let dir := s.getF F.TRJ_CMP_CTL_DIR c
      let s1 := s.setCmp c { u with side := if rising then 1 else -1 }
      if u.any ∨ dir = 0 ∨ (dir = 1 ∧ rising) ∨ (dir = 2 ∧ falling) then cmpFire c x v time from_ false s1 else s1
    else s

/-- The compare units on an axis's set point, or on a feedback channel (R281). -/
def State.cmpsOn (s : State) (src inst : Nat) : List Nat :=
  (List.range 32).filter fun c => s.getB F.TRJ_CMP_STAT_ARMED c && s.getF F.TRJ_CMP_CTL_SRC c == src
    && s.getF F.TRJ_CMP_CTL_INST c == inst

/-- Level of compare output o at the present edge (R281). -/
def State.cmpo (s : State) (o : Nat) : Bool :=
  let units := (List.range 32).filter fun c => s.getB F.TRJ_CMP_CTL_OUT_EN c && s.getF F.TRJ_CMP_CTL_OUT c == o
  let on := units.any fun c => (s.cmp c).on s.now
  match units with
  | [] => false
  | c :: _ => if s.getB F.TRJ_CMP_CTL_POL c then !on else on

/-- Compare an axis's new set point: the pulse starts at T0 of the next cycle, which is also CMP_TIME (R282). -/
def compareAxis (a : Nat) (s : State) : State :=
  let t := (s.tbs.t0 + s.period) * 256
  s.each (s.cmpsOn 0 a) fun c u => cmpCompare c (u.getS F.AX_SP_V a) (u.getS F.AX_SPD_V a) t t u

/-! ### Limits and homing (R274 to R280) -/

/-- The reference input of an axis's homing method: 0 positive limit, 1 negative limit, 2 home (R277). -/
def refInput (method : Nat) : Nat := if method = 1 then 1 else if method = 2 then 0 else 2

def State.homeMethod (s : State) (a : Nat) : Nat := s.tb 0x0403 a 0 0 3

/-- Direction of SEARCH: DIR for methods 0 and 3, else toward the reference limit (R277). -/
def State.homeDir (s : State) (a : Nat) : Int :=
  let m := s.homeMethod a
  if m = 1 then -1 else if m = 2 then 1 else if s.tb 0x0403 a 0 3 1 = 0 then 1 else -1

/-- A motion from the axis's present path state at a path speed, as homing uses it. -/
def State.homeMotion (s : State) (a : Nat) (v : Int) : Motion :=
  let tau := (s.groupOf a).elim 0 s.tau
  let st := s.pathState a tau
  freeVel tau st.1 st.2 v ((s.limits a).amax : Rat)

/-- Enter a phase of homing; SEARCH counts its travel from here (R277, R279). -/
def State.setHome (s : State) (a : Nat) (ph : HomePhase) (v : Int) : State :=
  let f := match (s.ax a).plan, ph with
    | _, .search => s.getS F.AX_SP_V a
    | .homing _ _ f, _ => f
    | _, _ => s.getS F.AX_SP_V a
  s.setPlan a (.homing ph (s.homeMotion a v) f)

/-- Every position an axis keeps moves by d: its plan, where its limits and its reference latched, the samples its filters judge
(R270, R280). -/
def Axis.shift (x : Axis) (d : Int) : Axis :=
  { x with plan := x.plan.shift d, latP := x.latP + d, latN := x.latN + d, latRef := x.latRef + d,
           cand := x.cand.map fun p => (p.1, p.2.map fun c => { c with pos := c.pos + d }) }

/-- AX_POS_OFF, the set point and every position of the axis move by d (R270, R280). -/
def axMove (a : Nat) (d : Int) (s : State) : State :=
  ((s.setS F.AX_POS_OFF_V (s.getS F.AX_POS_OFF_V a + d) a).setS F.AX_SP_V (s.getS F.AX_SP_V a + d) a).modAx a fun x => x.shift d

/-- Set AX_POS_OFF so that the measured position meas becomes pos; the set point and the plan move along (R280). -/
def setOffset (a : Nat) (meas pos : Int) (s : State) : State := axMove a (pos - meas) s

/-- The SET phase (R277). -/
def homeSet (a : Nat) (latched : Int) (s : State) : State :=
  let s1 := setOffset a latched (s.twS 0x0403 a 3) s
  let s2 := s1.modAx a fun x => { x with latRef := s.twS 0x0403 a 3 }
  s2.setHome a .set 0

/-- The speed and acceleration set points point toward a limit (R276): dir 1 positive, -1 negative. -/
def State.towards (s : State) (a : Nat) (dir : Int) : Bool :=
  let v := s.getS F.AX_SPD_V a
  decide (isgn v = dir) || (decide (v = 0) && decide (isgn (s.ax a).acc = dir))

/-- A limit trips: event, and HOLD with cause LIMIT (R276). -/
def limitTrip (a : Nat) (positive : Bool) (s : State) : State :=
  let s1 := (s.flag F.AX_FLAG_LIMIT_TRIP a).post 0x0402 4 a 0x0408 (b2n positive)
  match s.groupOf a with
  | some g => groupHold g F.TRJ_STAT_LIMIT (s1.flag F.TRJ_FLAG_LIMIT_TRIP g)
  | none => s1

/-- The edge at which a limit latched that waits for the next evaluation's judgement. -/
def Axis.setEdge (x : Axis) (positive : Bool) (e : Option Nat) : Axis := if positive then { x with edgeP := e } else { x with edgeN := e }

/-- An evaluation judges the limits that have latched since the one before while the axis did not move toward them (R291). -/
def limitTrips (a : Nat) (s : State) : State :=
  s.each [true, false] fun p t =>
    if (if p then (t.ax a).edgeP else (t.ax a).edgeN).isNone then t
    else
      let t1 := t.modAx a fun x => x.setEdge p none
      match (t1.ax a).plan with
      | .homing _ _ _ => t1
      | _ => if t1.towards a (if p then 1 else -1) && t1.getB (if p then F.AX_STAT_LIM_P else F.AX_STAT_LIM_N) a then limitTrip a p t1 else t1

/-- A limit latches at a position (R275, R276, R279). -/
def limitLatch (a : Nat) (positive : Bool) (pos : Int) (s : State) : State :=
  let dir : Int := if positive then 1 else -1
  let s1 := (s.setF (if positive then F.AX_STAT_LIM_P else F.AX_STAT_LIM_N) 1 a).modAx a fun x =>
    if positive then { x with latP := pos } else { x with latN := pos }
  let ref := refInput (s.homeMethod a)
  match (s.ax a).plan with
  | .homing .failing _ _ => s1
  | .homing ph _ _ =>
    if (ref = 0 ∧ positive) ∨ (ref = 1 ∧ positive = false) then s1
    else
      let s2 := (s1.flag F.AX_FLAG_LIMIT_TRIP a).post 0x0402 4 a 0x0408 (b2n positive + 2)
      if ph = .search ∧ dir = s.homeDir a ∧ (s.ax a).revDone = false then
        if s.tb 0x0403 a 0 4 1 = 1 then (s2.modAx a fun x => { x with revDone := true }).setHome a .revSearch 0
        else homeFail a 1 s2
      else homeFail a 2 s2
  | _ => if s.towards a dir then limitTrip a positive s1 else s1.modAx a fun x => x.setEdge positive (some s.frc)

/-- No limit of an axis's group is latched any more: LIMIT, kept at ABORT, clears; in HOLD and STOP the cause stays (R272). -/
def limitFree (a : Nat) (s : State) : State :=
  match s.groupOf a with
  | some g => if s.getB F.TRJ_STAT_LIMIT g && !s.limLatched g && s.gst g != GSt.HOLD && s.gst g != GSt.STOP then s.setF F.TRJ_STAT_LIMIT 0 g else s
  | none => s

/-- A limit releases when its input is inactive and the position lies HYST away (R275). -/
def limitRelease (a : Nat) (s : State) : State :=
  let x := s.ax a
  let hyst := s.twS 0x0403 a 4
  let p := s.measPos a
  let s1 := if s.getB F.AX_STAT_LIM_P a && !bit x.filt 0 && decide (p ≤ x.latP - hyst) then s.setF F.AX_STAT_LIM_P 0 a else s
  let s2 := if s.getB F.AX_STAT_LIM_N a && !bit x.filt 1 && decide (x.latN + hyst ≤ p) then s1.setF F.AX_STAT_LIM_N 0 a else s1
  limitFree a s2

/-- The latched limits of every axis that releases at the measured positions now known (R275). -/
def limitsRelease (s : State) : State :=
  s.each ((List.range 128).filter fun a => s.getB F.AX_STAT_LIM_P a || s.getB F.AX_STAT_LIM_N a) limitRelease

/-- Homing's answer to a new filtered state of an input (R277 to R279). -/
def homeInput (a j : Nat) (active : Bool) (pos : Int) (s : State) : State :=
  let method := s.homeMethod a
  let vs := s.twS 0x0403 a 1
  match (s.ax a).plan with
  | .homing ph _ _ =>
    if j = refInput method then
      match ph, active with
      | .search, true => (s.modAx a fun x => { x with latRef := pos }).setHome a .brake 0
      | .back, false => if method = 3 then s.setHome a .backIndex (-(s.homeDir a) * s.twS 0x0403 a 2) else homeSet a pos s
      | .revSearch, true => s.setHome a .revRelease (-(s.homeDir a) * vs)
      | .revRelease, false => s.setHome a .revBrake 0
      | _, _ => s
    else s
  | _ => s

/-- A limit or home input's filtered state takes a new value; pos is the measured position at the raw edge (R274). -/
def inputConfirm (a j : Nat) (active : Bool) (pos : Int) (s : State) : State :=
  let f := (s.ax a).filt
  let s1 := s.modAx a fun x => { x with filt := if active then f ||| 2 ^ j else mclr f (2 ^ j) }
  let s2 := if j = 2 then s1.setF F.AX_STAT_HOME_IN (b2n active) a else s1
  let latched := if j = 0 then s.getB F.AX_STAT_LIM_P a else s.getB F.AX_STAT_LIM_N a
  let s3 := if active && decide (j < 2) && !latched then limitLatch a (j == 0) pos s2 else s2
  limitRelease a (homeInput a j active pos s3)

/-- The level of a selected input now: a GPI, or a status bit of the drive (R274, R507). -/
def State.rawInput (s : State) (a j : Nat) : Bool :=
  let w := (s.rd (R.AX_IN_SEL + 0x400 * a)).toNat
  let idx := bits w (8 * j) 6
  let lvl := if bit w (8 * j + 6) then bit (mapGet (fun _ => SlotVals.reset) s.twl.slots a).status idx else s.trj.gpi.getLsbD idx
  bit w (8 * j + 7) && (lvl != bit w (24 + j))

/-- Judge the inputs from their raw levels, without filter delay (R275). -/
def rejudgeInputs (a : Nat) (s : State) : State :=
  let m := b2n (s.rawInput a 0) + 2 * b2n (s.rawInput a 1) + 4 * b2n (s.rawInput a 2)
  let s1 := ((s.setF F.AX_STAT_LIM_P 0 a).setF F.AX_STAT_LIM_N 0 a).modAx a fun x => { x with filt := m, cand := [] }
  let s2 := s1.setF F.AX_STAT_HOME_IN (b2n (bit m 2)) a
  let s3 := if bit m 0 then limitLatch a true (s.measPos a) s2 else s2
  limitFree a (if bit m 1 then limitLatch a false (s.measPos a) s3 else s3)

/-- One sample of an input, at a count of the counter and a measured position: the filtered state takes a level that has lasted
AX_IN_FILT, with the position of the first sample that showed it; a sample of the other level restarts the count (R274, R278). -/
def inputSample (a j at_ : Nat) (active : Bool) (pos : Int) (s : State) : State :=
  let x := s.ax a
  let old := mapGet (fun _ => none) x.cand j
  let keep (c : Option Cand) (t : State) : State := t.modAx a fun x => { x with cand := mapSet (fun _ => none) x.cand j c }
  if bit x.filt j = active then (if old.isNone then s else keep none s)
  else
    let c := old.getD { since := at_, pos := pos }
    if 1000 * s.getF F.AX_IN_FILT_FILT a ≤ at_ - c.since then inputConfirm a j active c.pos (keep none s) else keep (some c) s

/-- A valid reply of the axis's drive is a sample of each input that it reports; the position is that of the drive's latch, where
the latch is this input's, else the reply's own (R274, R278, R507). -/
def driveInputs (a : Nat) (s : State) : State :=
  let w := (s.rd (R.AX_IN_SEL + 0x400 * a)).toNat
  s.each ((List.range 3).filter fun j => bit w (8 * j + 6) && bit w (8 * j + 7)) fun j t =>
    let v := mapGet (fun _ => SlotVals.reset) t.twl.slots a
    let latched := bit v.status 3 && bits v.status 5 3 + 8 == bits w (8 * j) 6
    inputSample a j t.frc (t.rawInput a j) (if latched then v.latch * 2 ^ 24 + t.getS F.AX_POS_OFF_V a else t.measPos a) t

/-- An index pulse of the axis's channel ends BACK of method 3 (R277). -/
def homeIndex (chan : Nat) (count : Int) (s : State) : State :=
  s.each (List.range 128) fun a t =>
    match (t.ax a).plan with
    | .homing .backIndex _ _ =>
      if t.getF F.AX_CTL_PCHAN a = chan ∧ t.getB F.AX_CTL_PSRC a = false then homeSet a (count + t.getS F.AX_POS_OFF_V a) t else t
    | _ => t

/-- HOMING ends with its homing (R272). -/
def homeEnd (g : Nat) (s : State) : State := if s.gst g = GSt.HOMING then s.setGst g GSt.IDLE else s

/-- Homing's transitions at an evaluation: a phase whose motion has ended (R277, R279). -/
def homeStep (a g : Nat) (s : State) : State :=
  match (s.ax a).plan with
  | .homing ph m f =>
    let done := m.done (s.tau g)
    let back := -(s.homeDir a)
    let span := s.twS 0x0403 a 5
    let out := decide (span ≠ 0) && decide (span < ((s.getS F.AX_SP_V a) - f).natAbs)
    match ph with
    | .search => if out then homeFail a 3 s else s
    | .brake => if done then s.setHome a .back (back * s.twS 0x0403 a 2) else s
    | .revSearch => if done then s.setHome a .revSearch (back * s.twS 0x0403 a 1) else s
    | .revBrake => if done then s.setHome a .search (-back * s.twS 0x0403 a 1) else s
    | .set =>
      if done then
        let s1 := (s.setPlan a .none).setF F.AX_STAT_HOMED 1 a
        homeEnd g (s1.post 0x0403 4 a EC.OK (toBits 64 ((s.ax a).latRef / 2 ^ 24)))
      else s
    | .failing => if done then homeEnd g (s.setPlan a .none) else s
    | _ => s
  | _ => s

/-! ### One axis's evaluation (R249, R253, R261, R267, R268, R270) -/

/-- Shift an endless axis whose set point has left the range (R270). -/
def frameShift (a g : Nat) (s : State) : State :=
  let sp := s.getS F.AX_SP_V a
  let _ := g
  if s.axMod a = 0 ∨ sp.natAbs < 2 ^ 69 then s
  else
    let j := isgn sp
    let d := -(j * s.axShift a)
    let s2 := axMove a d s
    let frame := toBits 16 (s.getS F.AX_FRAME_V a + j)
    let s3 := (s2.setF F.AX_FRAME_V frame a).flag F.AX_FLAG_FRAME_SHIFT a
    let s4 := s3.each ((List.range 32).filter fun c => s.getF F.TRJ_CMP_CTL_SRC c == 0 && s.getF F.TRJ_CMP_CTL_INST c == a) fun c t =>
      showC c (t.setCmp c { t.cmp c with c := (t.cmp c).c + d })
    s4.post 0x0407 4 a EC.OK frame

/-- A limit pair that fails in use: the fault, the set point kept for P_MIN and P_MAX, HOLD with LFAULT (R50, R257). -/
def checkLimits (a g : Nat) (s : State) : State :=
  if s.limGood a then (if (s.ax a).badSp.isSome then s.modAx a fun x => { x with badSp := none } else s)
  else if (s.ax a).badSp.isSome then s
  else
    limitFault g a (s.modAx a fun x => { x with badSp := some (s.getS F.AX_SP_V a) })

/-- Hold a set point inside the soft limits; a clamp holds the group (R268).  Homing is not clamped (R277). -/
def softClamp (a g : Nat) (p : Int) (s : State) : Int × State :=
  let l := s.limits a
  match (s.ax a).plan with
  | .homing _ _ _ => (p, s)
  | .none => (p, s)
  | _ =>
    let q := clampI l.pmin l.pmax p
    if q = p then (p, s)
    else (q, (groupHold g F.TRJ_STAT_SOFT ((s.flag F.AX_FLAG_SOFT_CLAMP a).flag F.TRJ_FLAG_SOFT_CLAMP g)).post 0x0406 4 a 0x040A s.tbs.k)

/-- The set point due at the evaluation before was late: LATE shows it at this one (R39, R254). -/
def lateShow (a g : Nat) (s : State) : State :=
  if (s.ax a).lateNow then ((s.flag F.AX_FLAG_LATE a).flag F.TRJ_FLAG_LATE g).modAx a fun x => { x with lateNow := false } else s

/-- The set points of one member axis at the group's path clock, by the plan it follows. -/
def evalPlan (g a : Nat) (s : State) : State :=
  let tau := s.tau g
  if s.gst g = GSt.TRACK then compareAxis a (s.putSp a (s.measPos a) 0 0 0)
  else match (s.ax a).plan with
  | .none => compareAxis a (s.putSp a (s.getS F.AX_SP_V a) 0 0 (s.torqueFf a 0 0))
  | .table =>
    let pt : Int := (tau : Int) - s.getF F.TRJ_TBL0_V g
    let ks := dropKnots pt (s.ax a).knots
    let s1 := s.setKnots a ks
    let r := s1.tablePoint a pt ks
    let sa := s1.spdAcc g r.2.1 r.2.2.1
    let c := softClamp a g (qround r.1) s1
    let still := match ks with | [_] => true | [] => true | _ => false
    let s2 := if still then c.2.putSp a c.1 0 0 0 else c.2.putSp a c.1 sa.1 sa.2 (c.2.torqueFf a sa.1 sa.2)
    compareAxis a (if r.2.2.2 then (s2.setPlan a .none).setKnots a [] else s2)
  | p =>
    match p.motion with
    | none => s
    | some m =>
      let e := m.exact tau
      let sa := s.spdAcc g e.2.1 e.2.2
      let c := softClamp a g (m.pos tau) s
      let s1 := c.2.putSp a c.1 sa.1 sa.2 (c.2.torqueFf a sa.1 sa.2)
      let s2 := match p with
        | .move _ _ => if m.done tau then (s1.setPlan a .none).flag F.AX_FLAG_MOVE_DONE a else s1
        | .vel _ v t =>
          let soft := match t with | some u => decide (u ≤ m.dt tau) | none => false
          let s2 := s1.flagIf soft F.AX_FLAG_SOFT_STOP a
          if v = 0 ∧ m.done tau then s2.setPlan a .none else s2
        | .homing _ _ _ => homeStep a g s1
        | _ => s1
      compareAxis a s2

/-- Evaluate one member axis. -/
def evalAxis (g a : Nat) (s : State) : State :=
  limitRelease a (limitTrips a (evalPlan g a (lateShow a g (checkLimits a g (frameShift a g s)))))

/-- MOVE_DONE of an arm whose last joint has ended in this evaluation (R261). -/
def moveDone (arm : Nat) (was : Bool) (s : State) : State :=
  let still := (s.armAxes arm).any fun a => match (s.ax a).plan with | .move m _ => m == arm | _ => false
  let s1 := if still then s else (s.setF F.TRJ_ARM_STAT_MOVING 0 arm).setF F.TRJ_ARM_STAT_COORD 0 arm
  if was && !still then s1.post 0x0401 4 arm EC.OK s.tbs.k else s1

/-- RUN falls back to IDLE when every member has ended (R272). -/
def groupEnded (g : Nat) (s : State) : State :=
  if s.gst g = GSt.RUN ∧ s.planned g = false then s.setGst g GSt.IDLE else s

/-- Is an axis's motion toward a latched limit (R276)?  One that latches at the present edge does not stand in the way of a
command of that edge (R291). -/
def State.limitBlocks (s : State) (a : Nat) (d : Int) : Bool :=
  (decide (0 < d) && s.getB F.AX_STAT_LIM_P a && (s.ax a).edgeP != some s.frc)
  || (decide (d < 0) && s.getB F.AX_STAT_LIM_N a && (s.ax a).edgeN != some s.frc)

/-! ### Commands (R258 to R265, R272, R277, R280, R289, R290) -/

/-- An accepted motion puts an idle group into RUN (R272). -/
def groupRun (g : Nat) (s : State) : State := if s.gst g = GSt.IDLE then s.setGst g GSt.RUN else s

/-- Apply a MOVE that took effect at path time tau (R258, R259). -/
def applyMove (arm : Nat) (targets : List Int) (tau : Nat) (s : State) : State :=
  let js := (s.armAxes arm).zip targets
  let rest := js.all fun p => (s.ax p.1).plan == .none
  let setRun (t : State) : State :=
    groupRun (t.getF F.TRJ_ARM_CTL_GROUP arm) ((t.setF F.TRJ_ARM_STAT_MOVING 1 arm).setF F.TRJ_ARM_STAT_COORD (b2n rest) arm)
  if rest then
    let ds := js.map fun p => (p.1, s.getS F.AX_SP_V p.1, p.2 - s.getS F.AX_SP_V p.1)
    let mv := ds.filter fun d => d.2.2 ≠ 0
    let vs := mv.foldl (fun m d => qmin m (((s.limits d.1).vmax : Rat) / (d.2.2.natAbs : Nat))) (2 ^ 80 : Nat)
    let as_ := mv.foldl (fun m d => qmin m (((s.limits d.1).amax : Rat) / (d.2.2.natAbs : Nat))) (2 ^ 80 : Nat)
    if mv.isEmpty then setRun (ds.foldl (fun t d => t.setPlan d.1 (.move arm { start := tau, segs := [], dur := some 0, target := d.2.1 })) s)
    else setRun (ds.foldl (fun t d => t.setPlan d.1 (.move arm (coordMotion tau d.2.1 d.2.2 vs as_))) s)
  else
    setRun (js.foldl (fun t p =>
      let l := t.limits p.1
      let st := t.pathState p.1 tau
      let moving := (t.ax p.1).plan != .none
      (t.setPlan p.1 (.move arm (replaceMotion tau st.1 st.2 p.2 l.vmax l.amax))).flagIf moving F.AX_FLAG_REPLACED p.1) s)

/-- Apply a VEL that took effect at path time tau (R262). -/
def applyVel (a : Nat) (v : Int) (g tau : Nat) (s : State) : State :=
  let st := s.pathState a tau
  let m := velMotion tau st.1 st.2 v (s.limits a) (s.axMod a != 0)
  let was := match (s.ax a).plan with | .move _ _ => true | _ => false
  let s1 := (s.setPlan a (.vel m.1 v m.2)).flagIf was F.AX_FLAG_REPLACED a
  groupRun g (match (s.ax a).plan with | .move arm _ => moveDone arm false s1 | _ => s1)

/-- Start the tables of a group; their origin is the path time of the T0 of the start (R265). -/
def applyStart (g tau : Nat) (s : State) : State :=
  let axs := (s.groupAxes g).filter fun a => !(s.ax a).knots.isEmpty
  groupRun g (axs.foldl (fun t a => t.setPlan a .table) (s.setF F.TRJ_TBL0_V tau g))

/-- Apply HOME (R277). -/
def applyHome (a g : Nat) (s : State) : State :=
  let s0 := (s.setGst g GSt.HOMING).modAx a fun x => { x with revDone := false }
  if s.homeMethod a = 4 then homeSet a (s.measPos a) (s0.setHome a .set 0)
  else s0.setHome a .search (s.homeDir a * s.twS 0x0403 a 1)

/-- V_MAX and A_MAX of an auxiliary channel in use, and whether every pair of its record is valid (R257, R293). -/
def State.auxLimits (s : State) (n : Nat) : Rat × Rat :=
  ((if pairOk 72 (s.tw 0x0404 n 0) (s.tw 0x0404 n 1) then s.twS 0x0404 n 0 else 0 : Int),
   (if pairOk 72 (s.tw 0x0404 n 2) (s.tw 0x0404 n 3) then s.twS 0x0404 n 2 else 2 ^ 70 : Int))
def State.auxGood (s : State) (n : Nat) : Bool :=
  pairOk 72 (s.tw 0x0404 n 0) (s.tw 0x0404 n 1) && pairOk 72 (s.tw 0x0404 n 2) (s.tw 0x0404 n 3)
    && pairOk 36 (s.tw 0x0404 n 4) (s.tw 0x0404 n 4 / 2 ^ 36)

/-- Apply an AUX_MOVE or AUX_VEL at a path time (R286). -/
def applyAux (n tau : Nat) (c : TrjCmd) (s : State) : State :=
  let u := s.aux n
  let p0 : Rat := ((s.getS F.AUX_SP_V n : Int) : Rat)
  let st : Rat × Rat := match u.plan.motion with | some m => ((m.pos tau : Int), (m.exact tau).2.1) | none => (p0, 0)
  let lim := s.auxLimits n
  let moving := u.plan != .none
  match c with
  | .auxMove _ target =>
    ((s.setAux n { u with plan := .move 0 (replaceMotion tau st.1 st.2 target lim.1 lim.2) }).setF F.AUX_STAT_MODE 1 n).flagIf
      moving F.AUX_FLAG_REPLACED n
  | .auxVel _ v =>
    ((s.setAux n { u with plan := .vel (freeVel tau st.1 st.2 v lim.2) v none }).setF F.AUX_STAT_MODE 2 n).flagIf
      moving F.AUX_FLAG_REPLACED n
  | _ => s

/-- RESUME and ABORT (R272). -/
def applyResume (g : Nat) (s : State) : State :=
  let other := s.getB F.TRJ_STAT_LIMIT g || s.getB F.TRJ_STAT_SOFT g || s.getB F.TRJ_STAT_STARVE g || s.getB F.TRJ_STAT_LFAULT g
  if s.gst g = GSt.HOLD ∧ other = false then groupEnded g ((s.setF F.TRJ_STAT_PAUSE 0 g).setGst g GSt.RUN) else s

def applyAbort (g : Nat) (s : State) : State :=
  if s.gst g = GSt.HOLD ∧ s.scale g = 0 then clearCauses g ((dropPlans g s).setGst g GSt.IDLE) else s

/-- Apply one waiting command at a group's evaluation, with the path time of the T0 of its effect (R289). -/
def applyCmd (g : Nat) (c : Option Nat × TrjCmd) (s : State) : State :=
  let tau := c.1.getD (s.tau g)
  match c.2 with
  | .move arm ts => applyMove arm ts tau s
  | .vel a v => applyVel a v g tau s
  | .start => applyStart g tau s
  | .pause => if s.gst g = GSt.RUN ∨ s.gst g = GSt.HOLD ∨ s.gst g = GSt.STOP then groupHold g F.TRJ_STAT_PAUSE s else s
  | .resume => applyResume g s
  | .abort => applyAbort g s
  | .home a => applyHome a g s
  | .push a ks => s.setKnots a ((s.ax a).knots ++ ks)
  | .setPos a p => (setOffset a (s.measPos a) p s).setF F.AX_STAT_HOMED 1 a
  | .clear a => s.setKnots a []
  | .auxMove n _ => groupRun g (applyAux n tau c.2 s)
  | .auxVel n _ => groupRun g (applyAux n tau c.2 s)

/-- Apply a group's waiting commands in order. -/
def applyCmds (g : Nat) (s : State) : State :=
  let cs := (s.grp g).cmds
  (s.modGrp g fun x => { x with cmds := [] }).each cs (applyCmd g)

/-- Discard the waiting commands when the cell cycle stops (R289). -/
def cmdLost (s : State) : State :=
  let s1 := s.each (List.range 8) fun g t =>
    if (t.grp g).cmds.isEmpty then t else (t.modGrp g fun x => { x with cmds := [] }).flag F.TRJ_FLAG_CMD_LOST g
  s1.each (List.range 16) fun n t => if (t.aux n).cmds.isEmpty then t else t.setAux n { t.aux n with cmds := [] }

/-- The path clocks advance by s x P at every observed T0, rounded toward minus infinity (R248); the commands
of this T0 take its path time (R259, R265). -/
def advanceClocks (s : State) : State :=
  s.each (List.range 8) fun g t =>
    let tau := t.tau g + t.scale g * t.period * 256 / 8388608
    (t.setF F.TRJ_PCLK_V tau g).modGrp g fun x => { x with cmds := x.cmds.map fun c => (some (c.1.getD tau), c.2) }

/-- One group's evaluation (R249); late are the axes whose set points are not complete at TC: theirs stay where they are for the
cycle (R39, R254). -/
def evalGroup (late : List Nat) (g : Nat) (s : State) : State :=
  if s.gst g = GSt.OFF then takeFactor g s
  else
    let s1 := checkRsafe g (groupFollow g (applyCmds g s))
    let s2 := evalScale g (takeFactor g s1)
    let was := (s2.groupArms g).map fun m => (m, s2.getB F.TRJ_ARM_STAT_MOVING m)
    let s3 := s2.each (s2.groupAxes g) fun a t => if late.contains a then t.modAx a fun x => { x with lateNow := true } else evalAxis g a t
    let s4 := checkCoverage g s3
    let s5 := was.foldl (fun t p => moveDone p.1 p.2 t) s4
    raiseSignals (2 ^ (24 + g)) (groupEnded g s5)

/-- The groups whose position loops run in the cycle that begins (R33, R249). -/
def evalGroups (late : List Nat) (s : State) : State :=
  s.each (List.range 8) fun g t => if t.dueIn g t.tbs.k then evalGroup late g t else t

/-! ### Cell-cycle start -/

/-- No factor is in force and none is issued, and no separation cycle is under way (R252, R315). -/
def sepClear (s : State) : State := { s with sep := { s.sep with fac := [], facNext := [], phase := .idle } }

/-- At cell-cycle start the path clocks, scales and scale rates are 0 and no factor is in force (R248, R252). -/
def trjCycleStart (s : State) : State :=
  sepClear (s.each (List.range 8) fun g t =>
    ((((t.setF F.TRJ_PCLK_V 0 g).setScale g 0).setF F.TRJ_LIM_V 0 g).setF F.TRJ_LIM_C_V (2 ^ 24 - 1) g).modGrp g fun x =>
      { x with sd := 0, sPrev := 0, facDue := false })

end Sys2Proof.Machine
end

