-- ==== Sys2Proof/Machine/Saf.lean ====
section
/-! DEFINITION. The safety channels (R343 to R399): demands and their causes, the group and global safety states, safe inputs and outputs, reset edges, the position record and its checks. Both channels hold the same groups and causes (R344); what they filter on their own is held apart. -/

namespace Sys2Proof.Machine

def State.withSaf (s : State) (f : Saf → Saf) : State := { s with saf := f s.saf }
def State.sgrp (s : State) (g : Nat) : SGroup := mapGet (fun _ => SGroup.reset) s.saf.groups g
def State.modSgrp (s : State) (g : Nat) (f : SGroup → SGroup) : State :=
  s.withSaf fun x => { x with groups := mapSet (fun _ => SGroup.reset) x.groups g (f (mapGet (fun _ => SGroup.reset) x.groups g)) }
/-- A group as one channel finds it: 0 the safety processor, 1 Felt. -/
def State.schan (s : State) (ch g : Nat) : SChan := mapGet (fun _ => SChan.reset) s.saf.chans (8 * ch + g)
def State.modSchan (s : State) (ch g : Nat) (f : SChan → SChan) : State :=
  s.withSaf fun x => { x with chans := mapSet (fun _ => SChan.reset) x.chans (8 * ch + g) (f (mapGet (fun _ => SChan.reset) x.chans (8 * ch + g))) }

/-- A channel's latest position record, and an axis in it. -/
def State.chRec (s : State) (ch : Nat) : ChRec := mapGet (fun _ => ChRec.reset) s.saf.recs ch
def State.chAx (s : State) (ch a : Nat) : Option AxRec := mapGet (fun _ => none) (s.chRec ch).axes a

/-! Codes of the global safety states (R354). -/
namespace SSt
def BOOT : Nat := 1
def NO_PARAM : Nat := 2
def UNCONFIRMED : Nat := 3
def START_TEST : Nat := 4
def OPERATE : Nat := 5
def EDIT : Nat := 6
def SAFE_FAULT : Nat := 7
end SSt

/-! Codes of the group safety states (R362). -/
namespace GS
def STO : Nat := 0
def SS1 : Nat := 1
def SS2 : Nat := 2
def SOS : Nat := 3
def RUN : Nat := 4
end GS

def State.safSt (s : State) : Nat := s.getF F.SAF_STATE_STATE
def State.gSt (s : State) (g : Nat) : Nat := s.getF F.SAF_G_STAT_STATE g

/-! ### The cell as the channels hold it (R351) -/

/-- The arms of a group, for every safety function: as PARAM_CLOSE found them. -/
def State.sArms (s : State) (g : Nat) : List Nat :=
  (List.range 16).filter fun m => match mapGet (fun _ => none) s.saf.arms m with
    | some (h, _) => h == g
    | none => false

/-- The axes of a group, as the channels hold them. -/
def State.sAxes (s : State) (g : Nat) : List Nat :=
  (s.sArms g).flatMap fun m => match mapGet (fun _ => none) s.saf.arms m with
    | some (_, nj) => (List.range nj).map (s.jointAxis m)
    | none => []

/-- The group of an axis, as the channels hold it. -/
def State.sGroupOf (s : State) (a : Nat) : Option Nat := (List.range 8).find? fun g => (s.sAxes g).contains a

/-- An enabled remote axis. -/
def State.remote (s : State) (a : Nat) : Bool := s.getB F.AX_CTL_EN a && !s.getB F.AX_CTL_LOCAL a

/-! ### Safe inputs (R356, R357) -/

/-- A field of an input's configuration. -/
def State.inCfg (s : State) (i lo w : Nat) : Nat := s.pb 0x0605 i 0 lo w
def State.inFunc (s : State) (i : Nat) : Nat := s.inCfg i 0 4
def State.inType (s : State) (i : Nat) : Nat := s.inCfg i 4 2
def State.inGroups (s : State) (i : Nat) : Nat := s.inCfg i 22 8
def State.inReact (s : State) (i : Nat) : Nat := s.inCfg i 30 2

/-- The terminals that read low in a channel: 0 the safety processor, 1 Felt. -/
def State.lows (s : State) (ch : Nat) : Nat := if ch = 0 then s.saf.low else s.saf.lowFelt

/-- Terminal n of a channel is at its active level: low, but high for terminal B of a TYPE 1 input (R703). -/
def State.atActive (s : State) (ch n : Nat) : Bool := bit (s.lows ch) n != (n % 2 == 1 && s.inType (n / 2) == 1)

/-- The terminals of a channel at their active level, laid out as SAF_IN. -/
def State.levels (s : State) (ch : Nat) : Nat :=
  ((List.range 32).filter fun n => s.atActive ch n).foldl (fun m n => m + 2 ^ n) 0

/-- An input is active for a channel (R356, R357). -/
def State.inActiveCh (s : State) (ch i : Nat) : Bool :=
  s.atActive ch (2 * i) || (s.inType i != 2 && s.atActive ch (2 * i + 1)) || bit (s.getF F.SAF_IN_STAT_DISC) i

/-- An input is active in either channel (R344). -/
def State.inActive (s : State) (i : Nat) : Bool := s.inActiveCh 0 i || s.inActiveCh 1 i

/-- Both channels show an input's terminals at their active level, or both show them inactive. -/
def State.inBoth (s : State) (i : Nat) (active : Bool) : Bool :=
  (List.range 2).all fun ch => s.atActive ch (2 * i) == active && (s.inType i == 2 || s.atActive ch (2 * i + 1) == active)

/-- A two-channel input whose terminals disagree in a channel (R357). -/
def State.inDisagree (s : State) (i : Nat) : Bool :=
  s.inType i != 2 && (List.range 2).any fun ch => s.atActive ch (2 * i) != s.atActive ch (2 * i + 1)

/-- A selecting input: always (31), never (30), or the input's state (R370, R372). -/
def State.selected (s : State) (sel : Nat) : Bool := sel == 31 || (decide (sel < 16) && s.inActive sel)

/-- SLS is active for a group (R370). -/
def State.slsOn (s : State) (g : Nat) : Bool := s.selected (s.pb 0x0602 g 2 0 5)

/-! ### Safe outputs (R379, R380) -/

def State.outCfg (s : State) (o lo w : Nat) : Nat := s.pb 0x0606 o 0 lo w

/-- The groups of a mask that are in a state. -/
def State.anyIn (s : State) (mask st : Nat) : Bool := (maskBits mask 8).any fun g => s.gSt g == st

/-- An output's function asks for on (R379); an EDM fault and SAFE_FAULT hold it off (R380, R354). -/
def State.outWanted (s : State) (o : Nat) : Bool :=
  let f := s.outCfg o 0 2
  let mask := s.outCfg o 2 8
  s.safSt != SSt.SAFE_FAULT && !bit (s.getF F.SAF_OUT_EDM_F) o &&
    ((f == 1 && !s.anyIn mask GS.STO) || (f == 2 && (maskBits mask 8).all fun g => s.gSt g == GS.RUN))

/-- The feedback input of an output is active. -/
def State.edmActive (s : State) (o : Nat) : Bool := decide (s.outCfg o 10 5 < 16) && s.inActive (s.outCfg o 10 5)

/-- Set one bit of a mask field. -/
def State.setMaskBit (s : State) (f : Fld) (n : Nat) (v : Bool) : State := s.setF f (putBits (s.getF f) n 1 (b2n v))

/-- Bring one output to what its function asks for; a switch starts the EDM time (R380). -/
def outFollow (o : Nat) (s : State) : State :=
  let w := s.outWanted o
  if w = bit (s.getF F.SAF_OUT_ON) o then s
  else
    let s1 := s.setMaskBit F.SAF_OUT_ON o w
    if s.outCfg o 10 5 = 31 then s1
    else s1.withSaf fun x => { x with edm := mapSet (fun _ => none) x.edm o (some (s.frc + s.outCfg o 15 8 * 1000000)) }

/-- The feedback of an output has followed it: its EDM time ends (R380). -/
def edmFollow (o : Nat) (s : State) : State :=
  let s1 := s.setMaskBit F.SAF_OUT_FB o (s.edmActive o)
  if s.edmActive o = bit (s.getF F.SAF_OUT_ON) o then s1
  else s1.withSaf fun x => { x with edm := mapSet (fun _ => none) x.edm o none }

def outsFollow (s : State) : State := s.each (List.range 8) fun o t => edmFollow o (outFollow o t)

/-! ### Group states and demands (R362 to R365) -/

/-- The axis registers of a group follow its state. -/
def axisFollow (g : Nat) (s : State) : State :=
  s.each (s.sAxes g) fun a t =>
    ((t.setF F.SAF_AX_STAT_STO (b2n (t.gSt g == GS.STO)) a).setF F.SAF_AX_STAT_SOS (b2n (t.gSt g == GS.SOS)) a).setF
      F.SAF_AX_STAT_SLS (b2n (t.slsOn g && t.pb 0x0603 a 0 1 1 == 1)) a

/-- A group enters a state: event, flag, axes, outputs, trajectory side (R365, R272, R399). -/
def enterGs (g st : Nat) (s : State) : State :=
  if s.gSt g = st then s
  else
    let s1 := s.setF F.SAF_G_STAT_STATE st g
    let held := if st = GS.SOS then (s.sAxes g).map (fun a => (a, s.measPos a)) else []
    let kept (x : SChan) : SChan := { x with still := 0, held := held }
    let s2 := ((s1.modSgrp g fun x => { x with since := s.frc }).modSchan 0 g kept).modSchan 1 g kept
    let s3 := (s2.flagIf (decide (st ≠ GS.RUN)) F.SAF_FLAG_STOP).post 0x0601 6 g (if st = GS.RUN then EC.OK else 0x0605)
      (st + (s.rd (R.SAF_G_CAUSE + 0x10 * g)).toNat % 2 ^ 16 * 2 ^ 16)
    let s4 := outsFollow (axisFollow g s3)
    if st = GS.STO then groupTrack g s4 else groupFollow g s4

/-- The state a demand of a kind (0 STO, 1 SS1, 2 SS2, 3 none) leads to (R363, R365). -/
def demandTo (kind st : Nat) : Nat :=
  if kind = 0 then GS.STO
  else if kind = 1 then (if st = GS.RUN ∨ st = GS.SS2 ∨ st = GS.SOS then GS.SS1 else st)
  else if kind = 2 then (if st = GS.RUN then GS.SS2 else st)
  else st

/-- A demand for a group: its cause is latched in both channels and its stop asked for (R344, R363). Groups have states
and causes in OPERATE (R362, R355); outside it a demand latches nothing (DEDUCED, log 54). -/
def demand (cause : Fld) (kind g : Nat) (s : State) : State :=
  if s.safSt = SSt.OPERATE then enterGs g (demandTo kind (s.gSt g)) (s.flag cause g) else s

/-- A demand for the groups of a mask. -/
def demandMask (cause : Fld) (kind mask : Nat) (s : State) : State := s.each (maskBits mask 8) (demand cause kind)

def allGroups : Nat := 255

/-- A demand for the group of an axis (R363). -/
def demandAxis (cause : Fld) (kind a : Nat) (s : State) : State :=
  match s.sGroupOf a with
  | some g => demand cause kind g s
  | none => s

/-- The groups an axis's requester names (R364). -/
def State.axisMask (s : State) (a : Nat) : Nat := match s.groupOf a with
  | some g => 2 ^ g
  | none => 0

/-! Keys of the controlled-stop requesters (R364). -/
namespace Req
def ref : Nat := 128
def host : Nat := 129
def l0 : Nat := 130
def pair : Nat := 131
def watchdog : Nat := 132
def thermal : Nat := 133
def law (n : Nat) : Nat := 256 + n
end Req

/-- A controlled-stop request: the requester holds its flag, its groups latch CSTOP and stop with SS1 (R364). -/
def requestStop (key mask : Nat) (s : State) : State :=
  demandMask F.SAF_G_CAUSE_CSTOP 1 mask (s.withSaf fun x => { x with reqs := mapSet (fun _ => 0) x.reqs key mask })

/-- The requester gives up its flag (R364). -/
def releaseStop (key : Nat) (s : State) : State :=
  s.withSaf fun x => { x with reqs := mapSet (fun _ => 0) x.reqs key 0 }

/-- A requester that holds its flag names a group. -/
def State.requested (s : State) (g : Nat) : Bool := s.saf.reqs.any fun p => bit p.2 g

/-! ### The condition of a cause (R363) -/

/-- An input of a function that names a group is active. -/
def State.funcActive (s : State) (func g : Nat) : Bool :=
  (List.range 16).any fun i => s.inFunc i == func && bit (s.inGroups i) g && s.inActive i

/-- Every remote axis of a group has a valid connection (R382). -/
def State.linksGood (s : State) (g : Nat) : Bool :=
  (s.sAxes g).all fun a => !s.remote a || (s.getF F.SAF_AX_STAT_WD_CNT a == 0 && mapGet (fun _ => 0) s.saf.stoMis a == 0)

/-- The causes of a group whose condition still holds, as a mask of SAF_G_CAUSE. -/
def State.causesHeld (s : State) (g : Nat) : Nat :=
  let x := s.sgrp g
  let either (p : SChan → Bool) : Bool := p (s.schan 0 g) || p (s.schan 1 g)
  b2n (s.funcActive 1 g) * 2 + b2n (s.funcActive 2 g) * 4 + 8 + b2n (s.requested g) * 16
    + b2n (either SChan.slsAx || x.slsArm) * 32 + b2n (either SChan.slp) * 64 + b2n x.zone * 256
    + b2n (!s.linksGood g) * (1024 + 2048)

/-- Latched causes of a group. -/
def State.causes (s : State) (g : Nat) : Nat := (s.rd (R.SAF_G_CAUSE + 0x10 * g)).toNat

def State.setCauses (s : State) (g m : Nat) : State := s.wr (R.SAF_G_CAUSE + 0x10 * g) (BitVec.ofNat 32 m)

/-- A valid reset edge for a group in STO or SOS (R360). -/
def resetGroup (g : Nat) (s : State) : State :=
  if s.gSt g ≠ GS.STO ∧ s.gSt g ≠ GS.SOS then s
  else
    let m := s.causes g &&& s.causesHeld g
    let s1 := s.setCauses g m
    if m = 0 then enterGs g GS.RUN s1 else s1

/-- RELEASE of HOST for a group (R367). -/
def releaseHost (g : Nat) (s : State) : State :=
  if !s.getB F.SAF_G_CAUSE_HOST g then s
  else
    let s1 := s.setF F.SAF_G_CAUSE_HOST 0 g
    if s.gSt g = GS.SOS ∧ s1.causes g = 0 then enterGs g GS.RUN s1 else s1

/-! ### The global state (R354, R355) -/

/-- Latch the demands of the inputs that are active (R363). -/
def demandInput (i : Nat) (s : State) : State :=
  let f := s.inFunc i
  let r := s.inReact i
  if !s.inActive i then s
  else if f = 1 then demandMask F.SAF_G_CAUSE_ESTOP r (s.inGroups i) s
  else if f = 2 then demandMask F.SAF_G_CAUSE_GUARD r (s.inGroups i) s
  else s

/-- Enter a global state: PSTATE is posted; every state but OPERATE holds every group in STO. -/
def enterSafSt (st : Nat) (s : State) : State :=
  let s1 := (s.setF F.SAF_STATE_STATE st).post 0x0607 6 0 EC.OK st
  let s2 := s1.each (List.range 8) fun g t => enterGs g GS.STO t
  let s3 := if st = SSt.OPERATE then
      let t := demandMask F.SAF_G_CAUSE_START 0 allGroups (s2.each (List.range 8) fun g t => t.setCauses g 0)
      let t1 := t.each (List.range 16) demandInput
      t1.each (List.range 8) fun g u => if u.requested g then demand F.SAF_G_CAUSE_CSTOP 1 g u else u
    else s2
  outsFollow s3

/-- A SAFE_FAULT cause (R347, R355); the first reason stays. -/
def safeFault (reason ch : Nat) (s : State) : State :=
  if s.safSt = SSt.SAFE_FAULT then s
  else
    let s1 := (s.setF F.SAF_FAULT_REASON reason).setF F.SAF_FAULT_CH ch
    enterSafSt SSt.SAFE_FAULT (s1.post 0x0602 6 0 0x0606 (reason + 256 * ch))

/-- START_TEST ends when no input is pending (R361). -/
def startTestDone (s : State) : State :=
  if s.safSt = SSt.START_TEST ∧ s.getF F.SAF_IN_STAT_PEND = 0 then enterSafSt SSt.OPERATE s else s

/-- Enter START_TEST with the given inputs pending (R361). -/
def enterStartTest (pend : Nat) (s : State) : State :=
  let s1 := (enterSafSt SSt.START_TEST s).setF F.SAF_IN_STAT_PEND pend
  startTestDone (s1.withSaf fun x => { x with testSeen := ((List.range 16).filter fun i => s.inBoth i true).foldl (fun m i => m + 2 ^ i) 0 })

/-- The inputs that R361 makes pending; covered is what the active's start-up test record shows tested (on a standby). -/
def State.startPending (s : State) (standby : Bool) (covered : Nat) : Nat :=
  ((List.range 16).filter fun i => s.inFunc i != 0 && s.inCfg i 32 1 == 1 &&
    (!standby || (s.inFunc i == 2 && s.inReact i == 3) || !bit covered i)).foldl (fun m i => m + 2 ^ i) 0

/-! ### Inputs (R356 to R361) -/

/-- A DISC fault of an input is latched (R357, R358). -/
def discLatch (i : Nat) (s : State) : State :=
  let s1 := (s.setMaskBit F.SAF_IN_STAT_DISC i true).flag F.SAF_FLAG_DISC
  let s2 := s1.withSaf fun x => { x with discSeen := putBits x.discSeen i 1 (b2n (s.inBoth i true)) }
  demandInput i (s2.post 0x0603 6 i 0x0607 0)

/-- Follow a new filtered level: disagreement, the clearing of DISC, the start-up test (R357, R361). -/
def inputFollow (i : Nat) (s : State) : State :=
  let dis := s.inDisagree i
  let s1 := s.withSaf fun x =>
    let d : Option Nat := if dis then some ((mapGet (fun _ => none) x.disagree i).getD s.frc) else none
    { x with disagree := mapSet (fun _ => none) x.disagree i d }
  let s2 := if s1.inBoth i true then
      s1.withSaf fun x => { x with discSeen := mor x.discSeen (2 ^ i), testSeen := mor x.testSeen (2 ^ i) }
    else s1
  if s2.inBoth i false then
    let s3 := if bit s2.saf.discSeen i then s2.setMaskBit F.SAF_IN_STAT_DISC i false else s2
    if bit s3.saf.testSeen i && bit (s3.getF F.SAF_IN_STAT_PEND) i then
      startTestDone (s3.setMaskBit F.SAF_IN_STAT_PEND i false)
    else s3
  else s2

/-- What follows a confirmed check value: the safety record in flash (R353, R674).  The record is written by the caller
of this operation's result through the boot block. -/
def confirmDone (s : State) : State :=
  let v := s.getF F.SAF_CHK_CHK
  let s1 := ((s.setF F.SAF_CHK_CONF_CHK v).setF F.SAF_STATE_CONF_PEND 0).withSaf fun x => { x with confDue := none }
  s1

/-- A reset edge frees the EDM faults whose conditions allow it (R380). -/
def edmReset (i o : Nat) (s : State) : State :=
  if bit (s.getF F.SAF_OUT_EDM_F) o ∧ s.inGroups i &&& s.outCfg o 2 8 ≠ 0 ∧ s.edmActive o ∧ !bit (s.getF F.SAF_OUT_ON) o
  then outFollow o (s.setMaskBit F.SAF_OUT_EDM_F o false) else s

/-- 30 s after its acceptance a CONFIRM is no longer waited for (R352). -/
def confirmTimeout (s : State) : State :=
  match s.saf.confDue with
  | some t =>
    if t ≤ s.frc then
      (((s.setF F.SAF_STATE_CONF_PEND 0).flag F.SAF_FLAG_TIMEOUT).withSaf fun x => { x with confDue := none }).post 0x0606 6 0
        0x060A (s.getF F.SAF_CHK_CHK)
    else s
  | none => s

/-- A valid release of a reset input (R352, R359, R360): it serves a confirmation that is still waited for, and that only;
in START_TEST it frees nothing (R361). -/
def resetEdge (pend : Nat) (i : Nat) (s0 : State) : State :=
  let s := confirmTimeout s0
  if s.getB F.SAF_STATE_CONF_PEND then
    let s1 := confirmDone s
    if s.safSt = SSt.UNCONFIRMED then enterStartTest pend s1 else s1
  else if s.safSt = SSt.START_TEST then s
  else
    let s1 := if s.safSt = SSt.OPERATE then s.each (maskBits (s.inGroups i) 8) resetGroup else s
    s1.each (List.range 8) (edmReset i)

/-- A press of a reset input lasted from 50 ms to 5 s (R359). -/
def State.validPress (s : State) (i : Nat) : Bool := match mapGet (fun _ => none) s.saf.press i with
  | some t => decide (t + 50000000 ≤ s.frc) && decide (s.frc ≤ t + 5000000000)
  | none => false

/-- Start or end a press of a reset input: both channels show it (R344, R359). -/
def pressFollow (pend i : Nat) (s : State) : State :=
  if s.inFunc i ≠ 3 then s
  else if s.inBoth i true then
    s.withSaf fun x => { x with press := mapSet (fun _ => none) x.press i (some ((mapGet (fun _ => none) x.press i).getD s.frc)) }
  else if s.inBoth i false then
    let s1 := s.withSaf fun x => { x with press := mapSet (fun _ => none) x.press i none }
    if s.validPress i then resetEdge pend i s1 else s1
  else s

/-- Set one terminal in one channel: an open one reads low (R703). -/
def State.setTerminal (s : State) (ch n : Nat) (v : Terminal) : State :=
  let low := b2n (v != .high)
  s.withSaf fun x => if ch = 0 then { x with low := putBits x.low n 1 low } else { x with lowFelt := putBits x.lowFelt n 1 low }

/-- A terminal's filtered level takes a new value in one channel (R356); pend is what a completed confirmation would make
pending. -/
def inputChange (pend ch i b : Nat) (v : Terminal) (s : State) : State :=
  if bit (s.lows ch) (2 * i + b) = (v != .high) then s
  else
    let s1 := inputFollow i (s.setTerminal ch (2 * i + b) v)
    let s2 := demandInput i s1
    let s3 := pressFollow pend i s2
    let s4 := s3.each (List.range 8) axisFollow
    s4.each (List.range 8) edmFollow

/-! ### The position record (R346, R366, R369 to R371, R373) -/

/-- The axis takes part in the checks of its group's states. -/
def State.axField (s : State) (a w : Nat) : Nat := s.pairVal 0x0603 a w

/-- Standstill of a group in SS1 or SS2 as a channel finds it (R366): an axis without a valid record does not stand still. -/
def standstill (ch g : Nat) (s : State) : State :=
  let st := s.gSt g
  if st ≠ GS.SS1 ∧ st ≠ GS.SS2 then s
  else
    let ok := (s.sAxes g).all fun a => match s.chAx ch a with
      | some r => decide (r.spd.natAbs ≤ s.axField a 5 * 2 ^ 24)
      | none => false
    let n := if ok then (s.schan ch g).still + 1 else 0
    let s1 := s.modSchan ch g fun x => { x with still := n }
    if n < 8 then s1 else if st = GS.SS1 then enterGs g GS.STO s1 else enterGs g GS.SOS s1

/-- The axes of a group whose valid record in a channel has a property. -/
def State.axesWith (s : State) (ch g : Nat) (p : Nat → AxRec → Bool) : List Nat :=
  (s.sAxes g).filter fun a => match s.chAx ch a with
    | some r => p a r
    | none => false

/-- SOS: every axis within SOS_WIN of its held position (R369). -/
def sosCheck (ch g : Nat) (s : State) : State :=
  let held := (s.schan ch g).held
  let away (a : Nat) (r : AxRec) : Bool := held.any fun p => p.1 == a && decide (s.axField a 4 * 2 ^ 24 < (r.pos - p.2).natAbs)
  if s.gSt g = GS.SOS ∧ s.axesWith ch g away ≠ [] then demand F.SAF_G_CAUSE_SOS 0 g s else s

/-- The demand kind of an axis's REACT field. -/
def State.axReact (s : State) (a lo : Nat) : Nat := s.pb 0x0603 a 0 lo 2

/-- SLS axis speeds of a group (R370). -/
def slsCheck (ch g : Nat) (s : State) : State :=
  let fast (a : Nat) (r : AxRec) : Bool := s.pb 0x0603 a 0 1 1 == 1 && decide (s.axField a 3 * 2 ^ 24 < r.spd.natAbs)
  let bad := if s.slsOn g then s.axesWith ch g fast else []
  let s1 := (s.modSchan ch g fun x => { x with slsAx := !bad.isEmpty }).modSgrp g fun x => { x with slsArm := x.slsArm && s.slsOn g }
  s1.each bad fun a t => demand F.SAF_G_CAUSE_SLS (t.axReact a 4) g t

/-- SLP limits of a group (R371). -/
def slpCheck (ch g : Nat) (s : State) : State :=
  let out (a : Nat) (r : AxRec) : Bool := s.pb 0x0603 a 0 0 1 == 1 &&
    (decide (r.pos / 2 ^ 24 < s.pairS 0x0603 a 1) || decide (s.pairS 0x0603 a 2 < r.pos / 2 ^ 24))
  let bad := s.axesWith ch g out
  (s.modSchan ch g fun x => { x with slp := !bad.isEmpty }).each bad fun a t => demand F.SAF_G_CAUSE_SLP (t.axReact a 2) g t

/-- The fall the envelope allows over dt (R373), rounded up. -/
def envFall (rsafe dtNs : Nat) : Nat := (rsafe * dtNs * 2 ^ 23 + (64 * 1000000000 - 1)) / (64 * 1000000000)

/-- The factor that a channel accepted for the separation cycle in force; 0 while the group is not in RUN (R373). -/
def State.acceptedL (s : State) (ch g : Nat) : Nat := if s.gSt g = GS.RUN then mapGet (fun _ => 0) s.saf.accIn (8 * ch + g) else 0

/-- The lowest bound that a scale may not exceed for a channel in cycle k of period ns (R373); rsafe from the group's
SEP_STOP records. -/
def State.envBound (s : State) (ch g k period : Nat) : Nat :=
  let x := s.schan ch g
  let rs := ((s.sArms g).map fun m => s.pb 0x0503 m 0 16 16).head?.getD 0
  let dt := match x.kPrev with
    | some j => (k - j) * period
    | none => 0
  max (s.acceptedL ch g) (x.sPrev - envFall rs dt)

/-- The envelope check of one scale v that a channel receives for cycle k (R373). -/
def envCheck (ch g v k period : Nat) (s : State) : State :=
  let s1 := s.modSchan ch g fun y => { y with sPrev := v, kPrev := some k }
  if s.envBound ch g k period < v then demand F.SAF_G_CAUSE_ENV 0 g (s1.note 5) else s1

/-- After cell-cycle start the previous scale is 0 and no factor is in force (R373). -/
def envStart (s : State) : State :=
  (s.withSaf fun x => { x with accIn := [], accNext := [] }).each (List.range 8) fun g t => (t.modSchan 0 g fun x => { x with sPrev := 0, kPrev := none }).modSchan 1 g fun x => { x with sPrev := 0, kPrev := none }

/-- A pair of the record fails: a fault of a value read by a safety channel, SS1 with cause PAIR for the groups it
concerns, all groups where it concerns none (R50, R346). -/
def recordPairBad (mask inst : Nat) (s : State) : State :=
  demandMask F.SAF_G_CAUSE_PAIR 1 (if mask = 0 then allGroups else mask) ((s.note 5).fault EC.PAIR_MISMATCH 0x06 5 inst)

/-! A position record is a list of pair words (R26, R346): 8 a + q for quantity q of axis a, 1024 + 4 g + q for quantity q of
group g. -/

/-- Pair word i as it leaves the main die: its width, its value and the complement that its source register forms (R48). -/
def State.recordPair (s : State) (i : Nat) : Nat × Nat × Nat :=
  let src (w v : Nat) : Nat × Nat × Nat := (w, v % 2 ^ w, 2 ^ w - 1 - v % 2 ^ w)
  if i < 1024 then
    match i % 8 with
    | 0 => src 72 (toBits 72 (s.measPos (i / 8)))
    | 1 => src 72 (s.getF F.AX_POS_OFF_V (i / 8))
    | 2 => src 16 (s.getF F.AX_FRAME_V (i / 8))
    | _ => src 72 (toBits 72 (s.measSpd (i / 8)))
  else
    let g := (i - 1024) / 4
    match i % 4 with
    | 0 => (24, s.getF F.TRJ_SCALE_V g, s.getF F.TRJ_SCALE_C_V g)
    | 1 => src 32 s.period
    | _ => src 3 (s.divOf g)

/-- The value of pair word i where its halves still agree at the channel (R47). -/
def State.recordWord (s : State) (flips : List PairFlip) (i : Nat) : Option Nat :=
  let p := s.recordPair i
  let f := (flips.find? fun f => f.word == i).getD ⟨i, 0, 0⟩
  let v := (p.2.1 ^^^ f.value) % 2 ^ p.1
  if pairOk p.1 v (p.2.2 ^^^ f.compl) then some v else none

/-- An axis of the record; none where a pair of it fails. -/
def State.recordAxis (s : State) (flips : List PairFlip) (a : Nat) : Option AxRec :=
  match s.recordWord flips (8 * a), s.recordWord flips (8 * a + 1), s.recordWord flips (8 * a + 2), s.recordWord flips (8 * a + 3) with
  | some p, some o, some f, some v => some { pos := sx 72 p, off := sx 72 o, frame := sx 16 f, spd := sx 72 v }
  | _, _, _, _ => none

/-- The scale of a group in the record, with the group's P; none where a pair of them or of D fails. -/
def State.recordScale (s : State) (flips : List PairFlip) (g : Nat) : Option (Nat × Nat) :=
  match s.recordWord flips (1024 + 4 * g), s.recordWord flips (1025 + 4 * g), s.recordWord flips (1026 + 4 * g) with
  | some v, some p, some _ => some (v, p)
  | _, _, _ => none

/-- A table word of a range of tables whose pair fails; unlisted words hold valid pairs. -/
def State.badParam (s : State) (lo hi : Nat) : Option Nat :=
  (s.tabs.find? fun e => decide (lo * 2 ^ 24 ≤ e.1 ∧ e.1 < (hi + 1) * 2 ^ 24) && pairWord (e.1 / 2 ^ 24) (e.1 % 2 ^ 8)
    && !pairOk 36 e.2.toNat (e.2.toNat / 2 ^ 36)).map (·.1)

/-- A safety parameter whose pair fails in use makes the set invalid: the channels enter their safe state (R47, R50). -/
def paramPairs (lo hi ch : Nat) (s : State) : State :=
  match s.badParam lo hi with
  | some k => safeFault 7 ch ((s.note 5).fault EC.PAIR_MISMATCH 0x06 1 (k / 2 ^ 8))
  | none => s

/-- The groups that an axis's values concern; all where it is in none. -/
def State.axisGroups (s : State) (a : Nat) : Nat := match s.sGroupOf a with
  | some g => 2 ^ g
  | none => 0

/-- A channel's checks of one group on the record of cycle k. -/
def groupChecks (ch : Nat) (flips : List PairFlip) (k g : Nat) (s : State) : State :=
  let s1 := if s.dueIn g k && !s.inactive g then
      match s.recordScale flips g with
      | some v => envCheck ch g v.1 k v.2 s
      | none => recordPairBad (2 ^ g) g s
    else s
  slpCheck ch g (slsCheck ch g (sosCheck ch g (standstill ch g s1)))

/-- The position record of the present cycle arrives in a channel on its own lane, flips being what turned over on the way. -/
def positionRecord (ch : Nat) (flips : List PairFlip) (s : State) : State :=
  let axes := ((List.range 128).filter fun a => s.getB F.AX_CTL_EN a).map fun a => (a, s.recordAxis flips a)
  let r : ChRec := { cyc := some s.tbs.k, at_ := some s.frc, axes := axes }
  -- a cycle without a record breaks a run of samples at standstill (R366)
  let s0 := if (s.chRec ch).cyc.all (fun k => k + 1 == s.tbs.k) then s
    else s.each (List.range 8) fun g t => t.modSchan ch g fun x => { x with still := 0 }
  let s1 := paramPairs 0x0601 0x0606 ch (s0.withSaf fun x => { x with recs := mapSet (fun _ => ChRec.reset) x.recs ch r })
  let s2 := s1.each (axes.filter fun x => x.2.isNone) fun x t => recordPairBad (t.axisGroups x.1) x.1 t
  s2.each (List.range 8) fun g t => groupChecks ch flips s.tbs.k g t

/-! ### The black channel (R381 to R383) -/

/-- A position compared with the measured one in one cycle: a mismatch in 2 consecutive cycles demands STO (R383). -/
def posCheck (a : Nat) (posOk : Bool) (s : State) : State :=
  let m := if posOk then 0 else mapGet (fun _ => 0) s.saf.posMis a + 1
  let s1 := s.withSaf fun x => { x with posMis := mapSet (fun _ => 0) x.posMis a (min m 2) }
  let s2 := if posOk then s1 else s1.incF F.SAF_AX_BCH_POS a
  if m = 2 then (demandAxis F.SAF_G_CAUSE_POS 0 a (s2.flag F.SAF_FLAG_BCH)).post 0x0604 6 a 0x0608 2 else s2

/-- Do two numbers agree within POS_TOL of an axis, as a signed 32-bit difference (R383)? -/
def State.within (s : State) (a p q : Nat) : Bool :=
  decide ((sx 32 (p + 2 ^ 32 - q % 2 ^ 32)).natAbs ≤ s.pb 0x0603 a 7 12 24)

/-- Is a 32-bit position within POS_TOL of the axis's source position, as a signed 32-bit difference (R383)? -/
def State.posAgrees (s : State) (a pos : Nat) : Bool :=
  s.within a pos (toBits 32 (s.srcPos a / 2 ^ 24))

/-- The check of one remote axis's reply PDUs of one cycle: how many of the two are invalid; stoActive and posOk are what
they say (R382, R383).  A cycle without a valid pair breaks a run of cycles with STO_ACTIVE = 0 or with a mismatch. -/
def pduCheck (a invalid : Nat) (stoActive posOk : Bool) (s : State) : State :=
  if 0 < invalid then
    let s1 := s.setF F.SAF_AX_STAT_WD_CNT (satInc 255 (s.getF F.SAF_AX_STAT_WD_CNT a)) a
    (s1.addF F.SAF_AX_BCH_BAD invalid a).withSaf fun x =>
      { x with stoMis := mapSet (fun _ => 0) x.stoMis a 0, posMis := mapSet (fun _ => 0) x.posMis a 0 }
  else
    let s1 := s.setF F.SAF_AX_STAT_WD_CNT 0 a
    let n := if s.getB F.SAF_AX_STAT_STO a && !stoActive then mapGet (fun _ => 0) s.saf.stoMis a + 1 else 0
    let s2 := s1.withSaf fun x => { x with stoMis := mapSet (fun _ => 0) x.stoMis a (min n 2) }
    let s3 := if n = 2 then
        (demandAxis F.SAF_G_CAUSE_BCH 0 a (s2.flag F.SAF_FLAG_BCH)).post 0x0604 6 a 0x0608 1
      else s2
    if s.pb 0x0603 a 7 8 1 = 1 then posCheck a posOk s3 else s3

/-- WD consecutive cycles without a valid pair (R382). -/
def State.wdOver (s : State) (a : Nat) : Bool :=
  s.remote a && decide (s.pb 0x0603 a 7 0 8 ≤ s.getF F.SAF_AX_STAT_WD_CNT a) && decide (0 < s.pb 0x0603 a 7 0 8)

def bchTimeout (a : Nat) (s : State) : State :=
  (demandAxis F.SAF_G_CAUSE_BCH 0 a (s.flag F.SAF_FLAG_BCH)).post 0x0604 6 a 0x0608 1

end Sys2Proof.Machine
end

