-- ==== Sys2Proof/Machine/TrjCmd.lean ====
section
/-! DEFINITION. The trajectory block commands (R289, R290), the trajectory, axis and auxiliary register checks (R294 to R299), their table checks (R256, R292, R293), and the auxiliary steppers (R285 to R288). -/

namespace Sys2Proof.Machine

/-! ### Host data -/

/-- Bytes as one number, least significant first (R10). -/
def bytesNat : List Byte → Nat
  | [] => 0
  | b :: bs => b.toNat + 256 * bytesNat bs

/-- Word i of host data of consecutive words (R10). -/
def hostWord (data : List Byte) (i : Nat) : Nat := bytesNat ((data.drop (9 * i)).take 9)

/-- Word j of record i, records at a stride in bytes (R121). -/
def recWord (data : List Byte) (stride i j : Nat) : Nat := bytesNat ((data.drop (stride * i + 9 * j)).take 9)

/-- Bits of an argument outside the fields named are reserved (R116). -/
def argBits (arg mask : Nat) : List Nat := chk (arg &&& mask != arg) EC.RESERVED_SET

/-- An argument marked 0 must be 0 (R289). -/
def argZero (arg : Nat) : List Nat := chk (arg != 0) EC.BAD_FIELD

/-- Host pointer and byte length 0 (R289). -/
def noData (b : BlockArgs) : List Nat := argZero b.ptr ++ chk (b.len != 0) EC.RANGE

/-- A host pointer aligned to 16 bytes and a stated length (R12, R289). -/
def withData (b : BlockArgs) (len : Nat) : List Nat := chk (b.ptr % 16 != 0) EC.ALIGN ++ chk (b.len != len) EC.RANGE

/-! ### Commands -/

/-- The knots of an axis as its waiting pushes and clears will leave them. -/
def State.knotsAhead (s : State) (a : Nat) : List Knot :=
  let w := (s.groupOf a).elim [] fun g => (s.grp g).cmds
  w.foldl (fun l c => match c.2 with
    | .push b ks => if b = a then l ++ ks else l
    | .clear b => if b = a then [] else l
    | _ => l) (s.ax a).knots

/-- The knots of a KNOT_PUSH (R263). -/
def knotsOf (b : BlockArgs) : List Knot :=
  (List.range (bits b.arg1 0 9)).map fun i =>
    { t := recWord b.data 48 i 0, pos := sx 72 (recWord b.data 48 i 1), vel := sx 72 (recWord b.data 48 i 2),
      last := bit (recWord b.data 48 i 3) 0, ftag := bits (recWord b.data 48 i 3) 8 8 }

/-- A knot against the one before it (R264). -/
def knotBad (prev : Option Knot) (k : Knot) : Bool :=
  (k.last && k.vel != 0) || match prev with
  | none => k.t != 0
  | some q => q.last || decide (k.t < q.t + 256000) || decide (q.t + 2 ^ 40 * 256 < k.t)

def knotsBad (prev : Option Knot) : List Knot → Bool
  | [] => false
  | k :: ks => knotBad prev k || knotsBad (some k) ks

/-- An axis must be homed first (R280). -/
def State.needsHome (s : State) (a : Nat) : Bool := s.tb 0x0403 a 0 5 1 == 1 && !s.getB F.AX_STAT_HOMED a

/-- The set point of an axis as its waiting SET_POS will leave it (R280). -/
def State.spAhead (s : State) (a : Nat) : Int :=
  let w := (s.groupOf a).elim [] fun g => (s.grp g).cmds
  s.getS F.AX_SP_V a + w.foldl (fun d c => match c.2 with
    | .setPos b p => if b = a then p - s.measPos a else d
    | _ => d) 0

/-- The targets of a MOVE (R289): REL targets are relative to the set points. -/
def moveTargets (b : BlockArgs) (s : State) : List Int :=
  let arm := bits b.arg0 0 4
  (s.armAxes arm).zipIdx.map fun p =>
    let t := sx 72 (hostWord b.data p.2)
    if bit b.arg0 8 then t + s.spAhead p.1 else t

/-- Is a group in one of these states? -/
def State.gstIn (s : State) (g : Nat) (l : List Nat) : Bool := l.contains (s.gst g)

/-- The checks of a trajectory command (R258 to R265, R276, R277, R280, R289, R290). -/
def trjCmdCodes (cmd : Nat) (b : BlockArgs) (s : State) : List Nat :=
  let stopped := chk (!s.cycRun) EC.STATE
  let axis := bits b.arg0 0 7
  let g := (s.groupOf axis).getD 8
  let mapped := (s.groupOf axis).isSome
  match cmd with
  | 0x0001 =>
    let arm := bits b.arg0 0 4
    let ga := s.getF F.TRJ_ARM_CTL_GROUP arm
    let js := (s.armAxes arm).zip (moveTargets b s)
    argBits b.arg0 0x10F ++ argZero b.arg1 ++ argZero b.arg2 ++ withData b 112 ++ stopped
    ++ chk (!s.getB F.TRJ_ARM_CTL_EN arm || !s.gstIn ga [GSt.IDLE, GSt.RUN]
        || js.any (fun p => match (s.ax p.1).plan with | .table => true | .homing _ _ _ => true | _ => false)) EC.STATE
    ++ chk (js.any fun p => decide (p.2 < (s.limits p.1).pmin) || decide ((s.limits p.1).pmax < p.2)
        || s.limitBlocks p.1 (p.2 - s.spAhead p.1)) 0x0401
    ++ chk (js.any fun p => (s.limits p.1).vmax == 0 && p.2 != s.spAhead p.1) 0x0402
    ++ chk (js.any fun p => s.needsHome p.1) 0x0406
  | 0x0002 =>
    let v := sx 64 b.arg1
    argBits b.arg0 0x7F ++ argZero b.arg2 ++ noData b ++ stopped
    ++ chk (!mapped || !s.gstIn g [GSt.IDLE, GSt.RUN]
        || (match (s.ax axis).plan with | .table => true | .homing _ _ _ => true | _ => false)) EC.STATE
    ++ chk (s.limitBlocks axis v) 0x0401
    ++ chk (decide ((s.limits axis).vmax < v.natAbs)) 0x0402
    ++ chk (s.needsHome axis) 0x0406
  | 0x0003 =>
    let n := bits b.arg1 0 9
    let ks := knotsOf b
    let l := s.limits axis
    let frame := s.getF F.AX_FRAME_V axis
    argBits b.arg0 0x7F ++ argBits b.arg1 0x1FF ++ argZero b.arg2 ++ withData b (n * 48)
    ++ chk (decide (n = 0) || decide (256 < n)) EC.RANGE
    ++ chk ((List.range n).any fun i => recWord b.data 48 i 3 &&& 0xFF01 != recWord b.data 48 i 3) EC.RESERVED_SET
    ++ chk (!mapped) EC.STATE
    ++ chk (ks.any fun k => decide (k.pos < l.pmin) || decide (l.pmax < k.pos)) 0x0401
    ++ chk (ks.any fun k => decide (l.vmax < k.vel.natAbs)) 0x0402
    ++ chk (knotsBad (s.knotsAhead axis).getLast? ks) 0x0403
    ++ chk (ks.any fun k => decide (2 < (diff8 k.ftag frame).natAbs)) 0x0405
    ++ chk (decide (256 < (s.knotsAhead axis).length + n)) EC.NO_RESOURCE
  | 0x0004 =>
    let gr := bits b.arg0 0 3
    let axs := (s.groupAxes gr).filter fun a => !(s.knotsAhead a).isEmpty
    argBits b.arg0 7 ++ argZero b.arg1 ++ argZero b.arg2 ++ noData b ++ stopped
    ++ chk (!s.gstIn gr [GSt.IDLE, GSt.RUN] || axs.any (fun a => (s.ax a).plan != .none)) EC.STATE
    ++ chk (axs.isEmpty || axs.any (fun a => match s.knotsAhead a with
        | k :: _ => s.knotPos a k != s.spAhead a || k.vel != 0
        | [] => false)) 0x0404
    ++ chk (axs.any s.needsHome) 0x0406
  | 0x0005 =>
    argBits b.arg0 0x7F ++ argZero b.arg1 ++ argZero b.arg2 ++ noData b ++ chk ((s.ax axis).plan == .table) EC.STATE
  | 0x0006 =>
    argBits b.arg0 0xFF ++ argZero b.arg1 ++ argZero b.arg2 ++ noData b ++ stopped
    ++ chk ((maskBits b.arg0 8).any fun q => !s.gstIn q [GSt.RUN, GSt.HOLD]) EC.STATE
  | 0x0007 =>
    argBits b.arg0 0xFF ++ argZero b.arg1 ++ argZero b.arg2 ++ noData b ++ stopped
    ++ chk ((maskBits b.arg0 8).any fun q => s.gst q != GSt.HOLD || s.forcedHold q) EC.STATE
    ++ chk ((maskBits b.arg0 8).any fun q => s.limLatched q) 0x0401
  | 0x0008 =>
    argBits b.arg0 0xFF ++ argZero b.arg1 ++ argZero b.arg2 ++ noData b ++ stopped
    ++ chk ((maskBits b.arg0 8).any fun q => s.gst q != GSt.HOLD || s.scale q != 0) EC.STATE
  | 0x0009 =>
    argBits b.arg0 0x7F ++ argZero b.arg1 ++ argZero b.arg2 ++ noData b ++ stopped
    ++ chk (!mapped || s.gst g != GSt.IDLE) EC.STATE
    ++ chk (s.homeMethod axis == 3 && s.getB F.AX_CTL_PSRC axis) EC.RANGE
  | 0x000A =>
    argBits b.arg0 0x7F ++ argZero b.arg1 ++ argZero b.arg2 ++ withData b 16 ++ chk (!mapped || s.gst g != GSt.IDLE) EC.STATE
  | 0x000B =>
    let n := bits b.arg0 0 4
    let gr := s.getF F.AUX_CTL_GRP n
    argBits b.arg0 0x10F ++ argZero b.arg1 ++ argZero b.arg2 ++ withData b 16 ++ stopped
    ++ chk (!s.getB F.AUX_CTL_EN n || (s.getB F.AUX_CTL_ATT n && !s.gstIn gr [GSt.IDLE, GSt.RUN])) EC.STATE
    ++ chk (s.tw 0x0404 n 0 == 0) 0x0402
  | 0x000C =>
    let n := bits b.arg0 0 4
    let gr := s.getF F.AUX_CTL_GRP n
    argBits b.arg0 0xF ++ argZero b.arg2 ++ noData b ++ stopped
    ++ chk (!s.getB F.AUX_CTL_EN n || (s.getB F.AUX_CTL_ATT n && !s.gstIn gr [GSt.IDLE, GSt.RUN])) EC.STATE
    ++ chk (decide (s.twS 0x0404 n 0 < (sx 64 b.arg1).natAbs)) 0x0402
  | _ => [EC.BAD_FIELD]

/-- Hold a command for its group's next evaluation (R289). -/
def queueTrj (g : Nat) (c : TrjCmd) (s : State) : State := s.modGrp g fun x => { x with cmds := x.cmds ++ [(none, c)] }

/-- Queue an auxiliary command: with its group, or for the next T0 (R286, R289). -/
def queueAux (n : Nat) (c : TrjCmd) (s : State) : State :=
  if s.getB F.AUX_CTL_ATT n then queueTrj (s.getF F.AUX_CTL_GRP n) c s
  else s.setAux n { s.aux n with cmds := (s.aux n).cmds ++ [c] }

/-- An accepted trajectory command takes effect (R289). -/
def trjCmdRun (cmd : Nat) (b : BlockArgs) (s : State) : State :=
  let axis := bits b.arg0 0 7
  let g := (s.groupOf axis).getD 0
  let now (c : TrjCmd) : State := if s.cycRun && (s.groupOf axis).isSome then queueTrj g c s else applyCmd g (none, c) s
  let groupsOf (c : TrjCmd) : State := s.each (maskBits b.arg0 8) fun q t => queueTrj q c t
  match cmd with
  | 0x0001 =>
    let arm := bits b.arg0 0 4
    queueTrj (s.getF F.TRJ_ARM_CTL_GROUP arm) (.move arm (moveTargets b s)) s
  | 0x0002 => queueTrj g (.vel axis (sx 64 b.arg1)) s
  | 0x0003 => now (.push axis (knotsOf b))
  | 0x0004 => queueTrj (bits b.arg0 0 3) .start s
  | 0x0005 => now (.clear axis)
  | 0x0006 => groupsOf .pause
  | 0x0007 => groupsOf .resume
  | 0x0008 => groupsOf .abort
  | 0x0009 => queueTrj g (.home axis) s
  | 0x000A => now (.setPos axis (sx 72 (hostWord b.data 0)))
  | 0x000B =>
    let n := bits b.arg0 0 4
    let t := sx 72 (hostWord b.data 0)
    queueAux n (.auxMove n (if bit b.arg0 8 then t + s.getS F.AUX_SP_V n else t)) s
  | 0x000C => queueAux (bits b.arg0 0 4) (.auxVel (bits b.arg0 0 4) (sx 64 b.arg1)) s
  | _ => s

/-! ### Auxiliary steppers (R286 to R288) -/

/-- I_RUN of a channel in mA: a failed pair gives 0 (R257). -/
def State.auxRun (s : State) (n : Nat) : Nat :=
  let w := s.tw 0x0404 n 4
  if pairOk 36 w (w / 2 ^ 36) then w % 2 ^ 36 else 0

/-- The current setting of a channel whose speed set point has been 0 for rest ms (R288). -/
def auxCurrent (run hold dly ramp : Nat) (restNs : Option Nat) : Nat :=
  match restNs with
  | none => run
  | some r =>
    let ms := r / 1000000
    if ms < dly then run
    else if ramp = 0 ∨ dly + ramp ≤ ms then hold
    else (qopen 3 ((run : Rat) - ((run : Rat) - hold) * ((r : Rat) / 1000000 - dly) / ramp)).toNat

/-- Phase voltages (R287), the angle in turns; the precision of sine and cosine is left open (log 22). -/
def auxVolts (n : Nat) (s : State) (vbus : Rat) : Rat × Rat × Bool :=
  let micro : Rat := if s.getF F.AUX_CTL_MICRO n = 0 then 256 else s.getF F.AUX_CTL_MICRO n
  let q : Rat := 1 / 16777216
  let turns := (s.getS F.AUX_SPD_V n : Rat) * q / (4 * micro)
  let we := turns * twoPi
  let p : Rat := (s.period : Rat) / 1000000000
  let ts : Rat := (s.getF F.TBS_TS_V : Rat) / 8000000000
  let th := (s.getS F.AUX_SP_V n : Rat) * q / (4 * micro) + turns * ((p - ts) + p / 2)
  let i : Rat := (s.getF F.AUX_CUR_I n : Rat) / 1000
  let vd := i * gainOf (s.tw 0x0404 n 6)
  let vq := we * (gainOf (s.tw 0x0404 n 7) * i + gainOf (s.tw 0x0404 n 8))
  let h2 := vd * vd + vq * vq
  let sat := decide (vbus * vbus < h2)
  let k : Rat := if sat then vbus / qsqrt h2 else 1
  let c := turnCos th
  let sn := turnSin th
  (k * (vd * c - vq * sn), k * (vd * sn + vq * c), sat)

/-- A phase voltage in the 2 mV units of AUX_VOLT. -/
def volt16 (place : Nat) (v : Rat) : Int := clampI (-32768) 32767 (qopen place (v * 500))

/-- A phase's two duties as u1.23 (R287). -/
def auxDuty (place : Nat) (v vbus : Rat) : List Nat :=
  let r := if vbus = 0 then 0 else v / (2 * vbus)
  let d (x : Rat) : Nat := (clampI 0 8388608 (qopen place (x * 8388608))).toNat
  [d (1 / 2 + r), d (1 / 2 - r)]

/-- One channel's set point at a path time (R286); an attached channel's speed and acceleration are those of a member of its
group (R253). -/
def evalAux (n tau : Nat) (s : State) : State :=
  let u := s.aux n
  match u.plan.motion with
  | none => (s.setS F.AUX_SPD_V 0 n).setAux n { u with acc := 0 }
  | some m =>
    let e := m.exact tau
    let sa := if s.getB F.AUX_CTL_ATT n then s.spdAcc (s.getF F.AUX_CTL_GRP n) e.2.1 e.2.2 else (qopen 0 e.2.1, qopen 1 e.2.2)
    let s1 := ((s.setS F.AUX_SP_V (m.pos tau) n).setS F.AUX_SPD_V sa.1 n).setAux n { u with acc := sa.2 }
    let still := match u.plan with | .vel _ v _ => v == 0 | _ => true
    if m.done tau && still then
      let s2 := (s1.setAux n { s1.aux n with plan := .none }).setF F.AUX_STAT_MODE 0 n
      match u.plan with
      | .move _ _ => (s2.flag F.AUX_FLAG_MOVE_DONE n).post 0x0409 4 n EC.OK s.tbs.k
      | _ => s2
    else s1

/-- A channel brakes to rest at A_MAX: a detached channel when a stop is asserted for all eight groups (R286). -/
def auxBrake (n tau : Nat) (s : State) : State :=
  let u := s.aux n
  match u.plan with
  | .none => s
  | .vel _ 0 _ => s
  | _ => (applyAux n tau (.auxVel n 0) s)

/-- V_BUS of an auxiliary channel in volts: the sample of VBUS_IN, whose scale the spec does not give (log 25), or the
parameter (R287, R293). -/
def State.auxVbus (s : State) (u : Nat) : Rat :=
  let w := s.tw 0x0404 u 9
  let p := gainOf (bits w 0 44)
  match bit w 51, (mapGet (fun _ => none) s.adc.store (bits w 44 7) : Option Int) with
  | true, some code => Config.busVolts u code
  | _, _ => p

/-- The phase voltages of a channel at a bus voltage, and its duties, for the next cycle (R287). -/
def auxOut (n : Nat) (vbus : Rat) (s : State) : State :=
  let v := auxVolts n s vbus
  let s1 := s.setAux n { s.aux n with duty := auxDuty 6 v.1 vbus ++ auxDuty 7 v.2.1 vbus, va := volt16 4 v.1, vb := volt16 5 v.2.1 }
  (s1.setF F.AUX_STAT_SAT (b2n v.2.2) n).flagIf v.2.2 F.AUX_FLAG_SAT n

/-- At T0 the voltages and duties of the cycle before are applied (R36, R287). -/
def auxApply (n : Nat) (s : State) : State :=
  let u := s.aux n
  ((s.setS F.AUX_VOLT_VA u.va n).setS F.AUX_VOLT_VB u.vb n).setAux n { u with dutyOld := u.duty }

/-- At TC the voltages of a channel that measures its bus follow the sample taken at TS of the cycle (R36, R287). -/
def auxMeasured (s : State) : State :=
  s.each ((List.range 16).filter fun n => s.getB F.AUX_CTL_EN n && bit (s.tw 0x0404 n 9) 51) fun n t => auxOut n (t.auxVbus n) t

/-- The current setting of a channel at the present instant, and REDUCED (R288); a channel without power gets none. -/
def auxHold (n : Nat) (s : State) : State :=
  let held := !(s.aux n).power
  let run := s.auxRun n
  let rest := (s.aux n).restSince.map fun r => s.ns - r
  let i := if held then 0 else auxCurrent run (s.tb 0x0404 n 5 0 16) (s.tb 0x0404 n 5 32 16) (s.tb 0x0404 n 5 48 16) rest
  let red := rest.any (fun r => decide (1000000 * s.tb 0x0404 n 5 32 16 ≤ r)) && !held
  ((s.setF F.AUX_CUR_I (min 65535 i) n).setF F.AUX_STAT_REDUCED (b2n red) n).flagIf red F.AUX_FLAG_REDUCED n

/-- The pairs of a channel's record are checked in use: the fault, and HOLD of the group it belongs to (R50, R257). -/
def checkAux (n : Nat) (s : State) : State :=
  let bad := !s.auxGood n
  let s1 := if bad && !(s.aux n).bad then
      (if s.getB F.AUX_CTL_ATT n then limitFault (s.getF F.AUX_CTL_GRP n) n s else s.fault EC.PAIR_MISMATCH 0x04 2 n)
    else s
  if (s1.aux n).bad = bad then s1 else s1.setAux n { s1.aux n with bad := bad }

/-- One channel in one cell cycle (R286 to R288).  vbus is the bus voltage sampled at TS, in volts.  A channel that is held off
follows no plan: its commands of this T0 are spent. -/
def auxCycle (n : Nat) (vbus : Rat) (s00 : State) : State :=
  if s00.getB F.AUX_CTL_EN n = false then s00
  else
    let s := checkAux n (auxApply n s00)
    let att := s.getB F.AUX_CTL_ATT n
    let tau := if att then s.tau (s.getF F.AUX_CTL_GRP n) else s.now
    let held := !(s.aux n).power
    let s0 := if held then (s.setAux n { s.aux n with plan := .none, cmds := [] }).setF F.AUX_STAT_MODE 0 n
      else if att then s
      else
        let cs := (s.aux n).cmds
        let t := (s.setAux n { s.aux n with cmds := [] }).each cs (applyAux n tau)
        if (List.range 8).all t.stopAsserted then auxBrake n tau t else t
    let s1 := evalAux n tau s0
    let moving := s1.getS F.AUX_SPD_V n ≠ 0
    let since := if moving then none else match (s1.aux n).restSince with | some r => some r | none => some s.ns
    let s2 := s1.setAux n { s1.aux n with restSince := since }
    auxOut n vbus (auxHold n s2)

/-! ### Register checks (R23, R285, R294 to R299, R351) -/

/-- PWM channels an axis's set, or an auxiliary channel, uses (R25, R285). -/
def setChannels (set : Nat) : List Nat := [3 * set, 3 * set + 1, 3 * set + 2]
def auxChannels (base : Nat) : List Nat := [base, base + 1, base + 2, base + 3]

/-- Channels owned by enabled local axes and local auxiliary channels, those of one axis and of one channel left out. -/
def State.ownedPwm (s : State) (butAxis butAux : Option Nat) : List Nat :=
  ((List.range 128).filter fun a => s.getB F.AX_CTL_EN a && s.getB F.AX_CTL_LOCAL a && some a != butAxis).flatMap
      (fun a => setChannels (s.getF F.AX_CTL_PWMSET a))
  ++ ((List.range 16).filter fun n => s.getB F.AUX_CTL_EN n && !s.getB F.AUX_CTL_OUT n && some n != butAux).flatMap
      (fun n => auxChannels (s.getF F.AUX_CTL_BASE n))

/-- Do two lists share an element? -/
def overlap (a b : List Nat) : Bool := a.any fun x => b.contains x

/-- Axis slots and auxiliary slots that the enabled axes and channels need on a node (R497). -/
def State.nodeAxes (s : State) (br node : Nat) : List Nat :=
  (List.range 128).filter fun a => s.getB F.AX_CTL_EN a && !s.getB F.AX_CTL_LOCAL a && s.getF F.AX_CTL_BRANCH a == br
    && s.getF F.AX_CTL_NODE a == node
def State.nodeAux (s : State) (br node : Nat) : List Nat :=
  (List.range 16).filter fun n => s.getB F.AUX_CTL_EN n && s.getB F.AUX_CTL_OUT n && s.getF F.AUX_CTL_BRANCH n == br
    && s.getF F.AUX_CTL_NODE n == node

/-- The restrictions on a changed arm map or arm control (R23, R295, R351). -/
def armCodes2 (arm : Nat) (s new : State) : List Nat :=
  let en := new.getB F.TRJ_ARM_CTL_EN arm
  let nj := new.getF F.TRJ_ARM_CTL_NJ arm
  let mine := new.armAxes arm
  let others := ((List.range 16).filter fun m => m != arm && s.getB F.TRJ_ARM_CTL_EN m).flatMap s.armAxes
  chk (en && (decide (nj = 0) || decide (12 < nj))) EC.RANGE
  ++ chk (en && (overlap mine others || decide (mine.eraseDups.length < mine.length))) EC.NO_RESOURCE

/-- The safety state admits parameter changes: NO_PARAM or EDIT (R354). -/
def State.saEdit (s : State) : Bool := s.getF F.SAF_STATE_STATE == 2 || s.getF F.SAF_STATE_STATE == 6

/-- C and STEP as a write of word _2 commits them with the words staged (R283, R294). -/
def Cmp.posWith (u : Cmp) (v : Nat) : Int := sx 72 (u.pos0 + 2 ^ 32 * u.pos1 + 2 ^ 64 * v)
def Cmp.stepWith (u : Cmp) (v : Nat) : Int := sx 72 (u.step0 + 2 ^ 32 * u.step1 + 2 ^ 64 * v)

/-- The trajectory block's checks: base and instance of the register, written and old value, state before and with the
value written. -/
def trjCodes (base i v old : Nat) (s new : State) : List Nat :=
  let changed := decide (v ≠ old)
  let run := chk (changed && s.cycRun) EC.STATE
  if base = R.TRJ_CTL then
    chk (bits v 0 2 == 3) EC.BAD_FIELD ++ chk (decide (2 ^ bits v 0 2 ≤ bits v 4 2)) EC.RANGE
    ++ chk (bits v 0 2 != bits old 0 2 && s.cycRun) EC.STATE
  else if base = R.TRJ_OVR then chk (decide (0x800000 < v)) EC.RANGE
  else if base = R.TRJ_SRATE ∨ base = R.TRJ_SJERK then chk (decide (v = 0)) EC.RANGE
  else if base = R.TRJ_RSAFE then
    chk (decide (bits v 0 16 < 64)) EC.RANGE ++ chk (!pairOk 16 (bits v 0 16) (bits v 16 16)) EC.PAIR_MISMATCH
  else if base = R.TRJ_ARM_CTL then
    run ++ chk (changed && !s.saEdit) EC.STATE ++ armCodes2 i s new
  else if base = R.TRJ_ARM_MAP_0 ∨ base = R.TRJ_ARM_MAP_1 ∨ base = R.TRJ_ARM_MAP_2 then run ++ armCodes2 i s new
  else if base = R.TRJ_CMP_CTL then
    chk (bits v 16 2 == 3) EC.BAD_FIELD ++ chk (bit v 1 && decide (32 ≤ bits v 8 7)) EC.RANGE
    ++ chk (bit old 0 && (bit v 1 != bit old 1 || bits v 8 7 != bits old 8 7 || bits v 16 2 != bits old 16 2)) EC.BUSY
  else if base = R.TRJ_CMP_WIDTH then chk (decide (v < 10) || decide (1000000 < v)) EC.RANGE
  else if base = R.TRJ_CMP_CNT then chk (s.getB F.TRJ_CMP_CTL_ARM i && changed) EC.BUSY
  else if base = R.TRJ_CMP_STEP_2 then
    chk (s.getB F.TRJ_CMP_CTL_ARM i && (s.cmp i).stepWith v != (s.cmp i).step) EC.BUSY
  else []

/-- The axis register checks; slotBad says that a remote enable breaks R497. -/
def axCodes (slotBad : Bool) (base a v old : Nat) (s new : State) : List Nat :=
  if base = R.AX_CTL then
    let en := bit v 0
    chk (decide (24 ≤ bits v 4 5)) EC.RANGE
    ++ chk (bit old 0 && decide (v / 2 ≠ old / 2)) EC.STATE
    ++ chk (!en && bit old 0 && s.cycRun && (s.armOf a).isSome) EC.STATE
    ++ chk (en && !bit old 0 && slotBad) 0x0A03
    ++ chk (en && !bit old 0 && bit v 1 && overlap (setChannels (bits v 4 5)) (s.ownedPwm (some a) none)) EC.NO_RESOURCE
  else if base = R.AX_IN_SEL then
    chk ((List.range 3).any fun j => bit v (8 * j + 6) && decide (16 ≤ bits v (8 * j) 6)) EC.RANGE
  else let _ := new; []

def auxCodes (slotBad nodeBad : Bool) (base n v old : Nat) (s : State) : List Nat :=
  if base = R.AUX_CTL then
    let en := bit v 0 && !bit old 0
    let ch := auxChannels (bits v 4 7)
    let localAx := ((List.range 128).filter fun a => s.getB F.AX_CTL_EN a && s.getB F.AX_CTL_LOCAL a).flatMap
      fun a => setChannels (s.getF F.AX_CTL_PWMSET a)
    let otherAux := ((List.range 16).filter fun m => m != n && s.getB F.AUX_CTL_EN m && !s.getB F.AUX_CTL_OUT m).flatMap
      fun m => auxChannels (s.getF F.AUX_CTL_BASE m)
    chk (bits v 4 7 % 4 != 0 || decide (68 < bits v 4 7)) EC.ALIGN
    ++ chk (bit old 0 && decide (v / 2 ≠ old / 2)) EC.STATE
    ++ chk (en && bit v 1 && slotBad) 0x0A03
    ++ chk (en && bit v 1 && nodeBad) 0x0A04
    ++ chk (en && !bit v 1 && (overlap ch localAx || overlap ch otherAux)) EC.NO_RESOURCE
  else []

/-- The source of a compare unit: value and speed (R281, R283); live is the present position of each feedback channel. -/
def cmpSource (live : Nat → Int) (c : Nat) (s : State) : Int × Int :=
  let i := s.getF F.TRJ_CMP_CTL_INST c
  if s.getB F.TRJ_CMP_CTL_SRC c then (live i, if s.cycRun then s.getS F.FBK_SPEED_V i else 0)
  else (s.getS F.AX_SP_V i, s.getS F.AX_SPD_V i)

/-- What follows an accepted write to a trajectory register.  Words _0 and _1 of C and STEP are staged, and the registers show
what word _2 has committed. -/
def trjFollow (live : Nat → Int) (base i v old : Nat) (s : State) : State :=
  let arm := fun t : State => let x := cmpSource live i t; cmpArm i x.1 x.2 t
  if base = R.TRJ_ARM_CTL then
    if v ≠ old then s.each [bits old 4 3, bits v 4 3] groupMembers else s
  else if base = R.TRJ_CMP_CTL then
    if bit v 0 && !bit old 0 then arm s
    else if !bit v 0 && bit old 0 then s.setF F.TRJ_CMP_STAT_ARMED 0 i
    else s
  else if base = R.TRJ_CMP_POS_0 then (s.setCmp i { s.cmp i with pos0 := v }).put (R.TRJ_CMP_POS_0 + 0x40 * i) (BitVec.ofNat 32 old) 0
  else if base = R.TRJ_CMP_POS_1 then (s.setCmp i { s.cmp i with pos1 := v }).put (R.TRJ_CMP_POS_1 + 0x40 * i) (BitVec.ofNat 32 old) 0
  else if base = R.TRJ_CMP_POS_2 then
    let s0 := cmpUndo i s
    let s1 := showC i (s0.setCmp i { s0.cmp i with c := (s0.cmp i).posWith v })
    if s1.getB F.TRJ_CMP_CTL_ARM i then arm s1 else s1
  else if base = R.TRJ_CMP_STEP_0 then (s.setCmp i { s.cmp i with step0 := v }).put (R.TRJ_CMP_STEP_0 + 0x40 * i) (BitVec.ofNat 32 old) 0
  else if base = R.TRJ_CMP_STEP_1 then (s.setCmp i { s.cmp i with step1 := v }).put (R.TRJ_CMP_STEP_1 + 0x40 * i) (BitVec.ofNat 32 old) 0
  else if base = R.TRJ_CMP_STEP_2 then
    let st := (s.cmp i).stepWith v
    (s.setCmp i { s.cmp i with step := st }).wrN (F.TRJ_CMP_STEP_V.off i 0) (toBits 72 st) 0 3
  else s

def axFollow (base a v old : Nat) (s : State) : State :=
  if base = R.AX_CTL then (if bit v 0 && !bit old 0 then rejudgeInputs a s else s)
  else if base = R.AX_IN_SEL ∨ base = R.AX_IN_FILT then rejudgeInputs a s
  else s

def auxFollow (base n v old : Nat) (s : State) : State :=
  if base = R.AUX_CTL ∧ v ≠ old then s.each [bits old 21 3, bits v 21 3] groupMembers else let _ := n; s

/-- Reads formed from the axes' state: the measured position. -/
def trjView (off : Nat) (s : State) : Option Word :=
  if 0x100000 ≤ off ∧ off < 0x120000 then
    let a := (off - 0x100000) / 0x400
    let r := (off - 0x100000) % 0x400
    let p := toBits 72 (s.measPos a)
    if r = 0x30 then some (BitVec.ofNat 32 p)
    else if r = 0x34 then some (BitVec.ofNat 32 (p / 2 ^ 32))
    else if r = 0x38 then some (BitVec.ofNat 32 (p / 2 ^ 64))
    else none
  else none

/-! ### Table checks (R256, R270, R292, R293) -/

/-- What follows an accepted record of TRJ_AX_REF: with MOD = 0 AX_FRAME stays 0 (R270). -/
def axRecFollow (a : Nat) (s : State) : State :=
  if s.axMod a = 0 ∧ s.getF F.AX_FRAME_V a ≠ 0 then s.setF F.AX_FRAME_V 0 a else s

/-- The checks of one record of a trajectory table; w is the record's words. -/
def trjRecCodes (table r : Nat) (w : Nat → Nat) (s : State) : List Nat :=
  let sg (i : Nat) : Int := sx 72 (w i)
  let v46 : Int := 2 ^ 70
  match table with
  | 0x0401 =>
    let g := s.groupOf r
    chk s.locked EC.LOCKED
    ++ chk (match g with | some q => !s.gstIn q [GSt.IDLE, GSt.OFF] | none => false) EC.STATE
    ++ chk (decide (sg 2 < sg 0)) EC.RANGE
    ++ chk (decide (sg 4 < 0) || decide (v46 < sg 4)) EC.RANGE
    ++ chk (decide (sg 6 < 2 ^ 24) || decide (v46 < sg 6)) EC.RANGE
    ++ chk ((List.range 4).any fun i => !pairOk 72 (w (2 * i)) (w (2 * i + 1))) EC.PAIR_MISMATCH
  | 0x0402 =>
    chk ((s.ax r).plan != .none) EC.STATE ++ chk ((List.range 3).any fun i => decide (2 ^ 44 ≤ w i)) EC.RESERVED_SET
  | 0x0403 =>
    let vmax := (s.limits r).vmax
    let m := w 6
    chk ((s.ax r).plan != .none) EC.STATE
    ++ chk (decide (64 ≤ w 0)) EC.RESERVED_SET
    ++ chk (decide (5 ≤ bits (w 0) 0 3)) EC.BAD_FIELD
    ++ chk (decide (sg 1 ≤ 0) || decide (vmax < sg 1) || decide (sg 2 ≤ 0) || decide (vmax < sg 2)) 0x0402
    ++ chk (decide (sg 4 < 0) || decide (2 ^ 64 < sg 4) || decide (sg 5 < 0)) EC.RANGE
    ++ chk (m != 0 && (m % 2 ^ 24 != 0 || decide (2 ^ 68 < m) || decide ((s.limits r).pmin ≠ -(2 ^ 71))
        || decide ((s.limits r).pmax ≠ 2 ^ 71 - 1))) EC.RANGE
  | 0x0404 =>
    chk ((s.aux r).plan != .none) EC.STATE
    ++ chk (decide (sg 0 < 0) || decide (2 ^ 64 < sg 0) || decide (sg 2 < 2 ^ 24) || decide (2 ^ 68 < sg 2)) EC.RANGE
    ++ chk (decide (20000 < w 4 % 2 ^ 36) || decide (w 4 % 2 ^ 36 < bits (w 5) 0 16) || bits (w 5) 32 16 == 0) EC.RANGE
    ++ chk (bits (w 5) 16 16 != 0 || decide (2 ^ 64 ≤ w 5) || decide (2 ^ 44 ≤ w 6) || decide (2 ^ 44 ≤ w 7) || decide (2 ^ 44 ≤ w 8)
        || decide (2 ^ 52 ≤ w 9)) EC.RESERVED_SET
    ++ chk (!pairOk 72 (w 0) (w 1) || !pairOk 72 (w 2) (w 3) || !pairOk 36 (w 4) (w 4 / 2 ^ 36)) EC.PAIR_MISMATCH
  | _ => [EC.BAD_FIELD]

end Sys2Proof.Machine
end

