-- ==== Sys2Proof/Machine/Sep.lean ====
section
/-! DEFINITION. Speed and separation monitoring (R302 to R342): robot chains, obstacle frames, the snapshot and sensor states, distances, the protective separation distance, the limits, the handover and the issued factors. -/

namespace Sys2Proof.Machine

def State.withSep (s : State) (f : Sep → Sep) : State := { s with sep := f s.sep }

def ECsep.MODEL : Nat := 0x0501
def ECsep.STOP : Nat := 0x0502
def ECsep.SENSOR : Nat := 0x0503
def ECsep.BUDGET : Nat := 0x0504
def ECsep.FRAME : Nat := 0x0505
def ECsep.SOURCE : Nat := 0x0506

def one23 : Nat := 8388608

/-! ### Times -/

/-- Separation cycle in ns (R34, R340). -/
def State.sepNs (s : State) : Nat := if s.getB F.SEP_CTL_SCYC then 500000 else 250000

/-- Cell cycles per separation cycle (R34). -/
def State.sepN (s : State) : Nat := s.sepNs / s.period

/-- Is cycle k the first of its separation cycle (R34)? -/
def State.sepFirst (s : State) (k : Nat) : Bool := k % s.sepN == 0
def State.sepLast (s : State) (k : Nat) : Bool := (k + 1) % s.sepN == 0

/-! ### Records in force: 36-bit value halves -/

/-- A pair word's signed value among a record's words. -/
def val36 (w : Nat → Nat) (i : Nat) : Nat := w i % 2 ^ 36
def sval36 (w : Nat → Nat) (i : Nat) : Int := sx 36 (w i)

def State.kin (s : State) (arm i : Nat) : Int := s.pairS 0x0501 arm i

def State.capsEn (s : State) (c : Nat) : Bool := s.pb 0x0502 c 0 8 1 == 1
def State.capsArm (s : State) (c : Nat) : Nat := s.pb 0x0502 c 0 0 4

/-- The enabled capsules of an arm. -/
def State.armCaps (s : State) (arm : Nat) : List Nat :=
  (List.range 256).filter fun c => s.capsEn c && s.capsArm c == arm

def State.sens (s : State) (i w lo n : Nat) : Nat := s.pb 0x0504 i w lo n
def State.sensEn (s : State) (i : Nat) : Bool := s.sens i 0 0 1 == 1
def State.enabledSensors (s : State) : List Nat := (List.range 16).filter s.sensEn
def State.enabledArms (s : State) : List Nat := (List.range 16).filter fun a => s.getB F.TRJ_ARM_CTL_EN a

/-! ### Budget (R316, R317) -/

def ceilDiv (a b : Nat) : Nat := (a + b - 1) / b

/-- C_SEP; the refinement term halves while refinement is shed. -/
def cSep (shed : Bool) (a j n o : Nat) : Nat :=
  400 + ceilDiv a 4 * (40 + 96 * j) + 4 * n + ceilDiv (a * o) 16 + (if shed then 1 else 2) * ceilDiv (n * o) 16 + 12 * ceilDiv (a * o) 8

/-- C_SEP of the configuration in force. -/
def State.sepCycles (s : State) (shed : Bool) : Nat :=
  let arms := s.enabledArms
  cSep shed arms.length (arms.foldl (fun m a => max m (s.getF F.TRJ_ARM_CTL_NJ a)) 0) ((List.range 256).filter s.capsEn).length
    (s.enabledSensors.foldl (fun m i => m + s.sens i 2 10 11) 0)

/-- What SEP_BUDGET shows: refinement counts as not shed (R316). -/
def State.sepBudget (s : State) : Nat := s.sepCycles false

/-- TR + C_SEP / 800 MHz passes SEP_HO; all in units of 125 ps. -/
def State.sepOver (s : State) : Bool := decide (s.getF F.SEP_HO_HO * 8000 < s.getF F.TBS_TR_V + s.sepBudget * 10)

/-- While monitoring is enabled a change that breaks the bound is rejected (R317). -/
def budgetCodes (new : State) : List Nat := chk (new.getB F.SEP_CTL_EN && new.sepOver) ECsep.BUDGET

/-! ### Table checks (R326, R336, R337) -/

/-- Two 36-bit rotation rows' product in units of 2^-68 differs from 1 or 0 by more than 2^-20. -/
def orthoBad (w : Nat → Nat) : Bool :=
  let e (i j : Nat) : Int := sval36 w (3 * i + j)
  (List.range 3).any fun i => (List.range 3).any fun j =>
    let p := e i 0 * e j 0 + e i 1 * e j 1 + e i 2 * e j 2
    decide (2 ^ 48 < (p - (if i = j then 2 ^ 68 else 0)).natAbs)

/-- The rules of a SEP_KIN record that depend on NJ (R337). -/
def kinNjBad (nj : Nat) (w : Nat → Nat) : Bool :=
  ((List.range 12).any fun j => decide (nj ≤ j) && (List.range 6).any fun i => val36 w (12 + 6 * j + i) != 0)
    || (List.range nj).any fun j => val36 w (17 + 6 * j) == 0

/-- The rules of a SEP_STOP record (R326, R337). -/
def stopBad (w : Nat → Nat) : Bool :=
  let h := val36 w 0
  let nv := bits h 0 4
  let np := bits h 4 3
  let ent (k p i : Nat) : Nat := val36 w (13 + 2 * (4 * k + p) + i)
  nv == 0 || decide (8 < nv) || np == 0 || decide (4 < np) || decide (bits h 16 16 < 64)
    || (List.range 8).any (fun k => if k < nv then decide (0 < k) && decide (val36 w (1 + k) ≤ val36 w k) else val36 w (1 + k) != 0)
    || (List.range 4).any (fun p => if p < np then decide (0 < p) && decide (val36 w (9 + p) ≤ val36 w (8 + p)) else val36 w (9 + p) != 0)
    || (List.range 8).any fun k => (List.range 4).any fun p => (List.range 2).any fun i =>
        if k < nv ∧ p < np then
          (decide (0 < k) && decide (ent k p i < ent (k - 1) p i)) || (decide (0 < p) && decide (ent k p i < ent k (p - 1) i))
        else ent k p i != 0

/-- A sensor record conflicts with the other enabled sensors (R337). -/
def sensConflict (r : Nat) (w : Nat → Nat) (s : State) : Bool :=
  let id := bits (val36 w 0) 8 16
  let src := bits (val36 w 0) 1 1
  let b := bits (val36 w 2) 0 10
  let m := bits (val36 w 2) 10 11
  m == 0 || decide (1024 < m) || decide (1024 < b + m) || (s.enabledSensors.filter (· != r)).any fun i =>
    s.sens i 0 8 16 == id || (src == 1 && s.sens i 0 1 1 == 1 && s.sens i 1 0 20 == val36 w 1 % 2 ^ 20)
      || (decide (b < s.sens i 2 0 10 + s.sens i 2 10 11) && decide (s.sens i 2 0 10 < b + m))

/-- The field checks of one separation record. -/
def sepFieldCodes (table r : Nat) (w : Nat → Nat) (s : State) : List Nat :=
  match table with
  | 0x0501 =>
    chk ((List.range 12).any fun j => decide (2 ≤ val36 w (12 + 6 * j))) EC.RESERVED_SET
    ++ chk (decide (10000 < val36 w 84)) EC.RANGE
    ++ chk (orthoBad w) ECsep.MODEL
  | 0x0502 =>
    let en := bit (val36 w 0) 8
    let arm := bits (val36 w 0) 0 4
    let link := bits (val36 w 0) 4 4
    chk (decide (512 ≤ val36 w 0)) EC.RESERVED_SET
    ++ chk (en && decide (12 ≤ link ∧ link ≤ 14)) EC.BAD_FIELD
    ++ chk (en && (val36 w 7 == 0 || decide (10000 < val36 w 7))) EC.RANGE
    ++ chk (en && decide (16 ≤ ((s.armCaps arm).filter (· != r)).length)) EC.NO_RESOURCE
  | 0x0503 =>
    chk (bits (val36 w 0) 7 9 != 0 || decide (2 ^ 32 ≤ val36 w 0)) EC.RESERVED_SET ++ chk (stopBad w) ECsep.STOP
  | 0x0504 =>
    let en := bit (val36 w 0) 0
    chk (bits (val36 w 0) 2 6 != 0 || decide (2 ^ 24 ≤ val36 w 0) || decide (2 ^ 20 ≤ val36 w 1) || decide (2 ^ 21 ≤ val36 w 2)
      || decide (2 ^ 32 ≤ val36 w 7) || decide (256 ≤ val36 w 8) || decide (256 ≤ val36 w 9)) EC.RESERVED_SET
    ++ (if en then
        chk (decide (val36 w 3 < 1000) || decide (1000000 < val36 w 3) || decide (1000000 < val36 w 4) || sensConflict r w s) ECsep.SENSOR
        ++ chk (decide (10000 < val36 w 5) || decide (10000 < val36 w 6)) EC.RANGE
      else [])
  | 0x0505 => chk (decide (10000000 < val36 w 0)) EC.RANGE
  | _ => [EC.BAD_FIELD]

/-- How many words a separation record has (R335). -/
def sepLen (table : Nat) : Nat := match table with
  | 0x0501 => 85
  | 0x0502 => 8
  | 0x0503 => 77
  | 0x0504 => 10
  | 0x0505 => 1
  | _ => 0

/-- The checks of one record of a separation table (R335 to R337); w is the record's words. -/
def sepRecCodes (table r : Nat) (w : Nat → Nat) (s : State) : List Nat :=
  chk (decide (table ≤ 0x0504) && (!s.saEdit || s.getB F.SEP_CTL_EN)) EC.STATE
  ++ chk ((List.range (sepLen table)).any fun i => !pairOk 36 (w i) (w i / 2 ^ 36)) EC.PAIR_MISMATCH
  ++ sepFieldCodes table r w s

/-- A record as it stands in the tables. -/
def State.recOf (s : State) (table r : Nat) : Nat → Nat := s.tw table r

/-- The arms the engine watches: enabled arms of active groups; NJ-dependent rules (R306, R337). -/
def armModelBad (s : State) (arm : Nat) : Bool :=
  let nj := s.getF F.TRJ_ARM_CTL_NJ arm
  (s.armCaps arm).isEmpty || kinNjBad nj (s.recOf 0x0501 arm)
    || (s.armCaps arm).any fun c => let l := s.pb 0x0502 c 0 4 4; decide (nj ≤ l) && l != 15

/-- The checks of SEP_CTL.EN 0 to 1 (R306, R317, R326, R337, R340). -/
def sepEnableCodes (s : State) : List Nat :=
  let arms := s.enabledArms
  chk (s.enabledSensors.isEmpty && !s.getB F.SEP_CTL_CAPONLY) ECsep.SENSOR
  ++ chk (arms.any (armModelBad s)) ECsep.MODEL
  ++ chk (arms.any fun a => s.pb 0x0503 a 0 16 16 != s.getF F.TRJ_RSAFE_RSAFE (s.getF F.TRJ_ARM_CTL_GROUP a)) ECsep.STOP
  ++ chk s.sepOver ECsep.BUDGET
  ++ arms.flatMap (fun a => sepFieldCodes 0x0501 a (s.recOf 0x0501 a) s ++ sepFieldCodes 0x0503 a (s.recOf 0x0503 a) s)
  ++ ((List.range 256).filter s.capsEn).flatMap (fun c => sepFieldCodes 0x0502 c (s.recOf 0x0502 c) s)
  ++ s.enabledSensors.flatMap fun i => sepFieldCodes 0x0504 i (s.recOf 0x0504 i) s

/-- The separation block's register checks: v over old, s before and new with the write (R340). -/
def sepCodes (base v old : Nat) (s new : State) : List Nat :=
  let en := s.getB F.SEP_CTL_EN
  let ch (lo w : Nat) : Bool := bits v lo w != bits old lo w
  let param := chk (!s.saEdit || en) EC.STATE
  if base = R.SEP_CTL then
    chk (ch 0 1 && s.cycRun) EC.STATE ++ chk (ch 1 1 && en) EC.STATE
    ++ (if ch 4 1 then param else [])
    ++ chk ((ch 3 1 && bit v 3) && s.getF F.SEP_EXPORT_EXPORT_ID == 0) EC.RANGE
    ++ (if ch 0 1 && bit v 0 then sepEnableCodes (if ch 1 1 then new.setF F.SEP_HO_HO (new.sepNs / 1000 - 90) else new) else [])
  else if base = R.SEP_HO then
    chk (v != old && en) EC.STATE ++ chk (decide (v < 40) || decide (s.sepNs / 1000 - 80 < v)) EC.RANGE ++ budgetCodes new
  else if base = R.SEP_VH then
    (if v != old then param else []) ++ chk (decide (v % 2 ^ 16 < 500) || decide (4000 < v % 2 ^ 16)) EC.RANGE
    ++ chk (!pairOk 16 v (v / 2 ^ 16)) EC.PAIR_MISMATCH
  else if base = R.SEP_G_CAP then
    (if v != old then param else []) ++ chk (decide (0x8000 < v % 2 ^ 16)) EC.RANGE
    ++ chk (!pairOk 16 v (v / 2 ^ 16)) EC.PAIR_MISMATCH
  else if base = R.SEP_EXPORT then chk (s.getB F.SEP_CTL_EXP_EN && bits v 8 16 == 0) EC.RANGE
  else []

/-- A sensor is enabled: no frame counts as accepted, its counters are 0 (R309, R340). -/
def sensorEnable (i : Nat) (s : State) : State :=
  let s1 := s.withSep fun x =>
    { x with enAt := mapSet (fun _ => 0) x.enAt i s.now, accepted := mapSet (fun _ => none) x.accepted i none,
             inUse := mapSet (fun _ => none) x.inUse i none, lateRun := mapSet (fun _ => 0) x.lateRun i 0 }
  (s1.setF F.SEP_S_GOOD_GOOD 0 i).setF F.SEP_S_STAT_LATE_RUN 0 i

/-- What follows an accepted write of a separation register. -/
def sepFollow (base v old : Nat) (s : State) : State :=
  if base = R.SEP_CTL then
    let s1 := if bit v 1 = bit old 1 then s else s.setF F.SEP_HO_HO (s.sepNs / 1000 - 90)
    if bit v 0 = bit old 0 then s1
    else if bit v 0 then
      ((s1.setF F.SEP_STAT_RUN 1).setF F.SEP_RUNT_MAX 0).each s1.enabledSensors sensorEnable
    else
      (((s1.setF F.SEP_STAT_RUN 0).setF F.SEP_STAT_ZERO 0).each (List.range 16) fun i t => t.setF F.SEP_S_STAT_STATE 0 i).withSep
        fun x => { x with phase := .idle, fac := [], facNext := [] }
  else s

/-- Reads the engine forms. -/
def sepView (off : Nat) (s : State) : Option Word :=
  if off = R.SEP_BUDGET then some (BitVec.ofNat 32 s.sepBudget) else none

/-- What follows an accepted record of a separation table: a sensor enabled (R309). -/
def sepRecFollow (table r : Nat) (oldEn : Bool) (s : State) : State :=
  if table = 0x0504 then
    if s.sensEn r ∧ !oldEn then sensorEnable r s
    else if !s.sensEn r then s.setF F.SEP_S_STAT_STATE 0 r else s
  else s

/-! ### Obstacle frames (R308, R309) -/

def State.obstOf (data : List Byte) (i : Nat) : Obst :=
  let b := 32 + 32 * i
  { ax := sx 32 (leAt data b 4), ay := sx 32 (leAt data (b + 4) 4), az := sx 32 (leAt data (b + 8) 4),
    bx := sx 32 (leAt data (b + 12) 4), by_ := sx 32 (leAt data (b + 16) 4), bz := sx 32 (leAt data (b + 20) 4),
    r := leAt data (b + 24) 2, v := leAt data (b + 26) 2, cls := leAt data (b + 28) 1 }

def frameOf (data : List Byte) : Frame :=
  { seq := leAt data 4 4, tCap := leAt data 8 9, flags := leAt data 17 1,
    caps := (List.range (leAt data 2 2)).map (State.obstOf data) }

/-- The bytes that CODE covers (R308). -/
def frameCovered (data : List Byte) : List Byte := data.take 24 ++ data.drop 32

/-- The checks a frame fails, as a mask of SEP_S_FLAG bits 0 to 4 (R309). -/
def frameFails (i : Nat) (data : List Byte) (s : State) : Nat :=
  let n := leAt data 2 2
  let f := frameOf data
  let code := crc32c (s.sens i 7 0 32) (frameCovered data) != leAt data 24 4
  let id := leAt data 0 2 != s.sens i 0 8 16 || decide (4 ≤ f.flags) || leAt data 18 6 != 0 || leAt data 28 4 != 0
    || (List.range n).any fun c => leAt data (32 + 32 * c + 29) 3 != 0 || decide (3 ≤ leAt data (32 + 32 * c + 28) 1)
  let last := mapGet (fun _ => none) s.sep.accepted i
  let seq := match last with
    | some l => let d := (f.seq + 2 ^ 32 - l.seq) % 2 ^ 32; d == 0 || decide (2 ^ 31 < d)
    | none => false
  let time := decide (s.now < f.tCap) || match last with
    | some l => decide (f.tCap ≤ l.tCap)
    | none => decide (f.tCap < mapGet (fun _ => 0) s.sep.enAt i)
  let count := decide (s.sens i 2 10 11 < n) || data.length != 32 + 32 * n
  b2n code + 2 * b2n id + 4 * b2n seq + 8 * b2n time + 16 * b2n count

/-- Or a mask into SEP_S_FLAG. -/
def State.orSFlag (s : State) (i m : Nat) : State :=
  let o := R.SEP_S_FLAG + 0x20 * i
  s.wr o (BitVec.ofNat 32 (mor (s.rd o).toNat m))

/-- Accept a frame (R309). -/
def frameAccept (i : Nat) (data : List Byte) (s : State) : State :=
  let f := frameOf data
  let gap := match mapGet (fun _ => none) s.sep.accepted i with
    | some l => (f.seq + 2 ^ 32 - l.seq) % 2 ^ 32 != 1
    | none => false
  let s1 := (s.withSep fun x => { x with accepted := mapSet (fun _ => none) x.accepted i (some f) }).incF F.SEP_S_GOOD_GOOD i
  let s2 := s1.orSFlag i (b2n (bit f.flags 1) * 64 + b2n (bit f.flags 0) * 128)
  if gap then (s2.flag F.SEP_S_FLAG_GAP i).incF F.SEP_S_BAD_GAP i else s2

/-- A frame arrives over Damask for sensor i (R309). -/
def damaskFrame (i : Nat) (data : List Byte) (s : State) : State :=
  let m := frameFails i data s
  if m = 0 then frameAccept i data s
  else
    let s1 := ((s.orSFlag i m).incF F.SEP_S_BAD_DISC i).flag F.SEP_FLAG_FRAME_BAD
    if s.sep.badNow.contains i then s1
    else (s1.withSep fun x => { x with badNow := listIns x.badNow i }).post 0x0507 5 i 0x050C m

/-- The sensor a Damask message names, where one is enabled for it (R309, R337). -/
def State.sensorOfDamask (s : State) (node stream : Nat) : Option Nat :=
  s.enabledSensors.find? fun i => s.sens i 0 1 1 == 1 && s.sens i 1 0 12 == node && s.sens i 1 12 8 == stream

/-- The checks of SENS_FRAME (R309, R338). -/
def sepCmdCodes (cmd : Nat) (b : BlockArgs) (s : State) : List Nat :=
  if cmd ≠ 1 then [EC.BAD_FIELD]
  else
    let i := b.arg0 % 16
    argBits b.arg0 15 ++ argZero b.arg1 ++ argZero b.arg2 ++ chk (b.ptr % 16 != 0) EC.ALIGN
    ++ (if !s.sensEn i || s.sens i 0 1 1 == 1 then [ECsep.SOURCE] else chk (frameFails i b.data s != 0) ECsep.FRAME)
    ++ chk (decide (b.len < 32) || b.len != 32 + 32 * leAt b.data 2 2) ECsep.FRAME

/-- The checks of a rejected host frame still set their flags (R309). -/
def sepCmdRejected (b : BlockArgs) (s : State) : State :=
  let i := b.arg0 % 16
  if s.sensEn i ∧ s.sens i 0 1 1 = 0 then s.orSFlag i (frameFails i b.data s) else s

def sepCmdRun (b : BlockArgs) (s : State) : State := frameAccept (b.arg0 % 16) b.data s

/-! ### The snapshot (R310, R329) -/

/-- Bound of R329 on a frame's age, T72 units. -/
def State.ageBound (s : State) (i : Nat) : Nat := ((s.sens i 3 0 36 + s.sens i 4 0 36) * 1000 + s.sepNs) * 256

/-- Judge one sensor at the snapshot (R329). -/
def sensorSnap (i : Nat) (s : State) : State :=
  let f := mapGet (fun _ => none) s.sep.accepted i
  let old := s.getF F.SEP_S_STAT_STATE i
  let age := match f with
    | some x => s.tbs.t0 * 256 - x.tCap
    | none => 0
  let excess := age - s.ageBound i
  let late := match f with
    | some x => decide (0 < excess) || bit x.flags 0
    | none => false
  let run := if late then satInc 256 (mapGet (fun _ => 0) s.sep.lateRun i) else 0
  let stop := match f with
    | some x => bit x.flags 1 || (late && decide (s.sens i 9 0 8 < run))
    | none => true
  let st := if stop then 3 else if late then 2 else 1
  let u : Option (Frame × Nat) := f.map fun x => (x, excess)
  let s1 := s.withSep fun x => { x with inUse := mapSet (fun _ => none) x.inUse i u, lateRun := mapSet (fun _ => 0) x.lateRun i run }
  let s2 := ((s1.setF F.SEP_S_STAT_STATE st i).setF F.SEP_S_STAT_LATE_RUN (min 255 run) i).setF F.SEP_S_STAT_COUNT
    (match f with | some x => if stop then 0 else x.caps.length | none => 0) i
  let s3 := match f with
    | some x => (s2.setF F.SEP_S_AGE_AGE (min (2 ^ 32 - 1) (age / 256000)) i).setF F.SEP_S_SEQ_SEQ x.seq i
    | none => s2
  let s4 := (s3.flagIf (st == 2) F.SEP_FLAG_DROP).flagIf (st == 3) F.SEP_FLAG_DROP_STOP
  if st = old then s4
  else if st = 1 then (if old = 0 then s4 else s4.post 0x0504 5 i EC.OK s.sep.j)
  else s4.post 0x0503 5 i 0x0509 st

/-- The pairs of SEP_VH and SEP_G_CAP that fail (R47). -/
def State.vhGood (s : State) : Bool := pairOk 16 (s.getF F.SEP_VH_VH) (s.getF F.SEP_VH_VH_C)
def State.capGood (s : State) (g : Nat) : Bool := pairOk 16 (s.getF F.SEP_G_CAP_CAP g) (s.getF F.SEP_G_CAP_CAP_C g)

/-- The engine reads the parameters of a separation cycle: a pair of the safety parameter set that fails makes the set invalid
(R50, R336); one of SEP_LOAD is a fault of its own, and its arm's limit is 0 (R328, R324). -/
def sepPairs (s : State) : State :=
  let bad := (s.badParam 0x0501 0x0504).isSome || !s.vhGood || !(List.range 8).all s.capGood
  let s1 := if bad then safeFault 7 0 ((s.note 5).fault EC.PAIR_MISMATCH 0x05 1 (((s.badParam 0x0501 0x0504).getD 0) / 2 ^ 8)) else s
  s1.each (s.enabledArms.filter fun a => !s.pairGood 0x0505 a 0) fun a t => t.fault EC.PAIR_MISMATCH 0x05 2 a

/-- The snapshot of a separation cycle: in-use frames, sensor states, payloads, shedding (R310, R320, R328). -/
def sepSnapshot (s : State) : State :=
  if !s.getB F.SEP_CTL_EN then s
  else
    let j := s.tbs.k / s.sepN
    let shed := s.getB F.SEP_CTL_NOREF || s.getB F.SEP_STAT_SHED_TH
    let s1 := s.withSep fun x =>
      { x with phase := .snapshot, j := j, t0 := s.tbs.t0, shed := shed, badNow := [],
               load := (List.range 16).map fun a => (a, s.pairVal 0x0505 a 0) }
    sepPairs ((s1.setF F.SEP_STAT_SHED (b2n shed)).each s.enabledSensors sensorSnap)

/-! ### The sample (R304, R305, R313) -/

/-- Path-time speed of an axis, P72 steps per second: the speed set point at s = 1 (R305). -/
def State.pathSpeed (s : State) (a g : Nat) : Rat :=
  match (s.ax a).plan with
  | .table => (s.tablePoint a ((s.tau g : Int) - s.getF F.TRJ_TBL0_V g) (s.ax a).knots).2.1
  | _ => (s.pathState a (s.tau g)).2

/-- The measured position of an axis is marked invalid for the cycle (R206). -/
def State.posInvalid (s : State) (a : Nat) : Bool :=
  if s.getB F.AX_CTL_PSRC a then !(mapGet (fun _ => SlotVals.reset) s.twl.slots a).valid
  else !s.getB F.FBK_STAT_VALID (s.getF F.AX_CTL_PCHAN a)

/-- Sample positions, path speeds and applied scales (R313); taken once every position of the first cell cycle is in. -/
def sepSample (s : State) : State :=
  if s.sep.phase ≠ .snapshot then s
  else
    let axes := s.enabledArms.flatMap fun m => (s.armAxes m).map fun a => (a, s.getF F.TRJ_ARM_CTL_GROUP m)
    s.withSep fun x =>
      { x with prevPos := if x.pos.isEmpty then none else some x.pos, mspd := axes.map (fun p => (p.1, s.measSpd p.1)),
               tSamp := s.tsAt, phase := .sampled, pos := axes.map (fun p => (p.1, s.measPos p.1)),
               spd := axes.map (fun p => (p.1, s.pathSpeed p.1 p.2)),
               frames := axes.map (fun p => (p.1, s.getS F.AX_FRAME_V p.1)),
               inval := (axes.filter fun p => s.posInvalid p.1).map (·.1),
               sNow := (List.range 8).map fun g => (g, s.scale g) }

/-! ### Chains and capsules (R304, R305) -/

/-- The frames of an arm: the base, then one per joint; with each joint's axis, its origin, whether it is prismatic, and
its rate (turns, or 0.1 mm, per second) at positions pos and speeds spd (R304). -/
def chain (arm : Nat) (pos : Nat → Int) (spd : Nat → Rat) (s : State) : List Pose × List (V3 × V3 × Bool × Rat) :=
  let k (i : Nat) : Rat := ((s.kin arm i : Int) : Rat)
  let r (i : Nat) : Rat := k i / 17179869184
  let base : Pose := { ex := ⟨r 0, r 3, r 6⟩, ey := ⟨r 1, r 4, r 7⟩, ez := ⟨r 2, r 5, r 8⟩, o := ⟨k 9, k 10, k 11⟩ }
  let turn (i : Nat) : Rat := ((s.pairVal 0x0501 arm i : Nat) : Rat) / 68719476736
  (List.range (s.getF F.TRJ_ARM_CTL_NJ arm)).foldl (fun acc j =>
    let f := acc.1.getLast?.getD base
    let a := s.jointAxis arm j
    let sc : Rat := ((s.pairVal 0x0501 arm (17 + 6 * j) : Nat) : Rat)
    let prism := s.pairVal 0x0501 arm (12 + 6 * j) % 2 == 1
    -- q mod SCALE, exactly, for a revolute joint
    let whole : Int := ((s.pairVal 0x0501 arm (17 + 6 * j) * 2 ^ 24 : Nat) : Int)
    let q : Rat := ((if prism ∨ whole = 0 then pos a else pos a % whole : Int) : Rat) / 16777216 / sc
    let rate := spd a / 16777216 / sc
    let th := turn (16 + 6 * j) + (if prism then 0 else q)
    let d := k (15 + 6 * j) + (if prism then q else 0)
    (acc.1 ++ [f.link th d (k (13 + 6 * j)) (turn (14 + 6 * j))], acc.2 ++ [(f.ez, f.o, prism, rate)])) ([base], [])

/-- Velocity of a point carried by link l: the sum of the contributions of joints 0 to l (R305), 0.1 mm/s. -/
def pointVel (js : List (V3 × V3 × Bool × Rat)) (l : Nat) (p : V3) : V3 :=
  (js.take (l + 1)).foldl (fun v j =>
    v.add (if j.2.2.1 then j.1.scale j.2.2.2 else (j.1.cross (p.sub j.2.1)).scale (twoPi * j.2.2.2))) V3.zero

/-- A capsule in the cell frame with the unit-scale velocities of its ends. -/
structure RCap where
  c : Nat
  a : V3
  b : V3
  va : V3
  vb : V3
  r : Rat

/-- The enabled capsules of an arm at sampled positions. -/
def robotCaps (arm : Nat) (pos : Nat → Int) (spd : Nat → Rat) (s : State) : List RCap :=
  let ch := chain arm pos spd s
  (s.armCaps arm).map fun c =>
    let l := s.pb 0x0502 c 0 4 4
    let v (i : Nat) : V3 := ⟨(s.pairS 0x0502 c i : Int), (s.pairS 0x0502 c (i + 1) : Int), (s.pairS 0x0502 c (i + 2) : Int)⟩
    let f := (if l = 15 then ch.1.head? else ch.1[l + 1]?).getD { ex := ⟨1, 0, 0⟩, ey := ⟨0, 1, 0⟩, ez := ⟨0, 0, 1⟩, o := V3.zero }
    let a := f.at (v 1)
    let b := f.at (v 4)
    let vel (p : V3) : V3 := if l = 15 then V3.zero else pointVel ch.2 l p
    { c := c, a := a, b := b, va := vel a, vb := vel b, r := ((s.pairVal 0x0502 c 7 : Nat) : Rat) }

def State.sampPos (s : State) (a : Nat) : Int := mapGet (fun _ => 0) s.sep.pos a
def State.sampSpd (s : State) (a : Nat) : Rat := mapGet (fun _ => 0) s.sep.spd a

/-- The larger endpoint speed of a capsule, mm/s. -/
def RCap.speed (c : RCap) : Rat := qmax c.va.norm c.vb.norm / 10

/-- v_arm, mm/s (R305). -/
def armSpeed (caps : List RCap) : Rat := caps.foldl (fun m c => qmax m c.speed) 0

/-! ### Obstacles in use -/

/-- V_H in use: a failed pair counts as the largest legal value (R50, R340). -/
def State.vh (s : State) : Nat := if s.vhGood then s.getF F.SEP_VH_VH else 4000

/-- v_o of an obstacle, mm/s (R311). -/
def State.vo (s : State) (o : Obst) : Nat := if o.cls = 0 then max o.v s.vh else o.v

/-- The increase of a radius in LATE: v_o mm/s times the excess age, in 0.1 mm, rounded up (R329). -/
def obstGrow (vo excess : Nat) : Nat := ceilDiv (vo * 10 * excess) 256000000000

/-- The obstacles of a sensor with their slots; none in STOP (R329). -/
def State.obstacles (s : State) (i : Nat) : List (Nat × Obst) :=
  if s.getF F.SEP_S_STAT_STATE i = 3 ∨ !s.sensEn i then []
  else match mapGet (fun _ => none) s.sep.inUse i with
    | none => []
    | some (f, excess) =>
      let grow (o : Obst) : Nat := if s.getF F.SEP_S_STAT_STATE i = 2 then obstGrow (s.vo o) excess else 0
      (List.range f.caps.length).zip f.caps |>.map fun p => (s.sens i 2 0 10 + p.1, { p.2 with r := p.2.r + grow p.2 })


def Obst.a (o : Obst) : V3 := ⟨(o.ax : Int), (o.ay : Int), (o.az : Int)⟩
def Obst.b (o : Obst) : V3 := ⟨(o.bx : Int), (o.by_ : Int), (o.bz : Int)⟩

/-- A word of SEP_OBS: the slot as in use at the last snapshot (R337); its words are no pair words (R335), and a
coordinate fills its word as a signed number (DEDUCED, log 52). -/
def sepObsWord (slot word : Nat) (s : State) : Nat :=
  let hit := s.enabledSensors.findSome? fun i => ((s.obstacles i).find? fun p => p.1 == slot).map fun p => (i, p.2)
  match hit with
  | none => 0
  | some (i, o) =>
    match word with
    | 0 => toBits 72 o.ax
    | 1 => toBits 72 o.ay
    | 2 => toBits 72 o.az
    | 3 => toBits 72 o.bx
    | 4 => toBits 72 o.by_
    | 5 => toBits 72 o.bz
    | 6 => o.r
    | _ => o.v + o.cls * 2 ^ 16 + i * 2 ^ 20 + 2 ^ 24

/-! ### The protective separation distance (R322 to R325) -/

/-- Smallest row, or column, whose breakpoint is at least a value. -/
def rowFor (n : Nat) (bp : Nat → Nat) (v : Rat) : Option Nat := (List.range n).find? fun k => decide (v ≤ ((bp k : Nat) : Rat))

/-- What need(x) of a pair is evaluated with. -/
structure NeedIn where
  arm : Nat
  p : Nat
  vArm : Rat
  vr : Rat
  vo : Rat
  tr : Rat
  tl : Rat
  sNow : Rat
  fixed : Rat

/-- need(x) in um, each term rounded up (R322); none: infinity. -/
def needAt (n : NeedIn) (x : Rat) (s : State) : Option Int :=
  let nv := s.pb 0x0503 n.arm 0 0 4
  match rowFor nv (fun k => s.pairVal 0x0503 n.arm (1 + k)) (qmax x n.sNow * n.vArm) with
  | none => none
  | some k =>
    let ss := s.pairVal 0x0503 n.arm (13 + 2 * (4 * k + n.p))
    let ts := s.pairVal 0x0503 n.arm (14 + 2 * (4 * k + n.p))
    some (qceil (n.vo * (n.tr + (ts : Nat)) / 1000) + qceil (n.vr * (n.sNow * n.tl + x * (n.tr - n.tl)) / 1000)
      + qceil (100 * ((ss : Nat) + n.fixed)))

/-- need(x) is at most d. -/
def needOk (n : NeedIn) (d : Int) (x : Rat) (s : State) : Bool := match needAt n x s with
  | some v => decide (v ≤ d)
  | none => false

/-- Largest x of the grid with need(x) at most d, need being monotone; bit by bit (R323). -/
def gridMax (ok : Nat → Bool) : Nat → Nat → Nat
  | 0, x => x
  | b + 1, x => gridMax ok b (if ok (x + 2 ^ b) then x + 2 ^ b else x)

/-- The pair limit (R323), u1.23. -/
def pairLimit (n : NeedIn) (d : Int) (s : State) : Nat :=
  let ok (x : Nat) : Bool := decide (x ≤ one23) && needOk n d ((x : Nat) / 8388608) s
  if ok one23 then one23 else gridMax ok 23 0

/-- T_R and T_L in us of a sensor and a group (R322). -/
def State.tR (s : State) (i g : Nat) : Rat :=
  ((s.sens i 3 0 36 + s.sens i 4 0 36 : Nat) : Rat) + ((2 * s.sepNs + s.divOf g * s.period : Nat) : Rat) / 1000
def State.tL (s : State) (g : Nat) : Rat := ((s.sepNs + s.divOf g * s.period : Nat) : Rat) / 1000

/-- The result of one arm: limit, cause, limiting obstacle slot, capsule, distance and need in um. -/
structure ArmRes where
  l : Nat
  cause : Nat
  obs : Nat
  caps : Nat
  d : Int
  need : Int
  contacts : List Nat
  table : Nat

def ArmRes.free : ArmRes := { l := one23, cause := 0, obs := 0, caps := 0, d := 0, need := 0, contacts := [], table := 0 }

/-- The distance of a capsule from an obstacle, um, and the directed speed, mm/s (R318, R320). -/
def capsDistance (shed : Bool) (c : RCap) (o : Obst) : Rat × Rat :=
  if shed then
    let d := ((V3.mid c.a c.b).sub (V3.mid o.a o.b)).norm - ((c.b.sub c.a).norm / 2 + c.r) - ((o.b.sub o.a).norm / 2 + (o.r : Nat))
    (d * 100, c.speed)
  else
    let p := segPoints c.a c.b o.a o.b
    let u := p.2.sub p.1
    let len := u.norm
    let v := if len = 0 then c.speed else qmax 0 (qmax (c.va.dot u) (c.vb.dot u) / len) / 10
    ((len - c.r - (o.r : Nat)) * 100, v)

/-- Lower bound of the distance of two bounding spheres, um. -/
def sphereBound (c1 : V3) (r1 : Rat) (c2 : V3) (r2 : Rat) : Rat := ((c1.sub c2).norm - r1 - r2) * 100

/-- Centre and radius of an arm's bounding sphere (R318). -/
def armSphere (caps : List RCap) : V3 × Rat :=
  match caps with
  | [] => (V3.zero, 0)
  | c0 :: _ =>
    let pts := caps.flatMap fun c => [c.a, c.b]
    let ext (f : V3 → Rat) : Rat := ((pts.foldl (fun m p => qmin m (f p)) (f c0.a)) + (pts.foldl (fun m p => qmax m (f p)) (f c0.a))) / 2
    let ctr : V3 := ⟨ext (·.x), ext (·.y), ext (·.z)⟩
    (ctr, caps.foldl (fun m c => qmax m (qmax (c.a.sub ctr).norm (c.b.sub ctr).norm + c.r)) 0)

/-- One arm against one obstacle of sensor i (R318 to R323). -/
def armPair (arm g : Nat) (caps : List RCap) (vArm : Rat) (col i slot : Nat) (o : Obst) (s : State) : ArmRes :=
  let sNow : Rat := ((mapGet (fun _ => 0) s.sep.sNow g : Nat) : Rat) / 8388608
  let fixed : Rat := ((s.sens i 5 0 36 + s.sens i 6 0 36 + s.pairVal 0x0501 arm 84 : Nat) : Rat)
  let n (vr : Rat) : NeedIn :=
    { arm := arm, p := col, vArm := vArm, vr := vr, vo := ((s.vo o : Nat) : Rat), tr := s.tR i g, tl := s.tL g, sNow := sNow,
      fixed := fixed }
  let oc := V3.mid o.a o.b
  let orad := (o.b.sub o.a).norm / 2 + (o.r : Nat)
  let sp := armSphere caps
  let drop (vr lb : Rat) : Bool := match needAt (n vr) 1 s with
    | some v => decide (((v : Int) : Rat) ≤ lb)
    | none => false
  if drop vArm (sphereBound sp.1 sp.2 oc orad) then ArmRes.free
  else
    let left := caps.filter fun c => !drop c.speed (sphereBound (V3.mid c.a c.b) ((c.b.sub c.a).norm / 2 + c.r) oc orad)
    match left with
    | [] => ArmRes.free
    | c0 :: _ =>
      let ds := left.map fun c => (c.c, capsDistance s.sep.shed c o)
      let best := ds.foldl (fun m x => if x.2.1 < m.2.1 then x else m) (c0.c, capsDistance s.sep.shed c0 o)
      let vr := ds.foldl (fun m x => qmax m x.2.2) 0
      let d := qfloor best.2.1
      let l := if d ≤ 0 then 0 else pairLimit (n vr) d s
      { l := l, cause := if d ≤ 0 then 4 else if l < one23 then 1 else 0, obs := slot, caps := best.1, d := d,
        need := (needAt (n vr) ((l : Nat) / 8388608) s).getD (2 ^ 62), contacts := if d ≤ 0 then [slot] else [], table := 0 }

/-- The lower of two results; the first stays on a tie of equal causes, else the lower cause number.  Every pair in contact is
kept, and what lies beyond its table. -/
def ArmRes.least (a b : ArmRes) : ArmRes :=
  let r := if b.l < a.l ∨ (b.l = a.l ∧ b.cause ≠ 0 ∧ (a.cause = 0 ∨ b.cause < a.cause)) then b else a
  { r with contacts := a.contacts ++ b.contacts, table := max a.table b.table }

/-- One arm (R306, R319 to R324).  Beyond its table every limit is 0, and what remains to be found is contact. -/
def armResult (arm : Nat) (s : State) : ArmRes :=
  let g := s.getF F.TRJ_ARM_CTL_GROUP arm
  let caps := robotCaps arm s.sampPos s.sampSpd s
  let vArm := armSpeed caps
  let nv := s.pb 0x0503 arm 0 0 4
  let np := s.pb 0x0503 arm 0 4 3
  let sNow : Rat := ((mapGet (fun _ => 0) s.sep.sNow g : Nat) : Rat) / 8388608
  let fast := (rowFor nv (fun k => s.pairVal 0x0503 arm (1 + k)) (sNow * vArm)).isNone
  let col := rowFor np (fun p => s.pairVal 0x0503 arm (9 + p)) ((mapGet (fun _ => 0) s.sep.load arm : Nat) : Rat)
  if (s.armAxes arm).any s.sep.inval.contains then { ArmRes.free with l := 0, cause := 6 }
  else
    let heavy := col.isNone || !s.pairGood 0x0505 arm 0
    let pairs := s.enabledSensors.flatMap fun i => (s.obstacles i).map fun p => armPair arm g caps vArm (col.getD 0) i p.1 p.2 s
    if fast || heavy then
      (pairs.filter fun r => !r.contacts.isEmpty).foldl ArmRes.least { ArmRes.free with l := 0, cause := 5, table := b2n fast + 2 * b2n heavy }
    else pairs.foldl ArmRes.least ArmRes.free

/-! ### Computation, handover, factors (R313 to R323) -/

/-- A distance in um as a field of 0.1 mm, saturating (R340). -/
def dField (d : Int) : Int := clampI (-(2 ^ 31)) (2 ^ 31 - 1) (d / 100)

/-- Store an arm's result. -/
def putArm (arm : Nat) (r : ArmRes) (s : State) : State :=
  let s1 := s.setF F.SEP_A_L_L r.l arm
  let s2 := if r.cause = 1 ∨ r.cause = 4 then
      ((s1.setS F.SEP_A_D_D (dField r.d) arm).setF F.SEP_A_OBS_OBS r.obs arm).setF F.SEP_A_OBS_CAPS r.caps arm
    else s1
  let s3 := s2.each r.contacts fun slot t => (t.flag F.SEP_FLAG_CONTACT).post 0x0505 5 arm 0x050A slot
  let s4 := if r.table = 0 then s3 else (s3.flag F.SEP_FLAG_TABLE).post 0x0506 5 arm 0x050B r.table
  s4.flagIf (r.cause == 6) F.SEP_FLAG_INPUT

/-- A sensor in STOP holds a group at 0 (R329). -/
def State.dropout (s : State) (g : Nat) : Bool :=
  s.enabledSensors.any fun i => s.getF F.SEP_S_STAT_STATE i == 3 && bit (s.sens i 8 0 8) g

/-- The group cap as u1.23; a failed pair gives 0, the tightest value (R50, R323). -/
def State.groupCap (s : State) (g : Nat) : Nat :=
  if s.capGood g then s.getF F.SEP_G_CAP_CAP g * 256 else 0

/-- Store a group's limit (R323). -/
def putGroup (g : Nat) (rs : List (Nat × ArmRes)) (s : State) : State :=
  let cap := s.groupCap g
  let r0 : Nat × ArmRes := (0, if cap < one23 then { ArmRes.free with l := cap, cause := 2 } else ArmRes.free)
  let r1 : Nat × ArmRes :=
    if !s.getB F.SEP_CTL_CAPONLY && s.dropout g then (0, ArmRes.least r0.2 { ArmRes.free with l := 0, cause := 3 }) else r0
  let r := rs.foldl (fun b x => let m := ArmRes.least b.2 x.2; if m.l = b.2.l ∧ m.cause = b.2.cause then b else (x.1, m)) r1
  let s1 := ((s.setF F.SEP_G_L_L r.2.l g).setF F.SEP_G_STAT_CAUSE r.2.cause g).setF F.SEP_G_STAT_LATE 0 g
  let pair := decide (r.2.cause = 1 ∨ r.2.cause = 4)
  let lim : Option (Int × Int) := if pair then some (r.2.d, r.2.need) else none
  let s2 := s1.withSep fun x => { x with limit := mapSet (fun _ => none) x.limit g lim }
  let s2 := if r.2.cause = 5 ∨ r.2.cause = 6 then s2.setF F.SEP_G_STAT_ARM r.1 g else s2
  if !pair then s2
  else
    (((s2.setF F.SEP_G_STAT_ARM r.1 g).setF F.SEP_G_OBS_OBS r.2.obs g).setF F.SEP_G_OBS_CAPS r.2.caps g).setS F.SEP_G_D_D
      (dField r.2.d) g

/-- The computation of the separation cycle, of a length in engine cycles of at most C_SEP (R313, R316). -/
def sepCompute (cycles : Nat) (s : State) : State :=
  if s.sep.phase ≠ .sampled then s
  else
    let arms := if s.getB F.SEP_CTL_CAPONLY then [] else s.enabledArms
    let rs := arms.map fun a => (a, armResult a s)
    let s1 := s.each rs fun p t => putArm p.1 p.2 t
    let s2 := s1.each (List.range 8) fun g t => putGroup g (rs.filter fun p => s.getF F.TRJ_ARM_CTL_GROUP p.1 == g) t
    let len := min cycles (s.sepCycles s.sep.shed) / 8
    let s3 := (s2.setF F.SEP_RUNT_LAST len).setF F.SEP_RUNT_MAX (max len (s.getF F.SEP_RUNT_MAX))
    (s3.setF F.SEP_SCYC_V s.sep.j).withSep fun x => { x with phase := .computed }

/-- The handover is due not later than SEP_HO us after the snapshot (R314). -/
def State.handoverDue (s : State) : Nat := s.sep.t0 + s.getF F.SEP_HO_HO * 1000

/-- The computation has not finished by SEP_HO (R314). -/
def sepLate (s : State) : State :=
  if (s.sep.phase = .snapshot ∨ s.sep.phase = .sampled ∨ s.sep.phase = .computed) ∧ s.handoverDue ≤ s.ns then
    let s1 := (s.flag F.SEP_FLAG_LATE).each (List.range 8) fun g t => t.setF F.SEP_G_STAT_LATE 1 g
    raiseSignals (2 ^ 6) ((s1.post 0x0501 5 0 0x0507 s.sep.j).withSep fun x => { x with phase := .late })
  else s

/-- A verdict of one channel for a group is in, valid and ACCEPT. -/
def State.accepted (s : State) (ch g : Nat) : Bool := if ch = 0 then s.getB F.SEP_G_STAT_ACC_SP g else s.getB F.SEP_G_STAT_ACC_FELT g

/-- The factor of one group for the next separation cycle (R315); an inactive group carries 0 (R24; DEDUCED, log 53). -/
def factorIssue (g : Nat) (s : State) : State :=
  if s.inactive g then
    (s.withSep fun x => { x with facNext := mapSet (fun _ => (0, 2 ^ 24 - 1)) x.facNext g (0, 2 ^ 24 - 1) }).setMaskBit
      F.SEP_STAT_ZERO g true
  else
  let sp := s.accepted 0 g
  let fe := s.accepted 1 g
  let missing (ch : Nat) : Bool := (mapGet (fun _ => none) s.saf.verdicts (8 * ch + g)).isSome
  let ok := s.sep.phase == .handed && sp && fe
  let l := if ok then s.getF F.SEP_G_L_L g else 0
  let s1 := s.withSep fun x => { x with facNext := mapSet (fun _ => (0, 2 ^ 24 - 1)) x.facNext g (l, 2 ^ 24 - 1 - l) }
  let s2 := s1.setMaskBit F.SEP_STAT_ZERO g (decide (l = 0))
  let acc (ch : Nat) : Nat := if s.sep.phase = .handed ∧ s.accepted ch g then s.getF F.SEP_G_L_L g else 0
  let s2 := s2.withSaf (fun x =>
    { x with accNext := mapSet (fun _ => 0) (mapSet (fun _ => 0) x.accNext g (acc 0)) (8 + g) (acc 1) })
  if ok then s2
  else
    let s3 := s2.setF F.SEP_G_STAT_CAUSE 7 g
    if s.sep.phase ≠ .handed then s3
    else
      let s4 := (s3.flagIf (!sp) F.SEP_FLAG_VETO_SP).flagIf (!fe) F.SEP_FLAG_VETO_FELT
      s4.post 0x0502 5 g 0x0508 (b2n (!sp && !missing 0) + 2 * b2n (!fe && !missing 1) + 4 * b2n (missing 0 || missing 1)
        + s.sep.j % 2 ^ 56 * 2 ^ 8)

/-- TC of the last cell cycle of a separation cycle: the factors are issued (R315). -/
def factorsIssue (s : State) : State :=
  if s.getB F.SEP_CTL_EN ∧ s.sepLast s.tbs.k ∧ s.sep.phase ≠ .idle then
    (s.each (List.range 8) factorIssue).withSaf fun x => { x with verdicts := [] }
  else s

/-- T0 of the first cell cycle of a separation cycle: the issued factors take effect (R38). -/
def factorsTake (s : State) : State :=
  if s.getB F.SEP_CTL_EN ∧ s.sepFirst s.tbs.k then
    let s1 := if s.sep.phase = .idle then s else s.each (List.range 8) fun g t => t.modGrp g fun x => { x with facDue := true }
    (s1.withSep fun x => { x with fac := x.facNext, facNext := [] }).withSaf fun x => { x with accIn := x.accNext, accNext := [] }
  else s

end Sys2Proof.Machine
end

