-- ==== Sys2Proof/Machine/SafCmd.lean ====
section
/-! DEFINITION. The safety channels' commands and parameter set (R349 to R353, R393 to R395), and what they do at the separation engine's handover: arm speeds, zones and the two verdicts (R370, R372, R374 to R378). -/

namespace Sys2Proof.Machine

def ECsaf.PARAM : Nat := 0x0601
def ECsaf.CHK : Nat := 0x0602
def ECsaf.CHANNELS : Nat := 0x0603
def ECsaf.NOT_STO : Nat := 0x0604

/-! ### Safety tables (R393, R394) -/

/-- Words of a record of a safety table. -/
def safLen (table : Nat) : Nat := match table with
  | 0x0601 => 4
  | 0x0602 => 3
  | 0x0603 => 8
  | 0x0604 => 8
  | 0x0605 => 1
  | 0x0606 => 1
  | _ => 0

def safRecs (table : Nat) : Nat := match table with
  | 0x0601 => 1
  | 0x0602 => 8
  | 0x0603 => 128
  | 0x0604 => 16
  | 0x0605 => 16
  | 0x0606 => 8
  | _ => 0

/-- Bits of a safety record outside its fields. -/
def safReserved (table : Nat) (w : Nat → Nat) : Bool :=
  let top (i n : Nat) : Bool := decide (2 ^ n ≤ val36 w i)
  match table with
  | 0x0602 => top 0 17 || top 2 5
  | 0x0603 => top 0 6 || top 6 32 || bits (val36 w 7) 9 3 != 0
  | 0x0604 => top 0 25
  | 0x0605 => top 0 34
  | 0x0606 => top 0 23
  | _ => false

/-- A field of a safety record lies outside its range (R394). -/
def safRange (table r : Nat) (w : Nat → Nat) (s : State) : Bool :=
  let h := val36 w 0
  match table with
  | 0x0601 => decide (2000 < val36 w 3)
  | 0x0602 => bits h 1 16 == 0 || decide (16 ≤ bits (val36 w 2) 0 5 ∧ bits (val36 w 2) 0 5 < 30)
  | 0x0603 => bits h 2 2 == 3 || bits h 4 2 == 3 || decide (sval36 w 2 < sval36 w 1)
      || (s.remote r && (val36 w 6 == 0 || decide (bits (val36 w 7) 0 8 < 2)))
  | 0x0604 => decide (16 ≤ bits h 2 5 ∧ bits h 2 5 < 31) || bits h 23 2 == 3
      || (List.range 3).any fun i => decide (sval36 w (4 + i) ≤ sval36 w (1 + i))
  | 0x0605 =>
    let f := bits h 0 4
    let t := bits h 4 2
    decide (5 < f) || ((f == 1 || f == 2 || f == 4) && decide (1 < t)) || ((f == 3 || f == 5) && t != 2)
      || bits h 6 8 == 0 || bits h 14 8 == 0
  | 0x0606 =>
    let e := bits h 10 5
    bits h 0 2 == 3 || !(e == 31 || (decide (e < 16) && s.inFunc e == 5)) || bits h 15 8 == 0
  | _ => true

/-- The checks of one record of a safety table (R393). -/
def safRecCodes (table r : Nat) (w : Nat → Nat) (s : State) : List Nat :=
  let n := safLen table
  chk (!s.saEdit) EC.STATE
  ++ chk (safReserved table w) EC.RESERVED_SET
  ++ chk ((List.range n).any fun i => !pairOk 36 (w i) (w i / 2 ^ 36)) EC.PAIR_MISMATCH
  ++ chk ((List.range n).any (fun i => val36 w i != 0) && safRange table r w s) ECsaf.PARAM

/-- A safety record is in use (R393). -/
def State.recInUse (s : State) (table r : Nat) : Bool := match table with
  | 0x0601 => true
  | 0x0602 => !s.inactive r
  | 0x0603 => s.getB F.AX_CTL_EN r
  | 0x0604 => s.pb 0x0604 r 0 0 2 != 0
  | 0x0605 => s.pb 0x0605 r 0 0 4 != 0
  | 0x0606 => s.pb 0x0606 r 0 0 2 != 0
  | _ => false

/-! ### Check value (R350) -/

def tableBytes (table recs words : Nat) (s : State) : List Byte :=
  (List.range recs).flatMap fun r => (List.range words).flatMap fun i => leBytes (s.pairVal table r i) 5

def checkValue (s : State) : Nat :=
  crc32c 0xFFFFFFFF
    (tableBytes 0x0501 16 85 s ++ tableBytes 0x0502 256 8 s ++ tableBytes 0x0503 16 77 s ++ tableBytes 0x0504 16 10 s
      ++ (List.range 6).flatMap (fun t => tableBytes (0x0601 + t) (safRecs (0x0601 + t)) (safLen (0x0601 + t)) s)
      ++ leBytes (s.getF F.SEP_VH_VH) 5 ++ (List.range 8).flatMap (fun g => leBytes (s.getF F.SEP_G_CAP_CAP g) 5)
      ++ leBytes (s.getF F.SEP_CTL_CAPONLY) 5)

/-! ### Validation (R351) -/

/-- What both channels find wrong in the set; agree says that they find the same. -/
def paramCodes (agree : Bool) (s : State) : List Nat :=
  chk ((List.range 6).any fun t => (List.range (safRecs (0x0601 + t))).any fun r =>
    s.recInUse (0x0601 + t) r && (safReserved (0x0601 + t) (s.recOf (0x0601 + t) r) || safRange (0x0601 + t) r (s.recOf (0x0601 + t) r) s)) ECsaf.PARAM
  ++ chk ((List.range 128).any fun a => s.recInUse 0x0603 a && s.pb 0x0603 a 0 0 1 == 1 && s.axMod a != 0) ECsaf.PARAM
  ++ chk ((List.range 16).any fun i => s.inFunc i == 2 && s.inReact i == 3 &&
      (maskBits (s.inGroups i) 8).any fun g => s.pb 0x0602 g 0 0 1 == 0) ECsaf.PARAM
  ++ chk ((List.range 16).any fun i => s.inFunc i == 1 && decide (2 ≤ s.inReact i)) ECsaf.PARAM
  ++ chk ((List.range 8).any fun g => (s.sArms g).any fun a => (s.sArms g).any fun b =>
      s.pb 0x0503 a 0 16 16 != s.pb 0x0503 b 0 16 16) ECsep.STOP
  ++ chk ((List.range 16).any fun m => match mapGet (fun _ => none) s.saf.arms m with
      | some (_, nj) => kinNjBad nj (s.recOf 0x0501 m) ||
          (s.armCaps m).any fun c => let l := s.pb 0x0502 c 0 4 4; decide (nj ≤ l) && l != 15
      | none => false) ECsep.MODEL
  ++ chk (!agree) ECsaf.CHANNELS

/-- The arms as PARAM_CLOSE finds them (R351). -/
def snapArms (s : State) : List (Nat × Option (Nat × Nat)) :=
  s.enabledArms.map fun m => (m, some (s.getF F.TRJ_ARM_CTL_GROUP m, s.getF F.TRJ_ARM_CTL_NJ m))

/-- The end of a PARAM_CLOSE (R351, R355): pend is what START_TEST would make pending. -/
def paramCloseDone (agree : Bool) (pend : Nat) (s : State) : State :=
  match s.saf.closing with
  | none => s
  | some _ =>
    let s0 := s.withSaf fun x => { x with closing := none }
    let code := firstCode (paramCodes agree s)
    if code ≠ EC.OK then s0.completeHeld 0x60002 code 0 0
    else
      let v := checkValue s
      let s1 := ((s0.setF F.SAF_CHK_CHK v).setF F.SAF_CHK_C_CHK_C (2 ^ 32 - 1 - v)).setF F.SAF_STATE_CHK_VALID 1
      let s2 := if v = s.getF F.SAF_CHK_CONF_CHK then enterStartTest pend s1 else enterSafSt SSt.UNCONFIRMED s1
      s2.completeHeld 0x60002 EC.OK 0 0

/-! ### Commands (R395) -/

def safCmdCodes (cmd : Nat) (b : BlockArgs) (s : State) : List Nat :=
  let st := s.safSt
  chk (b.arg2 != 0 || b.ptr != 0 || b.len != 0) EC.BAD_FIELD
  ++ match cmd with
  | 0x0001 =>
    chk (b.arg0 != 0 || b.arg1 != 0) EC.BAD_FIELD
    ++ chk (st != SSt.UNCONFIRMED && st != SSt.START_TEST && st != SSt.OPERATE) EC.STATE
    ++ chk ((List.range 8).any fun g => s.gSt g != GS.STO) ECsaf.NOT_STO
  | 0x0002 =>
    chk (b.arg0 != 0 || b.arg1 != 0) EC.BAD_FIELD ++ chk (!s.saEdit) EC.STATE ++ chk s.saf.closing.isSome EC.BUSY
  | 0x0003 =>
    chk (decide (2 ^ 32 ≤ b.arg0) || decide (2 ^ 32 ≤ b.arg1)) EC.BAD_FIELD
    ++ chk (!pairOk 32 b.arg0 b.arg1) EC.PAIR_MISMATCH ++ chk (st != SSt.UNCONFIRMED) EC.STATE
    ++ chk (b.arg0 != s.getF F.SAF_CHK_CHK) ECsaf.CHK
  | 0x0004 =>
    chk (decide (256 ≤ b.arg0) || decide (256 ≤ b.arg1)) EC.BAD_FIELD ++ chk (!pairOk 8 b.arg0 b.arg1) EC.PAIR_MISMATCH
    ++ chk (st != SSt.OPERATE) EC.STATE
  | _ => [EC.BAD_FIELD]

def paramOpen (s : State) : State := enterSafSt SSt.EDIT (s.setF F.SAF_STATE_CHK_VALID 0)

def paramClose (s : State) : State :=
  s.withSaf fun x => { x with closing := some (s.frc + 100000000), arms := snapArms s }

def confirm (s : State) : State :=
  (s.setF F.SAF_STATE_CONF_PEND 1).withSaf fun x => { x with confDue := some (s.frc + 30000000000) }

def safCmdRun (cmd : Nat) (b : BlockArgs) (s : State) : State :=
  match cmd with
  | 0x0001 => paramOpen s
  | 0x0002 => paramClose s
  | 0x0003 => confirm s
  | 0x0004 => s.each (maskBits b.arg0 8) releaseHost
  | _ => s

/-! ### Arm speeds and zones (R370, R372) -/

/-- The capsules of an arm at the positions of the sample before this one. -/
def State.prevCaps (s : State) (arm : Nat) : List RCap := match s.sep.prevPos with
  | some l => robotCaps arm (mapGet (fun _ => 0) l) (fun _ => 0) s
  | none => robotCaps arm s.sampPos (fun _ => 0) s

/-- The capsules of an arm with the velocities that the measured speeds give. -/
def State.measCaps (s : State) (arm : Nat) : List RCap :=
  robotCaps arm s.sampPos (fun a => ((mapGet (fun _ => 0) s.sep.mspd a : Int) : Rat)) s

/-- Speed of an endpoint as Felt finds it: its displacement over the separation cycle divided by S, mm/s. -/
def feltSpeed (s : State) (p q : V3) : Rat := (p.sub q).norm / 10 * 1000000000 / ((s.sepNs : Nat) : Rat)

/-- The greatest endpoint speed of an arm in either channel, mm/s (R370). -/
def State.endSpeed (s : State) (arm : Nat) : Rat :=
  let m := (s.measCaps arm).zip (s.prevCaps arm)
  m.foldl (fun v p => qmax v (qmax p.1.speed (qmax (feltSpeed s p.1.a p.2.a) (feltSpeed s p.1.b p.2.b)))) 0

/-- The strongest SLS reaction of a group's axes with SLS_EN; STO where none has it (DESIGN CHOICE, log 31: the group
record has no reaction of its own). -/
def State.slsKind (s : State) (g : Nat) : Nat :=
  match ((s.sAxes g).filter fun a => s.pb 0x0603 a 0 1 1 == 1).map fun a => s.axReact a 4 with
  | [] => 0
  | k :: ks => ks.foldl min k

/-- Arm speeds of a group (R370). -/
def slsArmCheck (g : Nat) (s : State) : State :=
  let c := s.pairVal 0x0602 g 1
  let bad := s.slsOn g && c != 0 && (s.sArms g).any fun m => decide (((c : Nat) : Rat) < s.endSpeed m)
  let s1 := s.modSgrp g fun x => { x with slsArm := bad }
  if bad then demand F.SAF_G_CAUSE_SLS (s.slsKind g) g s1 else s1

/-- Centre of voxel (i, j, l) (R375). -/
def State.voxel (s : State) (i j l : Nat) : V3 :=
  let o (k : Nat) : Rat := ((s.pairS 0x0601 0 k : Int) : Rat)
  ⟨o 0 + 500 * i + 250, o 1 + 500 * j + 250, o 2 + 500 * l + 250⟩

/-- Some voxel of the map has a property. -/
def State.anyVoxel (s : State) (p : V3 → Bool) : Bool :=
  (List.range 160).any fun i => (List.range 160).any fun j => (List.range 60).any fun l => p (s.voxel i j l)

def State.zoneLo (s : State) (z : Nat) : V3 := ⟨(s.pairS 0x0604 z 1 : Int), (s.pairS 0x0604 z 2 : Int), (s.pairS 0x0604 z 3 : Int)⟩
def State.zoneHi (s : State) (z : Nat) : V3 := ⟨(s.pairS 0x0604 z 4 : Int), (s.pairS 0x0604 z 5 : Int), (s.pairS 0x0604 z 6 : Int)⟩

/-- A capsule leaves a box. -/
def capsLeaves (a b : V3) (r : Rat) (lo hi : V3) : Bool :=
  [a, b].any fun p => !inBox p ⟨lo.x + r, lo.y + r, lo.z + r⟩ ⟨hi.x - r, hi.y - r, hi.z - r⟩

/-- A capsule violates a zone for the safety processor or for Felt (R372). -/
def zoneHit (z : Nat) (c p : RCap) (s : State) : Bool :=
  let lo := s.zoneLo z
  let hi := s.zoneHi z
  let near (q : V3) : Bool := decide (pointSeg2 q c.a c.b ≤ (c.r + 433) * (c.r + 433))
  match s.pb 0x0604 z 0 0 2 with
  | 1 => decide (segBox2 c.a c.b lo hi ≤ c.r * c.r) || s.anyVoxel fun q => near q && inBox q lo hi
  | 2 => capsLeaves c.a c.b c.r lo hi || s.anyVoxel fun q => near q && !inBox q lo hi
  | 3 =>
    let lim : Rat := ((s.pairVal 0x0604 z 7 : Nat) : Rat)
    (inBox c.a lo hi && decide (lim < qmax (c.va.norm / 10) (feltSpeed s c.a p.a)))
      || (inBox c.b lo hi && decide (lim < qmax (c.vb.norm / 10) (feltSpeed s c.b p.b)))
  | _ => false

/-- One zone in a separation cycle (R372): the groups of its arms are stopped where a capsule violates it. -/
def zoneCheck (z : Nat) (s : State) : State :=
  let arms := (maskBits (s.pb 0x0604 z 0 7 16) 16).filter fun m => (mapGet (fun _ => none) s.saf.arms m).isSome
  let hit := s.pb 0x0604 z 0 0 2 != 0 && s.selected (s.pb 0x0604 z 0 2 5)
    && arms.any fun m => ((s.measCaps m).zip (s.prevCaps m)).any fun p => zoneHit z p.1 p.2 s
  if !hit then s
  else
    let gs := (List.range 8).filter fun g => arms.any fun m => (s.sArms g).contains m
    s.each gs fun g t => demand F.SAF_G_CAUSE_ZONE (s.pb 0x0604 z 0 23 2) g (t.modSgrp g fun x => { x with zone := true })

def zonesCheck (s : State) : State :=
  (s.each (List.range 8) fun g t => t.modSgrp g fun x => { x with zone := false }).each (List.range 16) zoneCheck

/-! ### Verdicts (R374 to R378) -/

/-- A sensor's state as the safety processor finds it, and its own count (R374). -/
def spState (i : Nat) (s : State) : Nat × Nat :=
  match mapGet (fun _ => none) s.sep.inUse i with
  | none => (3, 0)
  | some (f, excess) =>
    let late := decide (0 < excess) || bit f.flags 0
    let n := if late then satInc 256 (mapGet (fun _ => 0) s.saf.spLate i) else 0
    (if bit f.flags 1 || (late && decide (s.sens i 9 0 8 < n)) then 3 else if late then 2 else 1, n)

/-- One capsule of an arm of a group against one obstacle: its pair limit lies below L (R374). -/
def pairBelow (g arm l : Nat) (c : RCap) (vArm : Rat) (i : Nat) (o : Obst) (s : State) : Bool :=
  let col := (rowFor (s.pb 0x0503 arm 0 4 3) (fun p => s.pairVal 0x0503 arm (9 + p)) ((mapGet (fun _ => 0) s.sep.load arm : Nat) : Rat)).getD 3
  let d := capsDistance s.sep.shed c o
  let n : NeedIn :=
    { arm := arm, p := col, vArm := vArm, vr := d.2, vo := ((s.vo o : Nat) : Rat), tr := s.tR i g, tl := s.tL g,
      sNow := ((mapGet (fun _ => 0) s.sep.sNow g : Nat) : Rat) / 8388608,
      fixed := ((s.sens i 5 0 36 + s.sens i 6 0 36 + s.pairVal 0x0501 arm 84 : Nat) : Rat) }
  !needOk n (qfloor d.1) ((l : Nat) / 8388608) s

/-- Every (arm, capsule, sensor, obstacle) pair of a group, in the order of the round-robin test. -/
def State.allPairs (s : State) (g : Nat) : List (Nat × RCap × Rat × Nat × Obst) :=
  (s.sArms g).flatMap fun m =>
    let caps := robotCaps m s.sampPos s.sampSpd s
    caps.flatMap fun c => s.enabledSensors.flatMap fun i => (s.obstacles i).map fun o => (m, c, armSpeed caps, i, o.2)

/-- 64 pairs from the group's round-robin place on. -/
def State.robinPairs (s : State) (g : Nat) : List (Nat × RCap × Rat × Nat × Obst) :=
  let l := s.allPairs g
  let k := mapGet (fun _ => 0) s.saf.robin g % max 1 l.length
  ((l.drop k) ++ l.take k).take 64

/-- The safety processor's verdict (R374, R377, R378): with CAPONLY no distances are known, and it vetoes (R340). -/
def spAccept (g : Nat) (s : State) : Bool :=
  let l := s.getF F.SEP_G_L_L g
  let cap := s.groupCap g
  if l = 0 then true
  else if s.pb 0x0602 g 0 0 1 = 0 then decide (l ≤ cap)
  else
    let least := (s.sArms g).foldl (fun m a => min m (s.getF F.SEP_A_L_L a)) (min cap one23)
    let pairGood := match mapGet (fun _ => none) s.sep.limit g with
      | some (d, need) => decide (need ≤ d)
      | none => true
    let sensors := s.enabledSensors.all fun i => (spState i s).1 == s.getF F.SEP_S_STAT_STATE i
    !s.getB F.SEP_CTL_CAPONLY && pairGood && l == least && sensors && (s.robinPairs g).all fun p => !pairBelow g p.1 l p.2.1 p.2.2.1 p.2.2.2.1 p.2.2.2.2 s

/-- Radius of an obstacle in Felt's obstacle set, 0.1 mm (R375). -/
def feltObstR (g i : Nat) (o : Obst) (ts : Nat) (s : State) : Rat :=
  ((o.r + s.sens i 5 0 36 + s.sens i 6 0 36 : Nat) : Rat) + ((s.vo o : Nat) : Rat) * (s.tR i g + (ts : Nat)) / 100000
    - ((s.pairVal 0x0601 0 3 : Nat) : Rat) / 2

/-- Felt's verdict (R375 to R378); with CAPONLY it vetoes (R340). -/
def feltAccept (g : Nat) (s : State) : Bool :=
  let l := s.getF F.SEP_G_L_L g
  if l = 0 then true
  else if s.pb 0x0602 g 0 0 1 = 0 then decide (l ≤ s.groupCap g)
  else
    let lq : Rat := (l : Nat) / 8388608
    let sNow : Rat := ((mapGet (fun _ => 0) s.sep.sNow g : Nat) : Rat) / 8388608
    let sensors := s.enabledSensors.filter fun i => bit (s.sens i 8 0 8) g
    -- T_R is never below T_L, which stands where no sensor names the group (log 125)
    let tRmax := sensors.foldl (fun m i => qmax m (s.tR i g)) (s.tL g)
    let horizon := (sNow * s.tL g + lq * (tRmax - s.tL g)) / 1000000
    let half : Rat := ((s.pairVal 0x0601 0 3 : Nat) : Rat) / 2
    -- per arm: its row's SS and TS entries, where a row holds
    let rows := (s.sArms g).map fun m =>
      let v := armSpeed (robotCaps m s.sampPos s.sampSpd s)
      let k := rowFor (s.pb 0x0503 m 0 0 4) (fun k => s.pairVal 0x0503 m (1 + k)) (qmax lq sNow * v)
      let p := rowFor (s.pb 0x0503 m 0 4 3) (fun p => s.pairVal 0x0503 m (9 + p)) ((mapGet (fun _ => 0) s.sep.load m : Nat) : Rat)
      (m, match k, p with
        | some k, some p => some (s.pairVal 0x0503 m (13 + 2 * (4 * k + p)), s.pairVal 0x0503 m (14 + 2 * (4 * k + p)))
        | _, _ => none)
    let ts := rows.foldl (fun x r => max x (match r.2 with | some e => e.2 | none => 0)) 0
    let segs := rows.flatMap fun r => (List.range 5).flatMap fun q =>
      let f : Rat := (q : Nat) / 4
      let pos (a : Nat) : Int := s.sampPos a + qround (f * horizon * s.sampSpd a)
      (robotCaps r.1 pos s.sampSpd s).map fun c =>
        (c.a, c.b, c.r + (((match r.2 with | some e => e.1 | none => 0) + s.pairVal 0x0501 r.1 84 : Nat) : Rat) - half)
    let lo : V3 := ⟨(s.pairS 0x0601 0 0 : Int), (s.pairS 0x0601 0 1 : Int), (s.pairS 0x0601 0 2 : Int)⟩
    let hi : V3 := ⟨lo.x + 80000, lo.y + 80000, lo.z + 30000⟩
    let obst := sensors.flatMap fun i => (s.obstacles i).map fun o => (o.2.a, o.2.b, feltObstR g i o.2 ts s)
    let inSet (q : V3) (p : V3 × V3 × Rat) : Bool := decide (0 ≤ p.2.2) && decide (pointSeg2 q p.1 p.2.1 ≤ p.2.2 * p.2.2)
    !s.getB F.SEP_CTL_CAPONLY && rows.all (fun r => r.2.isSome) && !segs.any (fun p => capsLeaves p.1 p.2.1 p.2.2 lo hi)
      && !sensors.any (fun i => (spState i s).1 == 3) && !s.anyVoxel fun q => obst.any (inSet q) && segs.any (inSet q)

/-- A number as words of 36 bits, least significant first, each with its complement. -/
def handWords : Nat → Nat → List (Nat × Nat)
  | 0, _ => []
  | n + 1, v => (v % 2 ^ 36, 2 ^ 36 - 1 - v % 2 ^ 36) :: handWords n (v / 2 ^ 36)

/-- The bytes of a frame as it came (R308): CODE is the one that its sensor's CONN gives. -/
def sensFrameBytes (i : Nat) (f : Frame) (s : State) : List Byte :=
  let head := leBytes (s.sens i 0 8 16) 2 ++ leBytes f.caps.length 2 ++ leBytes f.seq 4 ++ leBytes f.tCap 9 ++ leBytes f.flags 1 ++ leBytes 0 6
  let c (z : Int) : List Byte := leBytes (toBits 32 z) 4
  let recs := f.caps.flatMap fun o => c o.ax ++ c o.ay ++ c o.az ++ c o.bx ++ c o.by_ ++ c o.bz ++ leBytes o.r 2 ++ leBytes o.v 2
    ++ leBytes o.cls 1 ++ leBytes 0 3
  head ++ leBytes (crc32c (s.sens i 7 0 32) (head ++ recs)) 4 ++ leBytes 0 4 ++ recs

/-- Bytes four to a word. -/
def byteWords (bytes : List Byte) : List (Nat × Nat) :=
  (List.range ((bytes.length + 3) / 4)).flatMap fun i => handWords 1 (leAt bytes (4 * i) 4)

/-- The records of the separation cycle that both channels are sent (R331).  The spec gives their contents and not their layout in
words (log 76). -/
def State.handRecords (s : State) : List HandRec :=
  let sample : HandRec := ⟨.sample, 0,
    s.sep.pos.flatMap (fun p => handWords 1 p.1 ++ handWords 2 (toBits 72 p.2)
      ++ handWords 1 (toBits 16 (mapGet (fun _ => 0) s.sep.frames p.1)) ++ handWords 2 (toBits 72 (qopen 27 (s.sampSpd p.1))))
    ++ (List.range 8).flatMap fun g => handWords 1 (mapGet (fun _ => 0) s.sep.sNow g)⟩
  let frames := s.enabledSensors.filterMap fun i => (mapGet (fun _ => none) s.sep.inUse i).map fun u =>
    let st := s.getF F.SEP_S_STAT_STATE i
    (⟨.frame, i, handWords 1 st ++ (u.1.caps.flatMap fun o => handWords 1 (if st = 2 then obstGrow (s.vo o) u.2 else 0))
      ++ byteWords (sensFrameBytes i u.1 s)⟩ : HandRec)
  let groups := (List.range 8).map fun g =>
    let lim := (mapGet (fun _ => none) s.sep.limit g).getD (0, 0)
    (⟨.group, g, handWords 1 (s.getF F.SEP_G_L_L g) ++ handWords 1 (s.getF F.SEP_G_STAT_CAUSE g) ++ handWords 1 (s.getF F.SEP_G_STAT_ARM g)
      ++ handWords 1 (s.getF F.SEP_G_OBS_CAPS g) ++ handWords 1 (s.getF F.SEP_G_OBS_OBS g) ++ handWords 2 (toBits 72 lim.1)
      ++ handWords 2 (toBits 72 lim.2)⟩ : HandRec)
  let arms := s.enabledArms.map fun a =>
    (⟨.arm, a, handWords 1 (s.getF F.SEP_A_L_L a) ++ handWords 1 (s.getF F.SEP_A_OBS_OBS a) ++ handWords 1 (s.getF F.SEP_A_D_D a)⟩ : HandRec)
  let l := sample :: frames ++ groups ++ arms
  l ++ [⟨.trailer, 0, handWords 2 s.sep.j ++ handWords 1 l.length⟩]

/-- A channel finds a word of the records with halves that do not agree: what turned over on its lane (R26, R47). -/
def handBad (recs : List HandRec) (flips : List PairFlip) : Bool :=
  let ws := recs.flatMap HandRec.words
  flips.any fun f => match ws[f.word]? with
    | some p => !pairOk 36 ((p.1 ^^^ f.value) % 2 ^ 36) (p.2 ^^^ f.compl)
    | none => false

/-- The handover: the records, signal 6, arm speeds and zones, the verdicts formed (R314, R331, R374, R375).  A channel that finds
a failed pair in what it reads votes for a stop (R50). -/
def sepHandover (sp felt : List PairFlip) (s00 : State) : State :=
  if s00.sep.phase = .computed ∧ s00.ns ≤ s00.handoverDue then
    let recs := s00.handRecords
    let bad (ch : Nat) : Bool := handBad recs (if ch = 0 then sp else felt)
    let s0 := paramPairs 0x0501 0x0504 1 (paramPairs 0x0501 0x0504 0 (s00.withSep fun x => { x with hand := recs }))
    let s := s0.each ([0, 1].filter bad) fun _ t => t.fault EC.PAIR_MISMATCH 0x06 5 0
    let vs := (List.range 8).flatMap fun g =>
      let p := fun (ok : Bool) => some (b2n ok, 1 - b2n ok)
      [(g, p (spAccept g s && !bad 0)), (8 + g, p (feltAccept g s && !bad 1))]
    let verd := vs.foldl (fun m v => mapSet (fun _ => none) m v.1 v.2) ([] : List (Nat × Option (Nat × Nat)))
    let s1 := (s.withSep fun x => { x with phase := .handed }).withSaf fun x =>
      { x with
        verdicts := verd,
        robin := (List.range 8).foldl (fun m g => mapSet (fun _ => 0) m g (mapGet (fun _ => 0) m g + 64)) x.robin,
        spLate := s.enabledSensors.foldl (fun m i => mapSet (fun _ => 0) m i (spState i s).2) x.spLate }
    let s2 := s1.each (List.range 8) fun g t => (t.setF F.SEP_G_STAT_ACC_SP 0 g).setF F.SEP_G_STAT_ACC_FELT 0 g
    raiseSignals (2 ^ 6) (zonesCheck (s2.each (List.range 8) slsArmCheck))
  else s00

/-- The frame exported after the handover (R333): one CLASS 2 capsule per enabled robot capsule. -/
def exportFrame (s : State) : List Byte :=
  let caps := s.enabledArms.flatMap fun m =>
    let g := s.getF F.TRJ_ARM_CTL_GROUP m
    let cs := robotCaps m s.sampPos s.sampSpd s
    let x : Rat := ((max (mapGet (fun _ => 0) s.sep.sNow g) (s.getF F.SEP_G_L_L g) : Nat) : Rat) / 8388608
    let v := (qceil (armSpeed cs * x)).toNat
    cs.map fun c => (c, s.pairVal 0x0501 m 84, v)
  let co (q : Rat) : List Byte := leBytes (toBits 32 (qopen 20 q)) 4
  let recs := caps.flatMap fun c => co c.1.a.x ++ co c.1.a.y ++ co c.1.a.z ++ co c.1.b.x ++ co c.1.b.y ++ co c.1.b.z
    ++ leBytes (min 65535 (qceil (c.1.r + (c.2.1 : Nat))).toNat) 2 ++ leBytes (min 65535 c.2.2) 2 ++ leBytes 2 4
  let head := leBytes (s.getF F.SEP_EXPORT_EXPORT_ID) 2 ++ leBytes caps.length 2 ++ leBytes s.sep.expSeq 4 ++ leBytes s.sep.tSamp 9
    ++ leBytes 0 7
  head ++ leBytes (crc32c (s.getF F.SEP_EXP_CONN_CONN) (head ++ recs)) 4 ++ leBytes 0 4 ++ recs

/-- The present edge observes TC of the last cell cycle of the separation cycle, or is a later one (R315, R334). -/
def State.verdictLate (s : State) : Bool := s.sepLast s.tbs.k && decide (s.tcAt ≤ s.now)

/-- A channel's verdict for a group arrives; bad says that its pair fails on the crossing (R315, R377).  From the edge that
observes TC on it is missing (R334). -/
def safetyVerdict (ch g : Nat) (bad : Bool) (s : State) : State :=
  let key := 8 * (ch % 2) + g
  match mapGet (fun _ => none) s.saf.verdicts key with
  | none => s
  | some (v, c) =>
    if s.verdictLate then s
    else
    let s1 := s.withSaf fun x => { x with verdicts := mapSet (fun _ => none) x.verdicts key none }
    if bad ∨ !pairOk 1 v c then s1.fault EC.PAIR_MISMATCH 0x05 5 g
    else
      let s1 := if v = 0 then s1.note 6 else s1
      if ch % 2 = 0 then
      ((s1.setF F.SEP_G_STAT_ACC_SP v g).setF F.SAF_G_STAT_ACC_SP v g).flagIf (v == 0) F.SAF_FLAG_VETO
      else ((s1.setF F.SEP_G_STAT_ACC_FELT v g).setF F.SAF_G_STAT_ACC_FELT v g).flagIf (v == 0) F.SAF_FLAG_VETO

/-! ### The safety events of the table -/

def dataTimeout (s : State) : State :=
  let old (ch : Nat) : Bool := match (s.chRec ch).at_ with
    | some t => decide (t + 2 * s.period < s.frc)
    | none => false
  if old 0 || old 1 then demandMask F.SAF_G_CAUSE_DATA 1 allGroups (s.note 5) else s

def ssTmaxExpiry (g : Nat) (s : State) : State :=
  if (s.gSt g = GS.SS1 ∨ s.gSt g = GS.SS2) ∧ (s.sgrp g).since + s.pb 0x0602 g 0 1 16 * 1000000 ≤ s.frc
  then demand F.SAF_G_CAUSE_TMAX 0 g s else s

/-- The comparison of one cell cycle (R347): differ is what the channels find beside their inputs' filtered states. -/
def crossCompare (differ : Bool) (ch : Nat) (s : State) : State :=
  if s.cycRun = false ∨ s.saf.cmpCyc = some s.tbs.k then s
  else
    let d := differ || s.levels 0 != s.levels 1
    let n := if d then s.saf.diffs + 1 else 0
    let s1 := s.withSaf fun x => { x with diffs := min n 4, cmpCyc := some s.tbs.k }
    if 4 ≤ n then safeFault 1 ch s1 else s1

/-- A channel recomputes its check value (R347, reason 7). -/
def paramRecheck (ch value : Nat) (s : State) : State :=
  if (s.safSt = SSt.START_TEST ∨ s.safSt = SSt.OPERATE) ∧ value ≠ s.getF F.SAF_CHK_CONF_CHK then safeFault 7 ch s else s

/-- A disagreement has lasted longer than DISC (R357). -/
def discTimeout (i : Nat) (s : State) : State :=
  match mapGet (fun _ => none) s.saf.disagree i with
  | some t =>
    if t + s.inCfg i 14 8 * 10000000 < s.frc ∧ !bit (s.getF F.SAF_IN_STAT_DISC) i ∧ s.inFunc i ≠ 0 then discLatch i s else s
  | none => s

/-- A test pulse is missing or on the wrong terminal (R358). -/
def testPulse (i : Nat) (good : Bool) (s : State) : State :=
  if s.inFunc i ≠ 0 ∧ s.inCfg i 33 1 = 1 ∧ !good ∧ !bit (s.getF F.SAF_IN_STAT_DISC) i then discLatch i s else s

/-- The release of a reset input in both channels (R359). -/
def resetRelease (pend i : Nat) (s : State) : State := inputChange pend 1 i 0 .high (inputChange pend 0 i 0 .high s)

def resetStuck (i : Nat) (s : State) : State :=
  match mapGet (fun _ => none) s.saf.press i with
  | some t =>
    if t + 5000000000 < s.frc then
      ((s.flag F.SAF_FLAG_RESET_STUCK).withSaf fun x => { x with press := mapSet (fun _ => none) x.press i none }).post 0x0608 6 i
        0x060B 0
    else s
  | none => s

/-- The test of one element of an output, by a test pulse or at a command that has switched it off (R347, R379): seenOff says
that its readback shows it off. -/
def outputTest (element : Nat) (seenOff : Bool) (s : State) : State :=
  if seenOff then s else safeFault 4 (element % 2) s

/-- The EDM time of an output is over and its feedback has not followed (R380). -/
def edmTimeout (o : Nat) (s : State) : State :=
  match mapGet (fun _ => none) s.saf.edm o with
  | some t =>
    if t ≤ s.frc ∧ bit (s.getF F.SAF_OUT_ON) o = s.edmActive o then
      let s1 := (s.setMaskBit F.SAF_OUT_EDM_F o true).withSaf fun x => { x with edm := mapSet (fun _ => none) x.edm o none }
      (outFollow o (s1.flag F.SAF_FLAG_EDM)).post 0x0605 6 o 0x0609 0
    else s
  | none => s

end Sys2Proof.Machine
end

