-- ==== Sys2Proof/Machine/Bf.lean ====
section
/-! DEFINITION. BF36 arithmetic: accumulators, stages and their stores (R168 to R175), and the sampled inputs a run reads (R219, R230). -/

namespace Sys2Proof.Machine

/-! ### Accumulators (R170 to R172) -/

/-- Saturate a sum to the s10.70 range; the flag says that it did. -/
def accSat (a : Int) : Int × Bool :=
  if 2 ^ 79 ≤ a then (2 ^ 79 - 1, true) else if a < -(2 ^ 79) then (-(2 ^ 79), true) else (a, false)

/-- Add a value p of exponent s to an accumulator (R171): every right shift rounds toward minus infinity. -/
def Acc.add (x : Acc) (p s : Int) : Acc × Bool :=
  match x.e with
  | none => let r := accSat p; ({ x with a := r.1, e := some s }, r.2)
  | some e =>
    let c := if s ≤ e then (x.a + p / 2 ^ (e - s).toNat, e) else (x.a / 2 ^ (s - e).toNat + p, s)
    let r := accSat c.1
    ({ x with a := r.1, e := some c.2 }, r.2)

/-- The value an accumulator stands for. -/
def Acc.val (x : Acc) : Rat := (x.a : Int) * pow2 (x.e.getD 0 - 70)

/-- The mantissa a value has at an exponent, before it is held to the element range (R173). -/
def mantissa (v : Rat) (e : Int) : Int := qround (v * pow2 (35 - e))

def elemFits (m : Int) : Bool := decide (-(2 ^ 35) ≤ m) && decide (m ≤ 2 ^ 35 - 1)
def elemSat (m : Int) : Int := clampI (-(2 ^ 35)) (2 ^ 35 - 1) m

/-- Store modes (R173): the exponent that a stage of exponent e takes for a list of values; grow is GROW_MAX.  An exponent is
an s8.0 number (R9), so GROW goes no higher than 127. -/
def storeExp (mode grow : Nat) (e : Int) (vs : List Rat) : Int :=
  let fits (x : Int) : Bool := vs.all fun v => elemFits (mantissa v x)
  if mode = 1 then
    ((((List.range (grow + 1)).map fun i => e + (i : Nat)).filter fun x => decide (x ≤ 127)).find? fits).getD (min (e + grow) 127)
  else if mode = 2 then
    if vs.all (fun v => v = 0) then e
    else (((List.range 256).map fun i => -128 + ((i : Nat) : Int)).find? fits).getD 127
  else e

/-- A store of a list of values: exponent, mantissas, whether an element saturated, EXP_OVF (R173). -/
def storeVals (mode grow : Nat) (e : Int) (vs : List Rat) : Int × List Int × Bool × Bool :=
  let x := storeExp mode grow e vs
  let ms := vs.map fun v => mantissa v x
  let sat := ms.any fun m => !elemFits m
  (x, ms.map elemSat, sat, sat && mode == 2 && x == 127)

/-! ### Elements and stage headers in SRAM (R9, R168) -/

/-- Element n of the words from word w on. -/
def State.elem (s : State) (w n : Nat) : Int := sx 36 (bits (s.readWord (w + n / 2)).toNat (36 * (n % 2)) 36)

/-- Elements 0 to n - 1. -/
def State.elems (s : State) (w n : Nat) : List Int := (List.range n).map (s.elem w)

/-- Pack elements into words, an odd count with an upper half of 0 (R168). -/
def packElems : List Int → List W72
  | [] => []
  | [a] => [BitVec.ofNat 72 (toBits 36 a)]
  | a :: b :: l => BitVec.ofNat 72 (toBits 36 a + toBits 36 b * 2 ^ 36) :: packElems l

def hdrExp (h : Nat) : Int := sx 8 h
def hdrMode (h : Nat) : Nat := bits h 8 3
def hdrLen (h : Nat) : Nat := bits h 12 12

/-- A stage header that R169 rejects; len 0: any length. -/
def hdrBad (h len : Nat) : Bool :=
  decide (3 ≤ hdrMode h) || hdrLen h == 0 || (len != 0 && hdrLen h != len) || decide (2 ^ 24 ≤ h)

/-- A stage header. -/
def hdrOf (exp : Int) (mode len : Nat) (sat : Bool) : W72 :=
  BitVec.ofNat 72 (toBits 8 exp + mode * 2 ^ 8 + b2n sat * 2 ^ 11 + len * 2 ^ 12)

/-- Any of n words from w on is poisoned (R45). -/
def State.anyPoison (s : State) (w n : Nat) : Bool := s.poison.any fun p => decide (w ≤ p) && decide (p < w + n)

/-! ### Sampled inputs (R219, R230) -/

/-- A feedback channel's latched value, none where it is invalid. -/
def State.fbkIn (s : State) (c : Nat) (f : Fld) : Option Int :=
  if s.getB F.FBK_CTL_EN c && s.getB F.FBK_STAT_VALID c then some (s.getS f c) else none

def State.slot (s : State) (n : Nat) : SlotVals := mapGet (fun _ => SlotVals.reset) s.twl.slots n

/-- A law and its records. -/
def State.law (s : State) (n : Nat) : Law := mapGet (fun _ => Law.reset) s.cen.laws n
def State.withCen (s : State) (f : Cen → Cen) : State := { s with cen := f s.cen }
def State.modLaw (s : State) (n : Nat) (f : Law → Law) : State :=
  s.withCen fun c => { c with laws := mapSet (fun _ => Law.reset) c.laws n (f (mapGet (fun _ => Law.reset) c.laws n)) }

def State.lawEn (s : State) (n : Nat) : Bool := s.getB F.CEN_LAW_CTL_EN n

/-- EU of a law's parameter record: the exponent, and whether its pair is good (R208); that of a failed pair is the tightest
there is (R50, R191; DEDUCED, log 75). -/
def euOf (w2 : Nat) : Int × Bool := if pairOk 8 (bits w2 0 8) (bits w2 8 8) then (sx 8 w2, true) else (-128, false)

/-- The output of a law in force: mantissas, exponent, and whether the law runs (R230). -/
def State.lawOut (s : State) (n : Nat) : List Int × Int × Bool :=
  match (s.law n).force with
  | some o => (o.u, o.eu, (s.law n).cfg.isSome)
  | none => ([], (euOf (s.tw 0x0301 n 2)).1, (s.law n).cfg.isSome)

/-- The inputs of the present cycle. -/
def State.inputs (s : State) : Inputs :=
  { fpos := (List.range 32).map fun c => (c, s.fbkIn c F.FBK_POS_V),
    fspd := (List.range 32).map fun c => (c, s.fbkIn c F.FBK_SPEED_V),
    adc := s.adc.store,
    twl := s.twl.slots,
    apos := (List.range 128).map fun a => (a, if s.posInvalid a then none else some (s.measPos a)),
    app := (List.range 256).map fun n => (n, s.lawOut n),
    sp := (List.range 128).map fun a => (a, s.getS F.AX_SP_V a),
    ssp := (List.range 128).map fun a => (a, s.getS F.AX_SPD_V a) }

/-- A field of a slot: value and exponent (R506). -/
def slotField (v : SlotVals) (field : Nat) : Int × Int :=
  match field with
  | 0 => (v.ia, 70)
  | 1 => (v.ib, 70)
  | 2 => (v.ic, 70)
  | 3 => (v.vdc, 70)
  | 4 => (v.pos * 2 ^ 24, 46)
  | 5 => (v.spd * 2 ^ 24, 46)
  | 6 => (v.status, 70)
  | 7 => (v.tsofs, 70)
  | 8 => (v.temp, 70)
  | _ => (v.latch * 2 ^ 24, 46)

/-- What LDI loads: value, exponent, whether it is valid (R230). -/
def Inputs.get (x : Inputs) (src inst field : Nat) : Int × Int × Bool :=
  let o (v : Option Int) (e : Int) : Int × Int × Bool := (v.getD 0, e, v.isSome)
  match src with
  | 1 => o (mapGet (fun _ => none) x.fpos inst) 46
  | 2 => o (mapGet (fun _ => none) x.fspd inst) 46
  | 3 => o (mapGet (fun _ => none) x.adc inst) 70
  | 4 =>
    let v := mapGet (fun _ => SlotVals.reset) x.twl inst
    let f := slotField v field
    (if v.valid then f.1 else 0, f.2, v.valid)
  | 5 => o (mapGet (fun _ => none) x.apos inst) 46
  | 8 => let u := mapGet (fun _ => ([], 0, false)) x.app inst
    (if u.2.2 then u.1.getD field 0 * 2 ^ 35 else 0, u.2.1, u.2.2)
  | 9 => (mapGet (fun _ => 0) x.sp inst, 46, true)
  | _ => (mapGet (fun _ => 0) x.ssp inst, 46, true)

end Sys2Proof.Machine
end

