-- ==== Sys2Proof/Machine/Walno.lean ====
section
/-! DEFINITION. The MAC datapath's instruction set: instruction words (R226, R227), what each instruction does to a context (R216 to R239), programs and their verification (R240 to R244). -/

namespace Sys2Proof.Machine

/-! ### Instruction words (R226, R227) -/

/-- An instruction of the datapath with its fields. -/
inductive Walno where
  | nop | end_
  | br (target : Nat)
  | brc (acc cond target : Nat)
  | loop (count len : Nat)
  | rep (count : Nat)
  | mul (op acc xg xpm sg spm sb : Nat)
  | clr (acc : Nat)
  | mov (acc src : Nat)
  | adda (acc src : Nat)
  | suba (acc src : Nat)
  | neg (acc : Nat)
  | clmp (acc lo hi : Nat)
  | lde (acc g pm lane : Nat)
  | ldq (acc g pm lane f : Nat)
  | ldi (acc src inst field : Nat)
  | sta (acc g pm lane : Nat)
  | stq (acc g pm lane f : Nat)
  | agset (g base len unit : Nat)
  | agstg (g hdr ls step : Nat)
  | agmod (g step ls exp : Nat)
  | agptr (g ptr : Nat)
  deriving DecidableEq, Repr

/-- Opcode, accumulator and bits [63:0] of a word. -/
def wword (opc acc low : Nat) : Nat := opc * 2 ^ 66 + acc * 2 ^ 64 + low

/-- The word of an instruction; op of a multiply is 0 MAC, 1 MSU, 2 MUL, 3 MULN. -/
def Walno.enc : Walno → Nat
  | .nop => wword 0x00 0 0
  | .end_ => wword 0x01 0 0
  | .br t => wword 0x02 0 (t * 2 ^ 42)
  | .brc a c t => wword 0x03 a (t * 2 ^ 42 + c * 2 ^ 38)
  | .loop c l => wword 0x04 0 ((c - 1) * 2 ^ 52 + (l - 1) * 2 ^ 48)
  | .rep c => wword 0x05 0 ((c - 1) * 2 ^ 52)
  | .mul o a xg xp sg sp sb => wword (0x08 + o) a (xg * 2 ^ 60 + xp * 2 ^ 58 + sg * 2 ^ 54 + sp * 2 ^ 52 + sb * 2 ^ 51)
  | .clr a => wword 0x10 a 0
  | .mov a r => wword 0x11 a (r * 2 ^ 62)
  | .adda a r => wword 0x12 a (r * 2 ^ 62)
  | .suba a r => wword 0x13 a (r * 2 ^ 62)
  | .neg a => wword 0x14 a 0
  | .clmp a l h => wword 0x15 a (l * 2 ^ 60 + h * 2 ^ 56)
  | .lde a g p l => wword 0x18 a (g * 2 ^ 60 + p * 2 ^ 58 + l * 2 ^ 57)
  | .ldq a g p l f => wword 0x19 a (g * 2 ^ 60 + p * 2 ^ 58 + l * 2 ^ 57 + f * 2 ^ 50)
  | .ldi a r i f => wword 0x1A a (r * 2 ^ 60 + i * 2 ^ 48 + f * 2 ^ 40)
  | .sta a g p l => wword 0x1C a (g * 2 ^ 60 + p * 2 ^ 58 + l * 2 ^ 57)
  | .stq a g p l f => wword 0x1D a (g * 2 ^ 60 + p * 2 ^ 58 + l * 2 ^ 57 + f * 2 ^ 50)
  | .agset g b l u => wword 0x20 0 (g * 2 ^ 60 + b * 2 ^ 37 + l * 2 ^ 23 + u * 2 ^ 22)
  | .agstg g h l st => wword 0x21 0 (g * 2 ^ 60 + h * 2 ^ 38 + l * 2 ^ 24 + st * 2 ^ 10)
  | .agmod g st l e => wword 0x22 0 (g * 2 ^ 60 + st * 2 ^ 46 + l * 2 ^ 32 + e * 2 ^ 24)
  | .agptr g p => wword 0x23 0 (g * 2 ^ 60 + p * 2 ^ 46)

/-- The instruction of a word; none: the opcode is undefined.  Reserved bits are judged by encoding it again. -/
def walnoDec (w : Nat) : Option Walno :=
  let a := bits w 64 2
  let g := bits w 60 4
  match bits w 66 6 with
  | 0x00 => some .nop
  | 0x01 => some .end_
  | 0x02 => some (.br (bits w 42 22))
  | 0x03 => some (.brc a (bits w 38 4) (bits w 42 22))
  | 0x04 => some (.loop (bits w 52 12 + 1) (bits w 48 4 + 1))
  | 0x05 => some (.rep (bits w 52 12 + 1))
  | 0x08 => some (.mul 0 a g (bits w 58 2) (bits w 54 4) (bits w 52 2) (bits w 51 1))
  | 0x09 => some (.mul 1 a g (bits w 58 2) (bits w 54 4) (bits w 52 2) (bits w 51 1))
  | 0x0A => some (.mul 2 a g (bits w 58 2) (bits w 54 4) (bits w 52 2) (bits w 51 1))
  | 0x0B => some (.mul 3 a g (bits w 58 2) (bits w 54 4) (bits w 52 2) (bits w 51 1))
  | 0x10 => some (.clr a)
  | 0x11 => some (.mov a (bits w 62 2))
  | 0x12 => some (.adda a (bits w 62 2))
  | 0x13 => some (.suba a (bits w 62 2))
  | 0x14 => some (.neg a)
  | 0x15 => some (.clmp a g (bits w 56 4))
  | 0x18 => some (.lde a g (bits w 58 2) (bits w 57 1))
  | 0x19 => some (.ldq a g (bits w 58 2) (bits w 57 1) (bits w 50 7))
  | 0x1A => some (.ldi a g (bits w 48 12) (bits w 40 8))
  | 0x1C => some (.sta a g (bits w 58 2) (bits w 57 1))
  | 0x1D => some (.stq a g (bits w 58 2) (bits w 57 1) (bits w 50 7))
  | 0x20 => some (.agset g (bits w 37 23) (bits w 23 14) (bits w 22 1))
  | 0x21 => some (.agstg g (bits w 38 22) (bits w 24 14) (bits w 10 14))
  | 0x22 => some (.agmod g (bits w 46 14) (bits w 32 14) (bits w 24 8))
  | 0x23 => some (.agptr g (bits w 46 14))
  | _ => none

/-! ### Protected SRAM (R134, R211, R238, R243) -/

/-- Two word ranges overlap. -/
def overlaps (b1 n1 b2 n2 : Nat) : Bool := decide (b1 < b2 + n2) && decide (b2 < b1 + n1) && decide (0 < n1) && decide (0 < n2)

/-- The dimensions of a law as its register has them. -/
structure Dim where
  n : Nat
  m : Nat
  q : Nat
  p : Nat
  sr : Nat

def dimOf (w : Nat) : Dim := { n := bits w 0 4, m := bits w 4 3, q := bits w 8 3, p := bits w 12 3, sr := bits w 16 3 }

def Dim.cols (d : Dim) : Nat := d.n + d.q + d.m + d.p + d.sr
def Dim.phi (d : Dim) : Nat := (d.n + d.q) * d.cols
def Dim.gam (d : Dim) : Nat := d.m * (d.n + d.q + d.sr)
def Dim.psi (d : Dim) : Nat := d.n * d.m
/-- NODE_WORDS (R194). -/
def Dim.nodeWords (d : Dim) : Nat := 3 + ceilDiv d.phi 2 + ceilDiv d.gam 2 + ceilDiv d.psi 2

/-- Nodes of a law: NB1 x NB2 (R194). -/
def nodeCount (vars brk0 : Nat) : Nat :=
  if vars = 0 then 1 else if vars = 1 then bits brk0 0 4 else bits brk0 0 4 * bits brk0 4 4

def State.lawDim (s : State) (n : Nat) : Dim := dimOf (s.rd (R.CEN_LAW_DIM + 0x100 * n)).toNat
def State.nodeBase (s : State) (n : Nat) : Nat := s.tb 0x0301 n 0 0 22
def State.stateBase (s : State) (n : Nat) : Nat := s.tb 0x0301 n 0 24 22
def State.nodeLen (s : State) (n : Nat) : Nat := nodeCount (s.getF F.CEN_LAW_GS_VARS n) (s.tw 0x0302 n 0) * (s.lawDim n).nodeWords

/-- A range touches the node array or the state records of a law. -/
def State.touchesLaw (s : State) (n b len : Nat) : Bool :=
  overlaps b len (s.nodeBase n) (s.nodeLen n) || overlaps b len (s.stateBase n) 32

def State.touchesLaws (s : State) (b len : Nat) : Bool := (List.range 256).any fun n => s.lawEn n && s.touchesLaw n b len

/-- A range touches a registered program. -/
def State.touchesProg (s : State) (b len : Nat) : Bool :=
  (List.range 32).any fun i => s.getB F.CEN_PROG_STAT_VALID i && overlaps b len (s.getF F.CEN_PROG_BASE_BASE i) (s.getF F.CEN_PROG_LEN_LEN i)

/-- A range touches what the commit lock protects: programs, and node arrays and state records of configured laws (R120, R134,
R211). -/
def State.touchesLocked (s : State) (b len : Nat) : Bool :=
  s.locked && (s.touchesProg b len || (List.range 256).any fun n => s.getF F.CEN_LAW_CTL_KIND n != 0 && s.touchesLaw n b len)

/-- The checks of a WORD_WRITE that are the control engine's (R134, R211, R243). -/
def wordCodes (b len : Nat) (s : State) : List Nat :=
  chk (s.touchesLocked b len) EC.LOCKED ++ chk (s.touchesLaws b len) 0x0307 ++ chk (s.touchesProg b len) 0x0311

/-- A context runs the signed law library (R181). -/
def State.isLib (s : State) (n : Nat) : Bool :=
  s.getF F.SCH_CTX_ENTRY_ENTRY n == s.getF F.CEN_LIB_ENTRY_ENTRY && s.getB F.CEN_PROG_STAT_VALID 0

/-- A store of a context into a word raises PROT (R238). -/
def State.protStore (s : State) (ctx w : Nat) : Bool :=
  s.touchesProg w 1 || (!s.isLib ctx && (s.touchesLaws w 1 || s.touchesLocked w 1))

/-! ### Context state -/

def State.withDp (s : State) (f : Dp → Dp) : State := { s with dp := f s.dp }
def State.ctx (s : State) (n : Nat) : Ctx := mapGet (fun _ => Ctx.reset) s.dp.ctxs n
def State.setCtx (s : State) (n : Nat) (c : Ctx) : State :=
  s.withDp fun d => { d with ctxs := mapSet (fun _ => Ctx.reset) d.ctxs n c }

def Ctx.gen (c : Ctx) (g : Nat) : Gen := mapGet (fun _ => Gen.reset) c.gens g
def Ctx.setGen (c : Ctx) (g : Nat) (v : Gen) : Ctx := { c with gens := mapSet (fun _ => Gen.reset) c.gens g v }
def Ctx.acc (c : Ctx) (r i : Nat) : Acc := mapGet (fun _ => Acc.reset) c.accs (4 * r + i)
def Ctx.setAcc (c : Ctx) (r i : Nat) (v : Acc) : Ctx := { c with accs := mapSet (fun _ => Acc.reset) c.accs (4 * r + i) v }

/-- Lanes of a context's group. -/
def State.laneCount (s : State) (n : Nat) : Nat := 2 ^ s.getF F.SCH_CTX_CTL_LANES n

/-- Set a datapath flag of a context and of the whole (R246): bit 0 FOLD, 1 LOOP_NC, 2 INV, 3 POISON. -/
def dpFlag (n b : Nat) (s : State) : State :=
  let o := R.CEN_CTX_DPF + 4 * n
  let s1 := s.wr o (BitVec.ofNat 32 (mor (s.rd o).toNat (2 ^ b)))
  s1.wr R.CEN_DP_FLAG (BitVec.ofNat 32 (mor (s1.rd R.CEN_DP_FLAG).toNat (2 ^ b)))

/-! ### Cache slices (R236, R237) -/

def State.sliceHeld (s : State) (i : Nat) : Bool := bit (s.rd R.CEN_CACHE_STAT).toNat (8 * i + 7)
def State.sliceCtx (s : State) (i : Nat) : Nat := bits (s.rd R.CEN_CACHE_STAT).toNat (8 * i) 7
def State.setSlice (s : State) (i : Nat) (v : Nat) : State :=
  s.wr R.CEN_CACHE_STAT (BitVec.ofNat 32 (putBits (s.rd R.CEN_CACHE_STAT).toNat (8 * i) 8 v))
def State.sliceOf (s : State) (n : Nat) : Option Nat := (List.range 4).find? fun i => s.sliceHeld i && s.sliceCtx i == n

/-- A context gives up its slice: its loop ends, it is preempted or it completes. -/
def sliceFree (n : Nat) (s : State) : State := match s.sliceOf n with
  | some i => s.setSlice i 0
  | none => s

/-- The slice a level-0 context takes: of the numerically highest level among 1 to 15, the highest index on a tie. -/
def State.sliceVictim (s : State) : Option Nat :=
  (List.range 4).foldl (fun b i =>
    let k (j : Nat) : Nat := s.getF F.SCH_CTX_STAT_CUR_LEVEL (s.sliceCtx j) * 128 + s.sliceCtx j
    if s.getF F.SCH_CTX_STAT_CUR_LEVEL (s.sliceCtx i) = 0 then b
    else match b with
      | none => some i
      | some j => if k j < k i then some i else b) none

/-- A context asks for a slice.  Where every slice is held, a level-0 context takes one from a lower level; where all holders
are of level 0, it runs without one and sets LOOP_NC, whatever its level (R237). -/
def sliceAsk (n : Nat) (s : State) : State :=
  if (s.sliceOf n).isSome then s
  else match (List.range 4).find? fun i => !s.sliceHeld i with
    | some i => s.setSlice i (0x80 + n)
    | none => match s.sliceVictim with
      | some i => if s.getF F.SCH_CTX_STAT_CUR_LEVEL n ≠ 0 then s else (dpFlag (s.sliceCtx i) 1 s).setSlice i (0x80 + n)
      | none => dpFlag n 1 s

/-! ### Running a context -/

/-- The datapath state a context starts with (R218), on a dispatch that is no resumption. -/
def dpStart (n : Nat) (s : State) : State := s.setCtx n { Ctx.reset with pc := s.getF F.SCH_CTX_ENTRY_ENTRY n }

/-- A resumed context asks for a slice at its next return to the head (R237). -/
def dpPreempt (n : Nat) (s : State) : State :=
  let c := s.ctx n
  let l := c.loop.map fun x => { x with again := true }
  (sliceFree n s).setCtx n { c with loop := l }

/-- At an observed T0 the runs whose first instruction has issued keep the inputs of their cycle (R219). -/
def dpKeepInputs (s : State) : State :=
  s.each (List.range 128) fun n t =>
    if (t.lanesOf n ≠ 0 ∨ t.sch.saved.contains n) ∧ (t.ctx n).begun ∧ (t.ctx n).snap.isNone then
      t.setCtx n { t.ctx n with snap := some t.inputs }
    else t

/-- An exception ends the run (R238). -/
def exception (n number : Nat) (s : State) : State :=
  let s1 := ((s.setF F.CEN_EXC_LAST_CTX n).setF F.CEN_EXC_LAST_NUM number).setF F.CEN_EXC_PC_PC (s.ctx n).pc
  haltCtx n number (sliceFree n (s1.flag F.CEN_DP_FLAG_EXC))

/-- Move past an instruction: repeat, loop, next word (R233, R235). -/
def advance (n : Nat) (s : State) : State :=
  let c := s.ctx n
  if 1 < c.rep then s.setCtx n { c with rep := c.rep - 1 }
  else
    let c1 := { c with rep := 0, pc := c.pc + 1 }
    match c.loop with
    | none => s.setCtx n c1
    | some l =>
      if c1.pc ≠ l.start + l.len then s.setCtx n c1
      else if l.left ≤ 1 then (sliceFree n s).setCtx n { c1 with loop := none }
      else
        let body := if (s.sliceOf n).isSome ∧ l.again = false then l.body else []
        let s1 := s.setCtx n { c1 with pc := l.start, loop := some { l with left := l.left - 1, again := false, body := body } }
        if l.again then sliceAsk n s1 else s1

/-- Fold PTR where it lies at or above LEN (R222). -/
def fold (n g : Nat) (s : State) : State :=
  let c := s.ctx n
  let x := c.gen g
  if x.len ≤ x.ptr then dpFlag n 0 (s.setCtx n (c.setGen g { x with ptr := x.ptr % max 1 x.len })) else s

/-- Address of lane r through a generator (R221). -/
def Gen.addr (x : Gen) (r : Nat) : Nat := x.base + (x.ptr + r * x.ls) % max 1 x.len

/-- Post-modify a generator (R221). -/
def postMod (n g pm : Nat) (s : State) : State :=
  let c := s.ctx n
  let x := c.gen g
  let d : Int := if pm = 1 then 1 else if pm = 2 then x.step else if pm = 3 then -1 else 0
  s.setCtx n (c.setGen g { x with ptr := ((x.ptr + d) % ((max 1 x.len : Nat) : Int)).toNat })

/-- Element at an element address, and whether its word is poisoned. -/
def State.elemAt (s : State) (ea : Nat) : Int × Bool :=
  (sx 36 (bits (s.readWord (ea / 2)).toNat (36 * (ea % 2)) 36), s.poison.contains (ea / 2))

/-- Count the sums that saturate (R172); with OVF_ACT = 1 the run ends. -/
def accOvf (n hits : Nat) (s : State) : State × Bool :=
  if hits = 0 then (s, false)
  else
    let s1 := s.addF F.CEN_OVF_CNT_ACC hits
    if s.getB F.CEN_CTL_OVF_ACT then (exception n 4 s1, true) else (s1, false)

/-- Replace accumulator i of every lane by f of the lane; the flag of f says that it saturated.  A poisoned operand that reaches
it sets POISON (R239). -/
def mapAcc (n i : Nat) (f : Nat → Acc → Acc × Bool) (s : State) : State :=
  let c := s.ctx n
  let rs := (List.range (s.laneCount n)).map fun r => (r, f r (c.acc r i))
  let c1 := rs.foldl (fun x p => x.setAcc p.1 i p.2.1) c
  let s1 := if rs.any (fun p => p.2.1.bad) then dpFlag n 3 (s.setCtx n c1) else s.setCtx n c1
  let e := accOvf n (rs.filter fun p => p.2.2).length s1
  if e.2 then e.1 else advance n e.1

/-- A multiply (R221 to R224, R170 to R172): op 0 MAC, 1 MSU, 2 MUL, 3 MULN. -/
def walnoMul (n op acc xg xpm sg spm : Nat) (s0 : State) : State :=
  let s := fold n sg (fold n xg s0)
  let c := s.ctx n
  let x := c.gen xg
  let y := c.gen sg
  if x.unit = 1 ∨ y.unit = 1 then exception n 8 s
  else
    let bx := s.elemAt (x.addr 0)
    let s1 := postMod n xg xpm s
    let s2 := if sg = xg then s1 else postMod n sg spm s1
    mapAcc n acc (fun r a =>
      let by_ := s.elemAt (y.addr r)
      let p := bx.1 * by_.1
      let a0 := if op < 2 then a else Acc.reset
      let q := a0.add (if op % 2 = 0 then p else -p) (x.exp + y.exp)
      ({ q.1 with bad := a0.bad || bx.2 || by_.2 }, q.2)) s2

/-- Add the accumulator src to acc, or its negative (R171). -/
def walnoAdd (n acc src : Nat) (sub : Bool) (s : State) : State :=
  let c := s.ctx n
  mapAcc n acc (fun r a =>
    let b := c.acc r src
    let q := match b.e with
      | some e => a.add (if sub then -b.a else b.a) e
      | none => (a, false)
    ({ q.1 with bad := a.bad || b.bad }, q.2)) s

/-- CLMP (R226). -/
def walnoClmp (n acc lo hi : Nat) (s0 : State) : State :=
  let s := fold n hi (fold n lo s0)
  let c := s.ctx n
  let l := c.gen lo
  let h := c.gen hi
  if l.unit = 1 ∨ h.unit = 1 then exception n 8 s
  else
    mapAcc n acc (fun r a =>
      let bl := s.elemAt (l.addr r)
      let bh := s.elemAt (h.addr r)
      let al : Acc := { a := bl.1 * 2 ^ 35, e := some l.exp, bad := bl.2 }
      let ah : Acc := { a := bh.1 * 2 ^ 35, e := some h.exp, bad := bh.2 }
      let x := if a.val < al.val then al else a
      let y := if ah.val < x.val then ah else x
      ({ y with bad := a.bad || bl.2 || bh.2 }, false)) s

/-- LDE (R223, R226). -/
def walnoLde (n acc g pm lane : Nat) (s0 : State) : State :=
  let s := fold n g s0
  let x := (s.ctx n).gen g
  if x.unit = 1 then exception n 8 s
  else mapAcc n acc (fun r _ =>
    let b := s.elemAt (x.addr (if lane = 1 then r else 0))
    ({ a := b.1 * 2 ^ 35, e := some x.exp, bad := b.2 }, false)) (postMod n g pm s)

/-- LDQ (R175, R226). -/
def walnoLdq (n acc g pm lane f : Nat) (s0 : State) : State :=
  let s := fold n g s0
  let x := (s.ctx n).gen g
  if x.unit = 0 then exception n 8 s
  else mapAcc n acc (fun r _ =>
    let w := x.addr (if lane = 1 then r else 0)
    ({ a := sx 72 (s.readWord w).toNat, e := some (70 - f), bad := s.poison.contains w }, false)) (postMod n g pm s)

/-- LDI (R230): an invalid value loads as 0 and sets INV. -/
def walnoLdi (n acc src inst field : Nat) (s : State) : State :=
  let c := s.ctx n
  let v := ((c.snap.getD s.inputs).get src inst field)
  let s1 := if v.2.2 then s else dpFlag n 2 (s.setCtx n { c with inv := true })
  mapAcc n acc (fun _ _ => ({ a := v.1, e := some v.2.1, bad := false }, false)) s1

/-- The lanes of a store: all, or lane 0 alone (R228). -/
def storeLanes (s : State) (n lane : Nat) : List Nat := if lane = 1 then List.range (s.laneCount n) else [0]

/-- Write one element, a poisoned value poisoning its word (R239, R45). -/
def putElem (ea : Nat) (m : Int) (bad : Bool) (s : State) : State :=
  let w := ea / 2
  let v := BitVec.ofNat 72 (putBits (s.readWord w).toNat (36 * (ea % 2)) 36 (toBits 36 m))
  let was := s.poison.contains w
  let s1 := s.writeWord w v
  if bad || was then { s1 with poison := listIns s1.poison w } else s1

/-- STA (R173, R174, R229). -/
def walnoSta (n acc g pm lane : Nat) (s0 : State) : State :=
  let s := fold n g s0
  let c := s.ctx n
  let x := c.gen g
  let ls := storeLanes s n lane
  let es := ls.map fun r => (x.addr r, c.acc r acc)
  -- where lanes write the same element, the lowest lane stands (R225)
  let firsts := es.foldl (fun (l : List (Nat × Acc)) p => if l.any (fun q => q.1 == p.1) then l else l ++ [p]) []
  let h := match x.hdr with
    | some w => (s.readWord w).toNat
    | none => 0
  let mode := if x.hdr.isSome then hdrMode h else 0
  let part := mode ≠ 0 ∧ (16 < x.len ∨ firsts.length ≠ x.len)
  if x.unit = 1 then exception n 8 s
  else if x.hdr.isSome ∧ 3 ≤ mode then exception n 3 s
  else if part then exception n 5 s
  else if (firsts.any fun p => s.protStore n (p.1 / 2)) || x.hdr.any (s.protStore n) then exception n 7 s
  else
    let e0 := if x.hdr.isSome then hdrExp h else x.exp
    let st := storeVals mode (s.getF F.CEN_CTL_GROW_MAX) e0 (firsts.map fun p => p.2.val)
    let s1 := (firsts.zip st.2.1).foldl (fun t p => putElem p.1.1 p.2 p.1.2.bad t) s
    let s2 := match x.hdr with
      | some w => s1.writeWord w (BitVec.ofNat 72 (putBits (putBits h 0 8 (toBits 8 st.1)) 11 1 (b2n st.2.2.1)))
      | none => s1
    let s3 := if st.2.2.1 then s2.incF F.CEN_OVF_CNT_STORE else s2
    let c1 := (s3.ctx n)
    let x1 := { x with exp := if mode = 0 then x.exp else st.1 }
    let s4 := s3.setCtx n { (c1.setGen g x1) with sats := c1.sats || st.2.2.1 }
    let s5 := if firsts.any (fun p => p.2.bad) then dpFlag n 3 s4 else s4
    advance n (postMod n g pm s5)

/-- STQ (R226). -/
def walnoStq (n acc g pm lane f : Nat) (s0 : State) : State :=
  let s := fold n g s0
  let c := s.ctx n
  let x := c.gen g
  let es := (storeLanes s n lane).map fun r => (x.addr r, c.acc r acc)
  let firsts := es.foldl (fun (l : List (Nat × Acc)) p => if l.any (fun q => q.1 == p.1) then l else l ++ [p]) []
  if x.unit = 0 then exception n 8 s
  else if firsts.any fun p => s.protStore n p.1 then exception n 7 s
  else
    let q (a : Acc) : Int := qround (a.val * pow2 f)
    let sat := firsts.any fun p => q p.2 ≠ clampI (-(2 ^ 71)) (2 ^ 71 - 1) (q p.2)
    let s1 := firsts.foldl (fun t p =>
      let u := t.writeWord p.1 (BitVec.ofNat 72 (toBits 72 (clampI (-(2 ^ 71)) (2 ^ 71 - 1) (q p.2))))
      if p.2.bad then { u with poison := listIns u.poison p.1 } else u) s
    let c1 := s1.ctx n
    let s2 := s1.setCtx n { c1 with sats := c1.sats || sat }
    let s3 := if firsts.any (fun p => p.2.bad) then dpFlag n 3 s2 else s2
    advance n (postMod n g pm s3)

/-- A generator's range leaves SRAM (R223). -/
def rangeBad (base len unit : Nat) : Bool :=
  len == 0 || (if unit = 0 then decide (2 * sramWords < base + len) else decide (sramWords < base + len))

/-- AGSET (R222, R223). -/
def walnoAgset (n g base len unit : Nat) (s : State) : State :=
  if rangeBad base len unit then exception n 1 s
  else
    let c := s.ctx n
    advance n (s.setCtx n (c.setGen g { c.gen g with base := base, len := len, unit := unit, hdr := none }))

/-- AGSTG (R228). -/
def walnoAgstg (n g hdr ls step : Nat) (s : State) : State :=
  let h := (s.readWord hdr).toNat
  if hdrBad h 0 then exception n 3 s
  else if rangeBad (2 * (hdr + 1)) (hdrLen h) 0 then exception n 1 s
  else
    advance n (s.setCtx n ((s.ctx n).setGen g
      { base := 2 * (hdr + 1), len := hdrLen h, ptr := 0, unit := 0, step := sx 14 step, ls := ls, exp := hdrExp h, hdr := some hdr }))

/-- AGMOD. -/
def walnoAgmod (n g step ls exp : Nat) (s : State) : State :=
  let c := s.ctx n
  advance n (s.setCtx n (c.setGen g { c.gen g with step := sx 14 step, ls := ls, exp := sx 8 exp, hdr := none }))

/-- AGPTR. -/
def walnoAgptr (n g ptr : Nat) (s : State) : State :=
  let c := s.ctx n
  advance n (s.setCtx n (c.setGen g { c.gen g with ptr := ptr }))

/-- BRC's condition (R231). -/
def Ctx.cond (c : Ctx) (acc cond : Nat) : Bool :=
  match cond with
  | 0 => c.inv
  | 1 => !c.inv
  | 2 => decide ((c.acc 0 acc).a < 0)
  | 3 => decide ((c.acc 0 acc).a = 0)
  | 4 => c.sats
  | _ => !c.sats

/-- LOOP (R235, R236). -/
def walnoLoop (n count len : Nat) (s : State) : State :=
  let c := s.ctx n
  sliceAsk n (s.setCtx n { c with pc := c.pc + 1, loop := some { start := c.pc + 1, len := len, left := count, again := false, body := [] } })

/-- REP (R233): the next instruction executes count times. -/
def walnoRep (n count : Nat) (s : State) : State :=
  let c := s.ctx n
  s.setCtx n { c with pc := c.pc + 1, rep := count }

/-- END: the run completes under R140. -/
def walnoEnd (n : Nat) (s : State) : State := (sliceFree n s).withSch fun h => { h with ended := listIns h.ended n }

/-- What an instruction does when it issues in context n. -/
def walnoRun (n : Nat) (i : Walno) (s : State) : State :=
  match i with
  | .nop => advance n s
  | .end_ => walnoEnd n s
  | .br t => s.setCtx n { s.ctx n with pc := t }
  | .brc a c t => if (s.ctx n).cond a c then s.setCtx n { s.ctx n with pc := t } else advance n s
  | .loop c l => walnoLoop n c l s
  | .rep c => walnoRep n c s
  | .mul o a xg xp sg sp _ => walnoMul n o a xg xp sg sp s
  | .clr a => mapAcc n a (fun _ _ => (Acc.reset, false)) s
  | .mov a r => mapAcc n a (fun l _ => ((s.ctx n).acc l r, false)) s
  | .adda a r => walnoAdd n a r false s
  | .suba a r => walnoAdd n a r true s
  | .neg a => mapAcc n a (fun _ x => let q := accSat (-x.a); ({ x with a := q.1 }, q.2)) s
  | .clmp a l h => walnoClmp n a l h s
  | .lde a g p l => walnoLde n a g p l s
  | .ldq a g p l f => walnoLdq n a g p l f s
  | .ldi a r i f => walnoLdi n a r i f s
  | .sta a g p l => walnoSta n a g p l s
  | .stq a g p l f => walnoStq n a g p l f s
  | .agset g b l u => walnoAgset n g b l u s
  | .agstg g h l st => walnoAgstg n g h l st s
  | .agmod g st l e => walnoAgmod n g st l e s
  | .agptr g p => walnoAgptr n g p s

/-- The word of the program counter that the cache slice holds (R236). -/
def State.sliceWord (s : State) (n : Nat) : Option Nat :=
  match (s.ctx n).loop with
  | some l => if (s.sliceOf n).isSome ∧ l.start ≤ (s.ctx n).pc then l.body[(s.ctx n).pc - l.start]? else none
  | none => none

/-- The word that the context fetches, and whether it is delivered poisoned: from its cache slice, or from SRAM. -/
def State.fetchWord (s : State) (n : Nat) : Nat × Bool :=
  match s.sliceWord n with
  | some w => (w, false)
  | none => ((s.readWord (s.ctx n).pc).toNat, s.poison.contains (s.ctx n).pc)

/-- The body is copied into the slice as it is fetched in the first iteration (R236). -/
def Ctx.copied (c : Ctx) (held : Bool) (word : Nat) : Ctx :=
  match c.loop with
  | some l => if held ∧ c.pc = l.start + l.body.length ∧ l.body.length < l.len then { c with loop := some { l with body := l.body ++ [word] } } else c
  | none => c

/-- The context runs on lanes and fetches this instruction's word. -/
def State.issues (s : State) (n : Nat) (i : Walno) : Bool :=
  decide (s.lanesOf n ≠ 0) && !s.sch.ended.contains n && (s.fetchWord n).1 == i.enc

/-- An instruction issues: a poisoned word is exception FETCH_POISON (R238). -/
def walnoIssue (n : Nat) (i : Walno) (s : State) : State :=
  if !s.issues n i then s
  else if (s.fetchWord n).2 then exception n 2 s
  else walnoRun n i (s.setCtx n { (s.ctx n).copied (s.sliceOf n).isSome i.enc with begun := true })

/-! ### Verification (R242) -/

/-- Legal sources of LDI (R230, R506). -/
def ldiLegal (src inst field : Nat) : Bool :=
  match src with
  | 1 => decide (inst < 32) && field == 0
  | 2 => decide (inst < 32) && field == 0
  | 3 => decide (inst < 128) && field == 0
  | 4 => decide (inst < 128) && decide (field < 10)
  | 5 => decide (inst < 128) && field == 0
  | 8 => decide (inst < 256) && decide (field < 4)
  | 9 => decide (inst < 128) && field == 0
  | 10 => decide (inst < 128) && field == 0
  | _ => false

/-- Rule 2: every field legal. -/
def Walno.legal : Walno → Bool
  | .br t => decide (t < sramWords)
  | .brc _ c t => decide (c ≤ 5) && decide (t < sramWords)
  | .ldq _ _ _ _ f => decide (f ≤ 71)
  | .stq _ _ _ _ f => decide (f ≤ 71)
  | .ldi _ r i f => ldiLegal r i f
  | .agset _ b l u => l != 0 && (if u = 0 then decide (b < 2 * sramWords) else decide (b < sramWords))
  | .agstg _ h _ _ => decide (h < sramWords)
  | _ => true

def Walno.repeatable : Walno → Bool
  | .mul .. => true
  | .lde .. => true
  | .ldq .. => true
  | .sta .. => true
  | .stq .. => true
  | .nop => true
  | _ => false

def Walno.isRep : Walno → Bool
  | .rep _ => true
  | _ => false

def Walno.noLoopBody : Walno → Bool
  | .br _ => true
  | .brc .. => true
  | .end_ => true
  | .loop .. => true
  | _ => false

/-- Rule 6: END or BR. -/
def Walno.closes : Walno → Bool
  | .end_ => true
  | .br _ => true
  | _ => false

def Walno.target : Walno → Option Nat
  | .br t => some t
  | .brc _ _ t => some t
  | _ => none

/-- The program's instructions; a word of an undefined opcode reads as one that no rule allows after a REP, and that neither
repeats, branches, loops nor closes. -/
def State.progAt (s : State) (w : Nat) : Walno := (walnoDec (s.readWord w).toNat).getD (.clr 0)

/-- Word w of a program lies behind a REP, or inside a LOOP body. -/
def State.badTarget (s : State) (base len w : Nat) : Bool :=
  (decide (base < w) && (s.progAt (w - 1)).isRep)
    || (List.range 17).any fun d => decide (1 ≤ d) && decide (base + d ≤ w) && decide (w - d < base + len) && match s.progAt (w - d) with
      | .loop _ l => decide (d ≤ l)
      | _ => false

/-- The first rule a word of a program breaks; none: none. -/
def wordRule (base len w : Nat) (s : State) : Option Nat :=
  let v := (s.readWord w).toNat
  match walnoDec v with
  | none => some 1
  | some i =>
    if i.enc ≠ v then some 1
    else if !i.legal then some 2
    else if (match i.target with | some t => decide (t < base) || decide (base + len ≤ t) || s.badTarget base len t | none => false) then some 3
    else if i.isRep && (decide (base + len ≤ w + 1) || !(s.progAt (w + 1)).repeatable) then some 4
    else if (match i with
      | .loop _ l => decide (base + len < w + 1 + l) || (List.range l).any (fun d => (s.progAt (w + 1 + d)).noLoopBody)
          || (s.progAt (w + l)).isRep
      | _ => false) then some 5
    else if decide (w + 1 = base + len) && !i.closes then some 6
    else none

/-- The first word of a program that breaks a rule, and the rule. -/
def firstBad (base len : Nat) (s : State) : Option (Nat × Nat) :=
  (List.range len).findSome? fun i => (wordRule base len (base + i) s).map fun r => (base + i, r)

/-- CRC-32C over a program's words, 9 bytes each (R242). -/
def progCrc (base len : Nat) (s : State) : Nat :=
  crc32c 0xFFFFFFFF ((s.readWords base len).flatMap fun w => leBytes w.toNat 9)

/-- An entry address lies in a registered program, not behind a REP and not in a LOOP body (R244). -/
def progOk (s : State) (e : Nat) : Bool :=
  (List.range 32).any fun i =>
    let b := s.getF F.CEN_PROG_BASE_BASE i
    let n := s.getF F.CEN_PROG_LEN_LEN i
    s.getB F.CEN_PROG_STAT_VALID i && decide (b ≤ e) && decide (e < b + n) && !s.badTarget b n e

/-- Contexts not in OFF whose ENTRY lies in a slot (R246). -/
def progRefs (i : Nat) (s : State) : Nat :=
  let b := s.getF F.CEN_PROG_BASE_BASE i
  ((List.range 128).filter fun n => s.ctxSt n != CtxSt.OFF && !s.isSvc n && decide (b ≤ s.getF F.SCH_CTX_ENTRY_ENTRY n)
    && decide (s.getF F.SCH_CTX_ENTRY_ENTRY n < b + s.getF F.CEN_PROG_LEN_LEN i)).length

/-- The checks of PROG_LOAD and PROG_UNLOAD made when they take effect (R241, R242, R244). -/
def cenCmdCodes (cmd : Nat) (b : BlockArgs) (s : State) : List Nat :=
  let slot := b.arg0 % 32
  chk (b.ptr != 0 || b.len != 0) EC.BAD_FIELD ++ argBits b.arg0 31
  ++ match cmd with
  | 0x0001 =>
    let base := bits b.arg1 0 22
    let len := bits b.arg1 32 14
    argBits b.arg1 (2 ^ 22 - 1 + (2 ^ 46 - 2 ^ 32)) ++ argBits b.arg2 (2 ^ 32 - 1) ++ chk s.locked EC.LOCKED
    ++ chk (len == 0 || decide (sramWords < base + len)) EC.RANGE
    ++ chk (slot == 0 || s.getB F.CEN_PROG_STAT_VALID slot) 0x030E
    ++ chk (s.touchesProg base len || s.touchesLaws base len) 0x030F ++ chk (s.dp.ver.isSome || s.dp.verOk.isSome) EC.BUSY
  | 0x0002 =>
    chk (b.arg1 != 0 || b.arg2 != 0) EC.BAD_FIELD ++ chk s.locked EC.LOCKED
    ++ chk (slot == 0 || !s.getB F.CEN_PROG_STAT_VALID slot) 0x030E ++ chk (decide (0 < progRefs slot s)) 0x0310
  | _ => [EC.BAD_FIELD]

/-- PROG_LOAD begins to be verified; PROG_UNLOAD unregisters (R241, R243). -/
def cenCmdRun (cmd : Nat) (b : BlockArgs) (s : State) : State :=
  if cmd = 1 then
    let len := bits b.arg1 32 14
    s.withDp fun d =>
      { d with ver := some { slot := b.arg0 % 32, base := bits b.arg1 0 22, len := len, crc := b.arg2, due := s.ns + 10000 + 4 * len } }
  else
    let i := b.arg0 % 32
    ((s.setF F.CEN_PROG_STAT_VALID 0 i).setF F.CEN_PROG_BASE_BASE 0 i).setF F.CEN_PROG_LEN_LEN 0 i |>.setF F.CEN_PROG_CHK_CRC 0 i

/-- The end of a verification (R242, R243). -/
def progVerifyDone (s : State) : State :=
  match s.dp.ver with
  | none => s
  | some v =>
    let s1 := s.withDp fun d => { d with ver := none }
    if progCrc v.base v.len s ≠ v.crc then s1.completeHeld 0x30001 0x030D 0 0
    else match firstBad v.base v.len s with
      | some (w, r) => ((s1.setF F.CEN_VER_ERR_WORD w).setF F.CEN_VER_ERR_RULE r).completeHeld 0x30001 0x030C 0 0
      | none => s1.withDp fun d => { d with verOk := some v }

/-- A verified program takes effect at T0 (R243). -/
def progTake (s : State) : State :=
  match s.dp.verOk with
  | none => s
  | some v =>
    let s1 := ((s.setF F.CEN_PROG_BASE_BASE v.base v.slot).setF F.CEN_PROG_LEN_LEN v.len v.slot).setF F.CEN_PROG_CHK_CRC v.crc v.slot
    ((s1.setF F.CEN_PROG_STAT_VALID 1 v.slot).withDp fun d => { d with verOk := none }).completeHeld 0x30001 EC.OK 0 0

end Sys2Proof.Machine
end

