-- ==== Sys2Proof/Machine/Cen.lean ====
section
/-! DEFINITION. Control laws (R176 to R211): dimensions and records, the law run with observer, integrators, limits and anti-windup, gain scheduling, enables, table checks. -/

namespace Sys2Proof.Machine

/-! ### Configuration of a run (R182) -/

/-- The configuration and records of a law as they stand. -/
def State.lawCfg (s : State) (n : Nat) : LawCfg :=
  { ctl := (s.rd (R.CEN_LAW_CTL + 0x100 * n)).toNat, dim := (s.rd (R.CEN_LAW_DIM + 0x100 * n)).toNat,
    gs := (s.rd (R.CEN_LAW_GS + 0x100 * n)).toNat, par := (List.range 32).map (s.tw 0x0301 n),
    brk := (List.range 17).map (s.tw 0x0302 n), host := (List.range 2).map (s.tw 0x0303 n) }

/-- A law's divider (R176). -/
def State.lawDiv (s : State) (n : Nat) : Nat :=
  if n % 2 = 0 then 1 else match s.groupOf (n / 2) with
    | some g => s.divOf g
    | none => 1

/-- A law is due in cycle k (R33, R176).  An outer law whose axis is in no group runs in every cell cycle (DESIGN CHOICE,
log 61). -/
def State.lawDue (s : State) (n k : Nat) : Bool :=
  n % 2 == 0 || match s.groupOf (n / 2) with
    | some g => s.dueIn g k
    | none => true

/-- The power stage of an axis is disabled (R202). -/
def State.stageOff (s : State) (a : Nat) : Bool := !s.getB F.AX_STAT_POWER a

/-- A disabled law keeps nothing. -/
def lawDrop (n : Nat) (s : State) : State :=
  if s.law n = Law.reset then s else ((s.modLaw n fun _ => Law.reset).setF F.CEN_LAW_STAT_GS_PEND 0 n).setF F.CEN_LAW_STAT_SAT 0 n

/-- At an observed T0 the enabled laws take their configuration, a blend completed in time becomes active, and the outputs in
the commit buffer come into force (R36, R182, R197); in a due cycle the output in force, 0 while the stage is disabled, is one
that the observer will see (R202, R203). -/
def lawT0 (n : Nat) (s0 : State) : State :=
  let s := if (s0.law n).drop || !s0.lawEn n then lawDrop n s0 else s0
  if !s.lawEn n then s
  else
    let l := s.law n
    let off := s.stageOff (n / 2)
    let f := l.buf <|> l.force
    let u : List Int × Int := match f with
      | some o => (if off then [] else o.u, o.eu)
      | none => ([], 0)
    let s1 := s.modLaw n fun _ => { l with
      cfg := some (s.lawCfg n), act := l.pend <|> l.act, pend := none, force := f, buf := none, off := l.off || off,
      applied := if s.lawDue n s.tbs.k then (u :: l.applied).take 4 else l.applied }
    (s1.setF F.CEN_LAW_STAT_SAT (match f with | some o => o.sat | none => 0) n).setF F.CEN_LAW_STAT_GS_PEND 0 n

def lawsT0 (s : State) : State := s.each (List.range 256) lawT0

def LawCfg.p (c : LawCfg) (w lo n : Nat) : Nat := bits (c.par.getD w 0) lo n
def LawCfg.kind (c : LawCfg) : Nat := bits c.ctl 1 2
/-- A signed exponent or mantissa of the parameter record. -/
def LawCfg.ps (c : LawCfg) (w lo n : Nat) : Int := sx n (c.p w lo n)

/-- MSCALE of a measurement, VDC_SCALE (R208): mantissa s1.35 and exponent. -/
def LawCfg.scale (c : LawCfg) (w : Nat) : Rat := gainOf (c.par.getD w 0)

/-! ### Measurements (R184, R188, R206) -/

/-- The value of a measurement source for a law's axis, and whether it is valid (R208). -/
def measSource (axis src inst : Nat) (x : Inputs) : Rat × Bool :=
  let r := match src with
    | 4 => x.get 4 axis inst
    | k => x.get k inst 0
  ((r.1 : Int) * pow2 (r.2.1 - 70), r.2.2)

/-- The electrical angle in turns, less whole ones, and the electrical speed in turns per second (R184, R187). -/
def elecAngle (a : Nat) (c : LawCfg) (s : State) : Rat × Rat :=
  let inc : Rat := (c.p 20 32 32 : Nat)
  let poles : Rat := (c.p 20 0 7 : Nat)
  (turnPart (poles * ((s.measPos a : Int) / 16777216 / inc) + (c.p 21 0 36 : Nat) / 68719476736),
   poles * ((s.measSpd a : Int) / 16777216 / inc))

/-- A phase current in amperes (R184, R208): words 8 to 10 and their scales. -/
def phaseCurrent (a : Nat) (c : LawCfg) (x : Inputs) (j : Nat) : Option (Rat × Bool) :=
  let src := c.p (8 + j) 0 4
  if src = 0 ∨ src = 6 then none
  else let v := measSource a src (c.p (8 + j) 8 12) x; some (v.1 * c.scale (14 + j), v.2)

/-- y of an inner law: i_q, i_d, and whether they are valid (R184); a phase without a source is the negative sum. -/
def innerMeas (a : Nat) (c : LawCfg) (x : Inputs) (theta : Rat) : List (Rat × Bool) :=
  let i (j : Nat) := phaseCurrent a c x j
  let z : Rat × Bool := (0, true)
  let p0 := (i 0).getD (let b := (i 1).getD z; let d := (i 2).getD z; (-(b.1 + d.1), b.2 && d.2))
  let p1 := (i 1).getD (let d := (i 2).getD z; (-(p0.1 + d.1), p0.2 && d.2))
  let ok := p0.2 && p1.2
  let al := p0.1
  let be := (p0.1 + 2 * p1.1) / qsqrt 3
  let co := turnCos theta
  let si := turnSin theta
  [(be * co - al * si, ok), (al * co + be * si, ok)]

/-- y of an outer law (R188). -/
def outerMeas (a p : Nat) (c : LawCfg) (x : Inputs) : List (Rat × Bool) :=
  (List.range p).map fun j =>
    let v := measSource a (c.p (8 + j) 0 4) (c.p (8 + j) 8 12) x
    let base : Rat := if c.kind = 3 then (((mapGet (fun _ => 0) x.sp a : Int)) : Rat) / 16777216 else 0
    ((v.1 - base) * c.scale (14 + j), v.2)

/-! ### Matrix products (R170, R171, R178) -/

/-- A vector with the exponent of each element. -/
abbrev Ev := List (Int × Int)

def withExp (e : Int) (l : List Int) : Ev := l.map fun m => (m, e)

/-- The sum of a row's products with a vector, from an accumulator, and how many sums saturated. -/
def rowSum (e : Int) : List Int → Ev → Acc → Nat → Acc × Nat
  | m :: ms, z :: zs, x, o => let r := x.add (m * z.1) (e + z.2); rowSum e ms zs r.1 (o + b2n r.2)
  | _, _, x, o => (x, o)

/-- Row i of a matrix of n columns. -/
def rowOf (g : Int × List Int) (n i : Nat) : List Int := (g.2.drop (n * i)).take n

/-- Rows i0 to i0 + k - 1 times a vector. -/
def rows (g : Int × List Int) (n i0 k : Nat) (z : Ev) (init : Nat → Acc) : List (Acc × Nat) :=
  (List.range k).map fun i => rowSum g.1 (rowOf g n (i0 + i)) z (init i) 0

/-! ### Gain scheduling (R192 to R197) -/

/-- A scheduling variable (R192): src and sel; x̂ as the run holds it. -/
def schedVar (n src sel i : Nat) (xh : Ev) (c : LawCfg) (s : State) : Rat :=
  let a := n / 2
  match src with
  | 0 => (s.measSpd a : Int) / 16777216
  | 1 => (s.measPos a : Int) / 16777216
  | 2 => (s.measPos sel : Int) / 16777216
  | 3 => let e := xh.getD sel (0, 0); (e.1 : Int) * pow2 (e.2 - 35)
  | 4 => ((sx 72 (c.host.getD i 0) : Int) : Rat) / 16777216
  | _ => (qopen 25 (twoPi * (elecAngle a c s).2 * pow2 24) : Int) * pow2 (-24)

/-- Segment index, weight rounded to 2^-35, GS_OUT (R193): the breakpoints of a variable. -/
def segment (b : List Rat) (v : Rat) : Nat × Rat × Bool :=
  let nb := b.length
  let j := ((List.range (nb - 1)).filter fun j => decide (b.getD j 0 ≤ v)).getLast?.getD 0
  if v < b.getD 0 0 then (0, 0, true)
  else if b.getD (nb - 1) 0 ≤ v then (nb - 2, 1, true)
  else (j, (qopen 21 ((v - b.getD j 0) / (b.getD (j + 1) 0 - b.getD j 0) * pow2 35) : Int) * pow2 (-35), false)

/-- Breakpoints of variable i of a break record. -/
def breaks (c : LawCfg) (i : Nat) : List Rat :=
  (List.range (bits (c.brk.getD 0 0) (4 * i) 4)).map fun j => ((sx 72 (c.brk.getD (1 + 8 * i + j) 0) : Int) : Rat) / 16777216

/-- A matrix of a node: its header and elements. -/
def nodeMatrix (s : State) (node hdr off len : Nat) : Nat × List Int :=
  ((s.readWord (node + hdr)).toNat, s.elems (node + off) len)

/-- A node of a blend: its index in the region table (R194), its word address, its weight. -/
structure BlendNode where
  index : Nat
  at_ : Nat
  weight : Rat

/-- Blend one matrix from weighted nodes, or the index of the node at which it is abandoned (R195). -/
def blendMatrix (hdr off len : Nat) (nodes : List BlendNode) (s : State) : (Int × List Int) ⊕ Nat :=
  let ms := nodes.map fun p => (p, nodeMatrix s p.at_ hdr off len)
  let e := ((ms.map fun m => hdrExp m.2.1).head?).getD 0
  match ms.find? fun m => hdrBad m.2.1 len || hdrExp m.2.1 != e with
  | some m => .inr m.1.index
  | none => .inl (e, (List.range len).map fun i =>
      elemSat (qround (ms.foldl (fun t m => t + (m.2.2.getD i 0 : Int) * m.1.weight) 0)))

/-- What a blend finds: the gains, or the node it failed at, the segments, GS_OUT, whether it read a poisoned word. -/
structure Blend where
  gains : Gains ⊕ Nat
  j1 : Nat
  j2 : Nat
  out : Bool
  bad : Bool

/-- A blend of a law (R195). -/
def blend (n : Nat) (c : LawCfg) (xh : Ev) (s : State) : Blend :=
  let d := dimOf c.dim
  let vars := bits c.gs 0 2
  let b1 := breaks c 0
  let g1 := if vars = 0 then (0, 0, false) else segment b1 (schedVar n (bits c.gs 2 3) (bits c.gs 8 7) 0 xh c s)
  let g2 := if vars ≤ 1 then (0, 0, false) else segment (breaks c 1) (schedVar n (bits c.gs 5 3) (bits c.gs 16 7) 1 xh c s)
  let nb1 := if vars = 0 then 1 else b1.length
  let node (i1 i2 : Nat) (w : Rat) : BlendNode :=
    { index := i2 * nb1 + i1, at_ := c.p 0 0 22 + (i2 * nb1 + i1) * d.nodeWords, weight := w }
  let a := g1.2.1
  let b := g2.2.1
  let nodes : List BlendNode :=
    if vars = 0 then [node 0 0 1]
    else if vars = 1 then [node g1.1 0 (1 - a), node (g1.1 + 1) 0 a]
    else [node g1.1 g2.1 ((1 - a) * (1 - b)), node (g1.1 + 1) g2.1 (a * (1 - b)), node g1.1 (g2.1 + 1) ((1 - a) * b),
          node (g1.1 + 1) (g2.1 + 1) (a * b)]
  let o2 := 3 + ceilDiv d.phi 2
  let o3 := o2 + ceilDiv d.gam 2
  let g := match blendMatrix 0 3 d.phi nodes s, blendMatrix 1 o2 d.gam nodes s, blendMatrix 2 o3 d.psi nodes s with
    | .inl p, .inl q, .inl r => .inl { phi := p, gam := q, psi := r }
    | .inr i, _, _ => .inr i
    | _, .inr i, _ => .inr i
    | _, _, .inr i => .inr i
  { gains := g, j1 := g1.1, j2 := g2.1, out := g1.2.2 || g2.2.2, bad := nodes.any fun x => s.anyPoison x.at_ d.nodeWords }

/-! ### Output limits (R186, R190, R191) -/

/-- U_LIM of a law with its exponent EU; a failed pair gives one mantissa step, and no part of it is used (R50, R191). -/
def uLim (c : LawCfg) : Int × Int × Bool :=
  let eu := euOf (c.par.getD 2 0)
  let good := eu.2 && pairOk 36 (c.p 3 0 36) (c.p 3 36 36)
  (if good then (c.p 3 0 36 : Nat) else 1, eu.1, good)

/-- Hold a vector's magnitude to a limit, keeping its direction; the flag says that the limit acted. -/
def limVec (x y lim : Rat) : Rat × Rat × Bool :=
  if lim * lim < x * x + y * y then
    let k := lim / qsqrt (x * x + y * y)
    (x * k, y * k, true)
  else (x, y, false)

/-- V_dc of a local inner law, volts (R186, R208). -/
def vdc (c : LawCfg) (x : Inputs) : Rat := ((mapGet (fun _ => none) x.adc (c.p 22 0 7) : Option Int).getD 0 : Int) * c.scale 23

/-- Duties of a vector by space-vector modulation with V_dc, as u1.23 (R187; the split of the zero vectors is PRESUMED
equal, log 24). -/
def svm (al be v : Rat) : List Nat :=
  let q3 := qsqrt 3
  let a := al
  let b := (q3 * be - al) / 2
  let c := (-al - q3 * be) / 2
  let off := -(qmax a (qmax b c) + qmin a (qmin b c)) / 2
  [a, b, c].map fun x =>
    let d := if v = 0 then 0 else 1 / 2 + (x + off) / v
    (clampI 0 8388608 (qopen 22 (d * 8388608))).toNat

/-! ### The run (R178 to R206) -/

/-- Set the same flag in a law and in CEN_FLAG: bit of CEN_LAW_FLAG, bit of CEN_FLAG where there is one. -/
def lawFlag (n b : Nat) (cb : Option Nat) (s : State) : State :=
  let o := R.CEN_LAW_FLAG + 0x100 * n
  let s1 := s.wr o (BitVec.ofNat 32 (mor (s.rd o).toNat (2 ^ b)))
  match cb with
  | some c => s1.wr R.CEN_FLAG (BitVec.ofNat 32 (mor (s1.rd R.CEN_FLAG).toNat (2 ^ c)))
  | none => s1

def lawFlagIf (hit : Bool) (n b : Nat) (cb : Option Nat) (s : State) : State := if hit then lawFlag n b cb s else s

/-- The older and the newer state record of a law: word addresses (R204). -/
def State.stateRecs (s : State) (base : Nat) : Nat × Nat :=
  let st (w : Nat) : Nat := (s.readWord w).toNat % 2 ^ 64
  if st base < st (base + 16) then (base, base + 16) else (base + 16, base)

/-- C_run of a law on l lanes (R180). -/
def cRun (kind : Nat) (d : Dim) (l : Nat) : Nat :=
  (if kind = 1 then 96 else 64) + ceilDiv (d.n + d.q) l * d.cols + ceilDiv d.m l * (d.n + d.q + d.sr) + ceilDiv d.n l * d.m

/-- u(k+1) - u_app(k), formed without a store (R178). -/
def evSub (u v : Ev) : Ev :=
  (u.zip v).map fun p =>
    let e := min p.1.2 p.2.2
    (p.1.1 * 2 ^ (p.1.2 - e).toNat - p.2.1 * 2 ^ (p.2.2 - e).toNat, e)

/-- What the sums and the stores of a run have saturated: the rows of every stage, how many stores, EXP_OVF (R172, R173). -/
structure Tally where
  rows : List (List (Acc × Nat))
  stores : Nat
  exp : Bool

/-- Saturated sums of a run. -/
def Tally.sums (t : Tally) : Nat := (t.rows.map fun r => (r.map (·.2)).foldl (· + ·) 0).foldl (· + ·) 0

/-- Rows of a stage, and a store with its marks, join a tally. -/
def Tally.add (t : Tally) (r : List (Acc × Nat)) (st : Int × List Int × Bool × Bool) : Tally :=
  { rows := t.rows ++ [r], stores := t.stores + b2n st.2.2.1, exp := t.exp || st.2.2.2 }

/-- The lane, within the group of l, of the first row with a saturated sum: row i of a stage is on lane i (R179). -/
def Tally.lane (t : Tally) (l : Nat) : Nat :=
  ((t.rows.findSome? fun r => (r.findIdx? fun x => x.2 != 0)).getD 0) % l

/-- One open-loop step of the estimate with an applied output (R205). -/
def predictStep (n : Nat) (d : Dim) (g : Gains) (xi ref : Ev) (ey : Int) (u u1 : Ev) (p : Ev × Tally) : Ev × Tally :=
  let xh := p.1
  let y := (List.range d.p).map fun j => (mantissa (Config.measPrediction n j (xh.map fun e => (e.1 : Int) * pow2 (e.2 - 35))) ey, ey)
  let z := xh ++ xi ++ u ++ y ++ ref
  let r := rows g.phi d.cols 0 d.n z fun _ => Acc.reset
  let st := storeVals 2 0 ((xh.getD 0 (0, 0)).2) (r.map fun a => a.1.val)
  let q := rows g.psi d.m 0 d.n (evSub u1 u) fun i => { a := st.2.1.getD i 0 * 2 ^ 35, e := some st.1, bad := false }
  let st2 := storeVals 2 0 st.1 (q.map fun a => a.1.val)
  (withExp st2.1 st2.2.1, (p.2.add r st).add q st2)

/-- Pad or cut a list of mantissas to n elements at an exponent. -/
def padTo (n : Nat) (e : Int) (l : List Int) : Ev := (List.range n).map fun i => (l.getD i 0, e)

/-- Integrators after a run (R198 to R201): value list, FREEZE mask, ICLAMP mask. -/
def integrators (d : Dim) (c : LawCfg) (n : Nat) (xi : Ev) (row : List Rat) (gam : Int × List Int) (s : State) : List Int × Nat × Nat :=
  let exi := c.ps 1 0 8
  let sat := match (s.law n).force with | some a => a.sat | none => 0
  let vs := match (s.law n).force with | some a => a.v | none => []
  let inner := match (s.law (n - n % 2)).force with | some a => a.sat | none => 0
  let chain := n % 2 == 1 && bit c.ctl 4 && inner != 0
  let r := (List.range d.q).map fun i =>
    let j := bits c.ctl (16 + 2 * i) 2
    let old : Rat := ((xi.getD i (0, 0)).1 : Int) * pow2 ((xi.getD i (0, 0)).2 - 35)
    let dlt := row.getD i 0 - old
    let satd := bit sat j || chain
    let gain := (rowOf gam (d.n + d.q + d.sr) j).getD (d.n + i) 0
    let frozen := s.stageOff (n / 2) || (satd && (!bit c.ctl 3 || decide (0 < qsgn ((gain : Int) * dlt) * qsgn (vs.getD j 0))))
    let raw := if frozen then old else row.getD i 0
    let lo : Rat := (c.ps (4 + i) 0 36 : Int) * pow2 (exi - 35)
    let hi : Rat := (c.ps (4 + i) 36 36 : Int) * pow2 (exi - 35)
    let v := if raw < lo then lo else if hi < raw then hi else raw
    (v, frozen && satd, decide (v ≠ raw))
  ((storeVals 0 0 exi (r.map (·.1))).2.1,
   ((List.range d.q).filter fun i => (r.getD i (0, false, false)).2.1).foldl (fun m i => m + 2 ^ i) 0,
   ((List.range d.q).filter fun i => (r.getD i (0, false, false)).2.2).foldl (fun m i => m + 2 ^ i) 0)

/-- The limited outputs of a law (R186, R190): values, SAT mask. -/
def limited (c : LawCfg) (d : Dim) (a : Nat) (x : Inputs) (v : List Rat) (s : State) : List Rat × Nat :=
  let ul := uLim c
  let lim0 : Rat := (ul.1 : Int) * pow2 (ul.2.1 - 35)
  let lim := if c.kind = 1 ∧ s.getB F.AX_CTL_LOCAL a then qmin lim0 (vdc c x / qsqrt 3) else lim0
  if d.m = 1 then
    let u := v.getD 0 0
    if lim < qabs u then ([qsgn u * lim], 1) else ([u], 0)
  else
    let r := limVec (v.getD 0 0) (v.getD 1 0) lim
    ([r.1, r.2.1] ++ v.drop 2, if r.2.2 then 3 else 0)

/-- The 16 words of a state record (R204, R210): stamp, estimate, integrators; the words that hold none of these are 0. -/
def recordWords (stamp : Nat) (xe : Int) (xm : List Int) (xsat : Bool) (exi : Int) (xi : List Int) : List W72 :=
  let pad (l : List W72) (n : Nat) : List W72 := (l ++ List.replicate n 0).take n
  [BitVec.ofNat 72 stamp, hdrOf xe 2 xm.length xsat] ++ pad (packElems xm) 6
    ++ [if xi.isEmpty then 0 else hdrOf exi 0 xi.length false] ++ pad (packElems xi) 2 ++ List.replicate 5 0

/-- Write a law's state record, poisoned where the run read a poisoned word (R239). -/
def writeRecord (w : Nat) (l : List W72) (bad : Bool) (s : State) : State :=
  let s2 := s.writeWords w l
  if bad then { s2 with poison := (List.range 11).foldl (fun p i => listIns p (w + i)) s2.poison } else s2

/-- Count and report what a run has saturated (R172, R173). -/
def runCounts (n lane : Nat) (t : Tally) (s : State) : State :=
  let s1 := if t.stores = 0 then s else (lawFlag n 4 (some 1) s).addF F.CEN_OVF_CNT_STORE t.stores
  let s2 := lawFlagIf t.exp n 5 (some 2) s1
  if t.sums = 0 then s2
  else
    let s3 := (lawFlag n 3 (some 0) s2).addF F.CEN_OVF_CNT_ACC t.sums
    if s.getB F.CEN_CTL_OVF_ACT ∨ (s.law n).ovfCyc = some s.tbs.k then s3
    else (s3.modLaw n fun l => { l with ovfCyc := some s.tbs.k }).post 0x0301 3 n 0x0308 (lane + s.tbs.k % 2 ^ 56 * 2 ^ 8)

/-- Missing measurements (R206): the count of runs, the controlled stop. -/
def measCount (n invalid : Nat) (s : State) : State :=
  let m := if invalid = 0 then 0 else min 3 ((s.law n).miss + 1)
  let s1 := lawFlagIf (invalid != 0) n 11 (some 7) (s.modLaw n fun l => { l with miss := m, allValid := invalid == 0 })
  if m = 3 ∧ (s.law n).miss < 3 then
    let s2 := s1.wr R.CEN_FLAG (BitVec.ofNat 32 (mor (s1.rd R.CEN_FLAG).toNat (2 ^ 8)))
    (requestStop (Req.law n) (s2.axisMask (n / 2)) s2).post 0x0304 3 n 0x030B invalid
  else s1

/-- What every blend shows: its segments, GS_OUT, a poisoned node, and where it is abandoned GS_FAULT with its event (R195, R239). -/
def blendShow (ctx n : Nat) (b : Blend) (s : State) : State :=
  let s1 := lawFlagIf b.out n 7 none ((s.setF F.CEN_LAW_STAT_SEG1 b.j1 n).setF F.CEN_LAW_STAT_SEG2 b.j2 n)
  let s2 := if b.bad then dpFlag ctx 3 s1 else s1
  match b.gains with
  | .inl _ => s2
  | .inr i => (lawFlag n 8 (some 4) s2).post 0x0302 3 n 0x0309 i

/-- What a law's latest blend was made with (R196). -/
def LawCfg.key (c : LawCfg) : Nat × List Nat × List Nat := (c.p 0 0 22, c.brk, c.host)

/-- The blend after the output of a run that is not the first (R196, R197).  One that read a poisoned node is late as well as
one not complete by TC (R45). -/
def blendAfter (ctx n : Nat) (c : LawCfg) (xh : Ev) (s : State) : State :=
  let due := (s.law n).key != some c.key || (s.law n).runNo % max 1 (bits c.gs 24 7) == 0
  if !due then s
  else
    let b := blend n c xh s
    let s1 := blendShow ctx n b (s.modLaw n fun l => { l with key := some c.key })
    match b.gains with
    | .inr _ => s1
    | .inl g =>
      if s.tbs.tcDone || b.bad then lawFlag n 6 (some 3) s1
      else (s1.modLaw n fun l => { l with pend := some g }).setF F.CEN_LAW_STAT_GS_PEND 1 n

/-- The gains of a run: the active set, or the first-run blend (R196, R197), which becomes the active set unless it read a
poisoned node; the last flag says that it did, and the one before that the run is the first. -/
def runGains (ctx n : Nat) (c : LawCfg) (xh : Ev) (s : State) : State × Option Gains × Bool × Bool :=
  match (s.law n).act with
  | some g => (s, some g, false, false)
  | none =>
    let b := blend n c xh s
    let s1 := blendShow ctx n b s
    match b.gains with
    | .inr _ => (s1, none, true, b.bad)
    | .inl g => (if b.bad then s1 else s1.modLaw n fun l => { l with act := some g, key := some c.key }, some g, true, b.bad)

/-- The run of one law in context ctx (R178 to R206); the flag says that an exception has ended the run. -/
def lawRun (ctx n : Nat) (s : State) : State × Bool :=
  match (s.law n).cfg with
  | none => (s, false)
  | some c =>
    let k := s.tbs.k
    let a := n / 2
    let d := dimOf c.dim
    let x := s.inputs
    let dv := s.lawDiv n
    let recs := s.stateRecs (c.p 0 24 22)
    let hx := (s.readWord (recs.2 + 1)).toNat
    let hxi := (s.readWord (recs.2 + 8)).toNat
    let stamp := (s.readWord recs.2).toNat % 2 ^ 64
    let off := s.stageOff a
    let exi := c.ps 1 0 8
    let eu := (uLim c).2.1
    if hdrBad hx d.n || (d.q != 0 && hdrBad hxi d.q) then (exception ctx 3 s, true)
    else
      -- the gap (R205)
      let gap := if stamp = 0 then 0 else (k - stamp) / dv
      let lost := decide (k < stamp ∧ stamp ≠ 0) || (stamp != 0 && decide (stamp ≤ k) && ((k - stamp) % dv != 0 || decide (3 < gap)))
      let xh0 := if lost then padTo d.n (hdrExp hx) [] else withExp (hdrExp hx) (s.elems (recs.2 + 2) d.n)
      let rg := runGains ctx n c xh0 s
      let s1 := rg.1
      match rg.2.1 with
      | none => (exception ctx 6 s1, true)
      | some g =>
        let poisoned := s.anyPoison recs.2 11 || rg.2.2.2
        -- the applied outputs and the references
        let app (i : Nat) : Ev := match (s.law n).applied[i]? with
          | some b => padTo d.m b.2 (if off && i == 0 then [] else b.1)
          | none => padTo d.m eu []
        let er := c.ps 1 16 8
        let ey := c.ps 1 8 8
        let outer := match (s.law (2 * a + 1)).force with
          | some b => b.u.map fun m => ((m : Int) : Rat) * pow2 (b.eu - 35)
          | none => []
        let refV : List Rat := if c.kind = 1 then (List.range d.sr).map fun j => outer.getD j 0
          else [((mapGet (fun _ => 0) x.ssp a : Int) : Rat) / 16777216, ((s.ax a).acc : Int) / 16777216, ((s.ax a).ff : Int) / 16777216, 0].take d.sr
        let refS := storeVals 0 0 er refV
        let ref := withExp er refS.2.1
        -- integrators: 0 at the first run after the stage is enabled again (R202)
        let xi0 := if (s.law n).off && !off then padTo d.q exi [] else padTo d.q (hdrExp hxi) (s.elems (recs.2 + 9) d.q)
        let pr : Ev × Tally := if lost then (xh0, { rows := [], stores := 0, exp := false })
          else (List.range gap).foldl (fun v i => predictStep n d g xi0 ref ey (app (gap - i)) (app (gap - 1 - i)) v)
            (xh0, { rows := [], stores := 0, exp := false })
        let xh := pr.1
        let s2 := if lost then
            (lawFlag n 10 (some 6) s1).post 0x0303 3 n 0x030A (if k < stamp then 255 else min 255 gap)
          else lawFlagIf (decide (0 < gap)) n 9 (some 5) s1
        -- measurements
        let th := elecAngle a c s
        let ys := if c.kind = 1 then innerMeas a c x th.1 else outerMeas a d.p c x
        let invalid := ((List.range d.p).filter fun j => !(ys.getD j (0, true)).2).foldl (fun m j => m + 2 ^ j) 0
        let xr := xh.map fun e => (e.1 : Int) * pow2 (e.2 - 35)
        let yv := (List.range d.p).map fun j => let y := ys.getD j (0, true); if y.2 then y.1 else Config.measPrediction n j xr
        let yS := storeVals 0 0 ey yv
        -- stage 1
        let z := xh ++ xi0 ++ app 0 ++ withExp ey yS.2.1 ++ ref
        let r1 := rows g.phi d.cols 0 (d.n + d.q) z fun _ => Acc.reset
        let xp := storeVals 2 0 (hdrExp hx) ((r1.take d.n).map fun r => r.1.val)
        let it := integrators d c n xi0 ((r1.drop d.n).map fun r => r.1.val) g.gam s
        let xpE := withExp xp.1 xp.2.1
        let xiE := withExp exi it.1
        -- stage 2 and the limit
        let r2 := rows g.gam (d.n + d.q + d.sr) 0 d.m (xpE ++ xiE ++ ref) fun _ => Acc.reset
        let v := r2.map fun r => r.1.val
        let lm := limited c d a x v s
        let uV := if off && c.kind == 1 then [0, 0] else lm.1
        let uS := storeVals 0 0 eu uV
        -- stage 3
        let r3 := rows g.psi d.m 0 d.n (evSub (withExp eu uS.2.1) (app 0)) fun i => { a := xp.2.1.getD i 0 * 2 ^ 35, e := some xp.1, bad := false }
        let xn := storeVals 2 0 xp.1 (r3.map fun r => r.1.val)
        let tally := ((((pr.2.add [] yS).add [] refS).add r1 xp).add r2 uS).add r3 xn
        let lanes := s.laneCount ctx
        let s3 := runCounts n ((s.getF F.SCH_CTX_STAT_LANE_AT ctx + tally.lane lanes) % 16) tally s2
        if tally.sums != 0 && s.getB F.CEN_CTL_OVF_ACT then (exception ctx 4 s3, true)
        else
          let s4 := if (uLim c).2.2 then s3 else s3.fault EC.PAIR_MISMATCH 0x03 2 n
          let s5 := writeRecord recs.1 (recordWords (k + dv) xn.1 xn.2.1 xn.2.2.1 exi it.1) poisoned s4
          -- the vector and the duties of an inner law (R187)
          let tm : Rat := (((3 * s.period : Nat) : Rat) / 2 - ((s.getF F.TBS_TS_V : Nat) : Rat) / 8) / 1000000000
          let ang := th.1 + th.2 * tm
          let co := turnCos ang
          let si := turnSin ang
          let uq := uV.getD 0 0
          let ud := uV.getD 1 0
          let vec : Rat × Rat := (ud * co - uq * si, ud * si + uq * co)
          let vS := (storeVals 0 0 eu [vec.1, vec.2]).2.1
          let duty := if c.kind = 1 ∧ s.getB F.AX_CTL_LOCAL a then svm vec.1 vec.2 (vdc c x) else []
          let out : Applied := { cyc := k, u := uS.2.1, eu := eu, sat := if off && c.kind == 1 then 0 else lm.2, v := v, vec := if c.kind = 1 then vS else [], duty := duty }
          let late := s.tbs.tcDone || s.lateRun ctx || poisoned
          let b : Option Applied := if late then (s.law n).buf else some out
          let s6 := s5.modLaw n fun l => { l with buf := b, runNo := l.runNo + 1, off := off }
          let s7 := ((s6.setF F.CEN_LAW_STAT_FREEZE it.2.1 n).setF F.CEN_LAW_STAT_ICLAMP it.2.2 n).setF F.CEN_LAW_STAT_GAP (min 3 gap) n
          let s8 := lawFlagIf (it.2.2 != 0) n 2 none (lawFlagIf (it.2.1 != 0) n 1 none (lawFlagIf (out.sat != 0) n 0 none s7))
          let s9 := measCount n invalid (if poisoned then dpFlag ctx 3 s8 else s8)
          let cyc := cRun c.kind d lanes
          let s10 := ((s9.incF F.CEN_LAW_CNT_RUNS n).setF F.CEN_LAW_RUNT_LAST cyc n).setF F.CEN_LAW_RUNT_MAX (max cyc (s9.getF F.CEN_LAW_RUNT_MAX n)) n
          let s11 := if s10.getF F.CEN_RUN_MAX_CYCLES < cyc then (s10.setF F.CEN_RUN_MAX_CYCLES cyc).setF F.CEN_RUN_MAX_LAW n else s10
          (if rg.2.2.1 then s11 else blendAfter ctx n c xh s11, false)

/-- A run of the law library: every law enabled at the T0 of the cycle that names the context and is due, by ascending index
(R181, R182). -/
def lawRuns (ctx : Nat) (s : State) : State :=
  ((List.range 256).foldl (fun (p : State × Bool) n =>
    if p.2 || !(p.1.law n).cfg.any (fun c => bits c.ctl 8 7 == ctx) || !p.1.lawDue n p.1.tbs.k then p else lawRun ctx n p.1) (s, false)).1

/-- At TC a due output absent from the commit buffer is late: the law's flags and count (R39, R213). -/
def lawLate (n : Nat) (s : State) : State := lawFlag n 12 none (s.incF F.CEN_LAW_CNT_LATE n)

def State.lawIsLate (s : State) (n : Nat) : Bool :=
  (s.law n).cfg.isSome && s.lawDue n s.tbs.k && (s.law n).buf.isNone

/-! ### Record checks (R208, R209) -/

/-- A measurement source that breaks R188 or R208. -/
def srcBad (kind n p : Nat) (w : Nat → Nat) : Bool :=
  (List.range 6).any fun j =>
    let src := bits (w (8 + j)) 0 4
    let inst := bits (w (8 + j)) 8 12
    let range := match src with
      | 1 => decide (32 ≤ inst)
      | 2 => decide (32 ≤ inst)
      | 3 => decide (128 ≤ inst)
      | 4 => decide (10 ≤ inst)
      | 5 => decide (128 ≤ inst)
      | _ => false
    let used := if kind = 1 then decide (j < 3) else decide (j < p)
    decide (7 ≤ src) || range || (src == 6 && !(kind == 1 && j == 2)) || (!used && src != 0)
      || (used && src != 0 && match kind with
        | 1 => !(src == 3 || (src == 4 && decide (inst < 3)) || src == 6)
        | 2 => !(src == 2 || (src == 4 && inst == 5))
        | 3 => !(src == 1 || src == 5 || (src == 4 && (inst == 4 || inst == 9)))
        | _ => false)
      || (kind != 1 && kind != 0 && used && src == 0) || (n % 2 == 1 && src == 6)

/-- Bits of a law parameter record outside its fields (R208). -/
def lawReserved (w : Nat → Nat) : Bool :=
  let out (i mask : Nat) : Bool := w i &&& mask != w i
  out 0 (2 ^ 22 - 1 + (2 ^ 46 - 2 ^ 24)) || out 1 (2 ^ 24 - 1) || out 2 (2 ^ 16 - 1)
    || (List.range 6).any (fun j => out (8 + j) (15 + (2 ^ 20 - 2 ^ 8)) || out (14 + j) (2 ^ 44 - 1))
    || out 20 (127 + (2 ^ 64 - 2 ^ 32)) || out 21 (2 ^ 36 - 1) || out 22 127 || out 23 (2 ^ 44 - 1)
    || (List.range 8).any fun i => w (24 + i) != 0

/-- The checks of one record of a law table. -/
def cenRecCodes (table n : Nat) (w : Nat → Nat) (s : State) : List Nat :=
  match table with
  | 0x0301 =>
    let kind := s.getF F.CEN_LAW_CTL_KIND n
    chk (bits (w 0) 0 22 % 16 != 0 || bits (w 0) 24 22 % 16 != 0) EC.ALIGN
    ++ chk (lawReserved w) EC.RESERVED_SET
    ++ chk (s.lawEn n && bits (w 0) 24 22 != s.stateBase n) EC.STATE
    ++ chk (bits (w 3) 0 36 == 0 || decide (2 ^ 35 ≤ bits (w 3) 0 36)
        || (List.range 4).any (fun i => decide (sx 36 (w (4 + i) / 2 ^ 36) < sx 36 (w (4 + i))))
        || (kind == 1 && (bits (w 20) 0 7 == 0 || decide (64 < bits (w 20) 0 7) || bits (w 20) 32 32 == 0))) EC.RANGE
    ++ chk (!pairOk 8 (bits (w 2) 0 8) (bits (w 2) 8 8) || !pairOk 36 (w 3) (w 3 / 2 ^ 36)) EC.PAIR_MISMATCH
    ++ chk (srcBad kind n (s.lawDim n).p w) 0x0304
  | 0x0302 =>
    let vars := s.getF F.CEN_LAW_GS_VARS n
    let bad (i : Nat) : Bool := decide (bits (w 0) (4 * i) 4 < 2) || decide (8 < bits (w 0) (4 * i) 4)
    let order (i : Nat) : Bool := (List.range 7).any fun j => decide (j + 1 < bits (w 0) (4 * i) 4) &&
      decide (sx 72 (w (2 + 8 * i + j)) ≤ sx 72 (w (1 + 8 * i + j)))
    chk (decide (256 ≤ w 0) || (List.range 2).any fun i => (List.range 8).any fun j =>
      decide (bits (w 0) (4 * i) 4 ≤ j) && w (1 + 8 * i + j) != 0) EC.RESERVED_SET
    ++ chk ((decide (1 ≤ vars) && bad 0) || (vars == 2 && bad 1) || order 0 || order 1) 0x0305
  | 0x0303 => []
  | _ => [EC.BAD_FIELD]

/-! ### Enables and register checks (R177, R181, R192, R208, R211, R213) -/

/-- Dimensions out of range or against the kind (R177). -/
def dimBad (kind : Nat) (d : Dim) : Bool :=
  d.n == 0 || decide (12 < d.n) || d.m == 0 || decide (4 < d.m) || decide (d.m < d.q) || d.p == 0 || decide (6 < d.p) || decide (4 < d.sr)
    || (kind == 1 && (decide (d.n < 2) || d.m != 2 || d.p != 2 || (d.sr != 2 && d.sr != 4)))
    || (kind == 2 && d.sr == 0)

/-- The phase-current inputs of an inner law (R208). -/
def State.phaseInputs (s : State) (n : Nat) : List Nat :=
  (List.range 3).filterMap fun j => if s.tb 0x0301 n (8 + j) 0 4 = 3 then some (s.tb 0x0301 n (8 + j) 8 12) else none

/-- The checks of enabling law n, in the state with the write made. -/
def lawEnableCodes (n : Nat) (s : State) : List Nat :=
  let kind := s.getF F.CEN_LAW_CTL_KIND n
  let d := s.lawDim n
  let other := if n % 2 = 0 then n + 1 else n - 1
  let od := s.lawDim other
  let ctx := s.getF F.CEN_LAW_CTL_CTX n
  let selBad (src sel : Nat) : Bool := src == 3 && decide (d.n ≤ sel)
  let nl := s.nodeLen n
  chk (kind == 0) EC.BAD_FIELD
  ++ chk ((List.range d.q).any fun i => decide (d.m ≤ bits (s.getF F.CEN_LAW_CTL_INT_OUT n) (2 * i) 2)) EC.RANGE
  ++ chk (selBad (s.getF F.CEN_LAW_GS_SRC1 n) (s.getF F.CEN_LAW_GS_SEL1 n)
      || selBad (s.getF F.CEN_LAW_GS_SRC2 n) (s.getF F.CEN_LAW_GS_SEL2 n)) EC.RANGE
  ++ chk (dimBad kind d || (s.lawEn other && (if n % 2 = 0 then decide (d.sr < od.m) else decide (od.sr < d.m)))) 0x0301
  ++ chk ((kind == 1) != (n % 2 == 0)) 0x0302
  ++ chk (s.isSvc ctx || !s.isLib ctx) 0x0303
  ++ chk (srcBad kind n d.p (s.tw 0x0301 n)
      || (kind != 1 && (s.getF F.CEN_LAW_GS_SRC1 n == 5 || s.getF F.CEN_LAW_GS_SRC2 n == 5))) 0x0304
  ++ chk (kind == 1 && (bits (s.tw 0x0301 n 20) 0 7 == 0 || decide (64 < bits (s.tw 0x0301 n 20) 0 7) || bits (s.tw 0x0301 n 20) 32 32 == 0)) EC.RANGE
  ++ (cenRecCodes 0x0302 n (s.tw 0x0302 n) s).filter (fun c => c == 0x0305)
  ++ chk (decide (sramWords < s.nodeBase n + nl) || decide (sramWords < s.stateBase n + 32)
      || (List.range 256).any fun m => m != n && s.lawEn m && (s.touchesLaw m (s.nodeBase n) nl || s.touchesLaw m (s.stateBase n) 32)) 0x0306
  ++ chk (kind == 1 && (List.range 256).any fun m => m != n && s.lawEn m && s.getF F.CEN_LAW_CTL_KIND m == 1 &&
      (s.phaseInputs n).any fun i => (s.phaseInputs m).contains i) EC.NO_RESOURCE

/-- The checks of a write of v over old to a control-engine register; s before, new with the write. -/
def cenCodes (base n v old : Nat) (s new : State) : List Nat :=
  let en := s.lawEn n
  if base = R.CEN_CTL then chk (bits v 4 4 == 0 || decide (8 < bits v 4 4)) EC.RANGE
  else if base = R.CEN_LAW_CTL then
    chk (en && v / 2 != old / 2) EC.STATE
    ++ chk (en && !bit v 0 && !(s.getB F.SAF_AX_STAT_STO (n / 2))) EC.STATE
    ++ chk (bit v 4 && bits v 1 2 == 1) EC.BAD_FIELD
    ++ (if !en && bit v 0 then lawEnableCodes n new else [])
  else if base = R.CEN_LAW_DIM then chk (en && v != old) EC.STATE
  else if base = R.CEN_LAW_GS then
    chk (en && v != old) EC.STATE
    ++ chk (bits v 0 2 == 3 || decide (6 ≤ bits v 2 3) || decide (6 ≤ bits v 5 3)) EC.BAD_FIELD
    ++ chk (bits v 24 7 == 0 || decide (64 < bits v 24 7)) EC.RANGE
  else []

/-- A law is enabled or disabled, with effect from the next T0 (R182, R213). -/
def cenFollow (base n v old : Nat) (s : State) : State :=
  if base = R.CEN_LAW_CTL ∧ bit v 0 ≠ bit old 0 then
    if bit v 0 then
      ((((s.setF F.CEN_LAW_CNT_RUNS 0 n).setF F.CEN_LAW_CNT_LATE 0 n).setF F.CEN_LAW_RUNT_MAX 0 n).modLaw n fun l => { l with drop := true })
    else s.modLaw n fun l => { l with drop := true }
  else s

/-- Reads formed from the laws' state. -/
def cenView (off : Nat) (s : State) : Option Word :=
  if off = R.CEN_STAT then some (BitVec.ofNat 32 ((List.range 256).filter s.lawEn).length)
  else if R.CEN_LAW_EN_0 ≤ off ∧ off ≤ R.CEN_LAW_EN_7 then
    some (BitVec.ofNat 32 (((List.range 32).filter fun i => s.lawEn (8 * (off - R.CEN_LAW_EN_0) + i)).foldl (fun m i => m + 2 ^ i) 0))
  else if R.CEN_PROG_BASE ≤ off ∧ off < R.CEN_PROG_BASE + 0x200 ∧ off % 16 = 12 then
    let i := (off - R.CEN_PROG_BASE) / 16
    some (BitVec.ofNat 32 ((s.rd off).toNat % 256 + min 255 (progRefs i s) * 256))
  else none

end Sys2Proof.Machine
end

