-- ==== Sys2Proof/Machine/Ecc.lean ====
section
/-! DEFINITION. The code of a 128-bit granule (R41, R42, R44): 16 data bytes with 2 check bytes, single-byte errors corrected. The spec gives the code's parameters and not its field and roots: a Reed-Solomon code over GF(2^8) with the field polynomial 0x11D is PRESUMED (log 77). -/

namespace Sys2Proof.Machine

/-- Twice a field element. -/
def gfDouble (a : Nat) : Nat := if 128 ≤ a then (2 * a) ^^^ 0x11D else 2 * a

/-- The field element 2 to the power n, times a. -/
def gfScale (a : Nat) : Nat → Nat
  | 0 => a
  | n + 1 => gfDouble (gfScale a n)

/-- Sum of the bytes, and of each byte times 2 to the power of its number counted from 1: the two check bytes of data (R42). -/
def gfSums (d : List Nat) : Nat × Nat :=
  d.zipIdx.foldl (fun c p => (c.1 ^^^ p.1, c.2 ^^^ gfScale p.1 (p.2 + 1))) (0, 0)

/-- A code block: the data bytes and their check bytes. -/
def codeBlock (d : List Nat) : List Nat := d ++ [(gfSums d).1, (gfSums d).2]

/-- What decoding finds (R42): no error, an error of one byte with its place and bits, or one that cannot be corrected. -/
inductive Decoded where
  | clean
  | oneByte (place err : Nat)
  | uncorrectable
  deriving DecidableEq, Repr

/-- Decode 18 bytes by their syndromes: both 0; one of them 0, an error of a check byte; their ratio the power of a data byte's
number; none of these. -/
def eccDecode (b : List Nat) : Decoded :=
  let c := gfSums (b.take 16)
  let s0 := c.1 ^^^ b.getD 16 0
  let s1 := c.2 ^^^ b.getD 17 0
  if s0 = 0 then (if s1 = 0 then .clean else .oneByte 17 s1)
  else if s1 = 0 then .oneByte 16 s0
  else match (List.range 16).find? fun i => gfScale s0 (i + 1) == s1 with
    | some i => .oneByte i s0
    | none => .uncorrectable

/-- The bytes of a code block after upsets. -/
def upset (b : Nat) (flips : List ByteFlip) (block : List Nat) : List Nat :=
  block.zipIdx.map fun p => (flips.filter fun f => f.block == b && f.byte == p.2).foldl (fun v f => v ^^^ f.bits % 256) p.1

/-- A block of data as a reader receives it: what decoding finds, and the data that it delivers. -/
def eccRead (b : Nat) (flips : List ByteFlip) (d : List Nat) : Decoded × List Nat :=
  let r := upset b flips (codeBlock d)
  let v := eccDecode r
  (v, match v with
    | .oneByte i e => (r.take 16).zipIdx.map fun p => if p.2 = i then p.1 ^^^ e else p.1
    | _ => r.take 16)

/-- A payload as a receiver takes it (R44, R540): its bytes, the corrected bytes by block and place, the uncorrectable blocks. -/
def eccPayload (p : List Byte) (flips : List ByteFlip) : List Byte × List (Nat × Nat) × List Nat :=
  let bs := (List.range ((p.length + 15) / 16)).map fun b =>
    (b, eccRead b flips ((List.range 16).map fun i => ((p[16 * b + i]?).getD 0).toNat))
  ((bs.flatMap fun x => x.2.2.map (BitVec.ofNat 8)).take p.length,
   bs.filterMap fun x => match x.2.1 with | .oneByte i _ => some (x.1, i) | _ => none,
   bs.filterMap fun x => if x.2.1 = .uncorrectable then some x.1 else none)

end Sys2Proof.Machine
end

