-- ==== Sys2Proof/Machine/Pwm.lean ====
section
/-! DEFINITION. PWM outputs, dead time and trips (R439 to R468): counters, duty and dithering, outputs, gate lines, trip groups and blanking, requests, register checks. -/

namespace Sys2Proof.Machine

def State.withPwm (s : State) (f : Pwm → Pwm) : State := { s with pwm := f s.pwm }
def State.pch (s : State) (n : Nat) : PwmCh := mapGet (fun _ => PwmCh.reset) s.pwm.chans n
def State.setPch (s : State) (n : Nat) (c : PwmCh) : State :=
  s.withPwm fun x => { x with chans := mapSet (fun _ => PwmCh.reset) x.chans n c }

/-- Number of the latest edge of the 400 MHz PWM clock (edges at raw multiples of 2.5 ns, log 33). -/
def State.pclk (s : State) : Nat := s.frc * 2 / 5

/-- Corrected time of a PWM edge (R29). -/
def State.pwmTime (s : State) (edge : Nat) : Nat := s.stamp (edge * 640)

/-! ### Owners (R25, R285, R444) -/

/-- The lowest channel of the owner of channel n. -/
def State.ownerLead (s : State) (n : Nat) : Option Nat :=
  if (List.range 128).any fun a => s.getB F.AX_CTL_EN a && s.getB F.AX_CTL_LOCAL a && s.getF F.AX_CTL_PWMSET a == n / 3 then some (n / 3 * 3)
  else ((List.range 16).find? fun u => s.getB F.AUX_CTL_EN u && !s.getB F.AUX_CTL_OUT u &&
      (auxChannels (s.getF F.AUX_CTL_BASE u)).contains n).map fun u => s.getF F.AUX_CTL_BASE u

def State.owned (s : State) (n : Nat) : Bool := (s.ownerLead n).isSome

/-- The channel whose MODE and PER channel n runs with. -/
def State.lead (s : State) (n : Nat) : Nat := (s.ownerLead n).getD n
def State.perOf (s : State) (n : Nat) : Nat := s.getF F.PWM_PER_PER (s.lead n)
def State.upDown (s : State) (n : Nat) : Bool := s.getB F.PWM_CFG_MODE (s.lead n)
def State.syncOf (s : State) (n : Nat) : Bool := s.owned n || s.getB F.PWM_CFG_SYNC n
def State.pwmEn (s : State) (n : Nat) : Bool := s.getB F.PWM_CTL_EN n
/-- Tied to the cell cycle now (R440). -/
def State.tied (s : State) (n : Nat) : Bool := s.syncOf n && s.cycRun

/-- P in counts, and the periods per cell cycle (R440). -/
def State.pCounts (s : State) : Nat := s.period * 2 / 5
def State.nper (s : State) (n : Nat) : Nat := s.pCounts / max 1 (s.perOf n)

/-! ### The counter (R439) -/

/-- The edge at which the counter turns, and the edge at which its period ends; none while it still counts up in MODE 1. -/
def State.turnEdge (s : State) (n : Nat) : Nat := (s.pch n).edge + (s.perOf n / 2 - (s.pch n).cnt)
def State.endEdge (s : State) (n : Nat) : Option Nat :=
  let c := s.pch n
  if s.upDown n then (if c.down then some (c.edge + c.cnt) else none) else some (c.edge + (s.perOf n - c.cnt))

/-- CNT at the present edge. -/
def State.cntOf (s : State) (n : Nat) : Nat :=
  let c := s.pch n
  let e := s.pclk - c.edge
  if c.run = false then 0
  else if s.upDown n then (if c.down then max 1 (c.cnt - e) else min (c.cnt + e) (s.perOf n / 2 - 1))
  else min (c.cnt + e) (s.perOf n - 1)

/-! ### Duty and REF (R445 to R447) -/

/-- The four bits of n reversed. -/
def bitrev4 (n : Nat) : Nat := n % 2 * 8 + bits n 1 1 * 4 + bits n 2 1 * 2 + bits n 3 1

/-- Active counts of the period in progress (R445). -/
def PwmCh.dn (c : PwmCh) : Nat := c.d / 16 + b2n (decide (bitrev4 c.dith < c.d % 16))

/-- The condition A (R446). -/
def State.condA (s : State) (n : Nat) : Bool :=
  let c := s.pch n
  let d := c.dn
  let cnt := s.cntOf n
  if s.upDown n then
    if c.down then decide (s.perOf n / 2 < cnt + d / 2) else decide (s.perOf n / 2 ≤ cnt + (d + 1) / 2)
  else decide (cnt < d)

/-! ### Requests (R461, R462) -/

/-- The number of the cycle, or of the idle tick while the cell cycle is stopped, told apart. -/
def State.cycKey (s : State) : Nat := if s.cycRun then 2 * s.tbs.k + 1 else 2 * (s.ns / 31250)

/-- An enabled event of a channel occurs: every (PRESC + 1)th raises a request. -/
def pwmEvent (n : Nat) (f : Fld) (s : State) : State :=
  if s.getB f n = false then s
  else
    let c := s.pch n
    if c.presc < s.getF F.PWM_IRQ_PRESC n then s.setPch n { c with presc := c.presc + 1 }
    else
      let s1 := (s.incF F.PWM_IRQ_CNT_COUNT n).withPwm fun x => { x with reqs := listIns x.reqs n }
      if s.getB F.PWM_IRQ_EV_EN n ∧ c.irqKey ≠ some s.cycKey then
        (s1.setPch n { c with presc := 0, since := 0, irqKey := some s.cycKey }).post 0x0804 8 n EC.OK (c.since + 1)
      else s1.setPch n { c with presc := 0, since := c.since + 1 }

/-! ### Trips: state of a group (R455) -/

/-- The active trip inputs. -/
def State.tripActive (s : State) : Nat :=
  ((List.range 8).filter fun i => s.getB F.PWM_TIN_CFG_EN i && (bit s.pwm.tin i != s.getB F.PWM_TIN_CFG_POL i)).foldl
    (fun m i => m + 2 ^ i) 0
def State.tripLatched (s : State) (g : Nat) : Bool := s.getB F.PWM_TGRP_STAT_LATCHED g
def State.tripCause (s : State) (g : Nat) : Nat := s.getF F.PWM_TGRP_CFG_MASK g &&& s.tripActive
def State.blankEnd (s : State) (g : Nat) : Option Nat := mapGet (fun _ => none) s.pwm.blank g
/-- A blanking window of a group is open at the present edge; one of 0 counts never is, nor any with BL_EN = 0 (R459). -/
def State.blanked (s : State) (g : Nat) : Bool :=
  s.getB F.PWM_TGRP_CFG_BL_EN g && (s.blankEnd g).any fun e => decide (s.pclk < e)

/-- A channel is held in its trip state (R456, R458). -/
def State.tripped (s : State) (n : Nat) : Bool := s.tripLatched (s.getF F.PWM_CFG_TGRP n) || (s.pch n).resume

/-! ### Outputs and dead time (R451 to R454) -/

/-- Both enable lines of the channel's set are on (R454). -/
def State.gateOn (s : State) (n : Nat) : Bool := bit s.pwm.gateSp (n / 3) && bit s.pwm.gateFelt (n / 3)

/-- The outputs as they leave: H and L. -/
def State.outH (s : State) (n : Nat) : Bool := s.pwmEn n && s.gateOn n && (s.pch n).h
def State.outL (s : State) (n : Nat) : Bool := s.pwmEn n && s.gateOn n && (s.pch n).l

/-- The level of an output ball: active while the output is on, of the polarity given (R453); none before PWM_CFG is first
written, when the ball is not driven active (R697). -/
def State.pinH (s : State) (n : Nat) : Option Bool :=
  if s.pwm.driven.contains n then some (s.outH n != s.getB F.PWM_CFG_POL_H n) else none
def State.pinL (s : State) (n : Nat) : Option Bool :=
  if s.pwm.driven.contains n then some (s.outL n != s.getB F.PWM_CFG_POL_L n) else none

/-- Switching of channel n's outputs opens or restarts the windows it is the source of (R459). -/
def blankOpen (n : Nat) (h l : Bool) (s : State) : State :=
  if s.outH n = h ∧ s.outL n = l then s
  else s.each (List.range 16) fun g t =>
    if t.getB F.PWM_TGRP_CFG_BL_EN g ∧ t.getF F.PWM_TGRP_CFG_BL_SRC g = n ∧ t.pwmEn n then
      t.withPwm fun x => { x with blank := mapSet (fun _ => none) x.blank g (some (t.pclk + t.getF F.PWM_TGRP_CFG_BL_LEN g)) }
    else t

/-- Change a channel, opening the windows its outputs open. -/
def modOut (n : Nat) (f : PwmCh → PwmCh) (s : State) : State := blankOpen n (s.outH n) (s.outL n) (s.setPch n (f (s.pch n)))

/-- The outputs that REF asks for, with the dead time dt, at an edge (R451). -/
def PwmCh.follow (c : PwmCh) (dt edge : Nat) : PwmCh :=
  if c.ref then
    let c1 := if c.l then { c with l := false, lOff := edge } else c
    if c1.h then { c1 with pend := none }
    else if c1.lOff + dt ≤ edge then { c1 with h := true, pend := none } else { c1 with pend := some (true, c1.lOff + dt) }
  else
    let c1 := if c.h then { c with h := false, hOff := edge } else c
    if c1.l then { c1 with pend := none }
    else if c1.hOff + dt ≤ edge then { c1 with l := true, pend := none } else { c1 with pend := some (false, c1.hOff + dt) }

/-- The trip state of a channel (R456). -/
def PwmCh.trip (c : PwmCh) (low : Bool) (dt edge : Nat) : PwmCh :=
  if low then
    if c.h then
      if dt = 0 then { c with h := false, hOff := edge, l := true, pend := none }
      else { c with h := false, hOff := edge, pend := some (false, edge + dt) }
    else match c.pend with
      | some (true, _) => { c with l := true, pend := none }
      | _ => c
  else { c with h := false, l := false, pend := none, hOff := if c.h then edge else c.hOff, lOff := if c.l then edge else c.lOff }

def State.dt (s : State) (n : Nat) : Nat := s.getF F.PWM_DT_DT n

/-- REF takes the value of A where R447 allows it; a pulse that never came sets SWALLOW (R446, R447, R452). -/
def refFollow (n : Nat) (s : State) : State :=
  let c := s.pch n
  let a := s.condA n
  if c.run = false ∨ a = c.ref ∨ (a ∧ c.rose) ∨ (!a ∧ c.fell) then s
  else
    let c1 := { c with ref := a, rose := c.rose || a, fell := c.fell || !a }
    let s1 := if s.tripped n then s.setPch n c1
      else (modOut n (fun _ => c1.follow (s.dt n) s.pclk) s).flagIf c.pend.isSome F.PWM_FLAG_SWALLOW n
    pwmEvent n F.PWM_IRQ_CMPA s1

/-- The end of a dead time: the output that waits turns on (R451). -/
def deadTimeEnd (n : Nat) (s : State) : State :=
  match (s.pch n).pend with
  | some (which, e) =>
    if e ≤ s.pclk then modOut n (fun c => if which then { c with h := true, pend := none } else { c with l := true, pend := none }) s
    else s
  | none => s

/-! ### Period starts (R439 to R441, R445, R458) -/

/-- A cleared trip ends at a period start (R458). -/
def tripResume (n : Nat) (s : State) : State :=
  if (s.pch n).resume ∧ !s.tripLatched (s.getF F.PWM_CFG_TGRP n) then
    modOut n (fun c => ({ c with resume := false }).follow (s.dt n) s.pclk) s
  else s

/-- Channel n starts a period at an edge; per is the period within the cycle. -/
def periodStart (n edge : Nat) (per : Option Nat) (s : State) : State :=
  let c := s.pch n
  let dith := match per with
    | some i => (s.tbs.k * s.nper n + i) % 16
    | none => c.starts % 16
  let s1 := s.setPch n { c with run := true, wait := false, edge := edge, cnt := 0, down := false, dith := dith,
                                starts := c.starts + 1, per := per, top := false, cmpb := none, rose := false, fell := false }
  pwmEvent n F.PWM_IRQ_ZERO (refFollow n (tripResume n s1))

/-- The last period of the cycle is in progress: the counter holds at its end (R440). -/
def State.lastPeriod (s : State) (n : Nat) : Bool := s.tied n && match (s.pch n).per with
  | some i => i + 1 == s.nper n
  | none => false

/-- The counter of channel n reaches the end of its period (R439). -/
def pwmReload (n : Nat) (s : State) : State :=
  match s.endEdge n with
  | some e => if (s.pch n).run ∧ e ≤ s.pclk ∧ !s.lastPeriod n then
      periodStart n e (if s.tied n then (s.pch n).per.map (· + 1) else none) s
    else s
  | none => s

/-- SYNC_LOST with its detail (R441). -/
def syncLost (n detail : Nat) (s : State) : State := (s.flag F.PWM_FLAG_SYNC_LOST n).post 0x0803 8 n 0x0805 detail

/-- The hold at the end of the last period reaches 256 counts (R441). -/
def pwmHoldLimit (n : Nat) (s : State) : State :=
  match s.endEdge n with
  | some e => if (s.pch n).run ∧ s.lastPeriod n ∧ e + 256 ≤ s.pclk then
      syncLost n 2 (periodStart n (e + 256) ((s.pch n).per.map (· + 1)) s)
    else s
  | none => s

/-- Round to nearest, ties away from zero. -/
def qaway (q : Rat) : Int := if q < 0 then -qfloor (1 / 2 - q) else qfloor (q + 1 / 2)

/-- The committed duty of an owned channel as a u1.23 fraction; none: none has been committed (R187, R287, R448). -/
def State.committed (s : State) (n : Nat) : Option Rat :=
  match (List.range 128).find? fun a => s.getB F.AX_CTL_EN a && s.getB F.AX_CTL_LOCAL a && s.getF F.AX_CTL_PWMSET a == n / 3 with
  | some a => match (s.law (2 * a)).force with
    | some x => (x.duty[n % 3]?).map fun d => (d : Rat) / 8388608
    | none => none
  | none =>
    ((List.range 16).find? fun u => s.getB F.AUX_CTL_EN u && !s.getB F.AUX_CTL_OUT u &&
        (auxChannels (s.getF F.AUX_CTL_BASE u)).contains n).bind fun u =>
      ((s.aux u).dutyOld[n - s.getF F.AUX_CTL_BASE u]?).map fun d => (d : Rat) / 8388608

/-- Take the committed duty of an owned channel (R448). -/
def takeDuty (n : Nat) (s : State) : State :=
  match s.owned n, s.committed n with
  | true, some d => s.setPch n { s.pch n with d := (qaway (d * 16 * (s.perOf n : Nat))).toNat }
  | _, _ => s

/-- The strobe of one SYNC channel (R440, R441, R443). -/
def syncReload (edge n : Nat) (s : State) : State :=
  let c := s.pch n
  if !s.pwmEn n || !s.syncOf n || !(c.run || c.wait) then s
  else
    let early := c.run && match c.per with
      | some i => decide (i + 1 < s.nper n)
      | none => false
    let s1 := (periodStart n edge (some 0) (takeDuty n s)).setF F.PWM_TSTAMP_V (s.pwmTime edge) n
    if early then syncLost n 1 s1 else s1

/-- The first PWM edge at which the counters can take the T0 strobe: 5.0 to 7.5 ns after T0 (R28, R440). -/
def State.strobeEdge (s : State) : Nat := ((s.tbs.t0Edge + 5) * 2 + 4) / 5

/-- The T0 strobe of the present cycle reaches the counters (R440). -/
def pwmSyncReload (s : State) : State :=
  if s.cycRun ∧ s.tbs.started ∧ s.pwm.strobe ≠ some s.tbs.k ∧ s.strobeEdge ≤ s.pclk then
    (s.withPwm fun x => { x with strobe := some s.tbs.k }).each (List.range 72) (syncReload s.strobeEdge)
  else s

/-- The cell cycle has stopped: the counters run on by themselves (R441). -/
def pwmCycleEnd (s : State) : State :=
  (s.withPwm fun x => { x with strobe := none }).each (List.range 72) fun n t =>
    let c := t.pch n
    if c.wait then periodStart n (t.pclk + 1) none t else t.setPch n { c with per := none }

/-- The top event (R439, R461). -/
def pwmTop (n : Nat) (s : State) : State :=
  let c := s.pch n
  if c.run = false ∨ c.top then s
  else if s.upDown n then
    if c.down = false ∧ s.turnEdge n ≤ s.pclk then
      refFollow n (pwmEvent n F.PWM_IRQ_TOP
        (s.setPch n { c with edge := s.turnEdge n, cnt := max c.cnt (s.perOf n / 2), down := true, top := true }))
    else s
  else if s.cntOf n + 1 = s.perOf n then pwmEvent n F.PWM_IRQ_TOP (s.setPch n { c with top := true })
  else s

/-- The counter equals CMPB at the present edge (R461). -/
def pwmCmpb (n : Nat) (s : State) : State :=
  let c := s.pch n
  if c.run ∧ c.edge ≤ s.pclk ∧ s.cntOf n = s.getF F.PWM_CMPB_CMPB n ∧ c.cmpb ≠ some s.pclk ∧
      !(s.lastPeriod n && (match s.endEdge n with | some e => decide (e ≤ s.pclk) | none => false)) then
    pwmEvent n F.PWM_IRQ_CMPB (s.setPch n { c with cmpb := some s.pclk })
  else s

/-! ### Trips and blanking (R455 to R460) -/

/-- Group g latches; forced: by FORCE (R455, R456). -/
def tripLatch (g : Nat) (forced : Bool) (s : State) : State :=
  if s.tripLatched g then s
  else
    let cause := if forced then 0 else s.tripCause g
    let s1 := ((s.setF F.PWM_TGRP_STAT_LATCHED 1 g).setF F.PWM_TGRP_STAT_FORCED (b2n forced) g).setF F.PWM_TGRP_STAT_CAUSE cause g
    let s2 := (s1.incF F.PWM_TRIP_CNT_COUNT).each ((List.range 72).filter fun n => s.getF F.PWM_CFG_TGRP n == g && s.pwmEn n) fun n t =>
      (if (t.pch n).resume then t else modOut n (fun c => c.trip (t.getB F.PWM_CFG_TSTATE n) (t.dt n) t.pclk) t).flag F.PWM_FLAG_TRIP n
    s2.post 0x0801 8 g 0x0804 (cause + b2n forced * 2 ^ 8)

/-- Every group with an active input outside its window latches (R455); all of them at one edge, from the windows as they
stand before it. -/
def tripScan (s : State) : State :=
  s.each ((List.range 16).filter fun g => decide (s.tripCause g ≠ 0) && !s.blanked g) fun g t => tripLatch g false t

/-- A trip input's filtered level takes a new value. -/
def tripInput (i : Nat) (level : Bool) (s : State) : State :=
  tripScan (s.withPwm fun x => { x with tin := putBits x.tin i 1 (b2n level) })

/-- A blanking window closes (R460). -/
def blankClose (g : Nat) (s : State) : State :=
  match s.blankEnd g with
  | some e =>
    if e ≤ s.pclk then
      let s1 := s.withPwm fun x => { x with blank := mapSet (fun _ => none) x.blank g none }
      if s1.tripCause g ≠ 0 then tripLatch g false s1 else s1
    else s
  | none => s

/-- CLEAR of a latched group (R458); a channel whose period starts at this edge resumes with it. -/
def tripClear (g : Nat) (s : State) : State :=
  if s.tripLatched g = false then s
  else
    let s1 := (s.setF F.PWM_TGRP_STAT_LATCHED 0 g).setF F.PWM_TGRP_STAT_FORCED 0 g
    let s2 := s1.each ((List.range 72).filter fun n => s.getF F.PWM_CFG_TGRP n == g && s.pwmEn n) fun n t =>
      let c := t.pch n
      let t1 := t.setPch n { c with resume := true }
      if c.run ∧ c.edge = t.pclk ∧ c.cnt = 0 ∧ c.down = false then tripResume n t1 else t1
    s2.post 0x0802 8 g EC.OK 0

/-! ### Gate lines (R27, R348, R454) and the power stages (R202, R272, R457) -/

/-- The groups that own a channel of a set: of its axis, and of attached auxiliary channels. -/
def State.setGroups (s : State) (set : Nat) : List Nat :=
  ((List.range 128).filter fun a => s.getB F.AX_CTL_EN a && s.getB F.AX_CTL_LOCAL a && s.getF F.AX_CTL_PWMSET a == set).filterMap s.groupOf
  ++ (((List.range 16).filter fun u => s.getB F.AUX_CTL_EN u && !s.getB F.AUX_CTL_OUT u && s.getB F.AUX_CTL_ATT u &&
      overlap (setChannels set) (auxChannels (s.getF F.AUX_CTL_BASE u))).map fun u => s.getF F.AUX_CTL_GRP u)

/-- What a channel's line for a set is to be (R454). -/
def State.gateWanted (s : State) (set : Nat) : Bool :=
  let gs := s.setGroups set
  if gs.isEmpty then s.safSt == SSt.OPERATE else gs.all fun g => s.gSt g != GS.STO

/-- The line of channel ch (0 the safety processor, 1 Felt) for a set takes the state the channel wants. -/
def gateChange (ch set : Nat) (s : State) : State :=
  let chans := setChannels set
  let before := chans.map fun n => (n, s.outH n, s.outL n)
  let v := b2n (s.gateWanted set)
  let s1 := s.withPwm fun x => if ch = 0 then { x with gateSp := putBits x.gateSp set 1 v } else { x with gateFelt := putBits x.gateFelt set 1 v }
  before.foldl (fun t p => blankOpen p.1 p.2.1 p.2.2 t) s1

/-- No group of a channel's set is latched and its gates are on. -/
def State.stageOk (s : State) (chans : List Nat) : Bool :=
  chans.all fun n => s.gateOn n && !s.tripLatched (s.getF F.PWM_CFG_TGRP n)

/-- An axis's stage is enabled: its gates, trips and group, or the drive's report (R202, R457, R507). -/
def State.axPower (s : State) (a : Nat) : Bool :=
  s.getB F.AX_CTL_EN a && (match s.groupOf a with | some g => s.gSt g != GS.STO | none => true)
    && (if s.getB F.AX_CTL_LOCAL a then s.stageOk (setChannels (s.getF F.AX_CTL_PWMSET a)) else bit (s.slot a).status 0)

def State.auxPower (s : State) (u : Nat) : Bool :=
  s.getB F.AUX_CTL_EN u && (if s.getB F.AUX_CTL_OUT u then bit (s.slot (128 + u)).status 0
    else s.stageOk (auxChannels (s.getF F.AUX_CTL_BASE u)))

/-- The laws of an axis note that its stage is disabled (R202). -/
def lawsOff (a : Nat) (s : State) : State :=
  if s.getB F.AX_STAT_POWER a then s
  else s.each ([2 * a, 2 * a + 1].filter fun n => (s.law n).cfg.isSome) fun n t => t.modLaw n fun l => { l with off := true }

/-- Bring POWER of every axis and channel, and the groups, to what the stages are (R272). -/
def refreshPower (s : State) : State :=
  let axs := (List.range 128).filter fun a => s.axPower a != s.getB F.AX_STAT_POWER a
  let aus := (List.range 16).filter fun u => s.auxPower u != (s.aux u).power
  if axs.isEmpty ∧ aus.isEmpty then s
  else
    let s1 := s.each axs fun a t => lawsOff a (t.setF F.AX_STAT_POWER (b2n (s.axPower a)) a)
    let s2 := s1.each aus fun u t => t.setAux u { t.aux u with power := s.auxPower u }
    s2.each (List.range 8) groupFollow

/-! ### Registers (R442, R444, R449, R450, R453, R458, R464 to R466) -/

/-- A period that P is not a whole multiple of. -/
def State.syncBad (s : State) (n : Nat) : Bool := s.pCounts % max 1 (s.perOf n) != 0 || s.getF F.PWM_PER_PER n == 0

/-- The check of an owner's enable, or of a write while it is enabled: its lowest channel (R444). -/
def ownerCodes (lead : Nat) (new : State) : List Nat :=
  chk (!new.getB F.PWM_CFG_SYNC lead || new.pCounts % max 1 (new.getF F.PWM_PER_PER lead) != 0) 0x0802

/-- The check of a write that may break the sync of an enabled SYNC or owned channel (R442, R444). -/
def pwmSyncCodes (new : State) : List Nat :=
  chk ((List.range 72).any fun n => (new.pwmEn n && new.syncOf n && new.syncBad n)
    || (new.owned n && new.lead n == n && !(ownerCodes n new).isEmpty)) 0x0802

/-- The checks of a write of v over old to a PWM register; new has the write made. -/
def pwmCodes (base n v old : Nat) (s new : State) : List Nat :=
  let en := s.pwmEn n
  if base = R.PWM_CTL then (if bit v 0 && !bit old 0 then chk (new.syncOf n && new.syncBad n) 0x0802 else [])
  else if base = R.PWM_CFG then
    chk en EC.STATE ++ chk (bit v 0 && s.getF F.PWM_PER_PER n % 2 == 1) EC.RANGE
    ++ chk (new.owned n && new.lead n == n && !(ownerCodes n new).isEmpty) 0x0802
  else if base = R.PWM_PER then
    chk (decide (v < 40) || (s.getB F.PWM_CFG_MODE n && v % 2 == 1) || decide (v ≤ 2 * s.dt n)
      || (!s.owned n && decide (v * 16 < s.getF F.PWM_DUTY_DUTY n))) EC.RANGE
    ++ chk ((en && new.getB F.PWM_CFG_SYNC n && new.syncBad n) || (new.owned n && new.lead n == n && !(ownerCodes n new).isEmpty)) 0x0802
  else if base = R.PWM_DUTY then chk (decide (16 * s.perOf n < v)) EC.RANGE ++ chk (s.owned n) 0x0801
  else if base = R.PWM_DT then chk en EC.STATE ++ chk (decide (s.perOf n ≤ 2 * v)) EC.RANGE
  else if base = R.PWM_CMPB then chk (if s.upDown n then decide (s.perOf n / 2 < v) else decide (s.perOf n ≤ v)) EC.RANGE
  else if base = R.PWM_TGRP_CFG then chk (decide (72 ≤ bits v 16 7)) EC.RANGE
  else if base = R.PWM_TGRP_CMD then
    chk (bit v 0 && bit v 1) EC.BAD_FIELD ++ chk (bit v 0 && s.tripLatched n && s.tripCause n != 0) 0x0803
  else []

/-- A channel is enabled or disabled (R453); the dead time that an output leaves behind holds on (R451). -/
def pwmEnable (n : Nat) (on : Bool) (s : State) : State :=
  let d := if s.owned n then (s.pch n).d else s.getF F.PWM_DUTY_DUTY n
  let old := s.pch n
  let c : PwmCh := { PwmCh.reset with
    d := d, since := old.since, irqKey := old.irqKey
    hOff := if old.h then s.pclk else old.hOff, lOff := if old.l then s.pclk else old.lOff }
  if !on then s.setPch n c
  else
    let s1 := s.setF F.PWM_IRQ_CNT_COUNT 0 n
    if s.tied n then s1.setPch n { c with wait := true }
    else periodStart n (s.pclk + 1) none (s1.setPch n c)

/-- A direct duty is usable at the present edge: at a reload edge it governs the whole period that starts there (R449). -/
def dutyTake (n v : Nat) (s : State) : State :=
  let c := s.pch n
  let first := c.run && decide (s.pclk ≤ c.edge) && c.cnt == 0 && !c.down
  refFollow n (s.setPch n { c with d := v, rose := c.rose && !first, fell := c.fell && !first })

/-- A new period inside a period in progress (R450). -/
def perChange (n : Nat) (s : State) : State :=
  let c := s.pch n
  let p := s.perOf n
  if c.run = false then s
  else if s.upDown n then
    if c.down = false ∧ p / 2 ≤ c.cnt + (s.pclk - c.edge) + 1 then
      refFollow n (pwmEvent n F.PWM_IRQ_TOP (s.setPch n { c with edge := s.pclk, cnt := c.cnt + (s.pclk - c.edge), down := true, top := true }))
    else refFollow n s
  else if p ≤ c.cnt + (s.pclk - c.edge) + 1 ∧ !s.lastPeriod n then
    periodStart n s.pclk (if s.tied n then c.per.map (· + 1) else none) s
  else refFollow n s

/-- What follows an accepted write to a PWM register. -/
def pwmFollow (base n v old : Nat) (s : State) : State :=
  if base = R.PWM_CTL then (if bit v 0 != bit old 0 then pwmEnable n (bit v 0) s else s)
  else if base = R.PWM_CFG then s.withPwm fun x => { x with driven := listIns x.driven n }
  else if base = R.PWM_DUTY then dutyTake n v s
  else if base = R.PWM_PER then
    if v = old then s else s.each ((List.range 72).filter fun m => s.lead m == n) perChange
  else if base = R.PWM_TIN_CFG ∨ base = R.PWM_TGRP_CFG then tripScan s
  else if base = R.PWM_TGRP_CMD then
    if bit v 1 then tripLatch n true s else if bit v 0 then tripClear n s else s
  else s

/-- One bit per channel m of 32. -/
def maskOf (n lo : Nat) (p : Nat → Bool) : Word :=
  BitVec.ofNat 32 (((List.range n).filter fun i => p (lo + i)).foldl (fun m i => m + 2 ^ i) 0)

/-- Reads formed from the channels' state. -/
def pwmView (off : Nat) (s : State) : Option Word :=
  if R.PWM_CTL ≤ off ∧ off < R.PWM_CTL + 72 * 0x80 then
    let n := (off - R.PWM_CTL) / 0x80
    let c := s.pch n
    if (off - R.PWM_CTL) % 0x80 = 0x1C then
      some (BitVec.ofNat 32 (s.cntOf n + b2n c.down * 2 ^ 17 + b2n c.ref * 2 ^ 18 + b2n (s.outH n) * 2 ^ 19 + b2n (s.outL n) * 2 ^ 20
        + b2n (s.tripped n) * 2 ^ 21 + b2n (s.gateOn n) * 2 ^ 22 + b2n (s.owned n) * 2 ^ 23 + c.dith * 2 ^ 24))
    else if (off - R.PWM_CTL) % 0x80 = 0x24 then some (BitVec.ofNat 32 c.d)
    else none
  else if R.PWM_TGRP_CFG ≤ off ∧ off < R.PWM_TGRP_CFG + 0x100 ∧ off % 16 = 8 then
    let g := (off - R.PWM_TGRP_CFG) / 16
    some (BitVec.ofNat 32 (b2n (s.tripLatched g) + b2n (decide (s.tripCause g ≠ 0)) * 2 + b2n (s.blanked g) * 4
      + s.getF F.PWM_TGRP_STAT_FORCED g * 8 + s.getF F.PWM_TGRP_STAT_CAUSE g * 2 ^ 8))
  else if off = R.PWM_TRIP_STAT then
    some (BitVec.ofNat 32 ((maskOf 16 0 s.tripLatched).toNat + s.tripActive * 2 ^ 16))
  else if off = R.PWM_EN_MAP_0 then some (maskOf 32 0 s.pwmEn)
  else if off = R.PWM_EN_MAP_0 + 4 then some (maskOf 32 32 s.pwmEn)
  else if off = R.PWM_EN_MAP_0 + 8 then some (maskOf 8 64 s.pwmEn)
  else if off = R.PWM_OWN_MAP_0 then some (maskOf 32 0 s.owned)
  else if off = R.PWM_OWN_MAP_0 + 4 then some (maskOf 32 32 s.owned)
  else if off = R.PWM_OWN_MAP_0 + 8 then some (maskOf 8 64 s.owned)
  else if off = R.PWM_GATE_MAP then some (maskOf 24 0 fun i => s.gateOn (3 * i))
  else none

end Sys2Proof.Machine
end

