-- ==== Sys2Proof/Machine/Adc.lean ====
section
/-! DEFINITION. Converters (R469 to R494): the TS sequence, scans, injected conversions, calibration, references, results, open-wire and test checks, register checks. -/

namespace Sys2Proof.Machine

def State.adcCh (s : State) (c : Nat) : AdcCh := mapGet (fun _ => AdcCh.reset) s.adc.chans c
def State.setAdc (s : State) (c : Nat) (x : AdcCh) : State :=
  { s with adc := { s.adc with chans := mapSet (fun _ => AdcCh.reset) s.adc.chans c x } }
def State.adcEn (s : State) (c : Nat) : Bool := s.getB F.ADC_CTL_EN c

/-- Raw time of the present edge, in T72 units. -/
def State.raw (s : State) : Nat := s.frc * 256

/-- The next edge of the 80 MHz converter clock at or after a raw time (edges at raw multiples of 12.5 ns, log 33). -/
def convEdge (raw : Nat) : Nat := (raw + 3199) / 3200 * 3200

/-- A field of the input at a position of converter c. -/
def State.inputCfg (s : State) (c m lo w : Nat) : Nat := bits (s.rd (R.ADC_IN_CFG + 0x100 * c + 4 * m)).toNat lo w

/-! ### Allocation (R478 to R481) -/

/-- The next TS instant, T72: that of the present cycle, or of the next one. -/
def State.nextTs (s : State) : Nat :=
  if s.tbs.started && !s.tbs.tsDone then s.tsAt else s.tbs.nextT0 * 256 + s.getF F.TBS_TS_V * 32

/-- A calibration may start now (R480). -/
def State.calRoom (s : State) (c : Nat) : Bool :=
  s.getB F.ADC_STAT_REF_OK c && (!s.cycRun || s.getF F.ADC_MASK_TS_MASK c == 0 || decide (s.now + 19400 * 256 ≤ s.nextTs))

/-- Launch a strobe at a raw time. -/
def adcLaunch (c pos : Nat) (kind : ConvKind) (late : Bool) (strobe : Nat) (s : State) : State :=
  let ok := s.getB F.ADC_STAT_REF_OK c
  let test := kind == .inj && s.getB F.ADC_CFG_INJ_TEST c
  let v : Conv := { pos := pos, kind := kind, strobe := strobe, unset := !ok || !s.getB F.ADC_STAT_CAL_VALID c, refOk := ok,
                    late := late, test := test }
  (s.setAdc c { s.adcCh c with conv := some v }).flagIf late F.ADC_FLAG_INJ_LATE c

/-- The injected request of converter c can be launched at a raw time: a test waits for its DAC (R488). -/
def State.injReady (s : State) (c strobe : Nat) : Bool :=
  (s.adcCh c).inj.isSome && !(s.getB F.ADC_CFG_INJ_TEST c && decide (strobe < (s.adcCh c).dacUntil))

/-- Allocate an idle converter at a slot boundary whose strobe falls at a raw time (R478). -/
def adcAlloc (c strobe : Nat) (s : State) : State :=
  let x := s.adcCh c
  if !s.adcEn c || x.conv.isSome || x.calEnd.isSome then s
  else match x.tsLeft with
  | p :: ps => adcLaunch c p .ts false strobe (s.setAdc c { x with tsLeft := ps })
  | [] =>
    match s.injReady c strobe, x.inj with
    | true, some late =>
      adcLaunch c (s.getF F.ADC_CFG_INJ_IN c) .inj late strobe ((s.setAdc c { x with inj := none }).setF F.ADC_STAT_INJ_PEND 0 c)
    | _, _ =>
      if s.getB F.ADC_STAT_CAL_PEND c ∧ x.inj.isNone ∧ s.calRoom c then
        ((s.setAdc c { x with calEnd := some (convEdge strobe + 19200 * 256) }).setF F.ADC_STAT_CAL_PEND 0 c).setF F.ADC_STAT_CAL_RUN 1 c
      else match x.scan with
      | p :: ps => adcLaunch c p .scan false strobe (s.setAdc c { x with scan := ps })
      | [] => s

/-! ### Requests (R476, R477, R480) -/

/-- A scan that was given its slot at the present edge gives it back: it stands behind an injected request and a calibration
of the same edge (R478, R489). -/
def unScan (c : Nat) (s : State) : State :=
  let x := s.adcCh c
  match x.conv with
  | some v => if v.kind = .scan ∧ s.raw < v.strobe + 256 then s.setAdc c { x with conv := none, scan := v.pos :: x.scan } else s
  | none => s

/-- The same of a calibration, which stands behind an injected request (R489). -/
def unCal (c : Nat) (s : State) : State :=
  match (s.adcCh c).calEnd with
  | some e =>
    if s.raw < e - 19200 * 256 + 256 then
      ((s.setAdc c { s.adcCh c with calEnd := none }).setF F.ADC_STAT_CAL_RUN 0 c).setF F.ADC_STAT_CAL_PEND 1 c
    else s
  | none => s

/-- A scan start whose first strobe can be launched at a raw time (R476). -/
def scanStart (c strobe : Nat) (s : State) : State :=
  if !s.adcEn c then s
  else if s.getB F.ADC_STAT_SCANNING c then (s.flag F.ADC_FLAG_SCAN_DROP c).incF F.ADC_CNT_DROP c
  else
    let ps := maskBits (s.getF F.ADC_MASK_SCAN_MASK c) 8
    if ps.isEmpty then s
    else adcAlloc c strobe ((s.setAdc c { s.adcCh c with scan := ps }).setF F.ADC_STAT_SCANNING 1 c)

/-- An injected request whose trigger's strobe time is strobe (R477, R478). -/
def injStart (c strobe : Nat) (s0 : State) : State :=
  let s := if s0.adcEn c ∧ (s0.adcCh c).inj.isNone then unScan c (unCal c s0) else s0
  let x := s.adcCh c
  if !s.adcEn c then s
  else if x.inj.isSome then (s.flag F.ADC_FLAG_INJ_DROP c).incF F.ADC_CNT_DROP c
  else
    let wait := s.getB F.ADC_CFG_INJ_TEST c && decide (strobe < x.dacUntil)
    if x.conv.isNone ∧ x.calEnd.isNone ∧ x.tsLeft.isEmpty ∧ !wait then adcLaunch c (s.getF F.ADC_CFG_INJ_IN c) .inj false strobe s
    else adcAlloc c strobe ((s.setAdc c { x with inj := some true }).setF F.ADC_STAT_INJ_PEND 1 c)

/-- A calibration request (R480). -/
def calStart (c : Nat) (s : State) : State := adcAlloc c (convEdge s.raw) (unScan c (s.setF F.ADC_STAT_CAL_PEND 1 c))

/-- Requests of PWM channels reach the converters that name them (R462, R476, R477). -/
def adcRequests (s : State) : State :=
  s.each s.pwm.reqs fun n t => t.each (List.range 16) fun c u =>
    let u1 := if u.getB F.ADC_CFG_INJ_SRC c ∧ u.getF F.ADC_CFG_INJ_PWM c = n then injStart c (u.pclk * 640 + 5 * 256) u else u
    if u1.getF F.ADC_CFG_SCAN_SRC c = 1 ∧ u1.getF F.ADC_CFG_SCAN_PWM c = n then scanStart c (convEdge u1.raw) u1 else u1

/-! ### The TS sequence (R472, R479, R481) -/

/-- What TS does to what converter c has in progress (R479, R481). -/
def tsAbandon (c : Nat) (s : State) : State :=
  let x := s.adcCh c
  let s1 := match x.conv with
    | some v => match v.kind with
      | .scan => s.setAdc c { x with conv := none, scan := v.pos :: x.scan }
      | .inj =>
        let s2 := (s.setAdc c { x with conv := none, inj := some true }).setF F.ADC_STAT_INJ_PEND 1 c
        if x.inj.isSome then (s2.flag F.ADC_FLAG_INJ_DROP c).incF F.ADC_CNT_DROP c else s2
      | .ts => s.setAdc c { x with conv := none }
    | none => s
  if x.calEnd.isSome then
    ((((s1.setAdc c { s1.adcCh c with calEnd := none }).setF F.ADC_STAT_CAL_RUN 0 c).setF F.ADC_STAT_CAL_PEND 1 c).flag
      F.ADC_FLAG_CAL_ABORT c).post 0x0905 9 c 0x0908 s.tbs.k
  else s1

/-- TS: every enabled converter starts its sequence, its first strobe on the timed line (R77, R472); the store is that of the new cycle (R474). -/
def adcTs (s : State) : State :=
  ({ s with adc := { s.adc with store := [] } }).each
    ((List.range 16).filter fun c => s.adcEn c && s.getF F.ADC_MASK_TS_MASK c != 0) fun c t =>
      let t1 := tsAbandon c t
      adcAlloc c (t.phaseRaw t.tsAt) (t1.setAdc c { t1.adcCh c with tsLeft := maskBits (t.getF F.ADC_MASK_TS_MASK c) 8 })

/-- Signal 4: every TS result of the cycle is in (R143, R473). -/
def adcSignal (s : State) : State :=
  if (List.range 16).any fun c => let x := s.adcCh c; !x.tsLeft.isEmpty || (match x.conv with | some v => v.kind == .ts | none => false)
  then s else raiseSignals (2 ^ 4) s

/-! ### Results (R474, R484 to R486, R488) -/

/-- A code lies beyond the open-wire limit of its input (R486). -/
def State.openCode (s : State) (c m code : Nat) : Bool :=
  let ow := s.inputCfg c m 1 2
  let lim := s.inputCfg c m 8 8
  (ow == 1 && decide (16383 ≤ code + lim)) || (ow == 2 && decide (code ≤ lim))

/-- The open-wire check of a result (R486). -/
def openCheck (c m code : Nat) (s : State) : State :=
  let b := s.openCode c m code
  let x := s.adcCh c
  let s1 := s.setAdc c { x with beyond := putBits x.beyond m 1 (b2n b) }
  let o := s.getF F.ADC_STAT_OPEN c
  if !b then s1
  else
    let s2 := (s1.setF F.ADC_STAT_OPEN (putBits o m 1 1) c).flag F.ADC_FLAG_OPEN c
    if bit o m then s2 else s2.post 0x0902 9 c 0x0905 (8 * c + m)

/-- The stored value of a TS result (R474). -/
def tsStore (c code : Nat) (v : Conv) (s : State) : State :=
  let m := v.pos
  let bad := v.unset || !v.refOk || (bit (s.getF F.ADC_STAT_OPEN c) m && s.inputCfg c m 4 1 == 1)
  let x : Int := (code : Int) - 8192 * s.inputCfg c m 0 1 - sx 12 (s.inputCfg c m 16 12)
  { s with adc := { s.adc with store := mapSet (fun _ => none) s.adc.store (8 * c + m) (if bad then none else some x) } }

/-- Signal 32 + c: the result has been taken and is one that raises it (R478). -/
def takenSignal (c res : Nat) (s : State) : State := if bit res 21 || bit res 27 then raiseSignals (2 ^ (32 + c)) s else s

/-- A scan or injected result is delivered (R484, R485). -/
def deliver (c code : Nat) (v : Conv) (last : Bool) (s : State) : State :=
  let old := (s.rd (R.ADC_RESULT + 0x100 * c)).toNat
  let ovr := bit old 31
  let res := code + (8 * c + v.pos) * 2 ^ 14 + b2n (v.kind == .inj) * 2 ^ 21 + b2n v.test * 2 ^ 22
    + b2n (!v.test && s.openCode c v.pos code) * 2 ^ 23 + b2n v.unset * 2 ^ 24 + b2n v.late * 2 ^ 25 + b2n ovr * 2 ^ 26 + b2n last * 2 ^ 27
  let time := s.stamp v.strobe
  let s1 := s.setAdc c { s.adcCh c with resTime := time }
  let s2 := if !ovr then s1
    else
      let t := (s1.flag F.ADC_FLAG_OVR c).incF F.ADC_CNT_OVR c
      t.setAdc c { t.adcCh c with ovrN := (t.adcCh c).ovrN + 1 }
  if s.getB F.ADC_CFG_DEST c then
    let base := s.getF F.ADC_BUF_BASE_BASE c
    let len := s.getF F.ADC_BUF_LEN_LEN c
    let ptr := s.getF F.ADC_BUF_PTR_PTR c
    let s3 := (s2.wr (R.ADC_RESULT + 0x100 * c) (BitVec.ofNat 32 res)).writeWords (base + ptr) [BitVec.ofNat 72 time, BitVec.ofNat 72 (res % 2 ^ 28)]
    let s4 := if len ≤ ptr + 2 then (s3.setF F.ADC_BUF_PTR_PTR 0 c).incF F.ADC_BUF_PTR_WRAPS c else s3.setF F.ADC_BUF_PTR_PTR (ptr + 2) c
    takenSignal c res s4
  else s2.wr (R.ADC_RESULT + 0x100 * c) (BitVec.ofNat 32 (res + 2 ^ 31))

/-- The OVERRUN events of the cycle that ends, one for each converter with the overruns in it (R485, R494). -/
def adcOverruns (s : State) : State :=
  s.each ((List.range 16).filter fun c => decide ((s.adcCh c).ovrN ≠ 0)) fun c t =>
    (t.setAdc c { t.adcCh c with ovrN := 0 }).post 0x0901 9 c 0x0904 (t.adcCh c).ovrN

/-- A test result against the DAC (R488). -/
def testCompare (c code : Nat) (s : State) : State :=
  let want := 4 * s.getF F.ADC_TDAC_DAC_CODE c
  if ((code : Int) - want).natAbs ≤ s.getF F.ADC_TDAC_TOL c then s
  else (s.flag F.ADC_FLAG_TEST_FAIL c).post 0x0903 9 c 0x0906 (code + want * 2 ^ 16)

/-- The end of a conversion with its code: the result, then the next slot (R470, R478). -/
def conversionDone (c code : Nat) (s : State) : State :=
  match (s.adcCh c).conv with
  | none => s
  | some v =>
    if s.raw < v.strobe + 204 * 256 then s
    else
      let code := code % 2 ^ 14
      let s1 := s.setAdc c { s.adcCh c with conv := none }
      let next := v.strobe + 200 * 256
      match v.kind with
      | .ts =>
        let s2 := adcAlloc c next (tsStore c code v (openCheck c v.pos code s1))
        if (s1.adcCh c).tsLeft.isEmpty then adcSignal s2 else s2
      | .inj =>
        let s2 := if v.test then testCompare c code s1 else openCheck c v.pos code s1
        adcAlloc c next (deliver c code v false s2)
      | .scan =>
        let last := (s1.adcCh c).scan.isEmpty
        let s2 := deliver c code v last (openCheck c v.pos code s1)
        let s3 := if !last then s2
          else
            let t := s2.setF F.ADC_STAT_SCANNING 0 c
            let ps := maskBits (s.getF F.ADC_MASK_SCAN_MASK c) 8
            if s.getF F.ADC_CFG_SCAN_SRC c = 2 ∧ ps ≠ [] then (t.setAdc c { t.adcCh c with scan := ps }).setF F.ADC_STAT_SCANNING 1 c else t
        adcAlloc c next s3

/-- A host read of ADC_RESULT: NEW clears, the sample time is latched, the result has been taken (R484). -/
def resultRead (c : Nat) (s : State) : State :=
  let res := (s.rd (R.ADC_RESULT + 0x100 * c)).toNat
  let s1 := (s.setF F.ADC_RES_TIME_V (s.adcCh c).resTime c).setF F.ADC_RESULT_NEW 0 c
  if bit res 31 then takenSignal c res s1 else s1

/-! ### Calibration and references (R480 to R482) -/

/-- A calibration completes (R481). -/
def calDone (c : Nat) (s : State) : State :=
  match (s.adcCh c).calEnd with
  | some e =>
    if s.raw < e then s
    else
      let t := s.stamp e
      let s1 := (((s.setAdc c { s.adcCh c with calEnd := none }).setF F.ADC_STAT_CAL_RUN 0 c).setF F.ADC_STAT_CAL_VALID 1 c).flag
        F.ADC_FLAG_CAL_DONE c
      adcAlloc c (convEdge s.raw) ((s1.setF F.ADC_CAL_TIME_V t c).post 0x0904 9 c EC.OK (t / 256))
  | none => s

/-- Settling time of a reference in ns (R482). -/
def settleNs (sel : Nat) : Nat := match sel with
  | 0 => 100000
  | 1 => 10000
  | _ => 2000

/-- The settling time has elapsed (R482). -/
def refSettle (c : Nat) (s : State) : State :=
  match (s.adcCh c).settle with
  | some e =>
    if s.raw < e then s
    else adcAlloc c (convEdge s.raw) ((s.setAdc c { s.adcCh c with settle := none }).setF F.ADC_STAT_REF_OK 1 c)
  | none => s

/-- Start reference settling; with an absent external reference it starts when that returns. -/
def settleStart (c : Nat) (s : State) : State :=
  let sel := s.getF F.ADC_CFG_REF_SEL c
  if sel = 1 ∧ s.getB F.ADC_REF_STAT_EXT_OK = false then s.setAdc c { s.adcCh c with settle := none }
  else s.setAdc c { s.adcCh c with settle := some (s.raw + settleNs sel * 256) }

/-- EXT_OK changes (R482). -/
def extRefChange (ok : Bool) (s : State) : State :=
  if s.getB F.ADC_REF_STAT_EXT_OK = ok then s
  else
    (s.setF F.ADC_REF_STAT_EXT_OK (b2n ok)).each
      ((List.range 16).filter fun c => s.adcEn c && s.getF F.ADC_CFG_REF_SEL c == 1) fun c t =>
        let t1 := settleStart c t
        if ok || !t.getB F.ADC_STAT_REF_OK c then t1
        else ((t1.setF F.ADC_STAT_REF_OK 0 c).flag F.ADC_FLAG_REF_LOSS c).post 0x0906 9 c 0x0907 (t.getF F.ADC_CFG_REF_SEL c)

/-- The test DAC has settled: a strobe it held is launched, late (R488). -/
def tdacSettled (c : Nat) (s : State) : State :=
  if (s.adcCh c).inj.isSome ∧ (s.adcCh c).dacUntil ≤ s.raw then adcAlloc c (convEdge s.raw) s else s

/-! ### Registers (R486, R491, R492) -/

/-- An input is named by an enabled law or an enabled auxiliary channel (R492). -/
def State.inputUsed (s : State) (i : Nat) : Bool :=
  (List.range 256).any (fun l => s.lawEn l && ((List.range 6).any (fun j =>
      s.tb 0x0301 l (8 + j) 0 4 == 3 && s.tb 0x0301 l (8 + j) 8 12 == i) || (s.getF F.CEN_LAW_CTL_KIND l == 1 && s.tb 0x0301 l 22 0 7 == i)))
  || (List.range 16).any fun u => s.getB F.AUX_CTL_EN u && s.tb 0x0404 u 9 51 1 == 1 && s.tb 0x0404 u 9 44 7 == i

/-- The checks of a write of v over old to a converter register of converter c; m is the position of ADC_IN_CFG. -/
def adcCodes (base c m v old : Nat) (s : State) : List Nat :=
  let en := s.adcEn c
  if base = R.ADC_CTL then
    chk (bit v 0 && !bit old 0 && s.getB F.ADC_CFG_DEST c && s.getF F.ADC_BUF_LEN_LEN c == 0) EC.RANGE
    ++ chk (!bit v 0 && bit old 0 && (List.range 8).any fun i => s.inputUsed (8 * c + i)) 0x0901
    ++ chk (bit v 0 && !bit old 0 && s.getF F.ADC_CFG_REF_SEL c == 1 && !s.getB F.ADC_REF_STAT_EXT_OK) 0x0902
  else if base = R.ADC_CFG then
    chk (bits v 0 2 == 3 || bits v 4 2 == 3) EC.BAD_FIELD ++ chk en EC.STATE
    ++ chk (decide (72 ≤ bits v 8 7) || decide (72 ≤ bits v 20 7)) EC.RANGE ++ chk (bit v 31 && decide (3 ≤ bits v 28 3)) 0x0903
  else if base = R.ADC_MASK then
    chk ((List.range 8).any fun i => bit old i && !bit v i && s.inputUsed (8 * c + i)) 0x0901
  else if base = R.ADC_CMD then
    chk (!en && bits v 0 3 != 0) EC.STATE ++ chk (bit v 2 && (s.getB F.ADC_STAT_CAL_PEND c || s.getB F.ADC_STAT_CAL_RUN c)) EC.BUSY
  else if base = R.ADC_BUF_BASE then
    chk (v % 2 == 1) EC.ALIGN ++ chk en EC.STATE ++ chk (decide (sramWords < v + s.getF F.ADC_BUF_LEN_LEN c)) EC.RANGE
  else if base = R.ADC_BUF_LEN then
    chk en EC.STATE ++ chk (v % 2 == 1 || decide (16382 < v) || decide (sramWords < v + s.getF F.ADC_BUF_BASE_BASE c)) EC.RANGE
  else if base = R.ADC_IN_CFG then chk (bits v 1 2 == 3 || (decide (m < 3) && bits v 1 2 != 0)) EC.BAD_FIELD
  else if base = R.ADC_TDAC then chk (bits v 16 8 == 0) EC.RANGE
  else []

/-- Enable or disable a converter (R480, R482, R492). -/
def adcEnable (c : Nat) (on : Bool) (s : State) : State :=
  let x := s.adcCh c
  let s1 := s.setAdc c { AdcCh.reset with dacUntil := x.dacUntil, beyond := x.beyond, resTime := x.resTime, ovrN := x.ovrN }
  let s2 := s1.wr (R.ADC_STAT + 0x100 * c) (BitVec.ofNat 32 (s.getF F.ADC_STAT_OPEN c * 2 ^ 8))
  let s3 := { s2 with adc := { s2.adc with store := (List.range 8).foldl (fun m i => mapSet (fun _ => none) m (8 * c + i) none) s2.adc.store } }
  if on then calStart c (settleStart c ((s3.setF F.ADC_BUF_PTR_PTR 0 c).setF F.ADC_BUF_PTR_WRAPS 0 c |>.wr (R.ADC_CNT + 0x100 * c) 0))
  else s3

/-- CLR_OPEN (R486). -/
def clrOpen (c : Nat) (s : State) : State := s.setF F.ADC_STAT_OPEN (s.getF F.ADC_STAT_OPEN c &&& (s.adcCh c).beyond) c

/-- What follows an accepted write to a converter register. -/
def adcFollow (base c v old : Nat) (s : State) : State :=
  if base = R.ADC_CTL then (if bit v 0 != bit old 0 then adcEnable c (bit v 0) s else s)
  else if base = R.ADC_CMD then
    let s1 := if bit v 1 then injStart c (convEdge s.raw) s else s
    let s2 := if bit v 2 then calStart c s1 else s1
    let s3 := if bit v 0 then scanStart c (convEdge s2.raw) s2 else s2
    if bit v 3 then clrOpen c s3 else s3
  else if base = R.ADC_MASK then adcAlloc c (convEdge s.raw) s
  else if base = R.ADC_TDAC then s.setAdc c { s.adcCh c with dacUntil := s.raw + 5000 * 256 }
  else s

/-- The cell cycle has stopped: calibrations that waited for room before TS find it (R480). -/
def adcCycleEnd (s : State) : State :=
  s.each ((List.range 16).filter fun c => s.getB F.ADC_STAT_CAL_PEND c) fun c t => adcAlloc c (convEdge t.raw) t

/-- Reads formed from the converters' state. -/
def adcView (off : Nat) (s : State) : Option Word :=
  if off = R.ADC_EN_MAP then some (maskOf 16 0 s.adcEn)
  else if R.ADC_OPEN_MAP_0 ≤ off ∧ off ≤ R.ADC_OPEN_MAP_0 + 12 then
    some (maskOf 32 (8 * (off - R.ADC_OPEN_MAP_0)) fun i => bit (s.getF F.ADC_STAT_OPEN (i / 8)) (i % 8))
  else none

end Sys2Proof.Machine
end

