-- ==== Sys2Proof/Machine/Twl.lean ====
section
/-! DEFINITION. The Twill field bus (R495 to R535): mode records and their schedule, the frames of a cycle, returning copies, path delays, branch states, mode switches, service transfers. -/

namespace Sys2Proof.Machine

def State.withTwl (s : State) (f : Twl → Twl) : State := { s with twl := f s.twl }
def State.br (s : State) (b : Nat) : Br := mapGet (fun _ => Br.reset) s.twl.brs b
def State.setBr (s : State) (b : Nat) (x : Br) : State :=
  s.withTwl fun t => { t with brs := mapSet (fun _ => Br.reset) t.brs b x }

/-! Branch states (R526). -/
namespace BrSt
def OFF : Nat := 0
def START : Nat := 1
def SYNC : Nat := 2
def RUN : Nat := 3
def FAULT : Nat := 4
end BrSt

def State.brSt (s : State) (b : Nat) : Nat := s.getF F.TWL_STAT_STATE b
def State.twlMode (s : State) : Nat := s.getF F.TWL_G_MODE_MODE
def State.nodes (s : State) (b : Nat) : Nat := s.getF F.TWL_CFG_NODES b

/-- The ports a branch uses (R527). -/
def State.ports (s : State) (b : Nat) : List Nat :=
  if s.getB F.TWL_CFG_PAIRED b then [s.getF F.TWL_CFG_END b] else [0, 1]

/-- The ports whose copies the branch's conditions name: both, the partner's by its echo; the unit's own alone without a partner
(R527, R609). -/
def State.condPorts (s : State) (b : Nat) : List Nat :=
  if s.getF F.LND_STAT_ROLE = 1 ∧ s.getB F.LND_STAT_PARTNER ∧ 2 ≤ s.getF F.LND_STAT_PSTATE ∧ s.getF F.LND_STAT_PSTATE ≤ 4 then [0, 1]
  else s.ports b

/-! ### Mode records (R502, R503, R530) -/

/-- The words of a mode record. -/
def State.modeRec (s : State) (b m : Nat) : Nat → Nat := s.tw 0x0A01 (8 * b + m)

def recValid (w : Nat → Nat) : Bool := bit (w 0) 0
def recPoll (w : Nat → Nat) : Nat := bits (w 0) 16 16
def recWin (w : Nat → Nat) : Nat := bits (w 0) 32 16
def recAx (w : Nat → Nat) (n : Nat) : Nat := bits (w 3) (3 * n) 3
def recAux (w : Nat → Nat) (n : Nat) : Nat := bits (w 4) (2 * n) 2

/-- Bytes of node n's POLL slice and CMD slice. -/
def pollSlice (w : Nat → Nat) (n : Nat) : Nat := 16 + 64 * recAx w n + 32 * recAux w n
def cmdSlice (w : Nat → Nat) (n : Nat) : Nat := 4 + 4 * (recAx w n + recAux w n)

def sumOver (l : List Nat) (f : Nat → Nat) : Nat := l.foldl (fun a n => a + f n) 0

/-- Payload bytes of a frame type (R502); poll is the mask of polled nodes. -/
def payload (type nodes poll : Nat) (w : Nat → Nat) : Nat :=
  match type with
  | 1 => 41
  | 2 => 9 + sumOver (maskBits poll nodes) (pollSlice w)
  | 3 => 32 * sumOver (List.range nodes) (recAx w)
  | 4 => sumOver (List.range nodes) (cmdSlice w)
  | _ => 69

/-- Duration in ns. -/
def frameNs (type nodes : Nat) (w : Nat → Nat) : Nat := (28 + payload type nodes (recPoll w) w) * 10

/-- The gate openings of a record in units of 125 ps after T0, in their order: type and time (R501, R503). -/
def gates (w : Nat → Nat) (ts tc : Nat) : List (Nat × Nat) :=
  [(1, 40 * 8), (2, ts + bits (w 1) 0 32 * 8)] ++ (if bits (w 2) 0 32 = 0 then [] else [(5, bits (w 2) 0 32 * 8)])
  ++ [(3, bits (w 1) 32 32 * 8), (4, (tc + 100) * 8)]

/-- Gates too close to the one before. -/
def gatesBad (nodes win : Nat) (w : Nat → Nat) : List (Nat × Nat) → Bool
  | a :: b :: r => decide (b.2 < a.2 + (frameNs a.1 nodes w + 120 + 2 * win) * 8) || gatesBad nodes win w (b :: r)
  | _ => false

/-- The schedule of a valid record breaks R503. -/
def scheduleBad (nodes dmax : Nat) (w : Nat → Nat) (s : State) : Bool :=
  let ts := s.getF F.TBS_TS_V
  let tr := s.getF F.TBS_TR_V
  let ofs := bits (w 1) 0 32
  let safe := bits (w 1) 32 32
  gatesBad nodes (recWin w) w (gates w ts s.tcNs) || decide (ofs < 1000)
    || decide (tr < ts + (ofs + frameNs 2 nodes w + dmax) * 8) || decide (safe * 8 < tr + 4000 * 8)
    || decide (s.tcNs < safe + frameNs 3 nodes w)

/-- Enabled axes or auxiliary channels that a record leaves without a slot (R497). -/
def slotsShort (b nodes : Nat) (w : Nat → Nat) (s : State) : Bool :=
  (List.range nodes).any fun n => decide (recAx w n < (s.nodeAxes b n).length) || decide (recAux w n < (s.nodeAux b n).length)

/-- The checks of a mode record (R503, R521, R530). -/
def twlRecCodes (r : Nat) (w : Nat → Nat) (s : State) : List Nat :=
  let b := r / 8
  let m := r % 8
  let n := s.nodes b
  let swp := s.getB F.TWL_G_MODE_SWP
  let live := s.brSt b != BrSt.OFF && (m == s.twlMode || (swp && m == s.getF F.TWL_G_MODE_NEXT))
  let poll := recPoll w
  chk (bits (w 0) 1 15 != 0 || decide (2 ^ 48 ≤ w 0) || decide (2 ^ 64 ≤ w 1) || decide (2 ^ 32 ≤ w 2) || decide (2 ^ 48 ≤ w 3)
      || decide (2 ^ 32 ≤ w 4)) EC.RESERVED_SET
  ++ chk (live || swp) EC.STATE
  ++ chk (decide (recWin w < 60) || decide (1000 < recWin w)) EC.RANGE
  ++ chk (decide (2 ^ n ≤ poll) || (List.range 16).any (fun i => decide (4 < recAx w i) || decide (2 < recAux w i)
        || (decide (n ≤ i) && (recAx w i != 0 || recAux w i != 0)) || ((recAx w i != 0 || recAux w i != 0) && !bit poll i))) 0x0A01
  ++ chk (recValid w && scheduleBad n (s.getF F.TWL_CFG_DMAX b) w s) 0x0A02
  ++ chk (slotsShort b n w s) 0x0A03

/-- The record of a branch's mode in force. -/
def State.rec0 (s : State) (b : Nat) : Nat → Nat := s.modeRec b s.twlMode

/-- A remote enable that needs more slots than a valid record of the branch gives (R497). -/
def slotRefused (b : Nat) (new : State) : Bool :=
  (List.range 8).any fun m => recValid (new.modeRec b m) && slotsShort b (new.nodes b) (new.modeRec b m) new

/-- A remote auxiliary channel without a matching axis on its node (R497). -/
def auxNodeBad (u : Nat) (new : State) : Bool :=
  match new.nodeAxes (new.getF F.AUX_CTL_BRANCH u) (new.getF F.AUX_CTL_NODE u) with
  | [] => true
  | a :: _ => new.getB F.AUX_CTL_ATT u && new.groupOf a != some (new.getF F.AUX_CTL_GRP u)

/-! ### Frames (R498, R501, R505, R508, R509) -/

/-- The polled nodes in the branch's state (R526). -/
def State.polled (s : State) (b : Nat) : Nat :=
  if s.brSt b = BrSt.SYNC ∨ s.brSt b = BrSt.RUN then recPoll (s.rec0 b) else 0

/-- Payload bytes of a frame of the branch now. -/
def State.payloadNow (s : State) (b type : Nat) : Nat := payload type (s.nodes b) (s.polled b) (s.rec0 b)

/-- Gate opening of a frame of the present cycle under a record, T72 (R501, R525). -/
def State.gateOf (s : State) (b : Nat) (w : Nat → Nat) (type : Nat) : Nat :=
  let t0 := s.tbs.t0 * 256
  match type with
  | 1 => t0 + 40 * 256
  | 2 => s.tsAt + bits (w 1) 0 32 * 256
  | 3 => t0 + bits (w 1) 32 32 * 256
  | 4 => s.tcAt + 100 * 256
  | _ => if bits (w 2) 0 32 ≠ 0 then t0 + bits (w 2) 0 32 * 256
    else s.tsAt + (bits (w 1) 0 32 + frameNs 2 (s.nodes b) w + 120 + 2 * recWin w) * 256

def State.gateAt (s : State) (b type : Nat) : Nat := s.gateOf b (s.rec0 b) type

/-- A mode record as Felt holds it, where its pairs are valid (R47, R519). -/
def State.feltRec (s : State) (r : Nat) : Option (Nat → Nat) :=
  let ps := mapGet (fun _ => []) s.twl.felt r
  if ps.length = 5 ∧ ps.all fun p => pairOk 64 p.1 p.2 then some fun i => (ps.getD i (0, 0)).1 else none

/-- The times between which Felt holds the gates of a branch open for a frame of the present cycle (R519, R520, R596). -/
def State.feltGate (s : State) (b type : Nat) : Option (Nat × Nat) :=
  if s.twl.shut ∨ s.brSt b = BrSt.OFF then none
  else (s.feltRec (8 * b + s.twlMode)).bind fun w =>
    if recValid w then
      let o := s.gateOf b w type
      some (o - 20 * 256, o + (frameNs type (s.nodes b) w + 20) * 256)
    else none

/-- Symbols of a frame that begins now and pass before Felt's gate closes. -/
def State.gateSymbols (s : State) (b type : Nat) : Nat := match s.feltGate b type with
  | some (o, c) => if o ≤ s.now then (c - s.now) / 2560 else 0
  | none => 0
/-- Frame types a branch sends in a state (R526). -/
def sends (st type : Nat) : Bool :=
  st == BrSt.SYNC || st == BrSt.RUN || (st == BrSt.START && (type == 1 || type == 2)) || (st == BrSt.FAULT && type == 1)

/-- TTX of a frame out of a port (R76, R501): the corrected time at which its start of frame, 160 ns after the gate that opens at
the present edge, passes the ball. -/
def State.ttx (s : State) (b port : Nat) : Nat :=
  (s.tbs.par.time (256 * (s.frc + 160))).toNat + (if port = 0 then s.getF F.TWL_DLY_A_TXD b else s.getF F.TWL_DLY_B_TXD b)

/-- Mean of the kept samples of a node's path delays (R515; rounding open, log 20). -/
def State.pdly (s : State) (b n : Nat) : Nat × Nat :=
  let h := mapGet (fun _ => []) (s.br b).hist n
  let k : Rat := ((max 1 h.length : Nat) : Rat)
  ((qopen 8 (h.foldl (fun a p => a + p.1) 0 / k)).toNat, (qopen 9 (h.foldl (fun a p => a + p.2) 0 / k)).toNat)

/-- SYNC payload from byte 16 on, but HOP and PAIR (R501). -/
def syncBody (b : Nat) (s : State) : List Byte :=
  let k := s.tbs.k
  let dn := k % max 1 (s.nodes b)
  let p := s.pdly b dn
  let x := s.br b
  leBytes k 8
  ++ leBytes (s.twlMode + s.getF F.TWL_G_MODE_SWP * 8 + s.getF F.TWL_G_MODE_NEXT * 16) 1
  ++ leBytes (s.getF F.TWL_G_SW_AT_SW_AT) 8 ++ leBytes (s.polled b) 2 ++ leBytes (x.resync ||| x.asked) 2 ++ leBytes dn 1
  ++ leBytes p.1 4 ++ leBytes p.2 4

/-- A command PDU (R381): seed, connection, whether torque is off, of the cycle in which it applies. -/
def commandPdu (conn seed cyc : Nat) (sto : Bool) : List Byte :=
  let d := leBytes conn 2 ++ leBytes cyc 4 ++ leBytes (b2n sto) 2 ++ leBytes 0 4
  d ++ leBytes (crc32c seed d) 4

def State.conn (s : State) (a : Nat) : Nat := s.pb 0x0603 a 6 0 32

/-- SAFE payload (R508): the two command PDUs of each slot, zeros for an empty one. -/
def safeBody (b : Nat) (s : State) : List Byte :=
  let w := s.rec0 b
  (List.range (s.nodes b)).flatMap fun n => (List.range (recAx w n)).flatMap fun j =>
    match (s.nodeAxes b n)[j]? with
    | some a =>
      let sto := s.getB F.SAF_AX_STAT_STO a
      commandPdu (s.conn a) (s.conn a) (s.tbs.k + 1) sto ++ commandPdu (s.conn a) (2 ^ 32 - 1 - s.conn a) (s.tbs.k + 1) sto
    | none => leBytes 0 32

/-- CRC-16 with polynomial 0x1021, initial value 0xFFFF, no reflection, no final XOR (R508). -/
def crc16 (data : List Byte) : Nat :=
  data.foldl (fun c b => (List.range 8).foldl (fun x _ => if x / 2 ^ 15 % 2 = 1 then (x * 2 % 2 ^ 16) ^^^ 0x1021 else x * 2 % 2 ^ 16)
    (c ^^^ (b.toNat * 2 ^ 8))) 0xFFFF

/-- The stationary vector of an axis's inner law to be sent: the one in the commit buffer, or the one held (R39, R187, R509). -/
def State.lawSend (s : State) (n : Nat) : List Int :=
  match (s.law n).buf <|> (s.law n).force with
  | some o => o.vec
  | none => []

/-- The top 16 bits of a mantissa, rounded to nearest with ties away from zero, saturating (R509). -/
def top16 (m : Int) : Int := clampI (-32768) 32767 (qaway ((m : Rat) / 1048576))

/-- One node's command slice (R508, R509). -/
def cmdBody (b n : Nat) (s : State) : List Byte :=
  let w := s.rec0 b
  let axs := s.nodeAxes b n
  let aus := s.nodeAux b n
  let en := axs.any (fun a => s.lawEn (2 * a)) || !aus.isEmpty
  let v16 (z : Int) : List Byte := leBytes (toBits 16 z) 2
  let slots := (List.range (recAx w n)).flatMap (fun j => match axs[j]? with
      | some a => let u := s.lawSend (2 * a); v16 (top16 (u.getD 0 0)) ++ v16 (top16 (u.getD 1 0))
      | none => leBytes 0 4)
    ++ (List.range (recAux w n)).flatMap (fun j => match aus[j]? with
      | some u => v16 (s.aux u).va ++ v16 (s.aux u).vb
      | none => leBytes 0 4)
  let d := leBytes (b2n en + b2n (Config.fclr b n s.tbs.k) * 2) 1 ++ leBytes 0 1 ++ slots
  d ++ leBytes (crc16 d) 2

/-- SVC payload (R524). -/
def svcBody (x : Svc) : List Byte := leBytes x.node 1 ++ x.req ++ leBytes 0 36

/-- The payload of a frame out of a port; pair is byte 47 of SYNC. -/
def bodyOf (b type port pair : Nat) (s : State) : List Byte :=
  match type with
  | 1 => leBytes (s.ttx b port) 9 ++ syncBody b s ++ leBytes 0 1 ++ leBytes pair 1
  | 2 => leBytes (s.ttx b port) 9 ++ leBytes 0 (payload 2 (s.nodes b) (s.polled b) (s.rec0 b) - 9)
  | 3 => safeBody b s
  | 4 => (List.range (s.nodes b)).flatMap fun n => cmdBody b n s
  | _ => match (s.br b).svc with
    | some x => svcBody x
    | none => leBytes 0 69

/-- Bytes 1 to the last payload byte of a frame (R498). -/
def frameBytes (b type dir : Nat) (body : List Byte) (s : State) : List Byte :=
  leBytes (type + dir * 16) 1 ++ leBytes s.twlMode 1 ++ leBytes body.length 2 ++ leBytes s.tbs.k 2 ++ (let _ := b; body)

/-- The FCS (R498). -/
def withFcs (bytes : List Byte) : List Byte := bytes ++ leBytes (crc32c 0xFFFFFFFF bytes) 4

/-- A frame of a type may leave now: its gate is open, the branch's state sends it, it has not left in this cycle. -/
def State.sendDue (s : State) (b type : Nat) : Bool :=
  s.cycRun && s.tbs.started && sends (s.brSt b) type && decide (s.gateAt b type ≤ s.now) && !(s.br b).sent.contains type
    && (type != 5 || (s.br b).svc.isSome || bits (s.rec0 b 2) 0 32 != 0)

/-- Send a frame out of the ports the branch uses (R501), as far as Felt's gate lets it: of the 17 symbols before byte 1 on (R519,
R529). -/
def frameSend (b type pair : Nat) (s : State) : State :=
  let s1 := s.each (s.ports b) fun p t =>
    let x := t.br b
    let t1 := t.setBr b { x with ttx := mapSet (fun _ => 0) x.ttx (2 * type + p) (t.ttx b p) }
    let n := t.gateSymbols b type
    if n ≤ 17 then t1 else t1.emit (.twill b p ((withFcs (frameBytes b type p (bodyOf b type p pair t) t)).take (n - 17)))
  s1.setBr b { s1.br b with sent := listIns (s1.br b).sent type }

/-- A node's delivery time E in units of 1/256 ns: e is the last byte of its CMD slice (R504). -/
def State.delivery (s : State) (b n : Nat) : Nat :=
  let w := s.rec0 b
  let e := 6 + sumOver (List.range (n + 1)) (cmdSlice w)
  let p := s.pdly b n
  (16 + e + 1) * 10 * 256 + min p.1 p.2

def State.lateNodes (s : State) (b : Nat) : List Nat :=
  (List.range (s.nodes b)).filter fun n => decide (1850 * 256 < 100 * 256 + s.delivery b n)

/-- The check of the delivery bound in RUN (R504). -/
def cmdLate (b : Nat) (s : State) : State :=
  if s.brSt b ≠ BrSt.RUN then s
  else
    let bad := s.lateNodes b
    let s1 := s.each (List.range (s.nodes b)) fun n t => t.setF F.TWL_N_STAT_CMD_LATE (b2n (bad.contains n)) b n
    s1.each bad fun n t =>
      if bit (t.br b).late n then t
      else ((t.setBr b { t.br b with late := (t.br b).late ||| 2 ^ n }).flag F.TWL_FLAG_CMD_LATE b).post 0x0A07 10 b 0x0A0C n

/-- One scheduled frame of a branch (R501, R504, R510); pair is byte 47 of SYNC. -/
def twlSend (b type pair : Nat) (s : State) : State :=
  if !s.sendDue b type then s
  else
    let s1 := frameSend b type pair s
    if type = 2 then
      let t := s1.setF F.TWL_STAT_NODE_OK 0 b
      t.each (List.range (s.nodes b)) fun n u => u.setF F.TWL_N_STAT_VALID 0 b n
    else if type = 4 then cmdLate b s1
    else s1

/-! ### Returning copies (R499, R505, R506, R510 to R518) -/

/-- Signal 16 + b, once in a cycle (R510). -/
def branchSignal (b : Nat) (s : State) : State :=
  if (s.br b).sig then s else raiseSignals (2 ^ (16 + b)) (s.setBr b { s.br b with sig := true })

/-- Signals 16 to 23 of the branches that have raised none in this cycle: they are raised at TR (R143, R510). -/
def branchesDue (s : State) : Nat :=
  ((List.range 8).filter fun b => !(s.br b).sig).foldl (fun m b => m + 2 ^ (16 + b)) 0

/-- Every branch's signal of the cycle has been raised. -/
def branchesTold (s : State) : State := s.each (List.range 8) fun b t => t.setBr b { t.br b with sig := true }

/-- First byte of a polled node's slice, by frame byte number (R505). -/
def sliceAt (poll n : Nat) (w : Nat → Nat) : Nat := 16 + sumOver (maskBits poll n) (pollSlice w)

/-- Slot values of 32 bytes of slot data (R506). -/
def slotOf (d : List Byte) (aux : Bool) (valid : Bool) : SlotVals :=
  let z (i n : Nat) : Int := sx (8 * n) (leAt d i n)
  { ia := z 0 2, ib := z 2 2, ic := if aux then 0 else z 4 2, vdc := if aux then 0 else leAt d 6 2, pos := if aux then 0 else z 8 6,
    spd := if aux then 0 else z 14 4, status := leAt d 18 2, tsofs := if aux then 0 else z 20 2, temp := z 22 2,
    latch := if aux then 0 else z 24 6, valid := valid }

/-- A slot's values are valid (R510). -/
def slotGood (run : Bool) (nstat win : Nat) (v : SlotVals) : Bool :=
  run && bit nstat 0 && !bit nstat 3 && !bit v.status 2 && decide (v.tsofs.natAbs ≤ 8 * win)

/-- One reply PDU: whether it is valid, STO_ACTIVE, DATA (R381, R382). -/
def replyPdu (d : List Byte) (conn seed k : Nat) : Bool × Bool × Nat :=
  (leAt d 0 2 == conn % 2 ^ 16 && leAt d 2 4 == k % 2 ^ 32 && leAt d 12 4 == crc32c seed (d.take 12), bit (leAt d 6 2) 0, leAt d 8 4)

/-- The channels' check of one axis's reply PDUs (R382, R383). -/
def replyCheck (a : Nat) (d : List Byte) (s : State) : State :=
  let p := replyPdu (d.take 16) (s.conn a) (s.conn a) s.tbs.k
  let q := replyPdu (d.drop 16) (s.conn a) (2 ^ 32 - 1 - s.conn a) s.tbs.k
  pduCheck a (b2n (!p.1) + b2n (!q.1)) (p.2.1 && q.2.1) (s.posAgrees a p.2.2 && s.posAgrees a q.2.2) s

/-- Path delays and node error from a slice (R515, R516). -/
def pathUpdate (b n : Nat) (d : List Byte) (s : State) : State :=
  let x := s.br b
  let m (at_ type port : Nat) : Int := sx 32 ((leAt d at_ 4 + 2 ^ 33 - mapGet (fun _ => 0) x.pttx (2 * type + port) % 2 ^ 32) % 2 ^ 32)
  let mA := m 4 2 0
  let mB := m 8 2 1
  let s1 := match x.dPrev with
    | some dd =>
      let pa : Rat := (dd + (mA : Rat) - (mB : Rat)) / 2
      let h := mapGet (fun _ => []) x.hist n
      s.setBr b { x with hist := mapSet (fun _ => []) x.hist n (((pa, dd - pa) :: h).take 16) }
    | none => s
  let p := s1.pdly b n
  let dev := sx 32 (toBits 32 (mA - p.1))
  let win := recWin (s.rec0 b) * 256
  let edge := decide (win < 2 * dev.natAbs)
  let calm := decide (4 * dev.natAbs ≤ win)
  let was := s.getB F.TWL_N_STAT_EDGE b n
  let y := s1.br b
  let rs := if edge then y.resync ||| 2 ^ n else if calm then mclr y.resync (2 ^ n) else y.resync
  let s2 := ((((s1.setBr b { y with resync := rs }).setF F.TWL_N_PDLY_PDLY p.1 b n).setS F.TWL_N_DEV_DEV dev b n).setF
    F.TWL_N_STAT_EDGE (b2n (edge || (was && !calm))) b n).setF F.TWL_N_STAT_RESYNC (b2n (bit (rs ||| y.asked) n)) b n
  if edge && !was then (s2.flag F.TWL_FLAG_EDGE b).post 0x0A02 10 b 0x0A08 (n + 2 ^ 8) else s2

/-- A valid slice of a node is taken (R505, R506, R510, R512). -/
def takeSlice (b n port : Nat) (d : List Byte) (s : State) : State :=
  let w := s.rec0 b
  let nstat := leAt d 0 2
  let win := recWin w
  let run := s.brSt b == BrSt.RUN
  let x := s.br b
  let s1 := s.setBr b { x with asked := putBits x.asked n 1 (bits nstat 1 1) }
  let s2 := ((s1.setF F.TWL_N_STAT_NSTAT nstat b n).setF F.TWL_N_STAT_VALID 1 b n).setF F.TWL_N_STAT_VIA_B (b2n (port == 1)) b n
  let s3 := s2.setF F.TWL_STAT_NODE_OK (s2.getF F.TWL_STAT_NODE_OK b ||| 2 ^ n) b
  let put (key at_ : Nat) (aux : Bool) (t : State) : State :=
    let v := slotOf ((d.drop at_).take 32) aux false
    t.withTwl fun q => { q with slots := mapSet (fun _ => SlotVals.reset) q.slots key { v with valid := slotGood run nstat win v } }
  let axs := (s.nodeAxes b n).zipIdx.filter fun p => decide (p.2 < recAx w n)
  let aus := (s.nodeAux b n).zipIdx.filter fun p => decide (p.2 < recAux w n)
  let s4 := s3.each axs fun p t => put p.1 (12 + 32 * p.2) false t
  let s5 := s4.each aus fun p t => put (128 + p.1) (12 + 32 * (recAx w n + p.2)) true t
  let s6 := s5.each axs fun p t => driveInputs p.1 t
  refreshPower (pathUpdate b n d s6)

/-- One node's slice of a POLL copy (R512, R513): bytes, and the edge at which its last byte passed. -/
def sliceIn (b n port edge : Nat) (d : List Byte) (s : State) : State :=
  let len := d.length
  if len < 16 ∨ leAt d (len - 4) 4 ≠ crc32c 0xFFFFFFFF (d.take (len - 4)) then s
  else
    let x := s.br b
    let keep := s.setBr b { x with got := mapSet (fun _ => none) x.got n (some (edge, port, d)) }
    match mapGet (fun _ => none) x.got n with
    | none => takeSlice b n port d keep
    | some (e, _, d0) =>
      let diff := if d0 = d then s else (s.flag F.TWL_FLAG_DIFF b).incF F.TWL_N_CNT_DIFF b n
      if edge < e ∨ (edge = e ∧ port = 0) then takeSlice b n port d (diff.setBr b { diff.br b with got := mapSet (fun _ => none) x.got n (some (edge, port, d)) })
      else diff

/-- The request that loads a layout (R525). -/
def layoutReq (b n m : Nat) (s : State) : List Byte :=
  let w := s.modeRec b m
  let nodes := s.nodes b
  let poll := recPoll w
  let pre (f : Nat → Nat) : Nat := sumOver (List.range n) f
  let d := leBytes (n + 16 * m + 1) 1 ++ leBytes 2 1 ++ leBytes m 1 ++ leBytes (recAx w n + recAux w n * 16 + bits poll n 1 * 64) 1
    ++ leBytes (s.getF F.TBS_TS_V / 8 + bits (w 1) 0 32) 4 ++ leBytes (bits (w 1) 32 32) 4 ++ leBytes (bits (w 2) 0 32) 4 ++ leBytes (recWin w) 2
    ++ leBytes (sliceAt poll n w) 2 ++ leBytes (7 + 32 * pre (recAx w)) 2 ++ leBytes (7 + pre (cmdSlice w)) 2
    ++ leBytes (payload 2 nodes poll w) 2 ++ leBytes (payload 4 nodes poll w) 2
  d ++ leBytes 0 (32 - d.length)

/-- The next layout to load takes the branch's service transfer when it is free (R525). -/
def layoutNext (b : Nat) (s : State) : State :=
  let x := s.br b
  match x.svc, x.lay with
  | none, (n, m) :: _ => s.setBr b { x with svc := some { node := n, req := layoutReq b n m s, start := s.tbs.k, host := none } }
  | _, _ => s

/-- A service response (R524, R525). -/
def svcResponse (b : Nat) (d : List Byte) (s : State) : State :=
  let x := s.br b
  match x.svc with
  | none => s
  | some v =>
    if leAt d 32 4 ≠ crc32c 0xFFFFFFFF (d.take 32) ∨ leAt d 0 1 ≠ leAt v.req 0 1 then s
    else match v.host with
    | some ptr =>
      layoutNext b (((s.setBr b { x with svc := none }).emit (.dmaBytes (ptr + 32) (d.take 32))).completeHeld (0xA0002 + b * 2 ^ 24) EC.OK 0 0)
    | none =>
      let accepted := leAt d 2 1 == 1
      layoutNext b (s.setBr b { x with svc := none, lay := if accepted then x.lay.drop 1 else x.lay })

/-- A copy within its window at a port: its slices (R512, R513). body is byte 1 on, without the FCS. -/
def copyTake (b port time : Nat) (bytes : List Byte) (s : State) : State :=
  let type := leAt bytes 0 1 % 16
  if type = 2 then
    let w := s.rec0 b
    let poll := s.polled b
    let s1 := s.each (maskBits poll (s.nodes b)) fun n t =>
      let i := sliceAt poll n w
      let len := pollSlice w n
      sliceIn b n port ((time + (i + len) * 10 * 256 + 255) / 256) ((bytes.drop (i - 1)).take len) t
    let x := s1.br b
    let dir := leAt bytes 0 1 / 16 % 2
    let ttx := if (s.ports b).contains dir then x.ttx else mapSet (fun _ => 0) x.ttx (4 + dir) (leAt bytes 6 9)
    let s2 := s1.setBr b { x with ended := x.ended ||| 2 ^ port, ttx := ttx }
    let all := (maskBits poll (s.nodes b)).all fun n => (mapGet (fun _ => none) x.got n).isSome
    if all ∨ (s.condPorts b).all (fun p => bit (s2.br b).ended p) then branchSignal b s2 else s2
  else if type = 5 then svcResponse b ((bytes.drop 39).take 36) s
  else s

/-- A SYNC copy at a port (R515, R526); one that has been turned around measures its port's window, not the ring (R514, R517). -/
def syncTake (b port time : Nat) (bytes : List Byte) (s : State) : State :=
  let dir := leAt bytes 0 1 / 16 % 2
  let x := s.br b
  let d := (time + 2 ^ 73 - leAt bytes 6 9) % 2 ^ 32
  let turned := dir == port
  let s1 := s.setBr b { x with turned := putBits x.turned port 1 (b2n turned), hops := mapSet (fun _ => none) x.hops port (some (leAt bytes 45 1)), dNow := mapSet (fun _ => none) x.dNow port (some d) }
  if turned ∧ s.condPorts b = [0, 1] then s1
  else if port = 1 then s1.setF F.TWL_D_AB_D d b else s1.setF F.TWL_D_BA_D d b

/-- The header agrees with the frame of its window (R499). -/
def State.headerOk (s : State) (b : Nat) (bytes : List Byte) : Bool :=
  let type := leAt bytes 0 1 % 16
  decide (1 ≤ type) && decide (type ≤ 5) && decide (leAt bytes 0 1 < 32) && leAt bytes 1 1 == s.twlMode
    && leAt bytes 2 2 == s.payloadNow b type && leAt bytes 4 2 == s.tbs.k % 2 ^ 16 && bytes.length == 6 + s.payloadNow b type

/-- Ring delay as measured from this cycle's SYNC copies, by receiving port; without one the delay last measured (DESIGN CHOICE,
log 78). -/
def State.ringDelay (s : State) (b port : Nat) : Nat :=
  (mapGet (fun _ => none) (s.br b).dNow port).getD (if port = 1 then s.getF F.TWL_D_AB_D b else s.getF F.TWL_D_BA_D b)

/-- Is a receive time inside the window of its frame's copy? (R517) -/
def State.inWindow (s : State) (b port type time : Nat) : Bool :=
  let e := s.gateAt b type + 160 * 256 + s.ringDelay b port
  let win := recWin (s.rec0 b) * 256
  decide (e ≤ time + win) && decide (time ≤ e + win)

/-- A port shows a returning copy again (R514). -/
def portSeen (b port : Nat) (s : State) : State :=
  let x := s.br b
  let s1 := s.setF (if port = 0 then F.TWL_STAT_LOCK_A else F.TWL_STAT_LOCK_B) 1 b
  let s2 := s1.setBr b { x with seen := x.seen ||| 2 ^ port, openPorts := mclr x.openPorts (2 ^ port) }
  if bit x.openPorts port then
    (s2.setF F.TWL_STAT_RING_OPEN (b2n ((s2.br b).openPorts != 0)) b).post 0x0A03 10 b 0x0A09 (2 * port)
  else s2

/-- An out-of-window copy at the controller (R517). -/
def outOfWindow (b : Nat) (s : State) : State :=
  let s1 := (s.flag F.TWL_FLAG_OOW b).incF F.TWL_CNT_OOW_COUNT b
  if (s.br b).oow then s1 else (s1.setBr b { s1.br b with oow := true }).post 0x0A02 10 b 0x0A08 16

/-- A returning copy at a port: the raw time of its start-of-frame symbol, byte 1 to the FCS (R512, R517, R518). -/
def copyReceive (b port raw : Nat) (all : List Byte) (s : State) : State :=
  if s.brSt b = BrSt.OFF ∨ !(s.ports b).contains port then s
  else
    let rxd := if port = 0 then s.getF F.TWL_DLY_A_RXD b else s.getF F.TWL_DLY_B_RXD b
    let time := s.stamp raw - rxd
    let bytes := all.take (all.length - 4)
    let fcs := leAt all (all.length - 4) 4 == crc32c 0xFFFFFFFF bytes
    let type := leAt bytes 0 1 % 16
    let s1 := portSeen b port s
    let s2 := if fcs then s1 else s1.incF (if port = 0 then F.TWL_CNT_CRC_A else F.TWL_CNT_CRC_B) b
    if type = 1 then (if fcs && s.headerOk b bytes then syncTake b port time bytes s2 else s2)
    else if type = 0 ∨ 5 < type then s2
    else if !s.inWindow b port type time then outOfWindow b s2
    else if bytes.length = 6 + s.payloadNow b type ∧ (s.br b).sent.contains type ∧ (fcs → s.headerOk b bytes) then copyTake b port time bytes s2
    else s2

/-! ### Cycle boundaries (R510, R514, R515, R526) -/

/-- The reply PDUs of a remote axis in the slice of its node that has been taken (R505). -/
def State.replyOf (s : State) (a : Nat) : Option (List Byte) :=
  let b := s.getF F.AX_CTL_BRANCH a
  let n := s.getF F.AX_CTL_NODE a
  let w := s.rec0 b
  if s.brSt b = BrSt.OFF then none
  else match mapGet (fun _ => none) (s.br b).got n with
    | some (_, _, d) => some ((d.drop (12 + 32 * (recAx w n + recAux w n + (s.nodeAxes b n).findIdx (· == a)))).take 32)
    | none => none

/-- A slot's values are invalid. -/
def slotInvalid (key : Nat) (s : State) : State :=
  s.withTwl fun q => { q with slots := mapSet (fun _ => SlotVals.reset) q.slots key { s.slot key with valid := false } }

/-- The replies of the cycle are judged: slots without a valid slice are invalid, missing polls count, the channels check the reply
PDUs of every remote axis (R382, R510). -/
def twlReplies (s : State) : State :=
  let s1 := s.each ((List.range 8).filter fun b => s.brSt b != BrSt.OFF) fun b t =>
    let poll := t.polled b
    let missing := (maskBits poll (t.nodes b)).filter fun n => (mapGet (fun _ => none) (t.br b).got n).isNone
    t.each missing fun n u => u.incF F.TWL_N_CNT_MISS b n
  let s2 := s1.each ((List.range 16).filter fun u => s.getB F.AUX_CTL_EN u && s.getB F.AUX_CTL_OUT u) fun u t =>
    let b := t.getF F.AUX_CTL_BRANCH u
    if (mapGet (fun _ => none) (t.br b).got (t.getF F.AUX_CTL_NODE u)).isSome ∧ t.brSt b ≠ BrSt.OFF then t else slotInvalid (128 + u) t
  s2.each ((List.range 128).filter s.remote) fun a t =>
    match t.replyOf a with
    | some d => replyCheck a d t
    | none => pduCheck a 2 true true (slotInvalid a t)

/-- At TR; on a standby the replies are those of the mirror, judged when it is complete or overdue (R604, R605). -/
def twlTr (s : State) : State := if s.mirrored then s else twlReplies s

/-- The GUARD event of the cycle that ends, with the word edges blocked in it (R519, R535). -/
def guardReport (b : Nat) (s : State) : State :=
  let n := (s.br b).blocked
  if n = 0 then s else (s.setBr b { s.br b with blocked := 0 }).post 0x0A04 10 b 0x0A0A n

/-- The cycle that ends judges each branch's condition and ring; the new one begins (R514, R515, R526). -/
def twlT0 (s0 : State) : State :=
  let s := s0.each (List.range 8) fun b t => guardReport b (t.setBr b { t.br b with sig := false })
  s.each ((List.range 8).filter fun b => s.brSt b != BrSt.OFF) fun b t =>
    let x := t.br b
    let nodes := t.nodes b
    let ps := t.condPorts b
    let hops := ps.map fun p => mapGet (fun _ => none) x.hops p
    let ran := x.sent.contains 1
    let allGood := hops.all fun h => h == some nodes
    let allBad := hops.all fun h => match h with | some v => v != nodes | none => false
    let w := t.rec0 b
    let synced := (maskBits (t.polled b) nodes).all fun n =>
      t.getB F.TWL_N_STAT_VALID b n && bit (t.getF F.TWL_N_STAT_NSTAT b n) 0 && decide (4 * (t.getS F.TWL_N_DEV_DEV b n).natAbs ≤ recWin w * 256)
    let good := if t.brSt b = BrSt.START then allGood else synced
    let miss (p m : Nat) : Nat := if ran && (t.ports b).contains p && !bit x.seen p then min 2 (m + 1) else 0
    let dOf (p : Nat) : Option Nat := if bit x.turned p ∧ ps = [0, 1] then none else mapGet (fun _ => none) x.dNow p
    let d : Option Rat := match dOf 0, dOf 1 with
      | some a, some c => some (((a + c : Nat) : Rat) / 2)
      | some a, none => if ps = [0] then some (a : Rat) else none
      | none, some c => if ps = [1] then some (c : Rat) else none
      | none, none => none
    let hold := ran && d.isNone
    let y : Br := { x with
      sent := [], ttx := [], pttx := x.ttx, hops := [], dNow := [], dPrev := d, turned := 0, good := if ran && good then min 64 (x.good + 1) else 0,
      topo := if ran && allBad && t.brSt b == BrSt.START then min 16 (x.topo + 1) else 0, got := [], ended := 0, sig := false, seen := 0,
      missA := miss 0 x.missA, missB := miss 1 x.missB, oow := false, late := 0 }
    ((t.setBr b y).setF F.TWL_STAT_HOLD (b2n hold) b).flagIf hold F.TWL_FLAG_HOLD b

/-- A port without a returning copy for 2 consecutive cycles (R514). -/
def ringOpen (b port : Nat) (s : State) : State :=
  let x := s.br b
  let m := if port = 0 then x.missA else x.missB
  if s.brSt b = BrSt.OFF ∨ m < 2 ∨ bit x.openPorts port ∨ !(s.ports b).contains port then s
  else
    let s1 := s.setBr b { x with openPorts := x.openPorts ||| 2 ^ port }
    let s2 := (s1.setF F.TWL_STAT_RING_OPEN 1 b).flag F.TWL_FLAG_RING_OPEN b
    (s2.setF (if port = 0 then F.TWL_STAT_LOCK_A else F.TWL_STAT_LOCK_B) 0 b).post 0x0A03 10 b 0x0A09 (1 + 2 * port)

/-! ### Branch states (R526) -/

/-- Slots of a branch become invalid. -/
def slotsInvalid (b : Nat) (s : State) : State :=
  let keys := ((List.range 128).filter fun a => s.remote a && s.getF F.AX_CTL_BRANCH a == b)
    ++ ((List.range 16).filter fun u => s.getB F.AUX_CTL_OUT u && s.getF F.AUX_CTL_BRANCH u == b).map (· + 128)
  s.withTwl fun q => { q with slots := keys.foldl (fun m k => mapSet (fun _ => SlotVals.reset) m k { mapGet (fun _ => SlotVals.reset) m k with valid := false }) q.slots }

/-- The layouts of every valid mode for every node (R525). -/
def State.layouts (s : State) (b : Nat) : List (Nat × Nat) :=
  ((List.range 8).filter fun m => recValid (s.modeRec b m)).flatMap fun m => (List.range (s.nodes b)).map fun n => (n, m)

/-- A branch enters a state (R526). -/
def enterBr (b st : Nat) (topo budget : Bool) (s : State) : State :=
  let s0 := guardReport b s
  let x := s0.br b
  let s1 := s0.setF F.TWL_STAT_STATE st b
  let s2 := (s1.flagIf topo F.TWL_FLAG_TOPO b).flagIf budget F.TWL_FLAG_BUDGET b
  let s3 :=
    if st = BrSt.OFF then
      let held := match x.svc with | some v => v.host.isSome | none => false
      let t := (slotsInvalid b (s2.setBr b Br.reset)).wr (R.TWL_STAT + 0x800 * b) 0
      if held then t.completeHeld (0xA0002 + b * 2 ^ 24) 0x0A06 0 0 else t
    else if st = BrSt.START then ((s2.setBr b Br.reset).setF F.TWL_CNT_OOW_COUNT 0 b).setF F.TWL_CNT_GUARD_COUNT 0 b
    else if st = BrSt.SYNC then layoutNext b (s2.setBr b { x with good := 0, topo := 0, lay := s.layouts b })
    else s2.setBr b { x with good := 0, topo := 0 }
  refreshPower (s3.post 0x0A01 10 b (if topo then 0x0A07 else EC.OK) (st + b2n budget * 8))

/-- A branch advances after its consecutive-cycle conditions (R526); a standby follows its active instead (R527). -/
def branchAdvance (b : Nat) (s : State) : State :=
  let x := s.br b
  if s.mirrored then s
  else if s.brSt b = BrSt.START then
    if 16 ≤ x.good then enterBr b BrSt.SYNC false false s
    else if 16 ≤ x.topo then enterBr b BrSt.FAULT true false s
    else s
  else if s.brSt b = BrSt.SYNC ∧ 64 ≤ x.good ∧ x.lay.isEmpty then
    if (s.lateNodes b).isEmpty then enterBr b BrSt.RUN false false s else enterBr b BrSt.FAULT false true s
  else s

/-- The cell cycle has stopped: every branch is off (R526). -/
def twlCycleEnd (s : State) : State :=
  s.each ((List.range 8).filter fun b => s.brSt b != BrSt.OFF) fun b t => enterBr b BrSt.OFF false false t

/-! ### Guardian (R519) -/

/-- Felt blocks transmission for a number of word edges while a branch's gates are closed. -/
def guardBlock (b edges : Nat) (s : State) : State :=
  let x := s.br b
  let n := s.getF F.TWL_CNT_GUARD_COUNT b
  let s1 := (s.setF F.TWL_CNT_GUARD_COUNT (min (2 ^ 32 - 1) (n + edges)) b).flag F.TWL_FLAG_GUARD b
  (s1.note 10).setBr b { x with blocked := x.blocked + edges }

/-! ### Mode switches (R521 to R523) -/

/-- Checks of a switch to mode m at cycle k (R522). -/
def switchCodes (m k : Nat) (s : State) : List Nat :=
  chk (decide (k < s.tbs.k + 32)) EC.RANGE
  ++ chk (m == s.twlMode || (List.range 8).any fun b => s.brSt b != BrSt.OFF && !recValid (s.modeRec b m)) 0x0A01
  ++ chk (s.getB F.TWL_G_MODE_SWP) EC.BUSY

/-- Announce a switch (R522). -/
def switchAnnounce (m k : Nat) (s : State) : State :=
  (((s.setF F.TWL_G_MODE_NEXT m).setF F.TWL_G_MODE_SWP 1).setF F.TWL_G_SW_AT_SW_AT k).withTwl fun t => { t with checked := false }

/-- Polled nodes of a branch without MODE_ACK for the announced mode (R522). -/
def State.noAck (s : State) (b : Nat) : Nat :=
  if s.brSt b ≠ BrSt.SYNC ∧ s.brSt b ≠ BrSt.RUN then 0
  else ((maskBits (s.polled b) (s.nodes b)).filter fun n =>
    let st := s.getF F.TWL_N_STAT_NSTAT b n
    !(bit st 2 && bits st 5 3 == s.getF F.TWL_G_MODE_NEXT)).foldl (fun m n => m + 2 ^ n) 0

/-- At T0 of k_s - 8 the acknowledgements are checked (R522). -/
def switchCheck (s : State) : State :=
  if !s.getB F.TWL_G_MODE_SWP || s.twl.checked || !s.tbs.started || decide (s.tbs.k + 8 < s.getF F.TWL_G_SW_AT_SW_AT) then s
  else
    let bad := (List.range 8).filter fun b => s.noAck b != 0
    if bad.isEmpty then s.withTwl fun t => { t with checked := true }
    else
      let s1 := ((s.setF F.TWL_G_MODE_NEXT s.twlMode).setF F.TWL_G_MODE_SWP 0).setF F.TWL_G_SW_AT_SW_AT 0
      s1.each bad fun b t => (t.flag F.TWL_FLAG_SW_FAIL b).post 0x0A05 10 b 0x0A0B (s.noAck b + s.tbs.k * 2 ^ 16)

/-- At T0 of k_s the new mode is in force (R522). -/
def switchApply (s : State) : State :=
  if !s.getB F.TWL_G_MODE_SWP || !s.twl.checked || s.dmk.agree.any (·.joined) || !s.tbs.started || decide (s.tbs.k < s.getF F.TWL_G_SW_AT_SW_AT) then s
  else
    let m := s.getF F.TWL_G_MODE_NEXT
    let s1 := ((s.setF F.TWL_G_MODE_MODE m).setF F.TWL_G_MODE_SWP 0).setF F.TWL_G_SW_AT_SW_AT 0
    (s1.withTwl fun t => { t with checked := false }).post 0x0A06 10 0 EC.OK m

/-! ### Block commands (R524, R531) -/

/-- A service code the host may send (R524). -/
def svcCode (c : Nat) : Bool := c == 1 || c == 2 || decide (0x80 ≤ c)

/-- The checks of a Twill command (R522 to R524, R531). -/
def twlCmdCodes (cmd : Nat) (b : BlockArgs) (s : State) : List Nat :=
  match cmd with
  | 0x0001 =>
    argBits b.arg0 7 ++ argZero b.arg2 ++ noData b ++ chk (s.getB F.TWL_G_CTL_SW_SRC) EC.STATE ++ switchCodes (b.arg0 % 8) b.arg1 s
  | 0x0002 =>
    let br := b.arg0 % 8
    argBits b.arg0 0xF07 ++ argZero b.arg1 ++ argZero b.arg2 ++ withData b 64
    ++ chk (leAt b.data 0 1 == 0 || !svcCode (leAt b.data 1 1)) EC.BAD_FIELD
    ++ chk (s.brSt br != BrSt.RUN) EC.STATE ++ chk (bits (s.rec0 br 2) 0 32 == 0) 0x0A05 ++ chk (s.br br).svc.isSome EC.BUSY
  | _ => [EC.BAD_FIELD]

/-- An accepted Twill command takes effect; SVC_XFER completes later, under the key of its branch. -/
def twlCmdRun (cmd : Nat) (b : BlockArgs) (s : State) : State :=
  match cmd with
  | 0x0001 => switchAnnounce (b.arg0 % 8) b.arg1 s
  | 0x0002 =>
    let br := b.arg0 % 8
    s.setBr br { s.br br with svc := some { node := bits b.arg0 8 4, req := b.data.take 32, start := s.tbs.k, host := some b.ptr } }
  | _ => s

/-- No response within 64 cycles (R524); a layout is sent again. -/
def svcTimeout (b : Nat) (s : State) : State :=
  let x := s.br b
  match x.svc with
  | some v =>
    if s.tbs.k < v.start + 64 then s
    else match v.host with
    | some _ => (s.setBr b { x with svc := none }).completeHeld (0xA0002 + b * 2 ^ 24) 0x0A06 0 0
    | none => s.setBr b { x with svc := some { v with start := s.tbs.k } }
  | none => s

/-! ### Registers (R526, R530, R532, R533) -/

/-- The checks of a write of v over old to a Twill register; sto: axes of the branch all in STO. -/
def twlCodes (base b v old : Nat) (s new : State) : List Nat :=
  let en := s.getB F.TWL_CTL_EN b
  if base = R.TWL_CTL then
    chk (bit v 0 && !bit old 0 && !s.cycRun) EC.STATE
    ++ chk (!bit v 0 && bit old 0 && (List.range 128).any fun a => s.remote a && s.getF F.AX_CTL_BRANCH a == b && !s.getB F.SAF_AX_STAT_STO a) EC.STATE
  else if base = R.TWL_CFG then
    let dmax := bits v 16 14
    chk (bit v 6 && !bit v 5) EC.BAD_FIELD ++ chk en EC.STATE
    ++ chk (bits v 0 5 == 0 || decide (16 < bits v 0 5) || decide (dmax < 100) || decide (10000 < dmax)) EC.RANGE
    ++ chk ((List.range 8).any fun m => recValid (s.modeRec b m) && scheduleBad (new.nodes b) dmax (s.modeRec b m) s) 0x0A02
  else if base = R.TWL_DLY_A ∨ base = R.TWL_DLY_B then chk en EC.STATE
  else if base = R.TWL_G_CTL then chk (s.getB F.TWL_G_MODE_SWP) EC.BUSY
  else []

/-- What follows an accepted write to a Twill register. -/
def twlFollow (base b v old : Nat) (s : State) : State :=
  if base = R.TWL_CTL ∧ bit v 0 ≠ bit old 0 ∧ (bit v 0 ∨ s.brSt b ≠ BrSt.OFF) then
    enterBr b (if bit v 0 then BrSt.START else BrSt.OFF) false false s
  else s

/-- Felt receives a written record as complement pairs (R26, R519). -/
def feltTell (r : Nat) (s : State) : State :=
  let w := s.tw 0x0A01 r
  s.withTwl fun t => { t with felt := mapSet (fun _ => []) t.felt r
                                (if recValid w then (List.range 5).map fun i => (w i, 2 ^ 64 - 1 - w i) else []) }

/-- A rewritten record goes to Felt, and is loaded into every node of a running branch (R519, R525). -/
def twlRecFollow (r : Nat) (s0 : State) : State :=
  let s := feltTell r s0
  let b := r / 8
  if (s.brSt b = BrSt.SYNC ∨ s.brSt b = BrSt.RUN) ∧ recValid (s.modeRec b (r % 8)) then
    layoutNext b (s.setBr b { s.br b with lay := (s.br b).lay ++ (List.range (s.nodes b)).map fun n => (n, r % 8) })
  else s

end Sys2Proof.Machine
end

