-- ==== Sys2Proof/Machine/Link.lean ====
section
/-! DEFINITION. The link ends of Damask ports and Laend lanes (R536, R537, R542, R561, R585): states, LINK frames, delay measurement; and the record of code errors (R45, R46). Ends 0 to 3 are Damask ports, ends 4 and 5 are Laend lanes. -/

namespace Sys2Proof.Machine

/-- Best effort is shed (R708, R709). -/
def State.beShed (s : State) : Bool := bit s.therm.levels 2


/-! ### Code errors (R45, R46, R126) -/

/-- Record a code error at a row (or flit sequence), block and byte of a source (R46; HST_ECC_CORR_LOC). -/
def eccRecord (unc : Bool) (row block byte src : Nat) (s : State) : State :=
  let loc := row % 2 ^ 18 + block % 16 * 2 ^ 18 + byte % 32 * 2 ^ 22 + src % 8 * 2 ^ 27
  if unc then
    ((((if src < 3 then s.note 0 else s).wr R.HST_ECC_UNC_LOC (BitVec.ofNat 32 loc)).incF F.HST_ECC_UNC_CNT_V).flag F.HST_FAULT_FLAG_ECC_UNC).postG 0x0003 EC.OK loc
  else
    let s1 := ((s.wr R.HST_ECC_CORR_LOC (BitVec.ofNat 32 loc)).incF F.HST_ECC_CORR_CNT_V).flag F.HST_FAULT_FLAG_ECC_CORR
    if s.hst.corrPosted then s1 else (s1.withHst fun h => { h with corrPosted := true }).postG 0x0002 EC.OK loc

/-! ### Link states (R537) -/

namespace LinkSt
def OFF : Nat := 0
def TRAIN : Nat := 1
def LOCK : Nat := 2
def PEER : Nat := 3
def UP : Nat := 4
end LinkSt

def State.link (s : State) (p : Nat) : Link := mapGet (fun _ => Link.reset) s.links p
def State.setLink (s : State) (p : Nat) (x : Link) : State :=
  { s with links := mapSet (fun _ => Link.reset) s.links p x }

def State.linkSt (s : State) (p : Nat) : Nat :=
  if p < 4 then s.getF F.DMK_P_STAT_STATE p else s.getF F.LND_L_STAT_STATE (p - 4)
def State.setLinkSt (s : State) (p st : Nat) : State :=
  if p < 4 then s.setF F.DMK_P_STAT_STATE st p else s.setF F.LND_L_STAT_STATE st (p - 4)
def State.linkEn (s : State) (p : Nat) : Bool := if p < 4 then s.getB F.DMK_P_CTL_EN p else s.getB F.LND_CTL_EN
def State.linkMode (s : State) (p : Nat) : Nat := if p < 4 then s.getF F.DMK_P_CTL_LINK_MODE p else s.getF F.LND_CFG_LINK_MODE
def State.txd (s : State) (p : Nat) : Nat := if p < 4 then s.getF F.DMK_P_DLY_TXD p else s.getF F.LND_L_DLY_TXD (p - 4)
def State.rxd (s : State) (p : Nat) : Nat := if p < 4 then s.getF F.DMK_P_DLY_RXD p else s.getF F.LND_L_DLY_RXD (p - 4)
def State.ldly (s : State) (p : Nat) : Nat := if p < 4 then s.getF F.DMK_P_LDLY_LDLY p else s.getF F.LND_L_LDLY_LDLY (p - 4)
def State.setLdly (s : State) (p v : Nat) : State :=
  if p < 4 then s.setF F.DMK_P_LDLY_LDLY v p else s.setF F.LND_L_LDLY_LDLY v (p - 4)

/-- LINK_DLY of an end is valid (R561). -/
def State.ldlyOk (s : State) (p : Nat) : Bool := decide (8 ≤ (s.link p).meas.length) && decide (LinkSt.PEER ≤ s.linkSt p)

def State.dmkUp (s : State) (p : Nat) : Bool := decide (p < 4) && s.linkSt p == LinkSt.UP

/-- A lane that counts as UP (R586). -/
def State.laneUp (s : State) (l : Nat) : Bool := s.linkSt (4 + l) == LinkSt.UP && decide (s.ldly (4 + l) ≤ 12800)
def State.pairLink (s : State) : Bool := s.laneUp 0 || s.laneUp 1

/-- The lane bits of LND_STAT follow the lanes (R585, R586). -/
def lanesRefresh (s : State) : State :=
  ((s.setF F.LND_STAT_UP0 (b2n (s.laneUp 0))).setF F.LND_STAT_UP1 (b2n (s.laneUp 1))).setF F.LND_STAT_LINK (b2n s.pairLink)

/-- An end changes its state; on Damask an entry into UP and an exit from it post LINK (R537, R584). -/
def linkEnter (p st : Nat) (hiber : Bool) (s : State) : State :=
  let was := s.linkSt p
  let s1 := s.setLinkSt p st
  let s2 := if st ≤ LinkSt.LOCK then
      let x := s1.link p
      let t := (s1.setLink p { x with since := s.now, heard := s.now, reqs := [], uid := none, meas := [] }).setLdly p 0
      if p < 4 then t.setF F.DMK_P_STAT_LDLY_V 0 p else t
    else s1
  if p < 4 then
    let s3 := if was = LinkSt.UP ∧ st ≠ LinkSt.UP then s2.flag F.DMK_P_FLAG_DOWN p else s2
    let s4 := if hiber then (s3.flag F.DMK_P_FLAG_HIBER p).incF F.DMK_P_CNT_HDR_HIBER p else s3
    if (was = LinkSt.UP) = (st = LinkSt.UP) then s4
    else
      let s5 := s4.post 0x0B01 11 p (if st = LinkSt.UP then EC.OK else 0x0B08) (st + b2n hiber * 8)
      s5
  else lanesRefresh s2

/-- EN 0 to 1 (R537). -/
def linkOpen (p : Nat) (s : State) : State := linkEnter p (if s.linkMode p = 0 then LinkSt.TRAIN else LinkSt.LOCK) false s

/-- Clause 72 training is complete (R537). -/
def trainDone (p : Nat) (s : State) : State := if s.linkSt p = LinkSt.TRAIN then linkEnter p LinkSt.LOCK false s else s

/-- The maximum wait timer of training, 500 ms (R537). -/
def trainTimeout (p : Nat) (s : State) : State :=
  if s.linkSt p = LinkSt.TRAIN ∧ (s.link p).since + 500000000 * 256 ≤ s.now then
    let s1 := linkEnter p LinkSt.TRAIN false s
    if p < 4 then s1.flag F.DMK_P_FLAG_TRAIN_FAIL p else s1
  else s

/-- Where an end falls back to (R537). -/
def linkFall (p : Nat) (hiber : Bool) (s : State) : State :=
  linkEnter p (if s.linkMode p = 0 then LinkSt.TRAIN else LinkSt.LOCK) hiber s

/-- A reason of LINK_LOSS holds: 0 block lock, 1 sync-header errors, 2 no LINK frame for 4 ms (R537). -/
def State.linkLost (s : State) (p reason : Nat) : Bool :=
  decide (LinkSt.LOCK ≤ s.linkSt p) && (reason != 2 || decide ((s.link p).heard + 4000000 * 256 ≤ s.now))

/-! ### LINK frames (R542, R561) -/

/-- The payload of a LINK frame before its transmit time is inserted. -/
def linkBody (op p reqId t2 addr uid : Nat) (s : State) : List Byte :=
  leBytes op 1 ++ leBytes (p % 4 + s.linkSt p * 4) 1 ++ leBytes addr 2 ++ leBytes reqId 4 ++ leBytes uid 8 ++ leBytes t2 9
  ++ leBytes 0 23 ++ leBytes 0 9 ++ leBytes 0 7

/-- A payload with its transmit time in bytes 48 to 56 (R542, R562, R76). -/
def withTx (body : List Byte) (tx : Nat) : List Byte := body.take 48 ++ leBytes tx 9 ++ body.drop 57

/-- A LINK frame's payload is valid (R542). -/
def linkValid (b : List Byte) : Bool :=
  b.length == 64 && (leAt b 0 1 == 1 || leAt b 0 1 == 2) && decide (leAt b 1 1 < 32) && decide (leAt b 2 2 < 4096) && leAt b 25 23 == 0
    && leAt b 57 7 == 0 && (leAt b 0 1 == 2 || leAt b 16 9 == 0)

/-- A LINK request has left at t1. -/
def linkSent (p t1 : Nat) (s : State) : State :=
  let x := s.link p
  s.setLink p { x with reqs := ((x.reqNo, t1) :: x.reqs).take 4 }

/-- Mean of the measurements (R561; rounding open, log 20). -/
def measMean (l : List Int) : Nat := (qopen 30 ((l.foldl (· + ·) 0 : Int) / (2 * (l.length : Nat)) : Rat)).toNat

/-- A response yields a measurement (R542, R561): t4 is its arrival. -/
def linkMeasure (p t4 : Nat) (b : List Byte) (s : State) : State :=
  let x := s.link p
  match x.reqs.find? (fun r => r.1 == leAt b 4 4) with
  | none => s
  | some (id, t1) =>
    let s1 := s.setLink p { x with reqs := x.reqs.filter fun r => r.1 != id }
    if t1 + 100000 * 256 < t4 ∨ x.uid ≠ some (leAt b 8 8) then s1
    else
      let d2 : Int := ((t4 : Int) - t1) - ((leAt b 48 9 : Int) - leAt b 16 9)
      let m := (d2 :: x.meas).take 16
      let s2 := s1.setLink p { s1.link p with meas := m }
      let s3 := if m.length < 8 then s2
        else
          let t := s2.setLdly p (measMean m)
          if p < 4 then t.setF F.DMK_P_STAT_LDLY_V 1 p else t
      let s4 := if s.linkSt p = LinkSt.PEER ∧ 8 ≤ m.length then linkEnter p LinkSt.UP false s3 else s3
      if p < 4 then s4 else lanesRefresh s4

/-- A valid LINK frame is received; a changed neighbour loses the link, LOCK advances to PEER (R537, R542). -/
def linkHeard (p time : Nat) (b : List Byte) (s : State) : State :=
  let uid := leAt b 8 8
  let x := s.link p
  let s0 := s.setLink p { x with heard := s.now }
  if x.uid.isSome ∧ x.uid ≠ some uid then linkFall p false s0
  else
    let s1 := s0.setLink p { s0.link p with uid := some uid }
    let s2 := if p < 4 then (s1.setF F.DMK_P_NUID_V uid p).setF F.DMK_P_STAT_NPORT (leAt b 1 1 % 4) p else s1
    let s3 := if s.linkSt p = LinkSt.LOCK then linkEnter p LinkSt.PEER false s2 else s2
    let s4 := if s.linkSt p = LinkSt.LOCK then s3.setLink p { s3.link p with uid := some uid } else s3
    if leAt b 0 1 = 2 then linkMeasure p time b s4 else s4

end Sys2Proof.Machine
end

