-- ==== Sys2Proof/Machine/Dmk.lean ====
section
/-! DEFINITION. The Damask fabric, frames and fabric management (R538 to R560, R574 to R582): headers, routing, egress queues and preemption, class-0 records and slices, reassembly, host messages, addresses and discovery. -/

namespace Sys2Proof.Machine

def State.withDmk (s : State) (f : Dmk → Dmk) : State := { s with dmk := f s.dmk }
def State.dport (s : State) (p : Nat) : DPort := mapGet (fun _ => DPort.reset) s.dmk.ports p
def State.setDport (s : State) (p : Nat) (x : DPort) : State :=
  s.withDmk fun d => { d with ports := mapSet (fun _ => DPort.reset) d.ports p x }

def State.dEn (s : State) : Bool := s.getB F.DMK_CTL_EN
def State.dAddr (s : State) : Nat := s.getF F.DMK_ADDR_ADDR
def State.dUid (s : State) : Nat := s.getF F.DMK_UID_V
def State.upPorts (s : State) : List Nat := (List.range 4).filter s.dmkUp

/-- The unit is a standby: what R613 names is held without effect. -/
def State.standby (s : State) : Bool := s.getF F.LND_STAT_ROLE == 2

/-- This node is a time source (R562, R613). -/
def State.srcEn (s : State) : Bool := s.getB F.DMK_SYNC_CFG_SRC_EN && !s.standby

/-! ### Headers (R538, R539) -/

/-- Bytes 1 to 39 of a frame as it leaves. -/
def headerBytes (f : DFrame) : List Byte :=
  let h := leBytes (f.cls + b2n f.cont * 4 + b2n f.more * 8 + f.kind * 16) 1 ++ leBytes f.dst 2 ++ leBytes f.src 2 ++ leBytes f.stream 1
    ++ leBytes f.hops 1 ++ leBytes f.payload.length 2 ++ leBytes f.fseq 2 ++ leBytes f.cyc 4 ++ leBytes f.rlen 1 ++ leBytes f.rptr 1
    ++ leBytes f.route 4 ++ leBytes 0 16
  h ++ leBytes (crc16 h) 2

/-- The checks of a header of 39 bytes but the one of CONT (R539). -/
def headerGood (h : List Byte) : Bool :=
  let b0 := leAt h 0 1
  h.length == 39 && leAt h 37 2 == crc16 (h.take 37) && b0 % 4 != 3 && decide (b0 / 16 ≤ 8) && decide (leAt h 7 2 ≤ 1024)
    && leAt h 7 2 % 16 == 0 && decide (leAt h 1 2 < 4096) && decide (leAt h 3 2 < 4096) && decide (leAt h 15 1 ≤ 16)
    && decide (leAt h 16 1 ≤ leAt h 15 1) && leAt h 21 16 == 0

/-- A frame from its header and payload. -/
def dmkFrame (h payload : List Byte) (bad : List Nat) (port sof exit : Nat) : DFrame :=
  let b0 := leAt h 0 1
  { cls := b0 % 4, cont := bit b0 2, more := bit b0 3, kind := b0 / 16, dst := leAt h 1 2, src := leAt h 3 2, stream := leAt h 5 1,
    hops := leAt h 6 1, fseq := leAt h 9 2, cyc := leAt h 11 4, rlen := leAt h 15 1, rptr := leAt h 16 1, route := leAt h 17 4,
    payload := payload, bad := bad, ing := some port, sof := sof, exit := exit, key := none }

/-- Two parts belong to one frame (R538). -/
def sameFrame (a b : DFrame) : Bool := a.src == b.src && a.stream == b.stream && a.cls == b.cls

/-- Bytes a frame takes in a queue and counts in shaping: header and payload. -/
def DFrame.size (f : DFrame) : Nat := 39 + f.payload.length

/-- Line blocks of n payload bytes (R538). -/
def lineBlocks (n : Nat) : Nat := (9 * n + 63) / 64

/-- Duration of a frame in units of 1/1280 ns. -/
def frameDur (len : Nat) : Nat := 8192 * (6 + lineBlocks len)

/-! ### Class-0 records (R579) -/

def State.c0 (s : State) (r word lo w : Nat) : Nat := s.tb 0x0B01 r word lo w
def State.c0En (s : State) (r : Nat) : Bool := s.c0 r 0 21 1 == 1
/-- OPEN of a port. -/
def State.c0Open (s : State) (r p : Nat) : Nat := s.c0 r (2 + p / 2) (32 * (p % 2)) 32

/-- The class-0 windows of a port: opening and length, ns from T0 (R550, R579). -/
def State.windows (s : State) (p : Nat) : List (Nat × Nat) :=
  ((List.range 64).filter fun r => s.c0En r && bit (s.c0 r 4 16 4) p && s.c0 r 4 0 16 != 0).map fun r => (s.c0Open r p, s.c0 r 4 0 16)

/-- A unit from a to e (1/1280 ns) meets a class-0 window of the port (R550). -/
def State.windowMeets (s : State) (p a e : Nat) : Bool :=
  s.cycRun && s.tbs.started && (s.windows p).any fun w =>
    [s.tbs.t0, s.tbs.t0 + s.period].any fun t => decide ((t + w.1) * 1280 < e) && decide (a < (t + w.1 + w.2) * 1280)

/-! ### Egress (R548 to R551) -/

/-- Insert transmit time and residence as a frame starts at T72 time t (R562, R76). -/
def stampFrame (p t : Nat) (f : DFrame) (s : State) : DFrame :=
  if f.kind ≠ 2 ∨ f.cont ∨ f.payload.length ≠ 80 then f
  else match f.ing with
  | none => { f with payload := withTx f.payload (t + s.txd p) }
  | some i =>
    let corr : Int := sx 64 (leAt f.payload 64 8) + s.ldly i + (((t + s.txd p : Nat) : Int) - f.sof + s.rxd i)
    let flag := if s.ldlyOk i then leAt f.payload 16 1 else leAt f.payload 16 1 ||| 2
    { f with payload := f.payload.take 16 ++ leBytes flag 1 ++ (f.payload.take 64).drop 17 ++ leBytes (toBits 64 corr) 8 ++ f.payload.drop 72 }

/-- Bytes of the next unit of a frame of which off payload bytes have been sent. -/
def unitLen (f : DFrame) (off : Nat) : Nat := if f.cls = 0 then f.payload.length else min 64 (f.payload.length - off)

/-- A unit after off payload bytes with the terminate block that may end it (R549, R550). -/
def unitSpan (f : DFrame) (off : Nat) : Nat := 8192 * ((if off = 0 then 5 else 0) + lineBlocks (unitLen f off) + 1)

/-- Duration of that unit, with its terminate block where it is the last. -/
def unitDur (f : DFrame) (off : Nat) : Nat :=
  let n := unitLen f off
  8192 * ((if off = 0 then 5 else 0) + lineBlocks n + (if off + n < f.payload.length then 0 else 1))

/-- Send the next unit of a frame from line time t on. -/
def sendUnit (p t : Nat) (f : DFrame) (off : Nat) (s : State) : State :=
  let n := unitLen f off
  let last := decide (f.payload.length ≤ off + n)
  let hdr := if off = 0 then headerBytes f else []
  let bad := (f.bad.filter fun b => decide (off ≤ 16 * b) && decide (16 * b < off + n))
  let ends := t + unitDur f off + (if last then 8192 else 0)
  (s.setDport p { s.dport p with cur := some { frame := f, off := off + n, ends := ends, link := false } }).emit
    (.dmk p hdr ((f.payload.drop off).take n) bad last)

/-- Start a frame; the largest class-0 residence is kept (R551). -/
def startFrame (p : Nat) (f : DFrame) (s : State) : State :=
  let t := max s.now f.exit
  let f1 := stampFrame p t f s
  let res := min 65535 ((t - f.sof) / 32)
  let s1 := if f.cls = 0 ∧ f.ing.isSome ∧ s.getF F.DMK_P_RES_MAX_RES p < res then s.setF F.DMK_P_RES_MAX_RES res p else s
  sendUnit p (5 * t) f1 0 s1

/-- A LINK frame leaves (R542, R548). -/
def startLink (p : Nat) (body : List Byte) (s : State) : State :=
  let t := s.now
  let f : DFrame := {
    cls := 2, cont := false, more := false, kind := 3, dst := 0xFFF, src := s.dAddr, stream := 0, hops := 0, fseq := s.dmk.fseq,
    cyc := if s.cycRun then s.tbs.k % 2 ^ 32 else 0, rlen := 0, rptr := 0, route := 0, payload := withTx body (t + s.txd p), bad := [],
    ing := none, sof := t, exit := t, key := none }
  let s1 := s.withDmk fun d => { d with fseq := (d.fseq + 1) % 2 ^ 16 }
  let s2 := s1.setDport p { s1.dport p with cur := some { frame := f, off := 64, ends := 5 * t + frameDur 64 + 8192, link := true } }
  let s3 := s2.emit (.dmk p (headerBytes f) f.payload [] true)
  if leAt body 0 1 = 1 then linkSent p (t + s.txd p) s3 else s3

/-- A class-1 or class-2 frame may start now: its first unit ends before the next window opens (R550). -/
def State.unitFits (s : State) (p : Nat) (f : DFrame) : Bool :=
  let t := 5 * max s.now f.exit
  !s.windowMeets p t (t + unitSpan f 0)

/-- An idle egress starts what is next: LINK frames, class 0, the remainder of a preempted frame, class 1, class 2
(R548 to R550).  While best effort is shed, class 2 waits in its queue, and so does its preempted remainder (R709). -/
def egressNext (p : Nat) (s : State) : State :=
  let x0 := s.dport p
  let x : DPort := match x0.rest with
    | some f => if s.beShed && f.cls == 2 then { x0 with rest := none, q2 := f :: x0.q2 } else x0
    | none => x0
  if x.cur.isSome then s
  else match x.links with
  | b :: r => startLink p b (s.setDport p { x with links := r })
  | [] =>
    if s.linkSt p ≠ LinkSt.UP then s
    else match x.q0, x.rest, x.q1, (if s.beShed then [] else x.q2) with
    | f :: r, _, _, _ => startFrame p f (s.setDport p { x with q0 := r })
    | [], some f, _, _ => if s.unitFits p f then startFrame p f (s.setDport p { x with rest := none }) else s
    | [], none, f :: r, _ => if s.unitFits p f then startFrame p f (s.setDport p { x with q1 := r }) else s
    | [], none, [], f :: r => if s.unitFits p f then startFrame p f (s.setDport p { x with q2 := r }) else s
    | [], none, [], [] => s

def queueSize (q : List DFrame) : Nat := q.foldl (fun n f => n + f.size) 0

/-- A frame enters the queue of its class at an egress, or is discarded (R548, R550). -/
def enqueue (p : Nat) (f : DFrame) (s : State) : State :=
  let x := s.dport p
  let q := if f.cls = 0 then x.q0 else if f.cls = 1 then x.q1 else x.q2
  let room := if f.cls = 0 then 4096 else 32768
  if room < queueSize q + f.size then
    let s1 := (s.flag F.DMK_P_FLAG_OVERFLOW p).incF (if f.cls = 2 then F.DMK_P_CNT_OVF_C2 else F.DMK_P_CNT_OVF_C1) p
    if f.cls = 2 then s1 else s1.post 0x0B05 11 p 0x0B0C f.cls
  else
    let busy0 := match x.cur with | some c => !c.link && c.frame.cls == 0 | none => false
    let y : DPort := if f.cls = 0 then { x with q0 := x.q0 ++ [f] } else if f.cls = 1 then { x with q1 := x.q1 ++ [f] } else { x with q2 := x.q2 ++ [f] }
    let s1 := s.setDport p y
    let s2 := if f.cls = 0 ∧ (busy0 = true ∨ x.q0 ≠ []) then (s1.flag F.DMK_FLAG_C0_COLL).post 0x0B04 11 p 0x0B0B f.stream else s1
    egressNext p s2

/-- A held command with a key has frames that have not left. -/
def State.keyWaits (s : State) (k : Nat) : Bool :=
  s.dmk.feed.any (fun f => f.key == some k) || (List.range 4).any fun p =>
    let x := s.dport p
    (x.q2 ++ x.rest.toList ++ x.cur.toList.map (·.frame)).any fun f => f.key == some k

/-- A command whose last frame has left completes (R580). -/
def keyDone (k : Option Nat) (s : State) : State :=
  match k with
  | some n => if s.keyWaits n then s else s.completeHeld n EC.OK 0 0
  | none => s

/-! ### Routing (R557, R558) -/

/-- The egress of a unicast destination: the primary while UP, else the alternate. -/
def State.routeTo (s : State) (dst : Nat) : Option Nat :=
  let e := s.tw 0x0B07 dst 0
  if !s.dmk.hasTable then none
  else if bit e 2 && s.dmkUp (e % 4) then some (e % 4)
  else if bit e 5 && s.dmkUp (bits e 3 2) then some (bits e 3 2)
  else none

/-- Egresses of a frame that this node originates. -/
def State.outPorts (s : State) (f : DFrame) : List Nat :=
  if f.rlen ≠ 0 then [bits f.route 0 2].filter s.dmkUp
  else if f.dst = 0xFFF then s.upPorts
  else (s.routeTo f.dst).toList

/-- A new frame of this node, its FSEQ still to be set. -/
def newFrame (cls kind dst stream : Nat) (payload : List Byte) (s : State) : DFrame :=
  { cls := cls, cont := false, more := false, kind := kind, dst := dst, src := s.dAddr, stream := stream, hops := 0, fseq := 0,
    cyc := if s.cycRun then s.tbs.k % 2 ^ 32 else 0, rlen := 0, rptr := 0, route := 0, payload := payload, bad := [], ing := none,
    sof := s.now, exit := s.now, key := none }

/-- The shaping record of a class-1 stream (R574, R579). -/
def State.c1Rec (s : State) (stream : Nat) : Option Nat :=
  (List.range 16).find? fun r => s.tb 0x0B02 r 0 8 1 == 1 && s.tb 0x0B02 r 0 0 8 == stream

/-- A class-1 frame would exceed BYTES within INT (R574). -/
def State.shapeHolds (s : State) (f : DFrame) : Bool :=
  match s.c1Rec f.stream with
  | some r =>
    let win := s.tb 0x0B02 r 0 32 32 * 1000 * 256
    let used := ((mapGet (fun _ => []) s.dmk.shapeLog f.stream).filter fun e => decide (s.now < e.1 + win)).foldl (fun n e => n + e.2) 0
    decide (s.tb 0x0B02 r 0 16 16 < used + f.size)
  | none => false

/-- Put a frame on its egresses and note it for shaping. -/
def release (f : DFrame) (s : State) : State :=
  let s1 := if f.cls = 1 then match s.c1Rec f.stream with
      | some r =>
        let win := s.tb 0x0B02 r 0 32 32 * 1000 * 256
        let old := (mapGet (fun _ => []) s.dmk.shapeLog f.stream).filter fun e => decide (s.now < e.1 + win)
        s.withDmk fun d => { d with shapeLog := mapSet (fun _ => []) d.shapeLog f.stream (old ++ [(s.now, f.size)]) }
      | none => s
    else s
  s1.each (s.outPorts f) fun p t => enqueue p f t

/-- Release shaped frames in their order while their streams allow it. -/
def shapedNext (s : State) : State :=
  s.dmk.shaped.foldl (fun t f =>
    if t.shapeHolds f ∨ t.dmk.shaped.any (fun g => g.stream == f.stream && g.fseq != f.fseq && decide ((f.fseq + 2 ^ 16 - g.fseq) % 2 ^ 16 < 2 ^ 15))
    then t else release f (t.withDmk fun d => { d with shaped := d.shaped.filter fun g => g != f })) s

/-- This node originates a frame: it takes the next FSEQ (R538, R558, R574); at address 0 only DISC replies (R553). -/
def originate (f : DFrame) (s : State) : State :=
  if !s.dEn || (s.dAddr == 0 && (f.kind != 4 || leAt f.payload 0 1 != 2)) then s
  else
    let g := { f with fseq := s.dmk.fseq }
    let s1 := s.withDmk fun d => { d with
      fseq := (d.fseq + 1) % 2 ^ 16,
      bcast := if f.dst = 0xFFF then mapSet (fun _ => none) d.bcast s.dAddr (some d.fseq) else d.bcast }
    if g.cls = 1 ∧ (s1.shapeHolds g ∨ s1.dmk.shaped.any fun h => h.stream == g.stream) then
      s1.withDmk fun d => { d with shaped := d.shaped ++ [g] }
    else release g s1

/-- Room for the next frame of a host message at every egress it takes. -/
def State.feedFits (s : State) (f : DFrame) : Bool :=
  (s.outPorts f).all fun p => decide (queueSize (s.dport p).q2 + f.size ≤ 32768)

/-- Feed waiting host frames into class 2, at most n. -/
def feedNext : Nat → State → State
  | 0, s => s
  | n + 1, s =>
    match s.dmk.feed with
    | f :: r => if s.feedFits f then feedNext n (release f (s.withDmk fun d => { d with feed := r })) else s
    | [] => s

/-- The end of a unit: preempt, go on, or take the next frame (R548 to R550, R577); a waiting LINK frame preempts as well, as it
waits only for the unit in progress (DEDUCED, log 79). -/
def unitEnd (p : Nat) (s : State) : State :=
  let x := s.dport p
  let t := 5 * s.now
  match x.cur with
  | none => shapedNext (feedNext 64 (egressNext p s))
  | some c =>
    if t < c.ends then s
    else if c.link ∨ c.frame.payload.length ≤ c.off then
      let s1 := egressNext p (s.setDport p { x with cur := none })
      shapedNext (feedNext 64 (keyDone (if c.link then none else c.frame.key) s1))
    else if x.links ≠ [] ∨ x.q0 ≠ [] ∨ s.windowMeets p c.ends (c.ends + unitSpan c.frame c.off) then
      let f := { c.frame with
        cont := true, payload := c.frame.payload.drop c.off,
        bad := (c.frame.bad.filter fun b => decide (c.off ≤ 16 * b)).map fun b => b - c.off / 16 }
      let s1 := (s.setDport p { x with cur := none, rest := some f }).incF F.DMK_P_CNT_PRE_PRE p
      egressNext p (s1.emit (.dmk p [] [] [] true))
    else sendUnit p c.ends c.frame c.off s

/-- What waits at a port that leaves UP is lost (R537, R558). -/
def portFlush (p : Nat) (s : State) : State :=
  if s.linkSt p = LinkSt.UP then s
  else
    let x := s.dport p
    let keys := (x.q2 ++ x.rest.toList ++ x.cur.toList.map (·.frame)).filterMap (·.key)
    let s1 := s.setDport p { DPort.reset with links := x.links, cur := match x.cur with | some c => if c.link then some c else none | none => none }
    s1.each keys fun k t => keyDone (some k) t

/-- The root learns of a change of one of its own ports (R555). -/
def portChanged (was : Nat) (p : Nat) (s : State) : State :=
  let s1 := portFlush p s
  if (was = LinkSt.UP) ≠ (s.linkSt p = LinkSt.UP) ∧ s.getB F.DMK_STAT_ROOT_ACT then s1.withDmk fun d => { d with discDue := true } else s1

/-! ### Slices (R552, R559, R560, R573) -/

/-- The CELL slice of the present cycle (R560). -/
def cellSlice (s : State) : List Byte :=
  let sc := (List.range 8).flatMap fun g => leBytes (s.getF F.TRJ_SCALE_V g) 3
  leBytes s.tbs.k 8 ++ leBytes (s.twlMode + s.getF F.TWL_G_MODE_NEXT * 16 + s.getF F.TWL_G_MODE_SWP * 128) 1
  ++ leBytes (s.getF F.DMK_SYNC_STAT_STATE) 1 ++ leBytes s.dAddr 2 ++ leBytes 0 4 ++ sc ++ sc.map fun b => ~~~b

/-- The slice's code blocks are all good. -/
def sliceGood (ofs : Nat) (f : DFrame) : Bool := (List.range 4).all fun i => !f.bad.contains (ofs / 16 + i)

/-- Put bytes into a payload. -/
def putBytes (b : List Byte) (ofs : Nat) (v : List Byte) : List Byte := b.take ofs ++ v ++ b.drop (ofs + v.length)

/-- Records of a received class-0 frame (R559, R579): stream and source, and the ingress where one is named. -/
def State.c0Match (s : State) (f : DFrame) (port : Nat) : List Nat :=
  (List.range 64).filter fun r => s.c0En r && s.c0 r 0 20 1 == 0 && s.c0 r 0 0 8 == f.stream && s.c0 r 0 8 12 == f.src
    && (s.c0 r 4 22 1 == 0 || s.c0 r 4 20 2 == port)

/-- SLICE_OP 1: the node writes its slice as the frame passes (R559, R613). -/
def sliceWrite (port : Nat) (f : DFrame) (s : State) : DFrame :=
  if f.cls ≠ 0 ∨ s.standby then f
  else (s.c0Match f port).foldl (fun g r =>
    let ofs := s.c0 r 5 16 10
    if s.c0 r 5 0 2 == 1 && sliceGood ofs g && decide (ofs + 64 ≤ g.payload.length) then { g with payload := putBytes g.payload ofs (cellSlice s) } else g) f

/-- The slice of a participant, named by its address there, shows another mode after k_s (R560, R573). -/
def modeSplit (src mode : Nat) (s : State) : State :=
  match s.dmk.watch with
  | some (ks, peers) =>
    if peers.contains src ∧ ks < s.tbs.k ∧ mode ≠ s.twlMode then
      ((s.withDmk fun d => { d with watch := none }).flag F.DMK_FLAG_MODE_SPLIT).post 0x0B06 11 0 0x0B0D src
    else s
  | none => s

/-- SLICE_OP 2: the slice is read into a record of DMK_PEER (R559, R560). -/
def sliceRead (r : Nat) (late : Bool) (f : DFrame) (s : State) : State :=
  let ofs := s.c0 r 5 16 10
  if s.c0 r 5 0 2 != 2 || !sliceGood ofs f || decide (f.payload.length < ofs + 64) then s
  else
    let b := (f.payload.drop ofs).take 64
    let rec_ := s.c0 r 5 32 6
    let good := leAt b 16 24 + leAt b 40 24 == 2 ^ 192 - 1
    let s1 := s.setTw 0x0B06 rec_ 0 (BitVec.ofNat 72 (f.src + b2n good * 2 ^ 12 + b2n late * 2 ^ 13 + f.cyc * 2 ^ 32))
    let s2 := s1.each (List.range 8) fun w t => t.setTw 0x0B06 rec_ (1 + w) (BitVec.ofNat 72 (leAt b (8 * w) 8))
    modeSplit (leAt b 10 2 % 4096) (leAt b 8 1 % 8) s2

/-- A class-0 frame at a node that receives it: deadlines and slice reads (R552, R559). -/
def c0Receive (port : Nat) (f : DFrame) (s : State) : State :=
  s.each (s.c0Match f port) fun r t =>
    let dl := t.c0 r 1 32 32
    let due := (t.tbs.t0 + dl) * 1280
    let last := 5 * f.sof + frameDur f.payload.length
    let late := dl != 0 && t.cycRun && t.tbs.started && decide (due < last)
    let t1 := if late then (t.flag F.DMK_FLAG_C0_LATE).post 0x0B03 11 r 0x0B0A ((last - due) / 1280) else t
    sliceRead r late f t1

/-- An originating record sends its frame at T0 + T_SEND (R552, R613); on a port that holds class 0 it waits. -/
def c0Send (r : Nat) (s : State) : State :=
  let at_ := (s.tbs.t0 + s.c0 r 1 0 32) * 256
  if !s.c0En r || s.c0 r 0 20 1 == 0 || s.standby || !s.cycRun || !s.tbs.started || decide (s.now < at_) || s.dmk.c0Sent.contains r
    || !s.dEn || s.dAddr == 0 then s
  else
    let zero := leBytes 0 (s.c0 r 0 32 16)
    let ofs := s.c0 r 5 16 10
    let pay := if s.c0 r 5 0 2 == 1 then putBytes zero ofs (cellSlice s) else zero
    let f : DFrame := { newFrame 0 1 0xFFF (s.c0 r 0 0 8) pay s with fseq := s.dmk.fseq }
    let s1 := s.withDmk fun d => { d with
      c0Sent := listIns d.c0Sent r, fseq := (d.fseq + 1) % 2 ^ 16,
      bcast := mapSet (fun _ => none) d.bcast s.dAddr (some d.fseq) }
    s1.each (s.upPorts.filter fun p => bit (s.c0 r 4 16 4) p) fun p t => enqueue p f t

/-! ### Host messages (R575) -/

/-- A message that nothing here takes (R574, R575). -/
def unclaimed (s : State) : State := (s.flag F.DMK_FLAG_UNCLAIMED).incF F.DMK_CNT_RX_UNCLAIMED

/-- A HOST message is written to the host receive buffer. -/
def hostReceive (src stream : Nat) (data : List Byte) (s : State) : State :=
  let size := s.getF F.DMK_HRX_SIZE_SIZE
  let len := (16 + data.length + 63) / 64 * 64
  if size = 0 then unclaimed s
  else if size < len then (unclaimed s).post 0x0B0A 11 0 EC.OK (2 ^ 64 - 1)
  else
    let ptr := s.getF F.DMK_HRX_PTR_PTR
    let wrap := decide (size < ptr + len)
    let at_ := if wrap then 0 else ptr
    let desc := leBytes src 2 ++ leBytes stream 1 ++ leBytes 0 1 ++ leBytes data.length 4 ++ leBytes s.ns 8
    let s1 := if wrap then s.setF F.DMK_HRX_PTR_WRAPS (satInc 255 (s.getF F.DMK_HRX_PTR_WRAPS)) else s
    let s2 := s1.emit (.dmaBytes (s.getF F.DMK_HRX_BASE_ADDR + at_) (desc ++ data ++ leBytes 0 (len - 16 - data.length)))
    (s2.setF F.DMK_HRX_PTR_PTR (at_ + len)).post 0x0B0A 11 0 EC.OK at_

/-- The frames of a host message: 1024 bytes each, MORE on all but the last. -/
def hostFrames (dst stream key : Nat) (s : State) : Nat → List Byte → List DFrame
  | 0, _ => []
  | n + 1, data =>
    let more := decide (1024 < data.length)
    let f := { newFrame 2 8 dst stream (data.take 1024) s with more := more, key := some key }
    if more then f :: hostFrames dst stream key s n (data.drop 1024) else [f]

/-- The key under which the next HOST_SEND completes. -/
def State.hostKey (s : State) : Nat := 0xB0003 + 2 ^ 24 * s.dmk.sendNo

/-- HOST_SEND: number the frames and feed them into class 2. -/
def hostSend (dst stream : Nat) (data : List Byte) (s : State) : State :=
  let fs := hostFrames dst stream s.hostKey s 65 data
  let numbered := (fs.zip (List.range fs.length)).map fun x => { x.1 with fseq := (s.dmk.fseq + x.2) % 2 ^ 16 }
  feedNext 64 (s.withDmk fun d => { d with
    feed := d.feed ++ numbered, fseq := (d.fseq + fs.length) % 2 ^ 16, sendNo := d.sendNo + 1,
    bcast := if dst = 0xFFF then mapSet (fun _ => none) d.bcast s.dAddr (some ((d.fseq + fs.length - 1) % 2 ^ 16)) else d.bcast })

/-! ### Reassembly (R541) -/

/-- A message is discarded for a gap. -/
def seqGap (s : State) : State := (s.flag F.DMK_FLAG_SEQ_GAP).incF F.DMK_CNT_RX_GAP

def Reasm.is (r : Reasm) (src stream : Nat) : Bool := r.src == src && r.stream == stream

def State.dropReasm (s : State) (r : Reasm) : State := s.withDmk fun d => { d with reasm := d.reasm.filter fun q => q != r }

/-- A whole frame of a message: the message it completes, where it does (R541). -/
def reassemble (f : DFrame) (s : State) : State × Option (List Byte) :=
  match s.dmk.reasm.find? (fun r => r.is f.src f.stream && r.cls == f.cls) with
  | none =>
    if s.dmk.reasm.any fun r => r.is f.src f.stream && !r.drop then
      (if f.more then (seqGap s).withDmk fun d => { d with reasm := d.reasm ++ [({ src := f.src, stream := f.stream, cls := f.cls, fseq := f.fseq, time := s.now, data := [], drop := true } : Reasm)] }
       else seqGap s, none)
    else if f.more then (s.withDmk fun d => { d with reasm := d.reasm ++ [{ src := f.src, stream := f.stream, cls := f.cls, fseq := f.fseq, time := s.now, data := f.payload, drop := false }] }, none)
    else (s, some f.payload)
  | some r =>
    if r.drop then (if f.more then s else s.dropReasm r, none)
    else
      let data := r.data ++ f.payload
      let bad := f.fseq != (r.fseq + 1) % 2 ^ 16 || decide (r.time + 10000000 * 256 < s.now) || decide (65536 < data.length)
      let s1 := s.dropReasm r
      let keep (q : Reasm) (t : State) : State := t.withDmk fun d => { d with reasm := d.reasm ++ [q] }
      if bad then (if f.more then keep { r with drop := true, data := [], time := s.now } (seqGap s1) else seqGap s1, none)
      else if f.more then (keep { r with fseq := f.fseq, time := s.now, data := data } s1, none)
      else (s1, some data)

/-- 10 ms between two frames of a message (R541). -/
def reasmTimeout (src stream : Nat) (s : State) : State :=
  match s.dmk.reasm.find? (fun r => r.is src stream && decide (r.time + 10000000 * 256 ≤ s.now)) with
  | some r => if r.drop then s.dropReasm r else seqGap (s.dropReasm r)
  | none => s

/-! ### Addresses and routes at a node (R544, R545, R556) -/

/-- This node's address changes; losing one is reported (R556). -/
def takeAddr (a : Nat) (s : State) : State :=
  let old := s.dAddr
  let s1 := (s.setF F.DMK_ADDR_ADDR a).setF F.DMK_STAT_ASSIGNED (b2n (a != 0))
  if a = 0 ∨ (old ≠ 0 ∧ a ≠ old) then (s1.flag F.DMK_FLAG_ADDR_LOST).post 0x0B08 11 0 0x0B0F old else s1

/-- A source-routed frame of this node. -/
def routed (kind dst rlen route : Nat) (payload : List Byte) (s : State) : DFrame :=
  { newFrame 2 kind dst 0 payload s with rlen := rlen, rptr := 1, route := route }

/-- A route of egress ports, two bits a hop (R538). -/
def packRoute (r : List Nat) : Nat := ((r.zip (List.range r.length)).foldl (fun n x => n + x.1 % 4 * 4 ^ x.2) 0)

/-- One port record of a DISC reply (R543). -/
def portRecord (p : Nat) (s : State) : List Byte :=
  let known := LinkSt.PEER ≤ s.linkSt p
  leBytes (s.linkSt p) 1 ++ leBytes (s.getF F.DMK_P_STAT_NPORT p) 1 ++ leBytes (if known then s.getF F.DMK_P_NUID_V p else 0) 8
  ++ leBytes (if s.ldlyOk p then s.ldly p else 2 ^ 32 - 1) 4 ++ leBytes 0 2

/-- The fixed address, 0 if none. -/
def State.fixedAddr (s : State) : Nat := if s.getB F.DMK_CTL_FIXED then s.getF F.DMK_ADDR_FADDR else 0

/-- A DISC request is answered (R543); a root with a lower UID ends this node's offer (R554). -/
def discAnswer (b : List Byte) (s : State) : State :=
  let s1 := if s.getB F.DMK_STAT_ROOT_ACT ∧ leAt b 8 8 < s.dUid then
      (((s.setF F.DMK_STAT_ROOT_ACT 0).flag F.DMK_FLAG_ROOT_CONFLICT).withDmk fun d => { d with disc := none, discDue := false }).post 0x0B07 11 0 0x0B0E
        (leAt b 8 8)
    else s
  let pay := leBytes 2 1 ++ leBytes 4 1 ++ leBytes s.fixedAddr 2 ++ leBytes s.dAddr 2 ++ leBytes 0 2 ++ leBytes s.dUid 8
    ++ (List.range 4).flatMap fun p => portRecord p s
  originate (routed 4 (leAt b 2 2 % 4096) (leAt b 1 1 % 32) (leAt b 4 4) pay s) s1

/-- An ASSIGN to this node's UID is taken and acknowledged (R544). -/
def assignAccept (b : List Byte) (s : State) : State :=
  if leAt b 16 8 ≠ s.dUid then s
  else
    let s1 := takeAddr (leAt b 2 2 % 4096) s
    originate (routed 5 (leAt b 4 2 % 4096) (leAt b 1 1 % 32) (leAt b 8 4) (leBytes 2 1 ++ b.drop 1) s1) s1

/-- Parts of a route table with the newest put in. -/
def putPart (n : Nat) (es : List Nat) (ps : List (Nat × List Nat)) : List (Nat × List Nat) := mapIns ps n es

/-- The whole table is replaced (R545). -/
def replaceTable (ps : List (Nat × List Nat)) (s : State) : State :=
  (s.each ps fun x t => t.each (List.range 64) fun i u => u.setTw 0x0B07 (64 * x.1 + i) 0 (BitVec.ofNat 72 ((x.2.getD i 0) % 2 ^ 14))).withDmk
    fun d => { d with hasTable := true, parts := none }

/-- A part of a route table (R545). -/
def routePart (b : List Byte) (s : State) : State :=
  let id := leAt b 4 4
  let es := (List.range 64).map fun i => leAt b (16 + 2 * i) 2
  let n := leAt b 1 1 % 64
  let old := match s.dmk.parts with | some (i, t, ps) => if i = id then some (t, ps) else none | none => none
  let (t, ps) := old.getD (s.now, [])
  let ps1 := putPart n es ps
  if ps1.length = 64 then
    let s1 := replaceTable ps1 s
    originate (newFrame 2 6 (leAt b 2 2 % 4096) 0 (leBytes 2 1 ++ leBytes 0 1 ++ leBytes (leAt b 2 2) 2 ++ leBytes id 4 ++ leBytes s.dUid 8 ++ leBytes 0 128) s1) s1
  else s.withDmk fun d => { d with parts := some (id, t, ps1) }

/-- 100 ms after the first part of an incomplete table (R545). -/
def partsTimeout (s : State) : State :=
  match s.dmk.parts with
  | some (_, t, _) => if t + 100000000 * 256 ≤ s.now then s.withDmk fun d => { d with parts := none } else s
  | none => s

/-! ### Discovery at the root (R543, R555 to R557) -/

/-- Send the task in progress. -/
def discSend (s : State) : State :=
  match s.dmk.disc with
  | none => s
  | some d =>
    let s1 := s.withDmk fun x => { x with disc := some { d with sentAt := s.now } }
    match d.todo with
    | .probe route back _ :: _ =>
      originate (routed 4 0xFFF route.length (packRoute route)
        (leBytes 1 1 ++ leBytes back.length 1 ++ leBytes s.dAddr 2 ++ leBytes (packRoute back) 4 ++ leBytes s.dUid 8) s) s1
    | .assign route back uid a :: _ =>
      originate (routed 5 0xFFF route.length (packRoute route)
        (leBytes 1 1 ++ leBytes back.length 1 ++ leBytes a 2 ++ leBytes s.dAddr 2 ++ leBytes 0 2 ++ leBytes (packRoute back) 4 ++ leBytes 0 4
          ++ leBytes uid 8 ++ leBytes 0 8) s) s1
    | _ => s1

/-- Links of a node that are in service: port and neighbour's UID. -/
def DNode.nbrs (n : DNode) : List (Nat × Nat) :=
  (List.range n.ports.length).filterMap fun p => match n.ports[p]? with
    | some (st, _, uid) => if st = LinkSt.UP ∧ uid ≠ 0 then some (p, uid) else none
    | none => none

/-- Nodes one link further. -/
def spread (ns : List DNode) (not_ : Nat) (front : List Nat) : List Nat :=
  (ns.filter fun n => front.contains n.uid).flatMap fun n => (n.nbrs.map (·.2)).filter fun u => u != not_

/-- Hops from one node to another without passing a third; none: no path. -/
def hopsTo (ns : List DNode) (not_ dest : Nat) : Nat → Nat → List Nat → Option Nat
  | 0, _, _ => none
  | n + 1, h, front => if front.contains dest then some h else hopsTo ns not_ dest n (h + 1) ((front ++ spread ns not_ front).eraseDups)

/-- The first of the pairs (hops, port) with the fewest hops. -/
def bestHop : List (Nat × Nat) → Option (Nat × Nat)
  | [] => none
  | x :: r => match bestHop r with
    | some y => if y.1 < x.1 then some y else some x
    | none => some x

/-- The entry of a node's table for a destination: primary on a path with fewest hops, alternate over another link (R557). -/
def routeEntry (ns : List DNode) (me : DNode) (dest : Nat) : Nat :=
  if me.uid = dest then 0
  else
    let opts := me.nbrs.filterMap fun x => (hopsTo ns me.uid dest (ns.length + 1) 1 [x.2]).map fun h => (h, x.1)
    match bestHop opts with
    | none => 0
    | some (h, p) => match bestHop (opts.filter fun o => o.2 != p) with
      | some (_, q) => p + 4 + q * 8 + 32 + min 255 h * 64
      | none => p + 4 + min 255 h * 64

/-- The table of a node: entries by destination address. -/
def tableFor (ns : List DNode) (me : DNode) : List (Nat × Nat) :=
  (ns.filter fun n => n.addr != 0).map fun n => (n.addr, routeEntry ns me n.uid)

/-- One part of a table (R545). -/
def partBody (tab : List (Nat × Nat)) (part id uid : Nat) (s : State) : List Byte :=
  leBytes 1 1 ++ leBytes part 1 ++ leBytes s.dAddr 2 ++ leBytes id 4 ++ leBytes uid 8
  ++ (List.range 64).flatMap fun i => leBytes (match tab.find? (fun e => e.1 == 64 * part + i) with | some e => e.2 | none => 0) 2

/-- A discovery ends (R555). -/
def discEnd (d : Disc) (s : State) : State :=
  ((s.withDmk fun x => { x with disc := none, known := d.nodes }).setF F.DMK_STAT_NODES (min 4095 d.nodes.length)).post 0x0B0B 11 0 EC.OK d.nodes.length

/-- Addresses in use. -/
def usedAddrs (ns : List DNode) : List Nat := (ns.filter fun n => n.addr != 0).map (·.addr)

/-- The entry of DMK_ADDR_MAP for a UID. -/
def State.mapped (s : State) (uid : Nat) : Option Nat :=
  ((List.range 256).find? fun r => s.tb 0x0B04 r 1 12 1 == 1 && s.tw 0x0B04 r 0 % 2 ^ 64 == uid).map fun r => s.tb 0x0B04 r 1 0 12

/-- The lowest free address at or above a base. -/
def freeAddr (used : List Nat) (base : Nat) : Nat := ((List.range (used.length + 1)).map (· + base)).find? (fun a => !used.contains a) |>.getD 0

/-- Set the address of a node. -/
def setAddr (uid a : Nat) (ns : List DNode) : List DNode := ns.map fun n => if n.uid == uid then { n with addr := a } else n

/-- Insert a node by its UID. -/
def byUid (n : DNode) : List DNode → List DNode
  | [] => [n]
  | m :: r => if n.uid < m.uid then n :: m :: r else m :: byUid n r

/-- The addresses of a discovery's nodes (R556): a node that stays reachable keeps its own, then fixed addresses, the map
and the pool. -/
def assignAddrs (known ns : List DNode) (s : State) : List DNode :=
  let kept (n : DNode) : Nat := match known.find? (fun m => m.uid == n.uid) with | some m => m.addr | none => 0
  let sorted := ns.foldl (fun l n => byUid n l) []
  let n0 := ns.map fun n => { n with addr := kept n }
  let free (l : List DNode) (u : Nat) : Bool := match l.find? (fun m => m.uid == u) with | some m => m.addr == 0 | none => false
  let give (l : List DNode) (u a : Nat) : List DNode := if free l u && a != 0 && !(usedAddrs l).contains a then setAddr u a l else l
  let n1 := sorted.foldl (fun l n => give l n.uid n.fixed) n0
  let n2 := sorted.foldl (fun l n => match s.mapped n.uid with | some a => if n.fixed = 0 then give l n.uid a else l | none => l) n1
  if s.getB F.DMK_CTL_POOL_EN then
    sorted.foldl (fun l n =>
      let a := freeAddr (usedAddrs l) (s.getF F.DMK_POOL_POOL_BASE)
      if n.fixed = 0 ∧ a ≤ 4094 then give l n.uid a else l) n2
  else n2

/-- The next task, and what follows when none is left (R555 to R557). -/
def discNext (s : State) : State :=
  match s.dmk.disc with
  | none => s
  | some d => match d.todo with
    | [] => discEnd d s
    | .routes uid a :: _ =>
      match d.nodes.find? (fun n => n.uid == uid) with
      | none => s
      | some n =>
        let id := s.dmk.tableNo
        let tab : List (Nat × Nat) := tableFor d.nodes n
        let s1 := s.withDmk fun x => { x with tableNo := (id + 1) % 2 ^ 32, disc := some { d with tries := 0, sentAt := s.now, table := id } }
        s1.each (List.range 64) fun p t => originate (newFrame 2 6 a 0 (partBody tab p id uid t) t) t
    | _ => discSend (s.withDmk fun x => { x with disc := some { d with tries := 0 } })

/-- The exploration is over: assign addresses, take this node's own table, send the others (R556, R557). -/
def discAssign (d : Disc) (s : State) : State :=
  let ns := assignAddrs s.dmk.known d.nodes s
  let others := ns.filter fun n => n.uid != s.dUid
  let asg := others.map fun n => DiscTask.assign n.route n.back n.uid n.addr
  let rts := (others.filter fun n => n.addr != 0).map fun n => DiscTask.routes n.uid n.addr
  let s1 := match ns.find? (fun n => n.uid == s.dUid) with
    | some me => replaceTable ((List.range 64).map fun p => (p, (List.range 64).map fun i =>
        match (tableFor ns me).find? (fun (e : Nat × Nat) => e.1 == 64 * p + i) with | some e => e.2 | none => 0))
        (if me.addr = s.dAddr then s else takeAddr me.addr s)
    | none => s
  discNext (s1.withDmk fun x => { x with disc := some { d with nodes := ns, todo := asg ++ rts } })

/-- The task in progress is done; after the last probe addresses are assigned. -/
def discStep (d : Disc) (s : State) : State :=
  match d.todo with
  | .probe _ _ _ :: r => if r = [] then discAssign { d with todo := [] } s else discNext (s.withDmk fun x => { x with disc := some { d with todo := r } })
  | _ :: r => discNext (s.withDmk fun x => { x with disc := some { d with todo := r } })
  | [] => discEnd d s

/-- Probes of the neighbours of a node that are not yet known. -/
def newProbes (n : DNode) (have_ : List Nat) : List DiscTask :=
  ((List.range n.ports.length).filterMap fun p => match n.ports[p]? with
    | some (st, np, uid) => if st = LinkSt.UP ∧ uid ≠ 0 ∧ n.route.length < 16 then some (p, np, uid) else none
    | none => none).foldl (fun l x => if have_.contains x.2.2 ∨ l.any (fun t => match t with | .probe _ _ u => u == x.2.2 | _ => false)
      then l else l ++ [DiscTask.probe (n.route ++ [x.1]) (x.2.1 :: n.back) x.2.2]) []

/-- This root's own address at the start (R553, R556). -/
def ownAddr (s : State) : State :=
  if s.dAddr ≠ 0 then s
  else
    let a := if s.fixedAddr ≠ 0 then s.fixedAddr
      else match s.mapped s.dUid with
        | some m => m
        | none => if s.getB F.DMK_CTL_POOL_EN then s.getF F.DMK_POOL_POOL_BASE else 0
    if a = 0 then s else takeAddr a s

/-- A discovery starts at the acting root (R555). -/
def discovery (reported : Bool) (s : State) : State :=
  if !s.getB F.DMK_STAT_ROOT_ACT || s.dmk.disc.isSome || !(s.dmk.discDue || reported) then s
  else
    let s1 := ownAddr s
    let me : DNode := {
      uid := s1.dUid, fixed := s1.fixedAddr, addr := s1.dAddr, route := [], back := [],
      ports := (List.range 4).map fun p => (s1.linkSt p, s1.getF F.DMK_P_STAT_NPORT p, s1.getF F.DMK_P_NUID_V p) }
    let d : Disc := { nodes := [me], todo := newProbes me [me.uid], tries := 0, sentAt := s.now, table := 0 }
    let s2 := s1.withDmk fun x => { x with discDue := false, disc := some d, known := if x.known.any (fun n => n.uid == me.uid) then x.known else x.known ++ [me] }
    if d.todo = [] then discAssign d s2 else discNext s2

/-- A DISC reply (R543, R555). -/
def discReply (b : List Byte) (s : State) : State :=
  match s.dmk.disc with
  | some d => match d.todo with
    | .probe route back uid :: r =>
      if leAt b 8 8 ≠ uid then s
      else
        let nports := min 4 (leAt b 1 1 % 8)
        let n : DNode := {
          uid := uid, fixed := leAt b 2 2 % 4096, addr := leAt b 4 2 % 4096, route := route, back := back,
          ports := (List.range nports).map fun p => (leAt b (16 + 16 * p) 1 % 8, leAt b (17 + 16 * p) 1 % 4, leAt b (18 + 16 * p) 8) }
        let have_ := uid :: d.nodes.map (·.uid) ++ d.todo.filterMap fun t => match t with | .probe _ _ u => some u | _ => none
        let more := newProbes n have_
        discStep { d with nodes := d.nodes ++ [n], todo := .probe route back uid :: r ++ more } s
    | _ => s
  | none => s

/-- An ASSIGN or ROUTE acknowledgement (R544, R545). -/
def discAck (kind : Nat) (b : List Byte) (s : State) : State :=
  match s.dmk.disc with
  | some d => match d.todo with
    | .assign _ _ uid _ :: _ => if kind = 5 ∧ leAt b 16 8 = uid then discStep d s else s
    | .routes uid _ :: _ => if kind = 6 ∧ leAt b 4 4 = d.table ∧ leAt b 8 8 = uid then discStep d s else s
    | _ => s
  | none => s

/-- An unanswered DISC or ASSIGN is sent again after 1 ms, at most 3 times (R543, R544); a table without acknowledgement
is passed over after 100 ms. -/
def discRepeat (s : State) : State :=
  match s.dmk.disc with
  | some d => match d.todo with
    | .routes _ _ :: _ => if d.sentAt + 100000000 * 256 ≤ s.now then discStep d s else s
    | [] => s
    | _ =>
      if s.now < d.sentAt + 1000000 * 256 then s
      else if d.tries < 3 then discSend (s.withDmk fun x => { x with disc := some { d with tries := d.tries + 1 } })
      else discStep d s
  | none => s

end Sys2Proof.Machine
end

