-- ==== Sys2Proof/Machine/DmkSync.lean ====
section
/-! DEFINITION. Damask: common time (R561 to R569), schedule-mode agreement (R571 to R573), the reception of frames (R539, R540, R557, R558), and the registers, tables and commands of the block (R578 to R582). -/

namespace Sys2Proof.Machine

/-! ### Synchronisation (R562 to R569) -/

namespace SyncSt
def OFF : Nat := 0
def LISTEN : Nat := 1
def COLD : Nat := 2
def ACQUIRE : Nat := 3
def SYNC : Nat := 4
def HOLDOVER : Nat := 5
def OUT : Nat := 6
end SyncSt

def State.syncSt (s : State) : Nat := s.getF F.DMK_SYNC_STAT_STATE
def State.withSync (s : State) (f : Sync → Sync) : State := s.withDmk fun d => { d with sync := f d.sync }

/-- SYNC_INT in ns, and in T72 units. -/
def State.syncNs (s : State) : Nat := 250000 * 2 ^ s.getF F.DMK_SYNC_CFG_INT
def State.syncInt (s : State) : Nat := s.syncNs * 256

/-- A paired standby follows the active alone (R600). -/
def State.paired (s : State) : Bool := s.standby && s.getF F.LND_STAT_PSTATE != 0

/-- K in force (R600). -/
def State.syncK (s : State) : Nat := if s.paired then 0 else s.getF F.DMK_SYNC_CFG_K

/-- The synchronisation state changes (R567, R584). -/
def syncEnter (st : Nat) (s : State) : State :=
  let s1 := (s.setF F.DMK_SYNC_STAT_STATE st).withSync fun y => { y with good := 0, heard := s.now }
  let s2 := (s1.flagIf (st == SyncSt.HOLDOVER) F.DMK_FLAG_HOLDOVER).flagIf (st == SyncSt.OUT) F.DMK_FLAG_OUT
  s2.post 0x0B02 11 0 (if st = SyncSt.OUT ∨ st = SyncSt.HOLDOVER then 0x0B09 else EC.OK) (st + s.getF F.DMK_SYNC_DEV_DEV * 2 ^ 32)

/-- The round in progress is the first to be closed. -/
def syncStart (s : State) : State :=
  syncEnter SyncSt.LISTEN (s.withSync fun _ => { Sync.reset with round := s.now / s.syncInt })

/-- SYNC_EN or DMK_CTL.EN has changed (R567). -/
def syncFollow (s : State) : State :=
  let on := s.dEn && s.getB F.DMK_SYNC_CFG_SYNC_EN
  if on && s.syncSt == SyncSt.OFF then syncStart s
  else if !on && s.syncSt != SyncSt.OFF then syncEnter SyncSt.OFF s
  else s

/-- The sources a receiver accepts; the active of a pair is source 4096 (R563, R600). -/
def State.sourceSel (s : State) (src : Nat) : Bool :=
  if s.paired then src == 4096
  else (List.range 16).any fun r => s.tb 0x0B03 r 0 12 1 == 1 && s.tb 0x0B03 r 0 0 12 == src

/-- A COLD frame of a lower UID ends a coldstart (R569). -/
def coldYield (s : State) : State := syncEnter SyncSt.ACQUIRE (s.withSync fun y => { y with yielded := true })

/-- What an accepted TIME frame gives the round (R563, R564, R566): its arrival raw and corrected, ingress, delay. -/
def timeTake (src port hops raw rx ldly : Nat) (b : List Byte) (s : State) : State :=
  let r := leAt b 0 8
  let corr := sx 64 (leAt b 64 8)
  let tau : Int := (leAt b 48 9 : Int) + corr + ldly
  let s1 := (s.withSync fun y => { y with heard := s.now })
  let s2 := if s.syncSt = SyncSt.LISTEN then syncEnter SyncSt.ACQUIRE s1 else s1
  let old := mapGet (fun _ => none) s.dmk.sync.srcs src
  let moved := match old with | some o => o.port != port || o.hops != hops | none => false
  let excl := if moved then 2 else match old with | some o => o.excl - 1 | none => 0
  let e : TSrc := { r := r, f := raw, tau := tau, port := port, hops := hops, excl := excl }
  let rho : List Rat := match old with
    | some o => if !moved ∧ o.r + 1 = r ∧ tau ≠ o.tau then [(((raw : Int) - o.f : Int) : Rat) / ((tau - o.tau : Int) : Rat) - 1] else []
    | none => []
  s2.withSync fun y => { y with
    srcs := mapSet (fun _ => none) y.srcs src (some e),
    offs := if excl = 0 then y.offs ++ [(rx : Int) - tau] else y.offs,
    rhos := y.rhos ++ rho }

/-- A TIME frame arrives (R563, R567, R569): src as the selection names it, UID of the source in the payload. -/
def timeReceive (src port hops raw rx ldly : Nat) (delayOk : Bool) (b : List Byte) (s : State) : State :=
  let cold := bit (leAt b 16 1) 0
  let st := s.syncSt
  let young := st == SyncSt.LISTEN || st == SyncSt.COLD
  if st = SyncSt.OFF ∨ b.length ≠ 80 then s
  else if cold && young && decide (s.dUid < leAt b 8 8) then s
  else
    let s1 := if cold && young then coldYield s else s
    let r := leAt b 0 8
    let t0 := r * s.syncInt
    let good := s.sourceSel src && decide (t0 ≤ rx) && decide (rx < t0 + s.syncInt / 2) && !bit (leAt b 16 1) 1 && delayOk && r == s1.dmk.sync.round
    if good then timeTake src port hops raw rx ldly b s1 else s1

/-- Insert into a rising list. -/
def insInt (x : Int) : List Int → List Int
  | [] => [x]
  | y :: r => if x ≤ y then x :: y :: r else y :: insInt x r
def insRat (x : Rat) : List Rat → List Rat
  | [] => [x]
  | y :: r => if x ≤ y then x :: y :: r else y :: insRat x r

/-- What is left without the k smallest and the k largest (R564). -/
def trim {α : Type} (k : Nat) (l : List α) : List α := (l.drop k).take (l.length - 2 * k)

def meanI (l : List Int) : Rat := ((l.foldl (· + ·) 0 : Int) : Rat) / ((max 1 l.length : Nat) : Rat)
def meanQ (l : List Rat) : Rat := (l.foldl (· + ·) 0) / ((max 1 l.length : Nat) : Rat)

/-- Rounding to the nearest integer; which one of two equally near is open (R565; log 20). -/
def qnear (place : Nat) (q : Rat) : Int := if q - (qfloor q : Rat) = 1 / 2 then qopen place q else qround q

/-- The change that a round arms (R565). -/
def syncChange (delta : Rat) (rho : Option Rat) (s : State) : TbChange :=
  let amt := qnear 31 (-delta)
  let big := decide (s.getF F.DMK_STEP_LIM_LIM * 256 < (qceil (qabs delta)).toNat)
  let step := !s.cycRun && s.syncSt == SyncSt.ACQUIRE && big
  let base : TbChange := { step := if step then some amt else none, rate := none, slew := if step then none else some amt, at_ := 0, armEdge := s.frc, by_ := none }
  let lim : Int := if slewAfter base s then rateMax - s.getF F.TBS_SLEW_LIM_V else rateMax
  { base with rate := rho.map fun q => clampI (-lim) lim (qnear 32 (-q * 1099511627776)) }

/-- The correction of a closed round (R565). -/
def syncCorrect (delta : Rat) (rho : Option Rat) (s : State) : State :=
  if !s.getB F.TBS_CTL_SRC then s
  else if s.cycRun ∧ ((s.getF F.DMK_STEP_LIM_LIM * 256 : Nat) : Rat) < qabs delta then
    if s.syncSt = SyncSt.OUT then s else syncEnter SyncSt.OUT s
  else if s.tbs.pend.isSome then s.incF F.DMK_SYNC_STAT_SKIP
  else
    let c := syncChange delta rho s
    if (armCodes c s).isEmpty then armChange c s else s

/-- The state after a round with n offsets (R566, R567). -/
def syncAdvance (n : Nat) (delta : Option Rat) (s : State) : State :=
  let enough := decide (2 * s.syncK + 1 ≤ n)
  let st := s.syncSt
  if st = SyncSt.COLD ∨ st = SyncSt.ACQUIRE then
    let near := enough && match delta with | some d => decide (qabs d ≤ (s.getF F.DMK_SYNC_TOL_TOL : Nat)) | none => false
    let g := if near then s.dmk.sync.good + 1 else 0
    let s1 := s.withSync fun y => { y with good := g }
    if 8 ≤ g then syncEnter SyncSt.SYNC s1 else s1
  else if st = SyncSt.SYNC then (if enough then s else syncEnter SyncSt.HOLDOVER s)
  else if st = SyncSt.HOLDOVER then (if enough then syncEnter SyncSt.SYNC s else s)
  else if st = SyncSt.OUT then match delta with
    | some d => if qabs d ≤ ((s.getF F.DMK_STEP_LIM_LIM * 256 : Nat) : Rat) then syncEnter SyncSt.ACQUIRE s else s
    | none => s
  else s

/-- At the half round the receiver closes the round (R564, R565). -/
def roundClose (s : State) : State :=
  let y := s.dmk.sync
  if s.syncSt = SyncSt.OFF ∨ s.now < y.round * s.syncInt + s.syncInt / 2 then s
  else
    let offs := (if s.srcEn then (0 : Int) :: y.offs else y.offs).foldl (fun l x => insInt x l) []
    let n := offs.length
    let k := s.syncK
    let delta : Option Rat := if 2 * k + 1 ≤ n then some (meanI (trim k offs))
      else if s.syncSt = SyncSt.ACQUIRE ∧ y.offs ≠ [] then some (meanI y.offs) else none
    let rhos := y.rhos.foldl (fun l x => insRat x l) []
    let rho : Option Rat := if 2 * k + 1 ≤ rhos.length then some (meanQ (trim k rhos)) else none
    let s1 := s.setF F.DMK_SYNC_STAT_N (min 31 n)
    let s2 := match delta with | some d => s1.setF F.DMK_SYNC_DEV_DEV (toBits 32 (clampI (-2 ^ 31) (2 ^ 31 - 1) (qnear 33 d))) | none => s1
    let s3 := match rho with | some q => s2.setF F.DMK_RATE_EST_RATE (toBits 32 (clampI (-2 ^ 31) (2 ^ 31 - 1) (qnear 32 (-q * 1099511627776)))) | none => s2
    let s4 := s3.withSync fun z => { z with round := max (z.round + 1) (s.now / s.syncInt), offs := [], rhos := [] }
    if s.syncSt = SyncSt.LISTEN then s4
    else
      let out := s.syncSt == SyncSt.OUT
      let s5 := match delta with | some d => syncCorrect d rho s4 | none => s4
      if s5.syncSt = SyncSt.OUT ∧ !out then s5 else syncAdvance n delta s5

/-- LISTEN_T without an accepted TIME frame (R567, R569). -/
def listenTimeout (s : State) : State :=
  let st := s.syncSt
  let due := s.dmk.sync.heard + 3 * s.syncInt
  if st = SyncSt.LISTEN then
    let back := if s.dmk.sync.yielded then (s.dUid % 256 + 1) * s.syncInt else 0
    if s.srcEn ∧ due + back ≤ s.now then syncEnter SyncSt.COLD s else s
  else if (st = SyncSt.COLD ∨ st = SyncSt.ACQUIRE) ∧ due ≤ s.now then syncEnter SyncSt.LISTEN s
  else s

/-- The payload of a TIME frame of round r, TTX and CORR 0 (R562). -/
def timeBody (r : Nat) (s : State) : List Byte :=
  leBytes r 8 ++ leBytes s.dUid 8 ++ leBytes (b2n (s.syncSt == SyncSt.COLD) + b2n (s.syncSt == SyncSt.SYNC) * 4) 1 ++ leBytes 0 63

/-- The round whose slot the present time has reached. -/
def State.slotRound (s : State) : Nat := (s.now - s.getF F.DMK_SYNC_CFG_SLOT * 10000 * 256) / s.syncInt

/-- A source sends its TIME frame in its slot (R562, R567, R569). -/
def timeSend (s : State) : State :=
  let r := s.slotRound
  if !s.srcEn || decide (s.syncSt < SyncSt.COLD) || decide (s.now < r * s.syncInt + s.getF F.DMK_SYNC_CFG_SLOT * 10000 * 256)
    || s.dmk.sync.sentR == some r then s
  else originate (newFrame 1 2 0xFFF 0 (timeBody r s) s) (s.withSync fun y => { y with sentR := some r })

/-- The cell cycle has stopped (R567). -/
def dmkCycleEnd (s : State) : State := if s.syncSt = SyncSt.OUT then syncEnter SyncSt.ACQUIRE s else s

/-! ### Schedule-mode agreement (R571 to R573) -/

def MODE.PROPOSE : Nat := 1
def MODE.VOTE : Nat := 2
def MODE.READY : Nat := 3
def MODE.COMMIT : Nat := 4
def MODE.ABORT : Nat := 5

/-- A MODE payload (R546). -/
def modeBody (op : Nat) (a : Agree) (yes : Bool) (code : Nat) : List Byte :=
  leBytes op 1 ++ leBytes a.m 1 ++ leBytes a.prop 2 ++ leBytes a.id 4 ++ leBytes a.ks 8 ++ leBytes (b2n yes) 1 ++ leBytes 0 1 ++ leBytes code 2
  ++ leBytes 0 12

/-- Send a MODE frame in this cycle and the next two (R571). -/
def modeSend (dst : Nat) (body : List Byte) (s : State) : State :=
  originate (newFrame 1 7 dst 0 body s) (s.withDmk fun d => { d with repeats := d.repeats ++ [(dst, body, 2)] })

/-- At T0: MODE frames are sent again, class-0 records may send anew (R552, R571). -/
def dmkT0 (s : State) : State :=
  let l := s.dmk.repeats
  let s1 := s.withDmk fun d => { d with
    c0Sent := [], repeats := (l.filter fun r => decide (1 < r.2.2)).map fun r => (r.1, r.2.1, r.2.2 - 1) }
  shapedNext (s1.each l fun r t => originate (newFrame 1 7 r.1 0 r.2.1 t) t)

def State.setAgree (s : State) (a : Option Agree) : State :=
  let s1 := s.withDmk fun d => { d with agree := a }
  match a with
  | some x => (((s1.setF F.DMK_MODE_STAT_ACTIVE 1).setF F.DMK_MODE_STAT_MODE x.m).setF F.DMK_MODE_STAT_PROPOSER (b2n x.mine)).setF F.DMK_MODE_AT_K_S x.ks
  | none => s1.setF F.DMK_MODE_STAT_ACTIVE 0

/-- The announced switch is cancelled (R522, R572). -/
def switchCancel (s : State) : State :=
  let s1 := ((s.setF F.TWL_G_MODE_NEXT s.twlMode).setF F.TWL_G_MODE_SWP 0).setF F.TWL_G_SW_AT_SW_AT 0
  (s1.withTwl fun t => { t with checked := false }).each ((List.range 8).filter fun b => s.brSt b != BrSt.OFF) fun b t =>
    (t.flag F.TWL_FLAG_SW_FAIL b).post 0x0A05 10 b 0x0A0B (s.noAck b + s.tbs.k * 2 ^ 16)

/-- An agreement ends without a switch; a proposer says so to the others (R571, R572). -/
def agreeAbort (a : Agree) (s : State) : State :=
  let s1 := s.setAgree none
  let s2 := if a.joined ∧ s.getB F.TWL_G_MODE_SWP then switchCancel s1 else s1
  if a.mine then (s2.each a.peers fun p t => modeSend p (modeBody MODE.ABORT a false 0) t).completeHeld 0xB0001 0x0B07 0 0 else s2

/-- The participants that DMK_MODE_PEERS names, this controller not counted. -/
def State.modePeers (s : State) : List Nat :=
  ((((List.range 16).filter fun r => s.tb 0x0B05 r 0 12 1 == 1).map fun r => s.tb 0x0B05 r 0 0 12).filter fun a => a != s.dAddr).eraseDups

/-- A participant's checks and its code; EC_OK for a YES vote (R572). -/
def voteCode (m ks : Nat) (s : State) : Nat :=
  firstCode (chk (!s.getB F.TWL_G_CTL_SW_SRC) EC.STATE ++ switchCodes m ks s)

/-- Join an agreement: announce the switch (R522, R572). -/
def agreeJoin (a : Agree) (s : State) : State := (switchAnnounce a.m a.ks s).setAgree (some { a with joined := true })

/-- MODE_PROPOSE (R571, R572). -/
def modePropose (m ks : Nat) (s : State) : State :=
  let a : Agree := {
    id := s.dmk.agreeNo, m := m, ks := ks, prop := s.dAddr, mine := true, peers := s.modePeers, yes := [], ready := [],
    joined := false, step := 0, commit := false }
  let s1 := (s.withDmk fun d => { d with agreeNo := (d.agreeNo + 1) % 2 ^ 32, watch := none }).setAgree (some a)
  let s2 := if voteCode m ks s = EC.OK then agreeJoin { a with yes := [s.dAddr] } s1 else s1
  s2.each a.peers fun p t => modeSend p (modeBody MODE.PROPOSE a false 0) t

/-- A participant votes (R572). -/
def modeVote (a : Agree) (s : State) : State :=
  let code := voteCode a.m a.ks s
  let s1 := if code = EC.OK then agreeJoin a s else s
  modeSend a.prop (modeBody MODE.VOTE a (code == EC.OK) code) s1

/-- A MODE frame is taken, on the first valid copy (R546, R571, R572). -/
def modeTake (src : Nat) (b : List Byte) (s : State) : State :=
  let op := leAt b 0 1
  let id := leAt b 4 4
  let prop := leAt b 2 2 % 4096
  let key := (op, src, id)
  if b.length ≠ 32 ∨ s.dmk.modeSeen.contains key then s
  else
    let s1 := s.withDmk fun d => { d with modeSeen := (key :: d.modeSeen).take 256 }
    let yes := bit (leAt b 16 1) 0
    if op = MODE.PROPOSE then
      let a : Agree := {
        id := id, m := leAt b 1 1 % 8, ks := leAt b 8 8, prop := prop, mine := false, peers := s.modePeers, yes := [], ready := [],
        joined := false, step := 0, commit := false }
      match s.dmk.agree with
      | some o => if prop < o.prop then modeVote a (agreeAbort o s1) else modeSend prop (modeBody MODE.VOTE a false EC.BUSY) s1
      | none => modeVote a (s1.withDmk fun d => { d with watch := none })
    else match s.dmk.agree with
    | none => s1
    | some o =>
      if o.id ≠ id ∨ o.prop ≠ prop then s1
      else if op = MODE.VOTE then (if o.mine ∧ yes then s1.setAgree (some { o with yes := listIns o.yes src }) else s1)
      else if op = MODE.READY then (if o.mine ∧ yes then s1.setAgree (some { o with ready := listIns o.ready src }) else s1)
      else if op = MODE.COMMIT then (if !o.mine ∧ s.tbs.k + 1 < o.ks then s1.setAgree (some { o with commit := true }) else s1)
      else if op = MODE.ABORT then (if o.mine then s1 else agreeAbort o s1)
      else s1

/-- Every participant, the proposer among them, is in a list. -/
def allIn (a : Agree) (l : List Nat) : Bool := (a.prop :: a.peers).all fun p => l.contains p

/-- One step of the agreement, where its cycle has come: k_s - 24, k_s - 8, k_s - 4, k_s (R572). -/
def agreeStep (s : State) : State :=
  match s.dmk.agree with
  | none => s
  | some a =>
    let k := s.tbs.k
    if !s.tbs.started then s
    else if a.step = 0 ∧ a.ks ≤ k + 24 then
      if a.mine && !allIn a a.yes then agreeAbort a s else s.setAgree (some { a with step := 1 })
    else if a.step = 1 ∧ a.ks ≤ k + 8 then
      let s1 := switchCheck s
      let ok := a.joined && s1.getB F.TWL_G_MODE_SWP && s1.twl.checked
      let b := { a with step := 2, ready := if a.mine ∧ ok then listIns a.ready a.prop else a.ready }
      let s2 := s1.setAgree (some b)
      if a.mine then s2 else modeSend a.prop (modeBody MODE.READY b ok 0) s2
    else if a.step = 2 ∧ a.ks ≤ k + 4 then
      if !a.mine then s.setAgree (some { a with step := 3 })
      else if allIn a a.ready then
        let s1 := s.setAgree (some { a with step := 3, commit := true })
        (s1.each a.peers fun p t => modeSend p (modeBody MODE.COMMIT a false 0) t).completeHeld 0xB0001 EC.OK 0 0
      else agreeAbort a s
    else if a.step = 3 ∧ a.ks ≤ k then
      let s1 := s.setAgree none
      let s2 := s1.withDmk fun d => { d with watch := some (a.ks, a.peers ++ (if a.mine then [] else [a.prop])) }
      if a.commit then switchApply s2
      else if a.joined ∧ s.getB F.TWL_G_MODE_SWP then switchCancel s2 else s2
    else s

/-! ### Reception (R539 to R541, R557, R558) -/

/-- A discarded frame, counted at its ingress. -/
def hdrDrop (port : Nat) (s : State) : State := s.incF F.DMK_P_CNT_HDR_HDR port

/-- A broadcast that has not crossed this node (R558). -/
def State.fresh (s : State) (src fseq : Nat) : Bool :=
  match mapGet (fun _ => none) s.dmk.bcast src with
  | none => src != s.dAddr || s.dAddr == 0
  | some l => let d := (fseq + 2 ^ 16 - l) % 2 ^ 16; decide (1 ≤ d) && decide (d ≤ 2 ^ 15)

/-- Where a frame goes from an ingress: egresses, whether this node takes it, whether a discard is counted (R557, R558). -/
def State.wayOf (s : State) (f : DFrame) (port : Nat) : List Nat × Bool × Bool :=
  let try_ (o : Option Nat) : List Nat × Bool × Bool := match o with
    | some e => if !s.dmkUp e || e == port || f.hops == 255 then ([], false, true) else ([e], false, false)
    | none => ([], false, true)
  if f.rlen ≠ 0 then (if f.rptr = f.rlen then ([], true, false) else try_ (some (bits f.route (2 * f.rptr) 2)))
  else if f.dst = 0xFFF then
    if s.fresh f.src f.fseq then
      let out := s.upPorts.filter fun p => p != port
      if f.hops = 255 then ([], true, !out.isEmpty) else (out, true, false)
    else ([], false, false)
  else if f.dst = s.dAddr ∧ s.dAddr ≠ 0 then ([], true, false)
  else try_ (s.routeTo f.dst)

/-- A message for a consumer of this node (R574, R575). -/
def messageTo (f : DFrame) (data : List Byte) (s : State) : State :=
  if f.kind = 8 then hostReceive f.src f.stream data s
  else match s.sensorOfDamask f.src f.stream with
    | some i => damaskFrame i data s
    | none => unclaimed s

/-- A message with a poisoned block is discarded (R540). -/
def poisoned (port : Nat) (f : DFrame) (s : State) : State :=
  let s1 := match s.dmk.reasm.find? (fun r => r.is f.src f.stream && r.cls == f.cls) with
    | some r => if f.more then (s.dropReasm r).withDmk fun d => { d with reasm := d.reasm ++ [({ r with drop := true, data := [], time := s.now } : Reasm)] } else s.dropReasm r
    | none => if f.more then s.withDmk fun d => { d with
        reasm := d.reasm ++ [({ src := f.src, stream := f.stream, cls := f.cls, fseq := f.fseq, time := s.now, data := [], drop := true } : Reasm)] } else s
  (s1.flag F.DMK_P_FLAG_POISON port).post 0x0B09 11 port 0x0B10 (f.src + f.stream * 2 ^ 12)

/-- A whole frame that this node takes. -/
def consume (port raw : Nat) (f : DFrame) (s : State) : State :=
  let s0 := if f.cls = 0 then c0Receive port f s else s
  if f.bad ≠ [] then poisoned port f s0
  else
    let b := f.payload
    match f.kind with
    | 0 | 8 => match reassemble f s0 with
      | (t, some data) => messageTo f data t
      | (t, none) => t
    | 2 => timeReceive f.src port f.hops raw (f.sof - s.rxd port) (s.ldly port) (s.ldlyOk port) b s0
    | 4 => if leAt b 0 1 = 1 ∧ b.length = 16 then discAnswer b s0 else if leAt b 0 1 = 2 ∧ b.length = 80 then discReply b s0 else s0
    | 5 => if b.length ≠ 32 then s0 else if leAt b 0 1 = 1 then assignAccept b s0 else if leAt b 0 1 = 2 then discAck 5 b s0 else s0
    | 6 => if b.length ≠ 144 then s0 else if leAt b 0 1 = 1 then (if leAt b 8 8 = s.dUid then routePart b s0 else s0)
      else if leAt b 0 1 = 2 then discAck 6 b s0 else s0
    | 7 => modeTake f.src b s0
    | _ => s0

/-- Code blocks that were corrected (block and byte) or poisoned are counted (R540). -/
def countEcc (port seq : Nat) (corr : List (Nat × Nat)) (bad : List Nat) (s : State) : State :=
  let s1 := s.each corr fun c t => eccRecord false seq c.1 c.2 3 (t.incF F.DMK_P_CNT_ECC_CORR port)
  s1.each bad fun b t => eccRecord true seq b 31 3 (t.incF F.DMK_P_CNT_ECC_UNC port)

/-- A frame, or a part of one, at a port: raw time of its start-of-frame element, header bytes 1 to 39, payload, the bits of its
code blocks that have turned over, residence that a free egress gives it (R44, R539 to R541, R551, R557, R558). -/
def damaskReceive (port raw : Nat) (h sent : List Byte) (flips : List ByteFlip) (residence : Nat) (s : State) : State :=
  if !s.dmkUp port || !s.dEn || leAt h 0 1 / 16 == 3 then s
  else
    let r := eccPayload sent flips
    let payload := r.1
    let corr := r.2.1
    let bad := r.2.2
    let sof := s.stamp raw
    let f := dmkFrame h (payload.take (leAt h 7 2)) bad port sof (sof + (if leAt h 0 1 % 4 = 0 then min residence 20480 else residence))
    let x := s.dport port
    let was := x.inn.find? fun e => sameFrame e.frame f
    if !headerGood h || (f.cont && was.isNone) then hdrDrop port s
    else
      let way := match was with | some e => if f.cont then (e.egress, true, false) else s.wayOf f port | none => s.wayOf f port
      let mine : Bool := way.2.1
      let g := sliceWrite port f s
      let whole : DFrame := match was with
        | some e => if f.cont then { e.frame with
            payload := e.frame.payload ++ g.payload, bad := e.frame.bad ++ g.bad.map (· + e.frame.payload.length / 16), more := f.more } else g
        | none => g
      let left := leAt h 7 2 - f.payload.length
      let inn := x.inn.filter fun e => !sameFrame e.frame f
      let s1 := countEcc port f.fseq corr bad s
      let s2 := s1.setDport port { x with inn := if left = 0 then inn else inn ++ [{ frame := whole, left := left, egress := way.1 }] }
      let s3 := if f.dst == 0xFFF && f.rlen == 0 && mine && !f.cont then s2.withDmk fun d => { d with bcast := mapSet (fun _ => none) d.bcast f.src (some f.fseq) } else s2
      let fwd := { g with hops := g.hops + 1, rptr := if g.rlen = 0 then g.rptr else g.rptr + 1 }
      let s4 := s3.each way.1 fun p t => enqueue p fwd t
      let s5 := if way.2.2 then hdrDrop port s4 else s4
      let take := mine && left == 0 && (f.rlen != 0 || f.dst == 0xFFF || (f.dst == s.dAddr && s.dAddr != 0))
      if take then consume port raw whole s5 else s5

/-! ### LINK frames and port states (R537, R542) -/

/-- A LINK frame waits for the unit in progress and leaves (R542, R548). -/
def linkPut (p : Nat) (body : List Byte) (s : State) : State :=
  egressNext p (s.setDport p { s.dport p with links := (s.dport p).links ++ [body] })

/-- Once a millisecond a port sends a LINK request (R537, R542). -/
def linkSend (p : Nat) (s : State) : State :=
  let x := s.link p
  if s.linkSt p < LinkSt.LOCK ∨ (x.sent ≠ 0 ∧ s.now < x.sent + 1000000 * 256) then s
  else
    let s1 := s.setLink p { x with sent := s.now, reqNo := (x.reqNo + 1) % 2 ^ 32 }
    linkPut p (linkBody 1 p (s1.link p).reqNo 0 s.dAddr s.dUid s1) s1

/-- A LINK frame at a Damask port (R537, R542, R561). -/
def linkReceive (p raw : Nat) (b : List Byte) (s : State) : State :=
  if s.linkSt p < LinkSt.LOCK ∨ !linkValid b then s
  else
    let time := s.stamp raw - s.rxd p
    let s1 := portChanged (s.linkSt p) p (linkHeard p time b s)
    if leAt b 0 1 = 1 ∧ LinkSt.LOCK ≤ s1.linkSt p then linkPut p (linkBody 2 p (leAt b 4 4) time s.dAddr s.dUid s1) s1 else s1

/-! ### Commands (R580) -/

/-- The checks of a Damask command. -/
def dmkCmdCodes (cmd : Nat) (b : BlockArgs) (s : State) : List Nat :=
  match cmd with
  | 0x0001 =>
    argBits b.arg0 7 ++ argZero b.arg2 ++ noData b ++ chk (!s.getB F.TWL_G_CTL_SW_SRC || !s.cycRun) EC.STATE
    ++ chk (decide (b.arg1 < s.tbs.k + 64)) EC.RANGE ++ chk s.dmk.agree.isSome EC.BUSY
  | 0x0002 => argZero b.arg0 ++ argZero b.arg1 ++ argZero b.arg2 ++ noData b ++ chk (!s.getB F.DMK_STAT_ROOT_ACT) 0x0B05
  | 0x0003 =>
    argBits b.arg0 0xFFFFF ++ argZero b.arg1 ++ argZero b.arg2 ++ chk (b.ptr % 16 != 0) EC.ALIGN
    ++ chk (decide (b.len < 16) || decide (65536 < b.len) || b.len % 16 != 0) EC.RANGE ++ chk (s.dAddr == 0) EC.STATE
    ++ chk (s.outPorts (newFrame 2 8 (b.arg0 % 4096) 0 [] s)).isEmpty 0x0B06
  | _ => [EC.BAD_FIELD]

/-- An accepted Damask command takes effect; MODE_PROPOSE and HOST_SEND complete later. -/
def dmkCmdRun (cmd : Nat) (b : BlockArgs) (s : State) : State :=
  match cmd with
  | 0x0001 => modePropose (b.arg0 % 8) b.arg1 s
  | 0x0002 => s.withDmk fun d => { d with discDue := true }
  | 0x0003 => hostSend (b.arg0 % 4096) (bits b.arg0 12 8) (b.data.take b.len) s
  | _ => s

/-! ### Tables (R578, R579) -/

/-- Windows a to a + n and b to b + m overlap. -/
def rangesMeet (a n b m : Nat) : Bool := n != 0 && m != 0 && decide (a < b + m) && decide (b < a + n)

/-- The checks of a DMK_C0 record. -/
def c0Codes (r : Nat) (w : Nat → Nat) (s : State) : List Nat :=
  let len := bits (w 0) 32 16
  let wlen := bits (w 4) 0 16
  let open_ (p : Nat) : Nat := bits (w (2 + p / 2)) (32 * (p % 2)) 32
  let ports := maskBits (bits (w 4) 16 4) 4
  let orig := bit (w 0) 20
  let op := bits (w 5) 0 2
  let ofs := bits (w 5) 16 10
  let others := (List.range 64).filter fun q => q != r && s.c0En q
  chk (op == 3) EC.BAD_FIELD
  ++ chk (decide (2 ^ 48 ≤ w 0) || bits (w 0) 22 10 != 0 || decide (2 ^ 64 ≤ w 1) || decide (2 ^ 64 ≤ w 2) || decide (2 ^ 64 ≤ w 3)
      || decide (2 ^ 23 ≤ w 4) || decide (2 ^ 38 ≤ w 5) || bits (w 5) 2 14 != 0 || bits (w 5) 26 6 != 0) EC.RESERVED_SET
  ++ chk (decide (len < 16) || decide (512 < len) || len % 16 != 0
      || (orig && decide (s.period * 1280 < bits (w 1) 0 32 * 1280 + frameDur len))
      || ports.any (fun p => decide (s.period < open_ p + wlen))
      || ports.any (fun p => others.any fun q => bit (s.c0 q 4 16 4) p && rangesMeet (open_ p) wlen (s.c0Open q p) (s.c0 q 4 0 16))
      || (orig && bit (w 4) 22)) 0x0B01
  ++ chk ((op != 0 && (ofs % 16 != 0 || decide (len < ofs + 64)))
      || (bit (w 0) 21 && op == 1 && others.any fun q => s.c0 q 5 0 2 == 1 && s.c0 q 0 0 20 == bits (w 0) 0 20)) 0x0B02

/-- The checks of a Damask record (R578, R579). -/
def dmkRecCodes (table r : Nat) (w : Nat → Nat) (s : State) : List Nat :=
  chk (decide (0x0B06 ≤ table)) EC.BAD_FIELD ++ chk s.cycRun EC.STATE
  ++ (match table with
    | 0x0B01 => c0Codes r w s
    | 0x0B02 =>
      chk (decide (2 ^ 64 ≤ w 0) || bits (w 0) 9 7 != 0) EC.RESERVED_SET
      ++ chk (decide (bits (w 0) 16 16 < 64) || decide (bits (w 0) 32 32 < 100) || decide (1000000 < bits (w 0) 32 32)) EC.RANGE
    | 0x0B03 => chk (decide (2 ^ 13 ≤ w 0)) EC.RESERVED_SET
      ++ chk (w 0 % 4096 == 0 || w 0 % 4096 == 4095 || w 0 % 4096 == s.dAddr) 0x0B03
    | 0x0B04 =>
      let others := (List.range 256).filter fun q => q != r && s.tb 0x0B04 q 1 12 1 == 1
      chk (decide (2 ^ 64 ≤ w 0) || decide (2 ^ 13 ≤ w 1)) EC.RESERVED_SET
      ++ chk (bit (w 1) 12 && others.any fun q => s.tw 0x0B04 q 0 == w 0 || s.tb 0x0B04 q 1 0 12 == w 1 % 4096) 0x0B04
    | 0x0B05 => chk (decide (2 ^ 13 ≤ w 0)) EC.RESERVED_SET ++ chk (w 0 % 4096 == 0 || w 0 % 4096 == 4095) EC.RANGE
    | _ => [])

/-! ### Registers (R581, R582) -/

/-- The checks of a write of v over old to a Damask register of port p. -/
def dmkCodes (base p v old : Nat) (s new : State) : List Nat :=
  if base = R.DMK_P_CTL then chk (bits v 1 2 == 3) EC.BAD_FIELD ++ chk (bit old 0 && bits v 1 2 != bits old 1 2) EC.STATE
  else if base = R.DMK_P_DLY then chk (s.getB F.DMK_P_CTL_EN p) EC.STATE
  else if base = R.DMK_CTL ∨ base = R.DMK_ADDR then
    chk (base == R.DMK_CTL && bit v 0 != bit old 0 && s.cycRun) EC.STATE
    ++ chk (new.getB F.DMK_CTL_FIXED && (new.getF F.DMK_ADDR_FADDR == 0 || new.getF F.DMK_ADDR_FADDR == 4095)) 0x0B04
  else if base = R.DMK_POOL then chk (v % 4096 == 0 || v % 4096 == 4095) EC.RANGE
  else if base = R.DMK_SYNC_CFG then
    chk (bits v 6 3 == 7) EC.RANGE
    ++ chk (bit v 0 && !bit old 0 && decide (((List.range 16).filter fun r => s.tb 0x0B03 r 0 12 1 == 1).length + b2n (bit v 1) < 2 * bits v 10 2 + 1)) 0x0B03
  else if base = R.DMK_STEP_LIM then chk (decide (v % 2 ^ 20 < 100) || decide (1000000 < v % 2 ^ 20)) EC.RANGE
  else if base = R.DMK_SYNC_TOL then chk (decide (v % 2 ^ 16 < 64)) EC.RANGE
  else if base = R.DMK_HRX_BASE_0 ∨ base = R.DMK_HRX_BASE_1 then
    chk (base == R.DMK_HRX_BASE_0 && v % 64 != 0) EC.ALIGN ++ chk (s.getF F.DMK_HRX_SIZE_SIZE != 0) EC.STATE
  else if base = R.DMK_HRX_SIZE then chk (v % 2 ^ 24 != 0 && (v % 64 != 0 || decide (v % 2 ^ 24 < 1024))) EC.RANGE
  else []

/-- What follows an accepted write to a Damask register. -/
def dmkFollow (base p v old : Nat) (s : State) : State :=
  if base = R.DMK_P_CTL then
    if bit v 0 = bit old 0 then s
    else portChanged (s.linkSt p) p (if bit v 0 then linkOpen p s else linkEnter p LinkSt.OFF false s)
  else if base = R.DMK_CTL then
    let act := s.dEn && s.getB F.DMK_CTL_ROOT
    let was := s.getB F.DMK_STAT_ROOT_ACT && bit old 0 && bit old 1
    let s1 := s.setF F.DMK_STAT_ROOT_ACT (b2n (act && (was || !(bit old 0 && bit old 1))))
    let s2 := if act && !(bit old 0 && bit old 1) then s1.withDmk fun d => { d with discDue := true }
      else if !act then s1.withDmk fun d => { d with discDue := false, disc := none } else s1
    syncFollow s2
  else if base = R.DMK_SYNC_CFG then syncFollow s
  else s

end Sys2Proof.Machine
end

