-- ==== Sys2Proof/Machine/Fbk.lean ====
section
/-! DEFINITION. Local position and speed feedback (R400 to R438): quadrature, Hall and SSI decoding, the TS latch and its speed, decode errors and faults, the route to Felt, the channel registers. -/

namespace Sys2Proof.Machine

def State.withFbk (s : State) (f : Fbk → Fbk) : State := { s with fbk := f s.fbk }
def State.chan (s : State) (n : Nat) : Chan := mapGet (fun _ => Chan.reset) s.fbk.chans n
def State.setChan (s : State) (n : Nat) (c : Chan) : State :=
  s.withFbk fun x => { x with chans := mapSet (fun _ => Chan.reset) x.chans n c }
def State.pins (s : State) (n : Nat) : Nat := mapGet (fun _ => 0) s.fbk.pins n
def State.fbkEn (s : State) (n : Nat) : Bool := s.getB F.FBK_CTL_EN n
/-- A channel is enabled and has started (R436). -/
def State.fbkOn (s : State) (n : Nat) : Bool := s.fbkEn n && !(s.chan n).starting
def State.fbkMode (s : State) (n : Nat) : Nat := s.getF F.FBK_CFG_MODE n

/-- Round toward zero. -/
def qtrunc (q : Rat) : Int := if q < 0 then -qfloor (-q) else qfloor q

/-! ### Counts (R401, R402, R405, R428) -/

/-- A count kept modulo 2^48 (R401). -/
def wrap48 (z : Int) : Int := sx 48 (toBits 48 z)

/-- The filtered levels as FBK_STAT shows them. -/
def showLevels (n p : Nat) (s : State) : State :=
  ((((s.setF F.FBK_STAT_A (p % 2) n).setF F.FBK_STAT_B (bits p 1 1) n).setF F.FBK_STAT_Z (bits p 2 1) n)).setF F.FBK_STAT_HALL
    (4 * (p % 2) + 2 * bits p 1 1 + bits p 2 1) n

/-- Offer the count to the compare units on the channel (R282, R428). -/
def offerCount (n time : Nat) (s : State) : State :=
  let x := (s.chan n).count * 2 ^ 24
  let v := if s.cycRun then s.getS F.FBK_SPEED_V n else 0
  s.each (s.cmpsOn 1 n) fun c t => cmpCompare c x v time (time + 15 * 256) t

/-- A sampler edge: the compare units on the enabled channels compare again (R281, R283, R284). -/
def fbkSample (s : State) : State := s.each ((List.range 32).filter s.fbkOn) fun n => offerCount n s.now

/-- One count step, upward for 1, recorded at a time; DIR counts it with the opposite sign (R402, R405). -/
def countStep (n : Nat) (d : Int) (time : Nat) (s : State) : State :=
  let e := if s.getB F.FBK_CFG_DIR n then -d else d
  let c := s.chan n
  s.setChan n { c with count := wrap48 (c.count + e), tEdge := time, edges := ((time, e) :: c.edges).take 257 }

/-! ### Decode errors, faults and loss (R418 to R422) -/

/-- FAULT is set (R419): flag, count and event at its rise. -/
def setFault (n detail : Nat) (s : State) : State :=
  if s.getB F.FBK_STAT_FAULT n then s
  else (((s.setF F.FBK_STAT_FAULT 1 n).flag F.FBK_FLAG_FAULT n).incF F.FBK_ERR_CNT_FAULTS n).post 0x0702 7 n 0x0705 detail

/-- A decode error of a kind: 1 DBL, 2 HALL_STATE, 3 HALL_STEP, 4 SSI_FRAME, 5 SSI_PAR, 6 SSI_ERR, 7 JUMP (R418, R419). -/
def decodeError (n kind : Nat) (s : State) : State :=
  let c := s.chan n
  let win := s.getF F.FBK_CFG_ERR_WIN n * 256000
  let errs := (s.now :: c.errs.filter fun t => decide (s.now ≤ t + win)).take 15
  let number := if s.cycRun then s.tbs.k else s.ns / 31250
  let key := 2 * number + b2n s.cycRun
  let s1 := (s.flag ⟨R.FBK_FLAG, 0x100, 0, kind - 1, 1⟩ n).incF F.FBK_ERR_CNT_DEC n
  let s2 := (s1.setChan n { c with errs := errs, decCyc := some key }).setF F.FBK_STAT_WINCNT (min 15 errs.length) n
  let s3 := if c.decCyc = some key then s2 else s2.post 0x0701 7 n 0x0704 (kind + number * 2 ^ 8)
  if s.getF F.FBK_CFG_ERR_LIM n ≤ errs.length then setFault n (min 15 errs.length) s3 else s3

/-- The inputs a mode uses. -/
def modeInputs (mode : Nat) : Nat := if mode = 2 then 1 else 7

/-- LOSS follows the amplitudes of the inputs the mode uses (R420). -/
def lossFollow (n : Nat) (s : State) : State :=
  let m := (s.chan n).below &&& modeInputs (s.fbkMode n)
  let l := m != 0
  if l = s.getB F.FBK_STAT_LOSS n then s
  else
    let s1 := ((s.setF F.FBK_STAT_LOSS (b2n l) n).flagIf l F.FBK_FLAG_LOSS n).post 0x0703 7 n 0x0706 (m + b2n l * 2 ^ 8)
    if l then setFault n (min 15 (s.chan n).errs.length + 16) s1 else s1

/-- The amplitudes of the inputs have been below or above the threshold for 1 us: mask of the inputs below. -/
def lossChange (n mask : Nat) (s : State) : State := lossFollow n (s.setChan n { s.chan n with below := mask % 8 })

/-- CLR_FAULT (R422). -/
def clearFault (n : Nat) (s : State) : State :=
  if s.getB F.FBK_STAT_FAULT n then
    ((s.setF F.FBK_STAT_FAULT 0 n).setF F.FBK_STAT_WINCNT 0 n).setChan n { s.chan n with errs := [] }
  else s

/-! ### Input changes (R403, R405 to R408) -/

/-- The place of a Hall code in the sequence; none for 000 and 111 (R408). -/
def hallPlace (h : Nat) : Option Nat := match h with
  | 5 => some 0
  | 4 => some 1
  | 6 => some 2
  | 2 => some 3
  | 3 => some 4
  | 1 => some 5
  | _ => none

/-- The Hall code of a level mask A = U, B = V, Z = W. -/
def hallCode (p : Nat) : Nat := 4 * (p % 2) + 2 * bits p 1 1 + bits p 2 1

/-- The step from place q of the Hall sequence to place p; none where they are not neighbours. -/
def hallStep (q p : Nat) : Option Int := if p = q then some 0 else if p = (q + 1) % 6 then some 1 else if q = (p + 1) % 6 then some (-1) else none

/-- The step of a change of A and B from levels p to q (R405); none where both change (R406). -/
def quadStep (p q : Nat) : Option Int :=
  let a := bit q 0
  let b := bit q 1
  match bit p 0 != a, bit p 1 != b with
  | true, true => none
  | true, false => some (if a != b then 1 else -1)
  | false, true => some (if a == b then 1 else -1)
  | false, false => some 0

/-- A new Hall code h after the code was (R408): 000 and 111 are an error once, on entry. -/
def hallChange (n was h time : Nat) (s : State) : State :=
  let c := s.chan n
  match hallPlace h, c.ref.bind hallPlace with
  | none, _ => if (hallPlace was).isSome then decodeError n 2 s else s
  | some _, none => s.setChan n { c with ref := some h }
  | some p, some q =>
    let s1 := s.setChan n { c with ref := some h }
    match hallStep q p with
    | none => decodeError n 3 s1
    | some d => if d = 0 then s else countStep n d time s1

/-- A quadrature change from levels p to q (R405, R406). -/
def quadChange (n p q time : Nat) (s : State) : State :=
  match quadStep p q with
  | none => decodeError n 1 s
  | some d => if d = 0 then s else countStep n d time s

/-- A filtered edge of Z from levels p to q latches the count (R407). -/
def indexEdge (n p q time : Nat) (s : State) : State :=
  let z := bit q 2
  if bit p 2 = z ∨ z = s.getB F.FBK_CFG_IDX_POL n ∨ (s.getB F.FBK_CFG_IDX_GATE n ∧ bits q 0 2 ≠ 3) then s
  else
    let x := (s.chan n).count * 2 ^ 24
    let s1 := ((s.setS F.FBK_IDX_POS_V x n).setF F.FBK_IDX_TIME_V time n).flag F.FBK_FLAG_IDX n
    homeIndex n x (s1.incF F.FBK_IDX_CNT_IDX n)

/-- The terminals of mask change level, the change first shown at raw times ta, tb, tz (R403). -/
def feedbackChange (n mask ta tb tz : Nat) (s : State) : State :=
  let p := s.pins n
  let q := p ^^^ mask % 8
  let s0 := s.withFbk fun x => { x with pins := mapSet (fun _ => 0) x.pins n q }
  if !s.fbkOn n || s.fbkMode n == 2 then s0
  else
    let t (i raw : Nat) : Nat := if bit mask i then s.stamp raw else 0
    let s1 := showLevels n q s0
    if s.fbkMode n = 0 then
      let time := max (t 0 ta) (t 1 tb)
      let s2 := indexEdge n p q (t 2 tz) (quadChange n p q time s1)
      if bits mask 0 2 = 0 then s2 else offerCount n time s2
    else if mask % 8 = 0 then s1
    else
      let time := max (max (t 0 ta) (t 1 tb)) (t 2 tz)
      offerCount n time (hallChange n (hallCode p) (hallCode q) time s1)

/-! ### Speed and the TS latch (R415 to R417, R421, R424 to R427) -/

/-- Units of T72 in one second. -/
def t72s : Rat := 256000000000

/-- The native speed of a latch in MODE 0 and 1 (R424, R426): value and STILL. -/
def nativeSpeed (n : Nat) (c : Chan) (tlat : Nat) (s : State) : Int × Bool :=
  let h := (c.count, c.tEdge, tlat) :: c.hist
  let w := (h.drop (s.getF F.FBK_SPDCFG_WIN n)).head?.getD (h.getLast?.getD (0, 0, 0))
  let prev := s.getS F.FBK_SPEED_V n
  let v : Int := if c.tEdge = w.2.1 then prev
    else qtrunc (((wrap48 (c.count - w.1) : Int) : Rat) / ((c.tEdge : Rat) - w.2.1) * t72s * 16777216)
  let dt : Int := (tlat : Int) - c.tEdge
  let v1 := if 0 < dt then isgn v * min (v.natAbs : Int) (qtrunc (t72s * 16777216 / (dt : Rat))) else v
  if (s.getF F.FBK_SPDCFG_STILL n * 256000 : Nat) < dt then (0, true) else (v1, false)

/-- A time in ticks of 20 ns (R427). -/
def tick20 (t : Nat) : Int := t / 5120

/-- The edge-interval speed (R427). -/
def edgeSpeed (n : Nat) (c : Chan) (tlat : Nat) (s : State) : Int × Bool :=
  let m := 2 ^ s.getF F.FBK_SPDCFG_EDGES n
  match c.edges.head?, c.edges[m]? with
  | some e0, some em =>
    let steps := c.edges.take m
    if steps.any fun e => e.2 ≠ e0.2 then (0, false)
    else
      let i := tick20 e0.1 - tick20 em.1
      if 2 ^ 24 ≤ i ∨ 2 ^ 24 < tick20 tlat - tick20 e0.1 then (0, true)
      else (e0.2 * qtrunc ((m : Rat) * 50000000 * 16777216 / ((max i 1 : Int) : Rat)), false)
  | _, _ => (0, false)

/-- POS of a latch (R416). -/
def latchPos (n : Nat) (c : Chan) (v : Int) (tlat : Nat) (s : State) : Int :=
  let x := c.count * 2 ^ 24
  if s.getB F.FBK_CFG_EXTRAP n ∧ s.fbkMode n ≠ 2 then
    let d : Rat := ((v.natAbs : Nat) : Rat) * (((tlat : Int) - c.tEdge : Int) : Rat) / t72s
    x + isgn v * min (qtrunc (qmax d 0)) (2 ^ 24 - 1)
  else x

/-- Put a latch into the channel's registers. -/
def putLatch (n : Nat) (pos v : Int) (tlat tedge : Nat) (valid still : Bool) (s : State) : State :=
  ((((((s.setS F.FBK_POS_V pos n).setS F.FBK_SPEED_V v n).setF F.FBK_TLAT_V tlat n).setF F.FBK_TEDGE_V tedge n).setF
    F.FBK_STAT_VALID (b2n valid) n)).setF F.FBK_STAT_STILL (b2n still) n

/-- FAULT or LOSS stands, or the Hall code is illegal (R421). -/
def State.fbkBad (s : State) (n : Nat) : Bool :=
  s.getB F.FBK_STAT_FAULT n || s.getB F.FBK_STAT_LOSS n || (s.fbkMode n == 1 && (hallPlace (s.getF F.FBK_STAT_HALL n)).isNone)

/-- The TS latch of one enabled channel at a latch edge (R415). -/
def chanLatch (n tlat : Nat) (s : State) : State :=
  let c := s.chan n
  if s.fbkMode n = 2 then s.setChan n { c with frameAt := some tlat, frameBad := s.fbkBad n }
  else
    let v := if s.getB F.FBK_CFG_SPDM n then edgeSpeed n c tlat s else nativeSpeed n c tlat s
    let s1 := s.setChan n { c with hist := ((c.count, c.tEdge, tlat) :: c.hist).take 65 }
    putLatch n (latchPos n c v.1 tlat s) v.1 tlat c.tEdge (!s.fbkBad n) v.2 s1

/-- Signal 3: the latches of all enabled channels are usable (R143, R417). -/
def fbkSignal (s : State) : State :=
  if (List.range 32).any fun n => s.fbkEn n && (s.chan n).frameAt.isSome then s else raiseSignals (2 ^ 3) s

/-- Is the present edge one of the 200 MHz sampler's edges (R29; the edges at raw multiples of 5 ns, log 32)? -/
def State.samplerEdge (s : State) : Bool := s.frc % 5 == 0

/-- The measured position of an axis at the present edge of the sampler: that of its local channel's count, or the latest reply's
(R278). -/
def State.livePos (s : State) (a : Nat) : Int :=
  if s.getB F.AX_CTL_PSRC a then s.measPos a
  else sx 72 (toBits 72 ((s.chan (s.getF F.AX_CTL_PCHAN a)).count * 2 ^ 24 + s.getS F.AX_POS_OFF_V a))

/-- A sampler edge: the general inputs of every enabled axis are sampled (R274).  Where no level has changed since the edge before,
only those that a filter is judging can change. -/
def sampleInputs (s : State) : State :=
  let axs := if s.trj.gpi = s.trj.gpiSeen then (s.trj.axes.filter fun p => !p.2.cand.isEmpty).map (·.1) else List.range 128
  let s1 := s.each (axs.filter fun a => s.getB F.AX_CTL_EN a) fun a t =>
    let w := (t.rd (R.AX_IN_SEL + 0x400 * a)).toNat
    t.each ((List.range 3).filter fun j => bit w (8 * j + 7) && !bit w (8 * j + 6)) fun j u =>
      inputSample a j u.frc (u.rawInput a j) (u.livePos a) u
  s1.withTrj fun t => { t with gpiSeen := t.gpi }

/-- Every enabled channel latches at the present edge of the sampler: count and time stamp of one edge (R29, R415). -/
def fbkLatch (s : State) : State :=
  let chans := (List.range 32).filter s.fbkOn
  let s1 := (s.withFbk fun x => { x with latchDue := false }).each chans fun n => chanLatch n (s.stamp (256 * s.frc))
  if chans.isEmpty then s1 else fbkSignal s1

/-- The latch waits for the next edge of the sampler. -/
def fbkWait (s : State) : State := s.withFbk fun x => { x with latchDue := true }

/-! ### SSI frames (R409 to R413, R425) -/

/-- T_clk in ns, NBITS, twice T_f in ns (R409, R410). -/
def State.ssiClk (s : State) (n : Nat) : Nat := 10 * (s.getF F.FBK_SSI_T_DIV n + 1)
def State.ssiBits (s : State) (n : Nat) : Nat :=
  s.getF F.FBK_SSI_LEN n + s.getF F.FBK_SSI_STAT n + b2n (decide (s.getF F.FBK_SSI_PAR n ≠ 0))
def State.ssiTf2 (s : State) (n : Nat) : Nat := (2 * s.ssiBits n + 3) * s.ssiClk n

/-- An SSI channel's frame does not fit the cycle (R414). -/
def State.ssiBad (s : State) (n : Nat) : Bool :=
  s.fbkMode n == 2 &&
    (decide ((s.getF F.TBS_TR_V - s.getF F.TBS_TS_V) < 4 * (510 + s.ssiTf2 n + 10 * s.getF F.FBK_SSI_T_DLY n))
      || decide (2 * s.period < s.ssiTf2 n + 2000 * s.getF F.FBK_SSI_T_TM n))

/-- The check of a write of TS, TR or PERIOD while SSI channels are enabled (R414). -/
def ssiCodes (new : State) : List Nat := chk ((List.range 32).any fun n => new.fbkEn n && new.ssiBad n) 0x0701

/-- Exclusive or of the low w bits. -/
def parity (v : Nat) : Nat → Nat
  | 0 => 0
  | w + 1 => (v % 2 + parity (v / 2) w) % 2

/-- Reflected Gray code to binary, w bits. -/
def grayBin (v : Nat) : Nat → Nat
  | 0 => 0
  | w + 1 => grayBin v w ||| (parity (v / 2 ^ w) (64) * 2 ^ w)

/-- The parity bit is stripped from a frame. -/
def ssiBody (ssi raw : Nat) : Nat := if bits ssi 8 2 = 0 then raw else raw / 2

/-- What a frame's own bits show wrong under an FBK_SSI value: 5 parity, 6 error bit, 0 nothing (R411). -/
def ssiKind (ssi raw : Nat) : Nat :=
  let par := bits ssi 8 2
  let eb := bits ssi 11 2
  if par ≠ 0 ∧ parity raw (bits ssi 0 6 + bits ssi 6 2 + 1) ≠ (if par = 2 then 1 else 0) then 5
  else if eb ≠ 0 ∧ bit (ssiBody ssi raw) (bits ssi 6 2 - eb) = bit ssi 13 then 6
  else 0

/-- The position word of a frame as a number under an FBK_SSI value and DIR (R402, R412). -/
def ssiValue (ssi : Nat) (dir : Bool) (raw : Nat) : Int :=
  let len := bits ssi 0 6
  let w := bits (ssiBody ssi raw) (bits ssi 6 2) len
  let b := if bit ssi 10 then grayBin w len else w
  let v : Int := if bit ssi 14 then sx len b else b
  if dir then -v else v

/-- FBK_SSI of a channel. -/
def State.ssiWord (s : State) (n : Nat) : Nat := (s.rd (R.FBK_SSI + 0x100 * n)).toNat

/-- The kind of a frame's failure, 0 for none (R411); ready and mono are the data line at the two checks. -/
def frameKind (n raw : Nat) (ready mono : Bool) (s : State) : Nat := if !ready || mono then 4 else ssiKind (s.ssiWord n) raw

/-- The position word of a channel's frame as a number. -/
def frameValue (n raw : Nat) (s : State) : Int := ssiValue (s.ssiWord n) (s.getB F.FBK_CFG_DIR n) raw

/-- A good frame's count and speed (R413, R425). -/
def goodFrame (n tlat : Nat) (v : Int) (s : State) : State :=
  let c := s.chan n
  let len := s.getF F.FBK_SSI_LEN n
  let jump := s.getF F.FBK_SSI_JUMP n
  let d : Int := match c.ssiLast with
    | some q => sx len (toBits len (v - q))
    | none => 0
  if jump ≠ 0 ∧ c.ssiLast.isSome ∧ 2 ^ jump < d.natAbs then
    let s1 := decodeError n 7 s
    putLatch n (c.count * 2 ^ 24) (s.getS F.FBK_SPEED_V n) tlat c.tEdge false (s.getB F.FBK_STAT_STILL n) s1
  else
    let count := if c.ssiLast.isSome then wrap48 (c.count + d) else wrap48 v
    let chg := if count = c.count ∧ c.ssiLast.isSome then c.chgT else tlat
    let h := (count, tlat, tlat) :: c.hist
    let w := (h.drop (s.getF F.FBK_SPDCFG_WIN n)).head?.getD (h.getLast?.getD (0, 0, 0))
    let still := decide (s.getF F.FBK_SPDCFG_STILL n * 256000 ≤ tlat - chg)
    let spd : Int := if still ∨ w.2.2 = tlat then 0
      else qtrunc (((wrap48 (count - w.1) : Int) : Rat) / ((tlat : Rat) - w.2.2) * t72s * 16777216)
    let s1 := s.setChan n
      { c with count := count, tEdge := tlat, hist := h.take 65, ssiLast := some v, chgT := chg, frameAt := none }
    offerCount n tlat (putLatch n (count * 2 ^ 24) spd tlat tlat (!c.frameBad) still s1)

/-- The frame of the present cycle is complete: its bits, and the data line at the ready and monoflop checks. -/
def ssiFrameDone (n raw : Nat) (ready mono : Bool) (s : State) : State :=
  let c := s.chan n
  match s.fbkEn n && s.fbkMode n == 2, c.frameAt with
  | true, some tlat =>
    let bitsN := raw % 2 ^ s.ssiBits n
    let s1 := (s.setF F.FBK_SSI_RAW_RAW bitsN n).setChan n { c with frameAt := none }
    let kind := frameKind n bitsN ready mono s
    let s2 := if kind = 0 then goodFrame n tlat (frameValue n bitsN s) s1
      else putLatch n (c.count * 2 ^ 24) (s.getS F.FBK_SPEED_V n) tlat c.tEdge false (s.getB F.FBK_STAT_STILL n) (decodeError n kind s1)
    fbkSignal s2
  | _, _ => s

/-! ### The route to Felt (R430 to R432) -/

/-- Local axes whose position comes from a channel. -/
def State.feltAxes (s : State) (n : Nat) : List Nat :=
  (List.range 128).filter fun a => s.getB F.AX_CTL_EN a && s.getB F.AX_CTL_LOCAL a && !s.getB F.AX_CTL_PSRC a
    && s.getF F.AX_CTL_PCHAN a == n

/-- MODE, DIR and the SSI fields of a channel as one number: [1:0], [2], [34:3]. -/
def State.fbkFields (s : State) (n : Nat) : Nat := s.fbkMode n + 4 * s.getF F.FBK_CFG_DIR n + 8 * s.ssiWord n

/-- At a channel's enable those fields go to both safety channels as a complement pair (R26, R430). -/
def fbkTell (n : Nat) (s : State) : State :=
  let p := some (s.fbkFields n, 2 ^ 35 - 1 - s.fbkFields n)
  s.withSaf fun x => { x with fbkCfg := mapSet (fun _ => none) (mapSet (fun _ => none) x.fbkCfg n p) (32 + n) p }

/-- The fields as a safety channel holds them, where their pair is valid (R47): 0 the safety processor, 1 Felt. -/
def State.fbkHeld (s : State) (ch n : Nat) : Option Nat := match mapGet (fun _ => none) s.saf.fbkCfg (32 * ch + n) with
  | some (v, c) => if pairOk 35 v c then some v else none
  | none => none

/-- A pair on the way to Felt fails: it votes for a stop of the groups of the channel's axes (R50). -/
def feltPairBad (n : Nat) (s : State) : State := s.each (s.feltAxes n) fun a t => recordPairBad (t.axisGroups a) a t

/-- What Felt has decoded: steps, levels and Hall code last seen, whether every line pair was in complement form (R430). -/
structure FeltSeen where
  steps : Int
  pins : Nat
  ref : Option Nat
  good : Bool

/-- One filtered change of the line pairs: levels, and the complement lines. -/
def feltLine (mode : Nat) (x : FeltSeen) (l : Nat × Nat) : FeltSeen :=
  let q := l.1 % 8
  let place (h : Option Nat) := h.bind hallPlace
  let d : Int := if mode = 0 then (quadStep x.pins q).getD 0
    else if mode = 1 then match place x.ref, hallPlace (hallCode q) with
      | some a, some b => (hallStep a b).getD 0
      | _, _ => 0
    else 0
  { steps := x.steps + d, pins := q, ref := if (hallPlace (hallCode q)).isSome then some (hallCode q) else x.ref,
    good := x.good && q + l.2 == 7 }

/-- The change of Felt's count that a snooped SSI frame makes, and the value to compare the next one with (R413). -/
def feltFrame (fields : Nat) (last : Option Int) (raw : Nat) : Int × Option Int :=
  let ssi := bits fields 3 32
  let len := bits ssi 0 6
  let v := ssiValue ssi (bit fields 2) raw
  let d : Int := match last with
    | some q => sx len (toBits len (v - q))
    | none => 0
  if ssiKind ssi raw ≠ 0 ∨ (bits ssi 16 6 ≠ 0 ∧ 2 ^ bits ssi 16 6 < d.natAbs) then (0, last) else (d, some v)

/-- Felt latches its own count (R431): lines are the filtered changes of the channel's line pairs since its latch before,
frame the snooped SSI frame of this cycle. -/
def feltLatch (n : Nat) (lines : List (Nat × Nat)) (frame : Option Nat) (s : State) : State :=
  if !s.fbkOn n then s
  else match s.fbkHeld 1 n with
  | none => feltPairBad n s
  | some fields =>
    let c := s.chan n
    let x := lines.foldl (feltLine (bits fields 0 2)) { steps := 0, pins := c.feltPins, ref := c.feltRef, good := true }
    let f := match frame with
      | some raw => if bits fields 0 2 = 2 then feltFrame fields c.feltSsi raw else (0, c.feltSsi)
      | none => (0, c.feltSsi)
    let steps := if bit fields 2 then -x.steps else x.steps
    let s1 := s.setChan n
      { c with felt := toBits 32 ((c.felt : Int) + steps + f.1), feltPins := x.pins, feltRef := x.ref, feltSsi := f.2 }
    if x.good then s1 else feltPairBad n s1

/-- Bits [55:24] of an axis's position minus AX_POS_OFF in Felt's record. -/
def AxRec.count (r : AxRec) : Nat := toBits 32 ((r.pos - r.off) / 2 ^ 24)

/-- One axis of a channel in Felt's record: it sets a count not set since the channel's enable, and is compared with one that
is (R383, R432). -/
def feltAxis (n a : Nat) (s : State) : State :=
  let c := s.chan n
  match s.chAx 1 a with
  | none => s
  | some r =>
    if !c.feltOn then s.setChan n { c with felt := r.count, feltOn := true }
    else if s.pb 0x0603 a 7 8 1 = 1 then posCheck a (s.within a c.felt r.count) s
    else s

/-- What Felt does with the counts at a position record. -/
def feltRecord (s : State) : State :=
  s.each ((List.range 32).filter s.fbkOn) fun n t => t.each (t.feltAxes n) fun a u => feltAxis n a u

/-! ### Registers (R414, R422, R435, R436) -/

/-- A channel is in use (R436). -/
def State.fbkUsed (s : State) (n : Nat) : Bool :=
  (List.range 128).any (fun a => s.getB F.AX_CTL_EN a && !s.getB F.AX_CTL_PSRC a && s.getF F.AX_CTL_PCHAN a == n)
  || (List.range 256).any (fun l => s.lawEn l && (List.range 6).any fun j =>
      let src := s.tb 0x0301 l (8 + j) 0 4
      (src == 1 || src == 2) && s.tb 0x0301 l (8 + j) 8 12 == n)
  || !(s.cmpsOn 1 n).isEmpty

/-- The checks of a write of v over old to a feedback register; new is the state with the write made. -/
def fbkCodes (base n v old : Nat) (s new : State) : List Nat :=
  let en := s.fbkEn n
  let modeOf := bits v 0 2
  if base = R.FBK_CTL then
    chk (bit old 0 && !bit v 0 && s.fbkUsed n) 0x0703 ++ chk (bit v 1 && s.getB F.FBK_STAT_LOSS n) 0x0702
    ++ chk (bit v 0 && !bit old 0 && new.ssiBad n) 0x0701
  else if base = R.FBK_CFG then
    chk (modeOf == 3 || (modeOf == 2 && (bit v 8 || bit v 9)) || (modeOf != 0 && bit v 10)) EC.BAD_FIELD ++ chk en EC.STATE
    ++ chk (bits v 16 4 == 0 || bits v 20 12 == 0) EC.RANGE
  else if base = R.FBK_SPDCFG then
    chk en EC.STATE ++ chk (bits v 0 7 == 0 || decide (64 < bits v 0 7) || decide (8 < bits v 8 4) || bits v 16 16 == 0) EC.RANGE
  else if base = R.FBK_SSI then
    let len := bits v 0 6
    chk (bits v 8 2 == 3) EC.BAD_FIELD ++ chk en EC.STATE
    ++ chk (decide (len < 8) || decide (48 < len) || decide (bits v 6 2 < bits v 11 2) || decide (len - 1 < bits v 16 6)) EC.RANGE
  else if base = R.FBK_SSI_T then
    chk en EC.STATE
    ++ chk (decide (bits v 0 10 < 9) || decide (999 < bits v 0 10) || bits v 16 7 == 0 || decide (100 < bits v 16 7)) EC.RANGE
  else []

/-- A channel is enabled: count 0, no history, its fields told to the safety channels; it starts at the next sampler edge
(R430, R436). -/
def fbkEnable (n : Nat) (s : State) : State :=
  let c : Chan := { Chan.reset with below := (s.chan n).below, starting := true }
  let s1 := (((fbkTell n (s.setChan n c)).setF F.FBK_ERR_CNT_DEC 0 n).setF F.FBK_ERR_CNT_FAULTS 0 n).setF F.FBK_IDX_CNT_IDX 0 n
  (s1.setF F.FBK_STAT_WINCNT 0 n).setF F.FBK_SPEED_V 0 n

/-- The sampler edge at which a channel starts: its levels are those of the terminals at that edge (R403, R408, R415, R436). -/
def fbkStart (n : Nat) (s : State) : State :=
  let p := s.pins n
  let s1 := s.setChan n
    { s.chan n with
      starting := false, tEdge := s.now, startT := s.now, chgT := s.now, feltPins := p,
      feltRef := if (hallPlace (hallCode p)).isSome then some (hallCode p) else none }
  if s.fbkMode n = 2 then s1
  else
    let s2 := showLevels n p s1
    if s.fbkMode n = 1 then hallChange n 5 (hallCode p) s.now s2 else s2

/-- The channels that start at a sampler edge. -/
def fbkStarts (s : State) : State :=
  s.each ((List.range 32).filter fun n => s.fbkEn n && (s.chan n).starting) fbkStart

/-- What follows an accepted write to a feedback register. -/
def fbkFollow (base n v old : Nat) (s : State) : State :=
  if base = R.FBK_CTL then
    let s1 := if bit v 1 then clearFault n s else s
    if bit v 0 && !bit old 0 then fbkEnable n s1
    else if !bit v 0 && bit old 0 then
      (s1.setF F.FBK_STAT_VALID 0 n).setChan n { s1.chan n with frameAt := none, feltOn := false, starting := false }
    else s1
  else if base = R.FBK_CFG then lossFollow n s
  else s

/-- One bit per channel. -/
def State.fbkMap (s : State) (f : Fld) : Word :=
  BitVec.ofNat 32 (((List.range 32).filter fun n => s.getB f n).foldl (fun m n => m + 2 ^ n) 0)

/-- FBK_STAT with the errors in the window as they are at the read (R419, R434). -/
def fbkStatNow (n off : Nat) (s : State) : Word :=
  let win := s.getF F.FBK_CFG_ERR_WIN n * 256000
  let live := (s.chan n).errs.filter fun t => decide (s.now ≤ t + win)
  BitVec.ofNat 32 (putBits (s.rd off).toNat 12 4 (min 15 live.length))

/-- Reads formed from the channels' state. -/
def fbkView (off : Nat) (s : State) : Option Word :=
  if off = R.FBK_EN_MAP then some (s.fbkMap F.FBK_CTL_EN)
  else if off = R.FBK_FAULT_MAP then some (s.fbkMap F.FBK_STAT_FAULT)
  else if off = R.FBK_LOSS_MAP then some (s.fbkMap F.FBK_STAT_LOSS)
  else if R.FBK_STAT ≤ off ∧ off < R.FBK_STAT + 0x2000 ∧ (off - R.FBK_STAT) % 0x100 = 0 then
    some (fbkStatNow ((off - R.FBK_STAT) / 0x100) off s)
  else none

/-- The registers a read of an offset latches with it (R435): those of one latch with FBK_POS_0, the index time with
FBK_IDX_POS_0. -/
def fbkLatchSet (off : Nat) : List Nat :=
  if off < R.FBK_CTL ∨ R.FBK_CTL + 0x2000 ≤ off then []
  else if (off - R.FBK_CTL) % 0x100 = 0x20 then (List.range 15).map fun i => off + 4 + 4 * i
  else if (off - R.FBK_CTL) % 0x100 = 0x60 then (List.range 7).map fun i => off + 4 + 4 * i
  else []

end Sys2Proof.Machine
end

