-- ==== Sys2Proof/Machine/Lnd.lean ====
section
/-! DEFINITION. Active and standby pairs over Laend (R585 to R627): frames on both lanes, joining, copying the state, mirroring, Twill in a pair, digests, heartbeats, promotion, arbitration, and the registers of the block. -/

namespace Sys2Proof.Machine

def State.withLnd (s : State) (f : Lnd → Lnd) : State := { s with lnd := f s.lnd }

namespace Role
def SINGLE : Nat := 0
def ACTIVE : Nat := 1
def STANDBY : Nat := 2
end Role

namespace PSt
def OFF : Nat := 0
def JOIN : Nat := 1
def COPY : Nat := 2
def SHADOW : Nat := 3
def READY : Nat := 4
def ISOLATED : Nat := 5
def FAILED : Nat := 6
end PSt

def State.role (s : State) : Nat := s.getF F.LND_STAT_ROLE
def State.pst (s : State) : Nat := s.getF F.LND_STAT_PSTATE
/-- PSTATE is COPY, SHADOW or READY. -/
def State.pairRun (s : State) : Bool := decide (PSt.COPY ≤ s.pst) && decide (s.pst ≤ PSt.READY)
/-- An active whose partner takes part. -/
def State.leads (s : State) : Bool := s.role == Role.ACTIVE && s.pairRun && s.getB F.LND_STAT_PARTNER

/-- The pair state changes (R595, R627). -/
def enterPst (st : Nat) (s : State) : State :=
  let s1 := s.setF F.LND_STAT_PSTATE st
  s1.post 0x0C01 12 0 EC.OK (st + s1.role * 16)

/-! ### Frames (R587 to R589) -/

/-- Header bytes 1 to 39. -/
def lndHeader (kind cyc len lseq : Nat) : List Byte :=
  let h := leBytes kind 1 ++ leBytes cyc 8 ++ leBytes len 2 ++ leBytes lseq 2 ++ leBytes 0 24
  h ++ leBytes (crc16 h) 2

/-- The checks of a header (R587, R539). -/
def lndHeaderGood (h : List Byte) : Bool :=
  h.length == 39 && leAt h 37 2 == crc16 (h.take 37) && decide (leAt h 0 1 ≤ 8) && decide (leAt h 9 2 ≤ 16384) && leAt h 9 2 % 16 == 0
    && leAt h 13 24 == 0

def State.upLanes (s : State) : List Nat := (List.range 2).filter s.laneUp

/-- The next LSEQ (R587). -/
def lndSeq (s : State) : State := s.withLnd fun x => { x with lseq := (x.lseq + 1) % 2 ^ 16 }

/-- Send a frame on both lanes (R588). -/
def lndSend (kind cyc : Nat) (payload : List Byte) (s : State) : State :=
  let h := lndHeader kind cyc payload.length s.lnd.lseq
  (lndSeq s).each s.upLanes fun l t => t.emit (.lnd l h payload)

/-- Pad to a multiple of 16 bytes. -/
def pad16 (b : List Byte) : List Byte := b ++ leBytes 0 ((16 - b.length % 16) % 16)

/-- Send a ROLE item (R593). -/
def roleSend (item ring cyc : Nat) (data : List Byte) (s : State) : State :=
  if s.pst = PSt.OFF then s
  else lndSend 8 s.tbs.k (pad16 (leBytes item 1 ++ leBytes ring 1 ++ leBytes 0 2 ++ leBytes data.length 4 ++ leBytes cyc 8 ++ data)) s

/-! ### Lanes (R585) -/

/-- Is one of what R598 forbids in a pair configured? -/
def State.localParts (s : State) : Bool :=
  ((List.range 128).any fun a => s.getB F.AX_CTL_EN a && s.getB F.AX_CTL_LOCAL a) || ((List.range 16).any fun u => s.getB F.AUX_CTL_EN u && !s.getB F.AUX_CTL_OUT u)
    || ((List.range 72).any fun n => s.getB F.PWM_CTL_EN n) || (List.range 32).any fun n => s.fbkEn n && s.fbkMode n == 2

/-- A lane that is UP has a delay above 50 ns. -/
def State.laneSlow (s : State) : Bool := (List.range 2).any fun l => s.linkSt (4 + l) == LinkSt.UP && decide (12800 < s.ldly (4 + l))

/-- This unit is the active under R597; none: no assignment. -/
def joinActive (i : PairInfo) (s : State) : Option Bool :=
  let pref := s.getB F.LND_CFG_PREF
  if s.cycRun ∧ i.run then none
  else if s.cycRun then some true
  else if i.run then some false
  else if pref = i.pref then some (decide (s.dUid < i.uid)) else some pref

/-- The first check of JOIN that fails in this unit; 0: none (R598; reason 6 shows later). -/
def joinReason (i : PairInfo) (s : State) : Nat :=
  if s.getF F.LND_DIGEST_DIGEST ≠ i.digest then 1
  else if s.getF F.SAF_CHK_CHK ≠ i.chk ∨ !i.chkValid ∨ !s.getB F.SAF_STATE_CHK_VALID then 2
  else if !s.locked then 3
  else if joinActive i s = none then 4
  else if s.localParts then 5
  else if joinActive i s = some false ∧ !s.getB F.TBS_CTL_SRC then 6
  else if s.laneSlow then 7
  else 0

/-- JOIN fails (R595, R598). -/
def joinFail (reason : Nat) (s : State) : State :=
  let s1 := ((s.setF F.LND_STAT_ROLE Role.SINGLE).flag F.LND_FLAG_JOIN_FAIL).setF F.LND_FAIL_JOIN reason
  enterPst PSt.OFF (s1.post 0x0C02 12 0 0x0C04 reason)

/-- JOIN begins: EN has risen and the pair link is up (R595, R597, R598). -/
def joinStart (s : State) : State :=
  match s.lnd.info with
  | none => s
  | some i =>
    if !s.lnd.armed || !s.pairLink || s.pst != PSt.OFF || !s.getB F.LND_CTL_EN then s
    else
      let role := match joinActive i s with | some true => Role.ACTIVE | some false => Role.STANDBY | none => Role.SINGLE
      let s1 := (((s.setF F.LND_STAT_ROLE role).setF F.LND_PUID_UID i.uid).setF F.LND_PDIGEST_DIGEST i.digest).wr R.LND_CNT 0
      let s2 := s1.withLnd fun x => { x with
        armed := false, joinAt := s.now, hbs := [], hbGone := 0, hbBack := 0, gone := 0, here := 0, mism := none, plan := none, clean := 0,
        restarts := 0, corrBase := s.getF F.HST_ECC_CORR_CNT_V, passes := 0, since := s.tbs.k, own := [], theirs := [], installed := [], toSend := [] }
      let s3 := enterPst PSt.JOIN s2
      let r := joinReason i s
      let r := if r = 0 then i.fails else r
      if r = 0 then s3 else joinFail r s3

/-- A lane has changed: JOIN begins when the pair link is up (R595). -/
def laneFollow (s : State) : State := joinStart (lanesRefresh s)

/-! ### State items (R592, R602) -/

/-- Keys of the items that a unit's configuration asks for: kind * 1024 + instance. -/
def State.copyKeys (s : State) : List Nat :=
  ((List.range 256).filter s.lawEn).map (1024 + ·) ++ (List.range 8).map (2048 + ·)
  ++ ((List.range 128).filter fun a => s.getB F.AX_CTL_EN a).map (3072 + ·) ++ (List.range 32).map (4096 + ·)
  ++ ((List.range 16).filter fun u => s.getB F.AUX_CTL_EN u).map (5120 + ·) ++ [6144] ++ (List.range 128).map (7168 + ·) ++ [8192]

/-- The registers of a window of n words. -/
def State.winRegs (s : State) (base n : Nat) : List (Nat × Word) :=
  ((List.range n).map fun i => base + 4 * i).filterMap fun o => if (findReg o).isSome then some (o, s.rd o) else none

def State.winWords (s : State) (base n : Nat) : List (Nat × Nat) := (List.range n).map fun i => (base + i, (s.readWord (base + i)).toNat)

/-- An item as it stands at TC (R602). -/
def capture (key : Nat) (s : State) : StateMsg :=
  let n := key % 1024
  let m (i : StateItem) (r : List (Nat × Word)) (w : List (Nat × Nat)) : StateMsg := { cyc := s.tbs.k, item := i, regs := r, words := w }
  match key / 1024 with
  | 1 => m (.law n (s.law n)) (s.winRegs (R.CEN_LAW_STAT + 0x100 * n) 4) (s.winWords (s.stateBase n) 32)
  | 2 => m (.group n (s.grp n)) (s.winRegs (R.TRJ_CTL + 0x100 * n) 20) []
  | 3 => m (.axis n (s.ax n)) (s.winRegs (R.AX_CTL + 0x400 * n) 23) []
  | 4 => m (.cmp n (mapGet (fun _ => Cmp.reset) s.trj.cmps n)) (s.winRegs (R.TRJ_CMP_CTL + 0x40 * n) 15) []
  | 5 => m (.aux n (mapGet (fun _ => Aux.reset) s.trj.auxs n)) (s.winRegs (R.AUX_CTL + 0x200 * n) 14) []
  | 6 => m (.sensors s.sep.fac s.sep.facNext s.sep.accepted) (s.winRegs R.SEP_S_STAT 128) []
  | 7 => m (.context n (mapGet (fun _ => 0) s.sch.wake n)) (s.winRegs (R.SCH_CTX_STAT + 0x40 * n) 3) []
  | _ => m (.safety ((List.range 16).foldl (fun a i => if s.safSt = SSt.OPERATE ∧ s.inFunc i ≠ 0 ∧ !bit (s.getF F.SAF_IN_STAT_PEND) i then a + 2 ^ i else a) 0)
      (s.getF F.SAF_IN_STAT_DISC)) (s.winRegs R.SAF_G_STAT 32) []

def itemKey : StateItem → Nat
  | .law n _ => 1024 + n
  | .group n _ => 2048 + n
  | .axis n _ => 3072 + n
  | .cmp n _ => 4096 + n
  | .aux n _ => 5120 + n
  | .sensors _ _ _ => 6144
  | .context n _ => 7168 + n
  | .safety _ _ => 8192

/-- A context takes the copied state (R602). -/
def installCtx (n wake : Nat) (s : State) : State :=
  let st := s.ctxSt n
  let s1 := (unlist n s).withSch fun h => { h with wake := mapSet (fun _ => 0) h.wake n wake }
  if st = CtxSt.READY ∨ st = CtxSt.RUN then makeReady n false (s1.setCtxSt n CtxSt.WAIT)
  else if st = CtxSt.DELAY then delayCtx n wake s1
  else s1

/-- Groups take up the copied safety states. -/
def installSafety (states : List (Nat × Nat)) (s : State) : State := s.each states fun x t => enterGs x.1 x.2 t

/-- The standby installs an item (R602, R611). -/
def install (m : StateMsg) (s : State) : State :=
  let put (t : State) : State := m.words.foldl (fun u w => u.writeWord w.1 (BitVec.ofNat 72 w.2)) (m.regs.foldl (fun u r => u.wr r.1 r.2) t)
  let done (t : State) : State := t.withLnd fun x => { x with installed := listIns x.installed (itemKey m.item) }
  done (match m.item with
    | .law n x => (put s).withCen fun c => { c with laws := mapSet (fun _ => Law.reset) c.laws n x }
    | .group n x => (put s).withTrj fun c => { c with groups := mapSet (fun _ => Group.reset) c.groups n x }
    | .axis n x => (put s).withTrj fun c => { c with axes := mapSet (fun _ => Axis.reset) c.axes n x }
    | .cmp n x => (put s).withTrj fun c => { c with cmps := mapSet (fun _ => Cmp.reset) c.cmps n x }
    | .aux n x => (put s).withTrj fun c => { c with auxs := mapSet (fun _ => Aux.reset) c.auxs n x }
    | .sensors f g a => (put s).withSep fun c => { c with fac := f, facNext := g, accepted := a }
    | .context n w => installCtx n w (put s)
    | .safety t d =>
      let st := (List.range 8).map fun g => (g, bits ((m.regs.find? fun r => r.1 == R.SAF_G_STAT + 0x10 * g).elim 0 fun r => r.2.toNat) 0 3)
      let causes := m.regs.filter fun r => r.1 % 16 == 4
      installSafety st ((causes.foldl (fun u r => u.wr r.1 r.2) s).withLnd fun x => { x with tested := t, disced := d }))

/-- COPY begins (R595, R601, R602); the standby's branches take the states of the active's (R527). -/
def enterCopy (s : State) : State :=
  let s1 := s.withLnd fun x => { x with clean := 0, installed := [], toSend := if s.role = Role.ACTIVE then s.copyKeys else [] }
  let s2 := enterPst PSt.COPY s1
  if s.role = Role.ACTIVE then
    let s3 := s2.setF F.LND_STAT_PARTNER 1
    match s.lnd.info with
    | some i =>
      let first := s.cycRun && !i.run
      let at_ := if first then s.tbs.k + 64 else s.tbs.k
      let s4 := if first then roleSend 3 0 at_ (leBytes at_ 8) s3 else s3
      s4.each ((List.range 8).filter fun b => s.brSt b != BrSt.OFF) fun b t => roleSend 5 0 at_ (leBytes b 1 ++ leBytes (s.brSt b) 1) t
    | none => s3
  else s2.setF F.LND_STAT_PARTNER 1

/-- JOIN passes: on the standby when its synchronisation is in SYNC, on the active when its partner's is (R598, R600). -/
def joinPass (partnerSync : Bool) (s : State) : State :=
  if s.pst ≠ PSt.JOIN then s
  else if s.role = Role.STANDBY then (if s.syncSt = SyncSt.SYNC then enterCopy s else s)
  else if partnerSync then enterCopy s else s

/-- 1 s after JOIN (R598). -/
def joinTimeout (s : State) : State :=
  if s.pst = PSt.JOIN ∧ s.lnd.joinAt + 1000000000 * 256 ≤ s.now then joinFail 6 s else s

/-- The standby has installed every item (R595, R602); every mismatch-free cycle counts toward READY. -/
def shadowCheck (s : State) : State :=
  if s.pst = PSt.COPY ∧ s.role = Role.STANDBY then
    if s.copyKeys.all fun k => s.lnd.installed.contains k then enterPst PSt.SHADOW (s.withLnd fun x => { x with clean := 0 }) else s
  else if s.pst = PSt.SHADOW ∧ s.role = Role.STANDBY then
    if s.getF F.LND_SHADOW_SHADOW_N ≤ s.lnd.clean ∧ s.safSt = SSt.OPERATE then enterPst PSt.READY s else s
  else s

/-- At TC the active sends state (R602): sixteen items a cycle, below 16 KiB. -/
def copySend (s : State) : State :=
  if s.pst ≠ PSt.COPY ∨ s.role ≠ Role.ACTIVE then s
  else
    let now := s.lnd.toSend.take 16
    let s1 := s.each now fun k t =>
      let m := capture k t
      let h := lndHeader 7 t.tbs.k (16 + 9 * (m.regs.length + m.words.length)) t.lnd.lseq
      (lndSeq t).each t.upLanes fun l u => u.emit (.lndState l h m)
    s1.withLnd fun x => { x with toSend := x.toSend.drop 16 }

/-! ### Mirroring (R590, R603 to R605) -/

/-- The bytes of an item. -/
def mirBytes (m : MirItem) : List Byte :=
  pad16 (leBytes m.part 1 ++ leBytes m.inst 1 ++ leBytes m.node 1 ++ leBytes m.flags 1 ++ leBytes m.data.length 2 ++ leBytes 0 10 ++ m.data)

/-- The items of a payload. -/
def mirItems : Nat → List Byte → List MirItem
  | 0, _ => []
  | n + 1, b =>
    if b.length < 16 ∨ leAt b 0 1 = 0 then []
    else
      let len := leAt b 4 2
      { part := leAt b 0 1, inst := leAt b 1 1, node := leAt b 2 1 % 16, flags := leAt b 3 1 % 8, data := (b.drop 16).take len }
        :: mirItems n (b.drop (16 + (len + 15) / 16 * 16))

/-- Set LAST on the last item; no item: one empty item. -/
def withLast (part : Nat) : List MirItem → List MirItem
  | [] => [{ part := part, inst := 0, node := 0, flags := 4, data := [] }]
  | [m] => [{ m with flags := m.flags ||| 4 }]
  | m :: r => m :: withLast part r

/-- Branches whose slices are mirrored. -/
def State.mirBranches (s : State) : List Nat := (List.range 8).filter fun b => s.brSt b == BrSt.SYNC || s.brSt b == BrSt.RUN

/-- POLL slices of a branch as taken. -/
def slicesOf (b : Nat) (s : State) : List MirItem :=
  (maskBits (s.polled b) (s.nodes b)).map fun n => match mapGet (fun _ => none) (s.br b).got n with
    | some (_, port, d) => { part := 1, inst := b, node := n, flags := b2n (s.getB F.TWL_N_STAT_VALID b n) + b2n (port == 1) * 2, data := d }
    | none => { part := 1, inst := b, node := n, flags := 0, data := [] }

/-- Latches of the enabled channels. -/
def latchesOf (s : State) : List MirItem :=
  ((List.range 32).filter s.fbkEn).map fun n =>
    { part := 3, inst := n, node := 0, flags := b2n (s.getB F.FBK_STAT_VALID n),
      data := leBytes (toBits 72 (s.getS F.FBK_POS_V n)) 9 ++ leBytes (toBits 72 (s.getS F.FBK_SPEED_V n)) 9 ++ leBytes (s.getF F.FBK_TLAT_V n) 9
        ++ leBytes (s.getF F.FBK_TEDGE_V n) 9 }

/-- The sample store (R474). -/
def storeOf (s : State) : List MirItem :=
  let v (i : Nat) : Option Int := mapGet (fun _ => none) s.adc.store i
  let valid := (List.range 128).foldl (fun m i => if (v i).isSome then m + 2 ^ i else m) 0
  [{ part := 4, inst := 0, node := 0, flags := 1,
     data := (List.range 128).flatMap (fun i => leBytes (toBits 16 ((v i).getD 0)) 2) ++ leBytes valid 16 }]

/-- The bytes of an accepted obstacle frame (R308). -/
def obstBytes (i : Nat) (f : Frame) (s : State) : List Byte :=
  let head := leBytes (s.sens i 0 8 16) 2 ++ leBytes f.caps.length 2 ++ leBytes f.seq 4 ++ leBytes f.tCap 9 ++ leBytes f.flags 1 ++ leBytes 0 6
  let z (v : Int) : List Byte := leBytes (toBits 32 v) 4
  let recs := f.caps.flatMap fun c => z c.ax ++ z c.ay ++ z c.az ++ z c.bx ++ z c.by_ ++ z c.bz ++ leBytes c.r 2 ++ leBytes c.v 2 ++ leBytes c.cls 1
    ++ leBytes 0 3
  head ++ leBytes (crc32c (s.sens i 7 0 32) (head ++ recs)) 4 ++ leBytes 0 4 ++ recs

/-- The in-use frames of a snapshot. -/
def sensorsOf (s : State) : List MirItem :=
  s.enabledSensors.filterMap fun i => match mapGet (fun _ => none) s.sep.inUse i with
    | some (f, _) => some { part := 5, inst := i, node := 0, flags := 1, data := obstBytes i f s }
    | none => none

/-- The kind of stop a group's state shows: 0 STO, 1 SS1, 2 SS2 (R363, R365). -/
def State.stopKind (s : State) (g : Nat) : Nat := if s.gSt g = GS.STO then 0 else if s.gSt g = GS.SS1 then 1 else 2

/-- The demands latched (R590). -/
def demandsOf (s : State) : List MirItem :=
  [{ part := 6, inst := 0, node := 0, flags := 1,
     data := (List.range 8).flatMap (fun g => leBytes (s.causes g) 4) ++ (List.range 8).flatMap fun g => leBytes (s.stopKind g) 1 }]

/-- Send the items of a part of the present cycle. -/
def mirSend (part inst : Nat) (items : List MirItem) (s : State) : State :=
  lndSend 3 s.tbs.k (items.flatMap mirBytes) (s.withLnd fun x => { x with sentParts := (part, inst) :: x.sentParts })

/-- Send a part once, when its moment has come. -/
def mirPart (due : Bool) (part inst : Nat) (items : State → List MirItem) (s : State) : State :=
  if due && !s.lnd.sentParts.contains (part, inst) then mirSend part inst (items s) s else s

/-- The active sends what has become ready (R603); a unit in READY also sends its demands at TR (R610). -/
def mirrorPump (s : State) : State :=
  if s.leads then
    let br := s.mirBranches
    let s1 := if br.isEmpty then mirPart s.tbs.tsDone 1 0 (fun _ => withLast 1 []) s
      else s.each br fun b t =>
        let last := br.all fun c => c == b || t.lnd.sentParts.contains (1, c)
        mirPart (bit t.lnd.raised (16 + b)) 1 b (fun u => if last then withLast 1 (slicesOf b u) else slicesOf b u) t
    let quiet3 := s.tbs.tsDone && !(List.range 32).any s.fbkEn
    let quiet4 := s.tbs.tsDone && !(List.range 16).any fun c => s.adcEn c && s.getF F.ADC_MASK_TS_MASK c != 0
    let s2 := mirPart (bit s.lnd.raised 3 || quiet3) 3 0 (fun t => withLast 3 (latchesOf t)) s1
    let s3 := mirPart (bit s.lnd.raised 4 || quiet4) 4 0 (fun t => withLast 4 (storeOf t)) s2
    let s4 := mirPart (s.getB F.SEP_CTL_EN && s.sepFirst s.tbs.k && s.tbs.started) 5 0 (fun t => withLast 5 (sensorsOf t)) s3
    mirPart s.tbs.trDone 6 0 (fun t => withLast 6 (demandsOf t)) s4
  else if s.role = Role.STANDBY ∧ s.pst = PSt.READY then mirPart s.tbs.trDone 6 0 (fun t => withLast 6 (demandsOf t)) s
  else s

/-- The partner's demands join this unit's (R610). -/
def takeDemands (d : List Byte) (s : State) : State :=
  let s0 := s.withLnd fun x => { x with demands := (List.range 8).map fun g => (g, leAt d (4 * g) 4) }
  if s.pst ≠ PSt.READY ∨ !s.lnd.hbs.any (fun h => h.pstate == PSt.READY) then s0
  else s0.each (List.range 8) fun g t =>
    let m := leAt d (4 * g) 4
    if m = 0 then t else enterGs g (demandTo (leAt d (32 + g) 1) (t.gSt g)) (t.setCauses g (mor (t.causes g) m))

/-- A mirrored item becomes this unit's input (R604). -/
def mirInstall (m : MirItem) (s : State) : State :=
  match m.part with
  | 1 => if bit m.flags 0 then takeSlice m.inst m.node (bits m.flags 1 1)
      m.data (s.setBr m.inst { s.br m.inst with got := mapSet (fun _ => none) (s.br m.inst).got m.node (some (s.ns, bits m.flags 1 1, m.data)) }) else s
  | 2 => svcResponse m.inst m.data s
  | 3 => if m.data = [] then s else putLatch m.inst (sx 72 (leAt m.data 0 9)) (sx 72 (leAt m.data 9 9)) (leAt m.data 18 9) (leAt m.data 27 9)
      (bit m.flags 0) (s.getB F.FBK_STAT_STILL m.inst) s
  | 4 => if m.data = [] then s else
    { s with adc := { s.adc with
        store := (List.range 128).foldl (fun q i => mapSet (fun _ => none) q i
          (if bit (leAt m.data (256 + i / 8) 1) (i % 8) then some (sx 16 (leAt m.data (2 * i) 2)) else none)) [] } }
  | 5 => if m.data = [] then s else
    s.withSep fun x => { x with
      inUse := mapSet (fun _ => none) x.inUse m.inst (some (frameOf m.data, (mapGet (fun _ => none) x.inUse m.inst).elim 0 (·.2))),
      accepted := mapSet (fun _ => none) x.accepted m.inst (some (frameOf m.data)) }
  | 6 => takeDemands m.data s
  | _ => s

/-- The parts a standby expects for the present cycle. -/
def State.mirParts (s : State) : List Nat := [1, 3, 4, 6] ++ if s.getB F.SEP_CTL_EN ∧ s.sepFirst s.tbs.k then [5] else []

/-- Signal 5 and the signals of the inputs (R604). -/
def mirRaise (s : State) : State := raiseNow (2 ^ 5 ||| mirrorSignals) s

/-- The mirror of the cycle is complete (R604). -/
def mirComplete (s : State) : State :=
  if !s.mirrored || s.lnd.mirDone || !(s.mirParts.all fun p => s.lnd.items.any fun m => m.part == p && bit m.flags 2) then s
  else
    let s1 := s.each s.lnd.items fun m t => mirInstall m t
    let after := min 65535 ((s.now - s.trAt) / 256)
    let s2 := (s1.setF F.LND_MIR_MAX_NS after).setF F.LND_STAT_UNMIRRORED 0
    mirRaise (twlReplies (s2.withLnd fun x => { x with mirDone := true }))

/-- TR + MIR_DL without a complete mirror: own inputs (R605). -/
def mirDeadline (s : State) : State :=
  if !s.mirrored || s.lnd.mirDone || !s.cycRun || !s.tbs.started || decide (s.now ≤ s.trAt + s.getF F.LND_CFG_MIR_DL * 250 * 256) then s
  else
    let s1 := s.each s.lnd.copies.reverse fun c t => copyTake c.1 c.2.1 c.2.2.1 c.2.2.2 t
    let s2 := (((s1.note 11).setF F.LND_STAT_UNMIRRORED 1).flag F.LND_FLAG_MIRROR_LATE).incF F.LND_CNT_UNMIR
    mirRaise (twlReplies (s2.withLnd fun x => { x with mirDone := true }) |>.post 0x0C07 12 0 0x0C08 s.tbs.k)

/-! ### Twill in a pair (R607 to R609) -/

/-- Byte 47 of SYNC: PAIRED, sent by the standby (R501, R527). -/
def State.pairByte (s : State) (b : Nat) : Nat := b2n (s.getB F.TWL_CFG_PAIRED b) + b2n (s.role == Role.STANDBY) * 2

/-- Put the standby's TTX, PAIR and DIR into streamed bytes (R607). -/
def relayBytes (b type : Nat) (bytes : List Byte) (s : State) : List Byte :=
  let head := leBytes (type + 16) 1 ++ (bytes.take 6).drop 1
  let body := bytes.drop 6
  let body1 := if type = 1 ∨ type = 2 then leBytes (s.ttx b 1) 9 ++ body.drop 9 else body
  let body2 := if type = 1 then body1.take 40 ++ leBytes (s.pairByte b) 1 else body1
  head ++ body2

/-- A frame of the standby is on its way: its transmit time, that it has left. -/
def relaySent (b type : Nat) (s : State) : State :=
  let x := s.br b
  s.setBr b { x with ttx := mapSet (fun _ => 0) x.ttx (2 * type + 1) (s.ttx b 1), sent := listIns x.sent type }

/-- A STREAM frame (R591, R607). -/
def streamTake (p : List Byte) (s : State) : State :=
  let b := leAt p 0 1 % 8
  let type := leAt p 1 1
  let bytes := (p.drop 16).take (leAt p 2 2)
  if !s.mirrored || s.lnd.streams.contains (b, type) then s
  else
    let s1 := relaySent b type (s.withLnd fun x => { x with streams := (b, type) :: x.streams })
    let n := s.gateSymbols b type
    if n ≤ 17 then s1 else s1.emit (.twill b 1 ((withFcs (relayBytes b type bytes s)).take (n - 17)))

/-- The active streams a frame as its gate opens (R591, R607). -/
def streamSend (b type : Nat) (s : State) : State :=
  if !s.leads then s
  else
    let bytes := frameBytes b type 0 (bodyOf b type 0 (s.pairByte b) s) s
    lndSend 4 s.tbs.k (pad16 (leBytes b 1 ++ leBytes type 1 ++ leBytes bytes.length 2 ++ leBytes 0 12 ++ bytes)) s

/-- A scheduled Twill frame in a pair: the active streams it, the standby sends SAFE alone (R501, R607). -/
def pairSend (b type : Nat) (s : State) : State :=
  if s.mirrored && type != 3 then s
  else
    let t := twlSend b type (s.pairByte b) s
    if s.sendDue b type && type != 3 then streamSend b type t else t

/-- 60 ns after a gate opening without a stream: the standby composes SYNC and POLL itself (R608). -/
def streamTimeout (b type : Nat) (s : State) : State :=
  if !s.mirrored || (type != 1 && type != 2) || s.lnd.streams.contains (b, type) || !s.sendDue b type || decide (s.now ≤ s.gateAt b type + 60 * 256) then s
  else twlSend b type (s.pairByte b) (s.withLnd fun x => { x with streams := (b, type) :: x.streams })

/-- A returning SYNC copy shows who commands (R617, R619). -/
def commanderSeen (b : Nat) (bytes : List Byte) (s : State) : State :=
  let pair := leAt bytes 46 1
  let dir := leAt bytes 0 1 / 16 % 2
  let other := s.role == Role.STANDBY || dir == 1 - s.getF F.TWL_CFG_END b
  if leAt bytes 0 1 % 16 = 1 ∧ bit pair 0 ∧ !bit pair 1 ∧ other then s.withLnd fun x => { x with seen := true } else s

/-- A service response that the active has taken goes to the standby (R590, R603). -/
def svcTell (b port : Nat) (bytes : List Byte) (was s : State) : State :=
  if s.leads ∧ leAt bytes 0 1 % 16 = 5 ∧ (was.br b).svc ≠ (s.br b).svc then
    lndSend 3 s.tbs.k (mirBytes { part := 2, inst := b, node := (was.br b).svc.elim 0 (·.node), flags := 5 + b2n (port == 1) * 2,
                                  data := (bytes.drop 39).take 36 }) s
  else s

/-- What changes a branch's state on the active goes to the standby (R527, R593). -/
def branchTell (b before : Nat) (s : State) : State :=
  if s.leads ∧ s.brSt b ≠ before then roleSend 5 0 s.tbs.k (leBytes b 1 ++ leBytes (s.brSt b) 1) s else s

/-- A returning Twill copy at this unit's port: its echo, and its use (R609, R617). -/
def pairCopy (b port raw : Nat) (all : List Byte) (s : State) : State :=
  let type := leAt all 0 1 % 16
  let bytes := all.take (all.length - 4)
  let fcs := leAt all (all.length - 4) 4 == crc32c 0xFFFFFFFF bytes
  let time := s.stamp raw - (if port = 0 then s.getF F.TWL_DLY_A_RXD b else s.getF F.TWL_DLY_B_RXD b)
  let s0 := if fcs ∧ s.role ≠ Role.SINGLE then commanderSeen b bytes s else s
  let echo := s.pairRun && s.brSt b != BrSt.OFF && (type == 1 || type == 2)
  let s1 := if echo then lndSend 5 s.tbs.k (pad16 (leBytes b 1 ++ leBytes type 1 ++ leBytes (b2n (port == 1) + b2n (s.inWindow b port type time) * 2
      + b2n fcs * 4) 1 ++ leBytes 0 1 ++ leBytes bytes.length 2 ++ leBytes 0 2 ++ leBytes time 9 ++ leBytes 0 15 ++ bytes)) s0 else s0
  if s.mirrored && type == 2 then
    let s2 := portSeen b port s1
    if s.inWindow b port type time then s2.withLnd fun x => { x with copies := (b, port, time, bytes) :: x.copies } else outOfWindow b s2
  else svcTell b port bytes s1 (copyReceive b port raw all s1)

/-- An ECHO frame at the active (R591, R609). -/
def echoTake (p : List Byte) (s : State) : State :=
  let b := leAt p 0 1 % 8
  let type := leAt p 1 1
  let f := leAt p 2 1
  let port := f % 2
  let bytes := (p.drop 32).take (leAt p 4 2)
  if s.role ≠ Role.ACTIVE ∨ !s.pairRun ∨ s.brSt b = BrSt.OFF then s
  else
    let s1 := portSeen b port s
    if type = 1 then (if bit f 2 && s.headerOk b bytes then syncTake b port (leAt p 8 9) bytes s1 else s1)
    else if !bit f 1 then outOfWindow b s1
    else if bytes.length = 6 + s.payloadNow b type ∧ (s.br b).sent.contains type then copyTake b port (leAt p 8 9) bytes s1 else s1

/-! ### Digests (R614) -/

/-- The digest of the unit's outputs. -/
def digestOf (s : State) : List Byte :=
  let k := s.tbs.k
  let br := (List.range 8).flatMap fun b => leBytes (if s.brSt b = BrSt.RUN then crc32c 0xFFFFFFFF (bodyOf b 4 0 0 s) else 0) 4
  let sc := (List.range 8).flatMap fun g => leBytes (s.getF F.TRJ_SCALE_V g) 3
  let fa := (List.range 8).flatMap fun g => leBytes (if s.sepLast k then (mapGet (fun _ => (0, 0)) s.sep.facNext g).1 else 0) 3
  leBytes k 8 ++ br ++ sc ++ fa ++ (List.range 8).flatMap fun g => leBytes (s.gSt g) 1

/-- The differing fields, as DETAIL shows them (R627). -/
def digestDiff (a b : List Byte) : Nat :=
  let d (at_ n g sh : Nat) : Nat := if leAt a (at_ + n * g) n = leAt b (at_ + n * g) n then 0 else 2 ^ (sh + g)
  (List.range 8).foldl (fun m g => m + d 8 4 g 0 + d 40 3 g 8 + d 64 3 g 16 + d 88 1 g 24) 0

/-- Compare the digests of a cycle once both are there (R595, R614). -/
def digestCompare (k : Nat) (s : State) : State :=
  match s.lnd.own.find? (fun x => x.1 == k), s.lnd.theirs.find? (fun x => x.1 == k) with
  | some a, some b =>
    if s.pst ≠ PSt.SHADOW ∧ s.pst ≠ PSt.READY then s
    else
      let d := digestDiff a.2 b.2
      if d = 0 then shadowCheck (s.withLnd fun x => { x with clean := x.clean + 1, mismHb := false })
      else
        let s1 := ((s.flag F.LND_FLAG_MISMATCH).incF F.LND_CNT_MISMATCH).post 0x0C03 12 0 0x0C05 (d + k % 2 ^ 32 * 2 ^ 32)
        let s2 := s1.withLnd fun x => { x with clean := 0, mismHb := true }
        if s.pst = PSt.READY then s2.withLnd fun x => { x with mism := some k }
        else if s.lnd.restarts = 0 then enterCopy ((s2.withLnd fun x => { x with restarts := 1 }).flag F.LND_FLAG_COPY_RESTART)
        else s2.withLnd fun x => { x with plan := some (if s.role = Role.STANDBY then .fail 4 else .alone false) }
  | _, _ => s

/-- At TC the unit forms and sends its digest (R614). -/
def digestSend (s : State) : State :=
  if !s.pairRun || !s.getB F.LND_STAT_PARTNER then s
  else
    let d := digestOf s
    let s1 := s.withLnd fun x => { x with own := ((s.tbs.k, d) :: x.own).take 3 }
    digestCompare s.tbs.k (lndSend 6 s.tbs.k d s1)

/-- T0 + 1 us without the partner's digest of the cycle before (R614). -/
def digestTimeout (s : State) : State :=
  if (s.pst = PSt.SHADOW ∨ s.pst = PSt.READY) ∧ s.getB F.LND_STAT_PARTNER ∧ s.tbs.started ∧ s.tbs.t0 * 256 + 256000 < s.now
      ∧ (s.lnd.theirs.find? fun x => x.1 + 1 == s.tbs.k) = none then s.flag F.LND_FLAG_DIGEST_MISS
  else s

/-! ### Heartbeats, arbitration, promotion (R615 to R619) -/

/-- The health report of the present cycle. -/
def hbBody (s : State) : List Byte :=
  leBytes s.tbs.k 8 ++ leBytes (s.role + s.pst * 4 + b2n s.lnd.mismHb * 32) 1 ++ leBytes 0 1 ++ leBytes s.lnd.faultHb 2
  ++ leBytes s.lnd.passes 4 ++ leBytes (s.getF F.LND_DIGEST_DIGEST) 4 ++ leBytes (s.getF F.SAF_CHK_CHK) 4 ++ leBytes s.dUid 8
  ++ leBytes (s.getF F.HST_ECC_CORR_CNT_V - s.lnd.corrBase) 4 ++ leBytes 0 28

/-- At T0: a new cycle of the pair, and the health report (R603, R615). -/
def pairT0 (s : State) : State :=
  let s1 := s.withLnd fun x => { x with
    faultHb := x.fault, fault := 0, raised := 0, sentParts := [], items := [], mirDone := false, copies := [], streams := [], seen := false,
    hbCyc := none, trCyc := none }
  if s.pst = PSt.OFF then s1 else lndSend 1 s.tbs.k (hbBody s1) s1

/-- The partner's report of the present cycle; one that has been found absent stays so (R617). -/
def State.hbNow (s : State) : Option Hb :=
  if s.lnd.hbCyc = some s.tbs.k ∧ s.lnd.hbGone ≠ 0 then none else s.lnd.hbs.find? fun h => h.k == s.tbs.k

/-- An HB frame arrives (R595, R602, R615). -/
def hbTake (b : List Byte) (s : State) : State :=
  let h : Hb := { k := leAt b 0 8, role := leAt b 8 1 % 4, pstate := leAt b 8 1 / 4 % 8, mism := bit (leAt b 8 1) 5, fault := leAt b 10 2, uid := leAt b 24 8 }
  let s1 := (s.withLnd fun x => { x with hbs := (h :: x.hbs).take 4 }).setF F.LND_PDIGEST_DIGEST (leAt b 16 4)
  if s.pst = PSt.OFF ∨ s.pst = PSt.JOIN then s1
  else
    let in_ := decide (PSt.COPY ≤ h.pstate) && decide (h.pstate ≤ PSt.READY)
    if s.role ≠ Role.ACTIVE then s1.setF F.LND_STAT_PARTNER (b2n in_)
    else if !in_ then s1.setF F.LND_STAT_PARTNER 0
    else
      let back := !s.getB F.LND_STAT_PARTNER
      let s2 := s1.setF F.LND_STAT_PARTNER 1
      if back ∧ h.pstate = PSt.COPY then enterCopy s2
      else if (s.pst = PSt.COPY ∧ h.pstate = PSt.SHADOW) ∨ (s.pst = PSt.SHADOW ∧ h.pstate = PSt.READY) then enterPst h.pstate s2
      else s2

/-- At T0 + HB_DL the report of the cycle is judged (R595, R617); an active without it in two cycles has lost its partner (DEDUCED,
log 80). -/
def hbDeadline (s : State) : State :=
  if s.pst < PSt.COPY ∨ !s.tbs.started ∨ !s.cycRun ∨ s.now ≤ s.tbs.t0 * 256 + s.getF F.LND_CFG_HB_DL * 256000 ∨ s.lnd.hbCyc = some s.tbs.k then s
  else
    let s0 := s.withLnd fun x => { x with hbCyc := some s.tbs.k }
    match s.hbNow with
    | some h =>
      let n := s.lnd.hbBack + 1
      let s1 := (s0.withLnd fun x => { x with hbGone := 0, hbBack := n }).setF F.LND_STAT_HB_OK 1
      if s.pst = PSt.ISOLATED ∧ 8 ≤ n ∧ h.role = Role.ACTIVE ∧ s.pairLink then
        enterCopy ((s1.setF F.LND_STAT_ROLE Role.STANDBY).withTwl fun t => { t with shut := false })
      else s1
    | none =>
      let s1 := ((s0.withLnd fun x => { x with hbGone := x.hbGone + 1, hbBack := 0 }).setF F.LND_STAT_HB_OK 0).flag F.LND_FLAG_HB_LOST
      if s.role = Role.ACTIVE ∧ 1 ≤ s.lnd.hbGone then s1.setF F.LND_STAT_PARTNER 0 else s1

/-- The decision on a mismatch of the cycle before (R616). -/
def arbitrate (s : State) : PairPlan :=
  let standby := s.role == Role.STANDBY
  let div := s.getB F.LND_CFG_DIV_STOP
  match s.hbNow with
  | none => if standby then .fail 2 else .alone false
  | some h =>
    let mine := s.lnd.faultHb != 0
    let theirs := h.fault != 0
    let act := if standby then theirs else mine
    let sby := if standby then mine else theirs
    if act && !sby then (if standby then .promote else .fail 1)
    else if sby then (if standby then .fail 1 else .alone act)
    else if standby then .fail 2 else .alone div

/-- At TR: who commands, promotion, isolation, demotion, arbitration; the effect follows at TC (R616 to R619, R623). -/
def pairTr (s : State) : State :=
  if s.pst < PSt.COPY ∨ s.lnd.trCyc = some s.tbs.k then s
  else
    let s1 := s.withLnd fun x => { x with trCyc := some s.tbs.k, gone := if x.seen then 0 else x.gone + 1, here := if x.seen then x.here + 1 else 0 }
    let x := s1.lnd
    let plan : Option PairPlan :=
      if s.role = Role.STANDBY ∧ s.mirrored ∧ 2 ≤ x.hbGone then
        (if 2 ≤ x.gone then (if s.pst = PSt.READY then some .promote else x.plan) else some .isolate)
      else if s.role = Role.ACTIVE ∧ 2 ≤ x.hbGone ∧ 2 ≤ x.here ∧ x.since + 64 ≤ s.tbs.k then some (.fail 3)
      else match x.mism with
        | some m => if s.pst = PSt.READY ∧ m + 1 = s.tbs.k then some (arbitrate s1) else x.plan
        | none => x.plan
    s1.withLnd fun y => { y with plan := plan, mism := match y.mism with | some m => if m + 1 ≤ s.tbs.k then none else some m | none => none }

/-- A unit leaves service with its gates closed (R594, R596). -/
def gatesShut (s : State) : State := s.withTwl fun t => { t with shut := true }

/-- A role change at a TC (R618, R622). -/
def takeRole (role : Nat) (s : State) : State :=
  (s.setF F.LND_STAT_ROLE role).setF F.LND_PROM_AT_CYC s.tbs.k |>.withLnd fun x =>
    { x with since := s.tbs.k, hbGone := 0, gone := 0, here := 0, mism := none, clean := 0 }

/-- The engine edge that observes TC: the plan takes effect (R596, R616, R618, R619, R622). -/
def pairPlanTake (s : State) : State :=
  match s.lnd.plan with
  | none => s
  | some p =>
    let s1 := s.withLnd fun x => { x with plan := none }
    match p with
    | .fail r => enterPst PSt.FAILED (((gatesShut ((s1.setF F.LND_STAT_ROLE Role.STANDBY).setF F.LND_STAT_PARTNER 0)).flag F.LND_FLAG_FAILED).setF
        F.LND_FAIL_FAIL r |>.post 0x0C05 12 0 0x0C06 r)
    | .promote => enterPst PSt.READY (((takeRole Role.ACTIVE s1).setF F.LND_STAT_PARTNER 0).flag F.LND_FLAG_PROMOTED |>.post 0x0C04 12 0 EC.OK s.tbs.k)
    | .isolate => enterPst PSt.ISOLATED ((gatesShut (s1.setF F.LND_STAT_PARTNER 0)).flag F.LND_FLAG_ISOLATED |>.post 0x0C06 12 0 0x0C07 s.tbs.k)
    | .swap =>
      if s.role = Role.STANDBY then enterPst PSt.READY ((takeRole Role.ACTIVE s1).flag F.LND_FLAG_PROMOTED |>.post 0x0C04 12 0 EC.OK s.tbs.k)
      else enterPst PSt.READY (takeRole Role.STANDBY s1)
    | .alone stop =>
      let s2 := s1.setF F.LND_STAT_PARTNER 0
      if stop then requestStop Req.pair allGroups s2 else s2

/-- At TC of a pair (R602, R614, R616). -/
def pairTc (s : State) : State := copySend (digestSend (pairPlanTake s))

/-! ### Reception (R588, R591 to R593) -/

/-- A ROLE item arrives (R593); one for a cycle already begun takes effect with the next T0, a branch state at once. -/
def roleTake (p : List Byte) (s : State) : State :=
  let r : RoleItem := { item := leAt p 0 1, ring := leAt p 1 1 % 64, cyc := leAt p 8 8, data := (p.drop 16).take (leAt p 4 4) }
  if r.item = 3 then
    let t0 := leAt r.data 0 8 * s.period + s.getF F.TBS_CYC_PHASE_V
    if s.cycRun then s else startCycle (s.setF F.TBS_CYC_START_V (t0 * 256))
  else if r.item = 5 ∧ s.tbs.started ∧ r.cyc ≤ s.tbs.k then enterBr (leAt r.data 0 1 % 8) (leAt r.data 1 1) false false s
  else s.withLnd fun x => { x with role := x.role ++ [r] }

/-- A LINK frame at a lane; a request is answered on it (R585, R589). -/
def laneLink (l raw : Nat) (b : List Byte) (s : State) : State :=
  let p := 4 + l
  if s.linkSt p < LinkSt.LOCK ∨ !linkValid b then s
  else
    let time := s.stamp raw - s.rxd p
    let s1 := linkHeard p time b s
    let s2 := if leAt b 0 1 = 1 ∧ LinkSt.LOCK ≤ s1.linkSt p then
        (lndSeq s1).emit (.lnd l (lndHeader 0 s.tbs.k 64 s.lnd.lseq) (withTx (linkBody 2 p (leAt b 4 4) time 0 s.dUid s1) (s.now + s.txd p)))
      else s1
    laneFollow s2

/-- A lane's LINK request once a millisecond (R537, R585). -/
def laneSend (l : Nat) (s : State) : State :=
  let p := 4 + l
  let x := s.link p
  if s.linkSt p < LinkSt.LOCK ∨ (x.sent ≠ 0 ∧ s.now < x.sent + 1000000 * 256) then s
  else
    let s1 := linkSent p (s.now + s.txd p) (s.setLink p { x with sent := s.now, reqNo := (x.reqNo + 1) % 2 ^ 32 })
    (lndSeq s1).emit (.lnd l (lndHeader 0 s.tbs.k 64 s.lnd.lseq) (withTx (linkBody 1 p (s1.link p).reqNo 0 0 s.dUid s1) (s.now + s.txd p)))

/-- What a good frame does, by its KIND. -/
def laendTake (l raw kind cyc : Nat) (p : List Byte) (item : Option StateMsg) (s : State) : State :=
  match kind with
  | 1 => if p.length = 64 then hbTake p s else s
  | 2 => if s.paired then timeReceive 4096 (4 + l) 0 raw (s.stamp raw - s.rxd (4 + l)) (s.ldly (4 + l)) (s.ldlyOk (4 + l)) p s else s
  | 3 =>
    let items := mirItems 2048 p
    if cyc ≠ s.tbs.k then s
    else if s.mirrored then
      let s1 := s.each (items.filter fun m => m.part == 2) fun m t => mirInstall m t
      mirComplete (s1.withLnd fun x => { x with items := x.items ++ items.filter fun m => m.part != 2 })
    else if s.role = Role.ACTIVE then s.each (items.filter fun m => m.part == 6) fun m t => takeDemands m.data t
    else s
  | 4 => streamTake p s
  | 5 => echoTake p s
  | 6 => if p.length = 96 ∧ !(leAt p 0 8 + 1 ≤ s.tbs.k && s.tbs.t0 * 256 + 256000 < s.now) then digestCompare (leAt p 0 8) (s.withLnd fun x => { x with theirs := ((leAt p 0 8, p) :: x.theirs).take 3 }) else s
  | 7 => match item with
    | some m => if s.role = Role.STANDBY ∧ s.pst = PSt.COPY then shadowCheck (install m s) else s
    | none => s
  | 8 => if s.pst = PSt.OFF then s else roleTake p s
  | _ => s

/-- A copy of a Laend frame on a lane: raw time of its start, header, payload, the bits of its code blocks that have turned over,
the contents of a STATE frame's item (R44, R539, R540, R588). -/
def laendReceive (l raw : Nat) (h sent : List Byte) (flips : List ByteFlip) (item : Option StateMsg) (s : State) : State :=
  if s.linkSt (4 + l) < LinkSt.LOCK then s
  else
    let r := eccPayload sent flips
    let p := r.1
    let corr := r.2.1
    let bad := r.2.2
    let kind := leAt h 0 1
    let seq := leAt h 11 2
    let s1 := (s.each corr fun c t => eccRecord false seq c.1 c.2 4 t).each bad fun b t => eccRecord true seq b 31 4 (t.incF F.LND_L_CNT_UNC l)
    let good := lndHeaderGood h && bad.isEmpty && (p.length == leAt h 9 2 || kind == 7)
    if good && kind == 0 then laneLink l raw p s1
    else if s.linkSt (4 + l) ≠ LinkSt.UP then s1
    else if good then
      if s.lnd.taken.contains seq then s1
      else laendTake l raw kind (leAt h 1 8) p item (s1.withLnd fun x => { x with taken := (seq :: x.taken).take 256, failed := x.failed.filter fun f => f.2 != seq })
    else if s.lnd.taken.contains seq then s1
    else if s.lnd.failed.any (fun f => f.2 == seq && f.1 != l) || s.linkSt (4 + (1 - l)) != LinkSt.UP then
      (s1.withLnd fun x => { x with failed := x.failed.filter fun f => f.2 != seq }).incF F.LND_L_CNT_LOST l
    else s1.withLnd fun x => { x with failed := ((l, seq) :: x.failed).take 64 }

/-- The active's TIME frame of a round (R600). -/
def laendTime (r : Nat) (s : State) : State :=
  if s.role ≠ Role.ACTIVE ∨ s.pst = PSt.OFF then s
  else (lndSeq s).each s.upLanes fun l t =>
    t.emit (.lnd l (lndHeader 2 t.tbs.k 80 s.lnd.lseq) (withTx (timeBody r t) (t.now + t.txd (4 + l))))

/-- The slot of a round: the TIME frame over Damask, and over Laend from the active of a pair (R562, R600). -/
def timeFrames (s : State) : State :=
  let r := s.slotRound
  if s.dmk.sync.sentR = some r ∨ s.now < r * s.syncInt + s.getF F.DMK_SYNC_CFG_SLOT * 10000 * 256 then s
  else (timeSend (laendTime r s)).withSync fun y => { y with sentR := some r }

/-- A self-test pass of a standby has ended; part 0: it passed (R621). -/
def selfTest (part : Nat) (s : State) : State :=
  if s.role ≠ Role.STANDBY ∨ (s.pst ≠ PSt.SHADOW ∧ s.pst ≠ PSt.READY) then s
  else
    let s1 := s.withLnd fun x => { x with passes := satInc (2 ^ 32 - 1) x.passes, passAt := s.now }
    if part = 0 then s1 else ((s1.note 7).flag F.LND_FLAG_SELFTEST).post 0x0C08 12 0 0x0C09 part

/-! ### Enable, disable, switchover, registers (R595, R622, R625) -/

/-- EN 0 to 1: lanes start, JOIN waits for the link (R585, R595). -/
def pairEnable (s : State) : State :=
  laneFollow (linkOpen 5 (linkOpen 4 (s.withLnd fun x => { x with armed := true })))

/-- EN 1 to 0 (R595, R596). -/
def pairDisable (s : State) : State :=
  let stop := s.pst != PSt.OFF && s.role == Role.STANDBY
  let s1 := linkEnter 5 LinkSt.OFF false (linkEnter 4 LinkSt.OFF false s)
  let s2 := (s1.setF F.LND_STAT_ROLE Role.SINGLE).setF F.LND_STAT_PARTNER 0
  let s3 := s2.withLnd fun x => { x with armed := false, plan := none, leaving := stop && s.cycRun, role := [] }
  let s4 := if s.pst = PSt.OFF then s3 else enterPst PSt.OFF s3
  if !stop then s4.withTwl fun t => { t with shut := false }
  else
    let s5 := s4.each (List.range 8) fun g t => enterGs g GS.STO t
    if s.cycRun then (gatesShut s5).withTbs fun t => { t with stopping := true } else s5.withTwl fun t => { t with shut := false }

/-- The cell cycle has stopped (R596). -/
def pairCycleEnd (s : State) : State :=
  if s.lnd.leaving then (s.withLnd fun x => { x with leaving := false }).withTwl fun t => { t with shut := false } else s

/-- The checks of SWITCHOVER (R622). -/
def lndCmdCodes (cmd : Nat) (b : BlockArgs) (s : State) : List Nat :=
  if cmd ≠ 1 then [EC.BAD_FIELD]
  else argZero b.arg0 ++ argZero b.arg1 ++ argZero b.arg2 ++ chk (b.ptr != 0 || b.len != 0) EC.BAD_FIELD ++ chk s.standby 0x0C01
    ++ chk (s.pst != PSt.READY || !s.getB F.LND_STAT_PARTNER) EC.STATE

/-- At the TC before it takes effect the roles change (R622); a mismatch of the previous cycle refuses it (R623). -/
def switchPlan (s : State) : State :=
  if s.lnd.mism.isSome then s else s.withLnd fun x => { x with plan := some .swap }

/-- The checks of a write of v over old to a pair register. -/
def lndCodes (base v old : Nat) (s : State) : List Nat :=
  let en := s.getB F.LND_CTL_EN
  if base = R.LND_CFG then
    let hb := bits v 8 8
    let mir := bits v 16 8
    chk (bits v 4 2 == 3) EC.BAD_FIELD ++ chk (en && bits v 4 2 != bits old 4 2) EC.STATE
    ++ chk (hb == 0 || decide (25 < hb) || decide (s.getF F.TBS_TR_V < hb * 8000) || mir == 0 || decide (80 < mir)
        || decide ((s.tcNs - 4000) * 8 < s.getF F.TBS_TR_V + mir * 2000)) EC.RANGE
  else if base = R.LND_SHADOW then chk (decide (v % 2 ^ 16 < 64)) EC.RANGE
  else if base = R.LND_L_DLY then chk en EC.STATE
  else []

end Sys2Proof.Machine
end

