-- ==== Sys2Proof/Machine/Acq.lean ====
section
/-! DEFINITION. Acquisition units (R628 to R653): sources, samples, trigger conditions, the life of a record, its header, measurements and stream, START, STOP and FORCE. -/

namespace Sys2Proof.Machine

def State.withAcq (s : State) (f : Acq → Acq) : State := { s with acq := f s.acq }
def State.au (s : State) (u : Nat) : AcqUnit := mapGet (fun _ => AcqUnit.reset) s.acq.units u
def State.setAu (s : State) (u : Nat) (x : AcqUnit) : State :=
  s.withAcq fun a => { a with units := mapSet (fun _ => AcqUnit.reset) a.units u x }
def State.modAu (s : State) (u : Nat) (f : AcqUnit → AcqUnit) : State := s.setAu u (f (s.au u))
def AcqUnit.cond (x : AcqUnit) (i : Nat) : AcqCond := mapGet (fun _ => AcqCond.reset) x.conds i
def AcqUnit.setCond (x : AcqUnit) (i : Nat) (c : AcqCond) : AcqUnit :=
  { x with conds := mapSet (fun _ => AcqCond.reset) x.conds i c }

namespace AcqSt
def IDLE : Nat := 0
def FILL : Nat := 1
def ARMED : Nat := 2
def POST : Nat := 3
def DONE : Nat := 4
end AcqSt

def State.aSt (s : State) (u : Nat) : Nat := s.getF F.ACQ_STAT_STATE u
/-- FILL, ARMED or POST. -/
def State.aBusy (s : State) (u : Nat) : Bool := decide (1 ≤ s.aSt u) && decide (s.aSt u ≤ 3)
def State.aShed (s : State) : Bool := s.getB F.ACQ_G_STAT_SHED
def State.aNch (s : State) (u : Nat) : Nat := s.getF F.ACQ_CFG_NCH u + 1
/-- Words of a sample, and the samples the ring holds (R640). -/
def State.aSw (s : State) (u : Nat) : Nat := 1 + s.aNch u
def State.aCap (s : State) (u : Nat) : Nat := (s.getF F.ACQ_BUF_LEN_LEN u - 32) / s.aSw u
/-- Condition i of unit u takes part. -/
def State.condOn (s : State) (u i : Nat) : Bool := s.getB F.ACQ_TC_CTL_EN u i && s.getF F.ACQ_TC_CTL_KIND u i != 0

/-! ### Sources (R628, R629) -/

/-- The INST and FIELD of a source are inside the columns of R628. -/
def sourceLegal (src inst field : Nat) : Bool :=
  let f0 := field == 0
  match src with
  | 0 => true
  | 1 | 2 => decide (inst < 32) && f0
  | 3 => decide (inst < 128) && f0
  | 4 => decide (inst < 16) && f0
  | 5 => decide (inst < 128) && decide (field < 10)
  | 6 | 7 | 8 => decide (inst < 128) && f0
  | 9 => decide (field < 4)
  | 10 | 11 => decide (inst < 8) && f0
  | 12 => decide (inst < 16) && f0
  | 13 => decide (inst < 72) && f0
  | 14 => decide (inst < 64) && decide (field < 8)
  | 15 => true
  | 16 => decide (inst < 16) && f0
  | 17 => decide (inst < 64) && f0
  | _ => false

/-- The applied scale of a group in a record of DMK_PEER: slice byte 16 + 3 g, in words 1 to 8 of the record (R559, R560). -/
def State.peerScale (s : State) (r g : Nat) : Nat :=
  let byte (b : Nat) : Nat := s.tb 0x0B06 r (1 + b / 8) (8 * (b % 8)) 8
  byte (16 + 3 * g) + byte (17 + 3 * g) * 2 ^ 8 + byte (18 + 3 * g) * 2 ^ 16

/-- The value of a source; none where it is invalid (R629). -/
def State.acqSource (s : State) (src inst field : Nat) : Option Int :=
  match src with
  | 0 => some 0
  | 1 => s.fbkIn inst F.FBK_POS_V
  | 2 => s.fbkIn inst F.FBK_SPEED_V
  | 3 => mapGet (fun _ => none) s.adc.store inst
  | 4 => some (s.getF F.ADC_RESULT_CODE inst : Int)
  | 5 => if (s.slot inst).valid then some (slotField (s.slot inst) field).1 else none
  | 6 => if s.posInvalid inst then none else some (s.measPos inst)
  | 7 => some (s.getS F.AX_SP_V inst)
  | 8 => some (s.getS F.AX_SPD_V inst)
  | 9 => let u := s.lawOut inst; if u.2.2 then some (u.1.getD field 0) else none
  | 10 => some (s.scale inst : Int)
  | 11 => some ((mapGet (fun _ => (0, 2 ^ 24 - 1)) s.sep.fac inst).1 : Int)
  | 12 => some (s.getS F.SEP_A_D_D inst)
  | 13 => some (s.getF F.PWM_APPLIED_D inst : Int)
  | 14 => if s.tb 0x0B06 inst 0 12 1 == 1 then some (s.peerScale inst field : Int) else none
  | 15 =>
    let w := field * 2 ^ 8 + inst
    if s.poison.contains w then none else some (sx 72 (s.readWord w).toNat)
  | 16 => some (b2n (s.cmpo inst) : Int)
  | _ => some (b2n (s.trj.gpi.getLsbD inst) : Int)

/-- The values of the channels of a unit. -/
def State.acqValues (s : State) (u : Nat) : List (Option Int) :=
  (List.range (s.aNch u)).map fun c =>
    s.acqSource (s.getF F.ACQ_CH_SEL_SRC u c) (s.getF F.ACQ_CH_SEL_INST u c) (s.getF F.ACQ_CH_SEL_FIELD u c)

/-- The INV bits of a sample (R629). -/
def invMask (vs : List (Option Int)) : Nat :=
  (List.range vs.length).foldl (fun m c => if (vs.getD c none).isNone then m + 2 ^ c else m) 0

/-- Sample time in T72, a multiple of 1/16 ns: TS in SMODE 0, on the grid in SMODE 1 (R631). -/
def State.sampleTime (s : State) (u edge : Nat) : Nat :=
  if s.getB F.ACQ_CFG_SMODE u then
    (16 * ((s.acq.t0 * 16 : Nat) + (edge * 20 * (2 ^ 40 + s.acq.rate)) / 2 ^ 40 + 70)).toNat
  else s.tsAt / 16 * 16

/-- The sample edge of a unit has come and has not been taken: TC of the cycle in SMODE 0, engine edge n of the grid in
SMODE 1 (R631). -/
def State.sampleDue (s : State) (u edge : Nat) : Bool :=
  s.aBusy u &&
    (if s.getB F.ACQ_CFG_SMODE u then
      edge % max 1 (s.getF F.ACQ_SPER_SPER u) == 0 && decide ((s.au u).nextEdge ≤ edge) && decide (s.acq.t0 * 256 + edge * 320 ≤ s.now)
        && decide (edge * 5 < (if s.cycRun then s.period else 31250) * 4)
    else s.cycRun && s.tbs.started && s.tbs.tcDone && (s.au u).lastCyc != some s.tbs.k)

/-! ### Conditions (R633 to R635) -/

/-- W meets REL (R634). -/
def relMet (rel ta tb w : Nat) : Bool :=
  match rel with
  | 0 => true
  | 1 => decide (w < ta)
  | 2 => decide (ta < w)
  | 3 => decide (ta ≤ w) && decide (w ≤ tb)
  | _ => decide (w < ta) || decide (tb < w)

/-- The side after a sample; with x at both thresholds it is HIGH (log 41). -/
def newSide (side x lo hi : Int) : Int := if hi ≤ x then 1 else if x ≤ lo then -1 else side

/-- The W that a RUNT (slew false) or SLEW condition fires with at a sample, for POL 0 (R634). -/
def pulseFires (slew : Bool) (c : AcqCond) (x lo hi : Int) (n : Nat) : Option Nat :=
  if hi ≤ x then (if slew then c.low.map (n - ·) else none)
  else if x ≤ lo ∧ !slew then c.beyond.map (n - ·) else none

/-- The marks of a RUNT or SLEW condition after a sample, for POL 0. -/
def pulseNext (c : AcqCond) (x lo hi : Int) (n : Nat) : AcqCond :=
  if hi ≤ x then { c with low := none, beyond := none }
  else if x ≤ lo then { c with low := some n, beyond := none }
  else { c with beyond := if c.low.isSome && c.beyond.isNone then some n else c.beyond }

/-- One condition at sample n with value x: its next state, and the W it fires with. -/
def condStep (kind pol rel ta tb : Nat) (lo hi : Int) (n : Nat) (x : Option Int) (c : AcqCond) : AcqCond × Option Nat :=
  match x with
  | none => (c, none)
  | some x =>
    let side := newSide c.side x lo hi
    let moved := side != c.side
    let c1 : AcqCond := if moved then { c with side := side, since := n, fired := false } else c
    let active : Int := if pol = 0 then 1 else -1
    match kind with
    | 1 => (c1, if moved ∧ c.side ≠ 0 ∧ (pol = 2 ∨ side = active) then some 0 else none)
    | 2 => (c1, if moved ∧ c.side = active ∧ relMet rel ta tb (n - c.since) then some (n - c.since) else none)
    | 4 =>
      if c1.side ≠ 0 ∧ c1.fired = false ∧ (pol = 2 ∨ c1.side = active) ∧ ta ≤ n - c1.since then ({ c1 with fired := true }, some ta)
      else (c1, none)
    | 3 | 5 =>
      let m : Bool := pol == 1
      let x1 := if m then -x else x
      let lo1 := if m then -hi else lo
      let hi1 := if m then -lo else hi
      (pulseNext c1 x1 lo1 hi1 n, (pulseFires (kind == 5) c1 x1 lo1 hi1 n).filter fun w => relMet rel ta tb w)
    | _ => (c1, none)

/-- All conditions of unit u at a sample: their states, and index and W of those that come true. -/
def condsStep (u : Nat) (vs : List (Option Int)) (s : State) : AcqUnit × List (Nat × Nat) :=
  ((List.range 4).filter (s.condOn u)).foldl (fun r i =>
    let c := r.1.cond i
    let kind := s.getF F.ACQ_TC_CTL_KIND u i
    if kind = 6 then (if c.ext then (r.1.setCond i { c with ext := false }, r.2 ++ [(i, 0)]) else r)
    else
      let q := condStep kind (s.getF F.ACQ_TC_CTL_POL u i) (s.getF F.ACQ_TC_CTL_REL u i) (s.getF F.ACQ_TC_TA_T u i)
        (s.getF F.ACQ_TC_TB_T u i) (s.getS F.ACQ_TC_LO_LEVEL u i) (s.getS F.ACQ_TC_HI_LEVEL u i) r.1.n
        (vs.getD (s.getF F.ACQ_TC_CTL_CH u i) none) c
      (r.1.setCond i q.1, match q.2 with | some w => r.2 ++ [(i, w)] | none => r.2)) (s.au u, [])

/-- The enabled EXT conditions of units that sample and name an event. -/
def State.extConds (s : State) (sel : Nat) : List (Nat × Nat) :=
  (List.range 8).flatMap fun u => if !s.aBusy u then [] else
    ((List.range 4).filter fun i => s.condOn u i && s.getF F.ACQ_TC_CTL_KIND u i == 6 && s.getF F.ACQ_TC_CTL_EXT_SEL u i == sel).map
      fun i => (u, i)

/-- An event is usable in the engine (R635). -/
def acqEvent (sel : Nat) (s : State) : State :=
  s.each (s.extConds sel) fun p t => t.modAu p.1 fun x => x.setCond p.2 { x.cond p.2 with ext := true }

/-- Fires of compare units reach the conditions: those of SRC 1 at once, those of SRC 0 at T0 (R635). -/
def acqFires (t0 : Bool) (s : State) : State :=
  let now := s.trj.fired.filter fun c => t0 || s.getF F.TRJ_CMP_CTL_SRC c == 1
  (s.each now fun c t => acqEvent c t).withTrj fun r => { r with fired := r.fired.filter fun c => !now.contains c }

/-- Requests of PWM channels reach converters and conditions (R462, R476, R477, R635). -/
def pwmOffer (s : State) : State :=
  let s1 := s.pwm.reqs.foldl (fun t n => acqEvent (32 + n) t) (adcRequests s)
  { s1 with pwm := { s1.pwm with reqs := [] } }

/-! ### Samples in the ring -/

/-- The words of a sample (R630). -/
def sampleWords (stamp : Nat) (vs : List (Option Int)) : List W72 :=
  BitVec.ofNat 72 stamp :: vs.map fun v => BitVec.ofNat 72 (toBits 72 (v.getD 0))

/-- The word address of stored sample m of a unit (R640). -/
def State.sampleAddr (s : State) (u m : Nat) : Nat := s.getF F.ACQ_BUF_BASE_BASE u + 32 + m % max 1 (s.aCap u) * s.aSw u

/-- The values of stored sample m, read back from the ring. -/
def State.sampleVals (s : State) (u m : Nat) : List (Option Int) :=
  let w := s.sampleAddr u m
  let inv := (s.readWord w).toNat % 16
  (List.range (s.aNch u)).map fun c => if bit inv c then none else some (sx 72 (s.readWord (w + 1 + c)).toNat)

/-- Add one sample to the measurements (R643). -/
def measAdd (vs : List (Option Int)) (x : AcqUnit) : AcqUnit :=
  { x with meas := (List.range vs.length).foldl (fun m c => match vs.getD c none with
      | none => m
      | some v =>
        let o := mapGet (fun _ => (0, (0 : Int), (0 : Int), (0 : Int))) m c
        mapSet (fun _ => (0, (0 : Int), (0 : Int), (0 : Int))) m c
          (if o.1 = 0 then (1, v, v, v) else (o.1 + 1, o.2.1 + v, min o.2.2.1 v, max o.2.2.2 v))) x.meas }

/-- MIN, MAX and MEAN of a channel (R643). -/
def AcqUnit.measOf (x : AcqUnit) (c : Nat) : Int × Int × Int :=
  let o := mapGet (fun _ => (0, (0 : Int), (0 : Int), (0 : Int))) x.meas c
  (o.2.2.1, o.2.2.2, if o.1 = 0 then 0 else Int.tdiv o.2.1 (o.1 : Nat))

/-! ### Header and stream (R642, R644, R645) -/

/-- Header words 3 and 4. -/
def hdrWord3 (x : AcqUnit) : Nat := x.preN + x.postN % 2 ^ 32 * 2 ^ 32
def hdrWord4 (t : AcqTrig) : Nat := t.met + t.primary * 2 ^ 8 + t.dur % 2 ^ 32 * 2 ^ 32

/-- Bytes of a number, least significant first (R10). -/
def numBytes (v n : Nat) : List Byte := (List.range n).map fun i => BitVec.ofNat 8 (v / 2 ^ (8 * i))

/-- Samples of the record so far: those before the trigger sample, it, those after it. -/
def AcqUnit.length (x : AcqUnit) : Nat := x.preN + 1 + x.postN

/-- Copy a chunk of up to 64 samples into the host buffer: samples first, then the header (R644, R645).  The chunk leaves at
once (log 42). -/
def streamChunk (u : Nat) (last ended : Bool) (s : State) : State :=
  let x := s.au u
  match x.trig with
  | none => s
  | some t =>
    let cnt := min 64 (x.length - x.streamed)
    let first := t.at_ + x.streamed - x.preN
    let sw := s.aSw u
    let data := ((List.range cnt).flatMap fun i => s.readWords (s.sampleAddr u (first + i)) sw).flatMap fun w => numBytes w.toNat 9
    let size := 64 + (data.length + 63) / 64 * 64
    let hs := s.getF F.ACQ_HS_SIZE_SIZE u
    let ptr := s.getF F.ACQ_HS_PTR_PTR u
    let wrap := decide (hs < ptr + size)
    let at_ := if wrap then 0 else ptr
    let gap := x.gaps.any fun m => decide (first ≤ m) && (decide (m < first + cnt) || (last && m == first + cnt))
    let hdr := numBytes x.seq 8 ++ numBytes x.recNo 4 ++ numBytes (toBits 32 ((x.streamed : Int) - x.preN)) 4 ++ numBytes cnt 2
      ++ numBytes (b2n last + 2 * b2n gap + 4 * b2n ended) 1 ++ numBytes (s.aNch u) 1 ++ numBytes 0 4
      ++ numBytes (2 ^ 64 - 1 - x.seq % 2 ^ 64) 8
      ++ (if last then numBytes (hdrWord3 x) 9 ++ numBytes (hdrWord4 t) 9 ++ numBytes 0 14 else numBytes 0 32)
    let base := s.getF F.ACQ_HS_BASE_ADDR u
    let pad := List.replicate (size - 64 - data.length) (0 : Byte)
    let s1 := (s.emit (.dmaBytes (base + at_ + 64) (data ++ pad))).emit (.dmaBytes (base + at_) hdr)
    let s2 := s1.setAu u { x with streamed := x.streamed + cnt, seq := x.seq + 1 }
    ((s2.setF F.ACQ_HS_PTR_PTR (at_ + size) u).setF F.ACQ_HS_SEQ_SEQ (x.seq + 1) u).flagIf wrap F.ACQ_FLAG_HS_WRAP u

/-- Copy the whole chunks that are complete; rest also copies what remains, as the LAST chunk. -/
def streamRun (u : Nat) (rest ended : Bool) : Nat → State → State
  | 0, s => s
  | fuel + 1, s =>
    let left := (s.au u).length - (s.au u).streamed
    if rest ∧ left ≤ 64 then streamChunk u true ended s
    else if 64 ≤ left then streamRun u rest ended fuel (streamChunk u false ended s) else s

/-- Stream what the record has so far (R644). -/
def stream (u : Nat) (rest ended : Bool) (s : State) : State :=
  if s.getB F.ACQ_CFG_STREAM u ∧ (s.au u).trig.isSome then streamRun u rest ended 300 s else s

/-- The header of a record (R642); words 17 to 31 are 0. -/
def acqHeader (u : Nat) (t : AcqTrig) (shed stopped : Bool) (s : State) : List W72 :=
  let x := s.au u
  let short := decide (x.preN < s.getF F.ACQ_PRE_PRE u)
  let w0 := x.recNo + 2 ^ 32 + b2n short * 2 ^ 33 + b2n x.gap * 2 ^ 34 + b2n shed * 2 ^ 35 + b2n stopped * 2 ^ 36
    + b2n (s.getB F.ACQ_CFG_STREAM u) * 2 ^ 37
  let ms := (List.range 4).flatMap fun c => let m := x.measOf c; [toBits 72 m.1, toBits 72 m.2.1, toBits 72 m.2.2]
  ([w0, t.stamp, t.ring, hdrWord3 x, hdrWord4 t] ++ ms ++ List.replicate 15 0).map (BitVec.ofNat 72)

def setASt (u st : Nat) (s : State) : State := s.setF F.ACQ_STAT_STATE st u

/-- A record closes: header, measurements, the rest of its stream, flags and REC_DONE (R642 to R647). -/
def acqClose (u : Nat) (shed stopped : Bool) (s : State) : State :=
  let x := s.au u
  match x.trig with
  | none => setASt u AcqSt.IDLE (s.modAu u fun y => { y with stop := false })
  | some t =>
    let s1 := (s.modAu u fun y => { y with stop := false }).writeWords (s.getF F.ACQ_BUF_BASE_BASE u) (acqHeader u t shed stopped s)
    let s2 := s1.each (List.range 4) fun c r =>
      let m := x.measOf c
      ((r.setS F.ACQ_MIN_VALUE m.1 u c).setS F.ACQ_MAX_VALUE m.2.1 u c).setS F.ACQ_MEAN_VALUE m.2.2 u c
    let noval := (List.range (s.aNch u)).any fun c => (mapGet (fun _ => (0, (0 : Int), (0 : Int), (0 : Int))) x.meas c).1 == 0
    let s3 := stream u true (shed || stopped) s2
    let s4 := ((((s3.flag F.ACQ_FLAG_DONE u).flagIf (decide (x.preN < s.getF F.ACQ_PRE_PRE u)) F.ACQ_FLAG_SHORT u).flagIf x.gap
      F.ACQ_FLAG_GAP u).flagIf shed F.ACQ_FLAG_SHED u).flagIf stopped F.ACQ_FLAG_STOPPED u
    let s5 := (s4.flagIf noval F.ACQ_FLAG_NOVAL u).setF F.ACQ_G_FLAG_DONE (s4.getF F.ACQ_G_FLAG_DONE ||| 2 ^ u)
    (setASt u AcqSt.DONE s5).post 0x0D01 13 u EC.OK (x.recNo + t.met * 2 ^ 32 + 2 ^ 40)

/-- A unit ends by shedding (R647). -/
def acqShedEnd (u : Nat) (s : State) : State :=
  let r := (s.au u).recNo
  ((acqClose u true false s).flag F.ACQ_FLAG_SHED u).post 0x0D03 13 u 0x0D07 r

/-! ### START, STOP, FORCE (R636, R637, R639) -/

/-- The checks of one condition on START (R633 to R635, R651). -/
def condCodes (u i : Nat) (s : State) : List Nat :=
  let kind := s.getF F.ACQ_TC_CTL_KIND u i
  let pol := s.getF F.ACQ_TC_CTL_POL u i
  let rel := s.getF F.ACQ_TC_CTL_REL u i
  let ext := s.getF F.ACQ_TC_CTL_EXT_SEL u i
  if !s.getB F.ACQ_TC_CTL_EN u i then []
  else
    chk (pol == 2 && (kind == 2 || kind == 3 || kind == 5)) EC.BAD_FIELD
    ++ chk (decide (s.getS F.ACQ_TC_HI_LEVEL u i < s.getS F.ACQ_TC_LO_LEVEL u i)) EC.RANGE
    ++ chk ((rel == 3 || rel == 4) && decide (s.getF F.ACQ_TC_TB_T u i < s.getF F.ACQ_TC_TA_T u i)) EC.RANGE
    ++ chk (kind == 4 && s.getF F.ACQ_TC_TA_T u i == 0) EC.RANGE
    ++ chk (kind == 6 && (decide (112 ≤ ext) || ext == 104 + u)) EC.RANGE
    ++ chk (kind != 6 && decide (s.aNch u ≤ s.getF F.ACQ_TC_CTL_CH u i)) 0x0D03

/-- SPER is legal (R632). -/
def sperLegal (n : Nat) : Bool := decide (8 ≤ n) && 25000 % n == 0

/-- The checks of START for one unit (R639). -/
def startCodes (u : Nat) (s : State) : List Nat :=
  let base := s.getF F.ACQ_BUF_BASE_BASE u
  let len := s.getF F.ACQ_BUF_LEN_LEN u
  let pre := s.getF F.ACQ_PRE_PRE u
  let str := s.getB F.ACQ_CFG_STREAM u
  chk (s.aBusy u) EC.BUSY ++ chk (!s.getB F.ACQ_CFG_SMODE u && !s.cycRun) EC.STATE ++ chk s.aShed 0x0D05
  ++ chk (!str && s.getB F.ACQ_CFG_AUTO u) EC.BAD_FIELD ++ chk (!sperLegal (s.getF F.ACQ_SPER_SPER u)) 0x0D01
  ++ chk (decide (sramWords < base + len) || s.touchesProg base len || s.touchesLaws base len || s.touchesLocked base len
      || (List.range 8).any (fun v => v != u && s.aSt v != AcqSt.IDLE
          && overlaps base len (s.getF F.ACQ_BUF_BASE_BASE v) (s.getF F.ACQ_BUF_LEN_LEN v))
      || (if str then decide (s.aCap u < pre + 65) else decide (s.aCap u < pre + 1 + s.getF F.ACQ_POST_POST u))) 0x0D02
  ++ chk (str && s.getF F.ACQ_HS_SIZE_SIZE u == 0) 0x0D04
  ++ (List.range 4).flatMap fun i => condCodes u i s

/-- A record begins in FILL, or in ARMED where PRE is 0 (R637). -/
def acqFill (u : Nat) (s : State) : State :=
  let x := s.au u
  let r := (x.recNo + 1) % 2 ^ 32
  let s1 := s.setAu u { AcqUnit.reset with recNo := r, seq := x.seq, drops := x.drops, lastCyc := x.lastCyc, nextEdge := x.nextEdge }
  (setASt u (if s.getF F.ACQ_PRE_PRE u = 0 then AcqSt.ARMED else AcqSt.FILL) s1).setF F.ACQ_STAT_RECNUM r u

/-- START of one unit (R637): the counts are cleared; until DONE the measurement registers hold free values (log 40). -/
def acqStart (u : Nat) (s : State) : State :=
  let s1 := ((acqFill u s).setF F.ACQ_CNT_DROP 0 u).setF F.ACQ_CNT_EARLY 0 u
  let v (j : Nat) : Nat := Config.measAfterStart u j (s.au u).recNo
  s1.each (List.range 4) fun c r =>
    ((r.setF F.ACQ_MIN_VALUE (v (3 * c)) u c).setF F.ACQ_MAX_VALUE (v (3 * c + 1)) u c).setF F.ACQ_MEAN_VALUE (v (3 * c + 2)) u c

/-- A sample of unit u lies at or before the present edge and has not been taken. -/
def State.sampleWaits (s : State) (u : Nat) : Bool :=
  let per := max 1 (s.getF F.ACQ_SPER_SPER u)
  if s.getB F.ACQ_CFG_SMODE u then s.sampleDue u ((s.now - s.acq.t0 * 256) / 320 / per * per) else s.sampleDue u 0

/-- STOP of one unit (R637).  In FILL or ARMED, where a sample of this very edge is still to be taken, STOP waits for it: a
trigger at that edge stands (R648). -/
def acqStop (u : Nat) (s : State) : State :=
  if s.aBusy u && s.aSt u != AcqSt.POST && s.sampleWaits u then s.modAu u fun x => { x with stop := true }
  else if s.aBusy u then acqClose u false true s else s

/-- The STOPs that wait take effect after the sample of their edge. -/
def acqStops (s : State) : State :=
  s.each ((List.range 8).filter fun u => (s.au u).stop) fun u t =>
    if t.aBusy u then acqClose u false true t else t.modAu u fun x => { x with stop := false }

/-- The STOPs whose edge has passed without a sample take effect: no trigger stands, and no record is written. -/
def acqPast (s : State) : State :=
  s.each ((List.range 8).filter fun u => (s.au u).stop) fun u t =>
    (if t.aSt u = AcqSt.FILL ∨ t.aSt u = AcqSt.ARMED then setASt u AcqSt.IDLE t else t).modAu u fun x => { x with stop := false }

/-- FORCE of one unit (R636, R639). -/
def acqForce (u : Nat) (s : State) : State :=
  if s.aSt u = AcqSt.FILL ∨ s.aSt u = AcqSt.ARMED then s.modAu u fun x => { x with force := true }
  else s.flag F.ACQ_FLAG_FORCE_LOST u

/-- A timed start of KIND 3 (R81, R639). -/
def acqArm (u : Nat) (s : State) : State :=
  let s1 := acqFires false s
  if firstCode (startCodes u s1) = EC.OK then acqStart u s1 else s1.flag F.ACQ_FLAG_ARM_LOST u

/-! ### One sample edge (R631, R637, R638, R641) -/

/-- A unit's sample as its edge finds it: unit, stamp, values, whether it is dropped, conditions that come true with W. -/
structure AcqEdge where
  unit : Nat
  stamp : Nat
  vals : List (Option Int)
  drop : Bool
  hits : List (Nat × Nat)
  deriving DecidableEq, Repr

/-- A sample is taken: counted, stored or dropped, and its conditions evaluated. -/
def sampleTake (u edge : Nat) (full : Bool) (s : State) : AcqEdge × State :=
  let vs := s.acqValues u
  let stamp := s.sampleTime u edge + invMask vs
  let s0 := s.modAu u fun x => { x with n := x.n + 1, lastCyc := some s.tbs.k, nextEdge := edge + 1 }
  if full then
    let s1 := (s0.modAu u fun x => { x with gap := true, gaps := x.stored :: x.gaps, drops := x.drops + 1 }).incF F.ACQ_CNT_DROP u
    let s2 := (s1.flag F.ACQ_FLAG_DROP u).setF F.ACQ_G_FLAG_DROP (s1.getF F.ACQ_G_FLAG_DROP ||| 2 ^ u)
    ({ unit := u, stamp := stamp, vals := vs, drop := true, hits := [] }, s2)
  else
    let s1 := s0.writeWords (s.sampleAddr u (s.au u).stored) (sampleWords stamp vs)
    let armed := s.aSt u = AcqSt.FILL ∨ s.aSt u = AcqSt.ARMED
    let r := if armed then condsStep u vs s1 else (s1.au u, [])
    ({ unit := u, stamp := stamp, vals := vs, drop := false, hits := r.2 }, s1.setAu u r.1)

/-- A condition that comes true may fire (R637). -/
def State.mayFire (s : State) (u : Nat) : Bool :=
  s.aSt u == AcqSt.ARMED || (s.aSt u == AcqSt.FILL && s.getB F.ACQ_CFG_ARM_EARLY u)

/-- The unit triggers at this edge. -/
def State.triggers (s : State) (e : AcqEdge) : Bool :=
  !e.drop && ((s.mayFire e.unit && !e.hits.isEmpty)
    || ((s.aSt e.unit == AcqSt.FILL || s.aSt e.unit == AcqSt.ARMED) && (s.au e.unit).force))

/-- A trigger of another unit at the same edge makes an EXT condition true in this very sample (R635). -/
def extHits (trig : List Nat) (s : State) (e : AcqEdge) : AcqEdge :=
  let new := (List.range 4).filter fun i => s.condOn e.unit i && s.getF F.ACQ_TC_CTL_KIND e.unit i == 6
    && trig.contains (s.getF F.ACQ_TC_CTL_EXT_SEL e.unit i - 104) && decide (104 ≤ s.getF F.ACQ_TC_CTL_EXT_SEL e.unit i)
    && !e.hits.any (fun h => h.1 == i)
  if e.drop ∨ !(s.aSt e.unit == AcqSt.FILL || s.aSt e.unit == AcqSt.ARMED) then e
  else { e with hits := e.hits ++ new.map fun i => (i, 0) }

/-- Triggers of units that share the edge reach one another. -/
def extRounds (s : State) : Nat → List AcqEdge → List AcqEdge
  | 0, es => es
  | fuel + 1, es =>
    let trig := (es.filter s.triggers).map fun e => e.unit
    extRounds s fuel (es.map (extHits trig s))

/-- The trigger of a unit (R638): MET, PRIMARY, DUR, PRE_N; the measurements and the stream take the pre-trigger samples. -/
def acqTrigger (e : AcqEdge) (s : State) : State :=
  let u := e.unit
  let x := s.au u
  let fired := if s.mayFire u then e.hits else []
  let met := fired.foldl (fun m h => m ||| 2 ^ h.1) (if x.force then 16 else 0)
  let prim := ((List.range 5).find? fun i => bit met i).getD 0
  let dur := ((fired.find? fun h => h.1 == prim).map fun h => h.2).getD 0
  let preN := min (s.getF F.ACQ_PRE_PRE u) x.stored
  let t : AcqTrig := { stamp := e.stamp / 16 * 16, ring := x.stored % max 1 (s.aCap u), at_ := x.stored, met := met, primary := prim, dur := dur }
  let x1 := (List.range preN).foldl (fun y i => measAdd (s.sampleVals u (x.stored - preN + i)) y)
    { x with trig := some t, preN := preN, postN := 0, force := false, meas := [], streamed := 0 }
  let s1 := setASt u AcqSt.POST (s.setAu u { measAdd e.vals x1 with stored := x.stored + 1 })
  let s2 := ((s1.setF F.ACQ_TRIG_TIME_V t.stamp u).setF F.ACQ_REC_INFO_MET met u).setF F.ACQ_REC_INFO_PRIMARY prim u
  (((s2.setF F.ACQ_PRE_N_N preN u).setF F.ACQ_POST_N_N 0 u).setF F.ACQ_DUR_N (dur % 2 ^ 32) u)

/-- POST samples are stored: the record is complete, and with AUTO the next one begins (R637). -/
def acqComplete (u : Nat) (s : State) : State :=
  let s1 := acqClose u false false s
  if s.getB F.ACQ_CFG_AUTO u then acqFill u s1 else s1

/-- What a unit does with its sample: EARLY, the trigger, the count of fill or post samples, the end of the record. -/
def sampleLife (e : AcqEdge) (s : State) : State :=
  let u := e.unit
  let st := s.aSt u
  if e.drop then s
  else if s.triggers e then
    let early := if s.mayFire u then 0 else e.hits.length
    let s1 := acqEvent (104 + u) (acqTrigger e (s.each (List.range early) fun _ t => t.incF F.ACQ_CNT_EARLY u))
    if s.getF F.ACQ_POST_POST u = 0 ∧ !s.aShed then acqClose u false false s1 else stream u false false s1
  else if st = AcqSt.POST then
    let s1 := s.modAu u fun x => { measAdd e.vals x with stored := x.stored + 1, postN := x.postN + 1 }
    let n := (s1.au u).postN
    let post := s.getF F.ACQ_POST_POST u
    let s2 := s1.setF F.ACQ_POST_N_N n u
    if n = post ∧ post ≠ 2 ^ 32 - 1 ∧ !s.aShed then acqComplete u s2 else stream u false false s2
  else
    let s1 := (s.each e.hits fun _ t => t.incF F.ACQ_CNT_EARLY u).modAu u fun x => { x with stored := x.stored + 1 }
    if st = AcqSt.FILL ∧ s.getF F.ACQ_PRE_PRE u ≤ (s1.au u).stored then setASt u AcqSt.ARMED s1 else s1

/-- A sample edge: n is the engine edge of the grid (SMODE 1), none the edge that observes TC (SMODE 0); full is the mask of
units whose staging queue has no room, or whose ring's next place has not been streamed (R641). -/
def acqSample (n : Option Nat) (full : Nat) (s0 : State) : State :=
  let s := acqFires false s0
  let edge := n.getD 0
  let units := (List.range 8).filter fun u => s.getB F.ACQ_CFG_SMODE u == n.isSome && s.sampleDue u edge
  let r := units.foldl (fun (p : List AcqEdge × State) u =>
    let q := sampleTake u edge (bit full u) p.2
    (p.1 ++ [q.1], q.2)) ([], s)
  let es := extRounds r.2 8 r.1
  -- the events given below to units that have sampled at this edge are already in their hits
  let s1 := r.2.each es sampleLife
  let trig := (es.filter r.2.triggers).map fun e => e.unit
  let s2 := s1.each es fun e t => (List.range 4).foldl (fun v i =>
    let sel := v.getF F.ACQ_TC_CTL_EXT_SEL e.unit i
    if v.getF F.ACQ_TC_CTL_KIND e.unit i = 6 ∧ 104 ≤ sel ∧ trig.contains (sel - 104) ∧ !e.drop
    then v.modAu e.unit fun x => x.setCond i { x.cond i with ext := false } else v) t
  acqStops (if s.aShed then s2.each (units.filter s2.aBusy) acqShedEnd else s2)

/-! ### Hooks of the cycle -/

/-- T0 or an idle tick: the grid restarts, fires of SRC 0 are usable, the DROP events of the cycle are posted (R631, R635,
R641). -/
def acqT0 (t0 : Nat) (s : State) : State :=
  let s1 := s.each ((List.range 8).filter fun u => (s.au u).drops != 0) fun u t =>
    (t.modAu u fun x => { x with drops := 0 }).post 0x0D02 13 u 0x0D06 (t.au u).drops
  let s2 := s1.each (List.range 8) fun u t => if (t.au u).nextEdge = 0 then t else t.modAu u fun x => { x with nextEdge := 0 }
  (acqFires true s2).withAcq fun a => { a with t0 := t0, rate := s.tbs.par.rate + s.tbs.par.slew }

/-- CYC_RUN falls: units in SMODE 0 end (R637). -/
def acqCycleEnd (s : State) : State :=
  s.each ((List.range 8).filter fun u => s.aBusy u && !s.getB F.ACQ_CFG_SMODE u) (acqClose · false true)

/-! ### Commands and registers (R649 to R651) -/

def acqCmdCodes (cmd : Nat) (b : BlockArgs) (s : State) : List Nat :=
  if cmd < 1 ∨ 3 < cmd then [EC.BAD_FIELD]
  else
    argBits b.arg0 0xFF ++ argZero b.arg1 ++ argZero b.arg2 ++ argZero b.ptr ++ chk (b.len != 0) EC.BAD_FIELD
    ++ (if cmd = 1 then (maskBits b.arg0 8).flatMap fun u => startCodes u s else [])

def acqCmdRun (cmd : Nat) (b : BlockArgs) (s : State) : State :=
  (acqFires false s).each (maskBits b.arg0 8) (match cmd with
    | 1 => acqStart
    | 2 => acqStop
    | _ => acqForce)

/-- The checks of a write of v over old to an acquisition register; j is the condition or channel. -/
def acqCodes (base u v old : Nat) (s : State) : List Nat :=
  chk (base != R.ACQ_FLAG && base != R.ACQ_G_FLAG && s.aBusy u && decide (v ≠ old)) EC.BUSY
  ++ (if base = R.ACQ_CFG then chk (decide (4 ≤ bits v 1 3)) EC.BAD_FIELD
  else if base = R.ACQ_SPER then chk (!sperLegal v) 0x0D01
  else if base = R.ACQ_BUF_BASE then chk (v % 16 != 0) EC.ALIGN
  else if base = R.ACQ_BUF_LEN then chk (decide (v < 48)) EC.RANGE
  else if base = R.ACQ_CH_SEL then chk (!sourceLegal (bits v 0 5) (bits v 8 8) (bits v 16 14)) 0x0D03
  else if base = R.ACQ_TC_CTL then
    chk (bits v 0 3 == 7 || bits v 5 2 == 3 || decide (5 ≤ bits v 8 3)) EC.BAD_FIELD
  else if base = R.ACQ_HS_BASE_0 then chk (v % 64 != 0) EC.ALIGN
  else if base = R.ACQ_HS_SIZE then chk (v != 0 && (v % 64 != 0 || decide (v < 4096))) EC.RANGE
  else [])

/-- A unit whose stream buffer moves or changes its size writes from offset 0 (log 42). -/
def acqFollow (base u v old : Nat) (s : State) : State :=
  if (base = R.ACQ_HS_BASE_0 ∨ base = R.ACQ_HS_BASE_1 ∨ base = R.ACQ_HS_SIZE) ∧ v ≠ old then s.setF F.ACQ_HS_PTR_PTR 0 u else s

def acqView (off : Nat) (s : State) : Option Word :=
  if off = R.ACQ_G_STAT then
    some (BitVec.ofNat 32 ((List.range 8).foldl (fun n u => n + s.aSt u * 2 ^ (3 * u)) (b2n s.aShed * 2 ^ 24)))
  else none

end Sys2Proof.Machine
end

