-- ==== Sys2Proof/Machine/Sha.lean ====
section
/-! DEFINITION. SHA-256 (FIPS 180-4), which R664 to R675 name, on numbers below 2^32. -/

namespace Sys2Proof.Machine

/-- The first 64 prime numbers: the numbers up to 311 that have two divisors. -/
def smallPrimes : List Nat := (List.range 312).filter fun n => decide (2 ≤ n) && (List.range n).all fun q => decide (q < 2) || n % q != 0

/-- The largest r of b bits whose e-th power is at most n, found from its highest bit on. -/
def rootBits (e n : Nat) : Nat → Nat → Nat
  | 0, r => r
  | b + 1, r => rootBits e n b (if (r + 2 ^ b) ^ e ≤ n then r + 2 ^ b else r)

/-- The first 32 bits of the fraction of the e-th root of p. -/
def rootFraction (e p : Nat) : Nat := rootBits e (p * 2 ^ (32 * e)) 37 0 % 2 ^ 32

/-- The constants of the rounds: cube roots.  The first chaining value: square roots of the first eight primes. -/
def shaConstants : List Nat := smallPrimes.map (rootFraction 3)
def shaFirst : List Nat := (smallPrimes.take 8).map (rootFraction 2)

/-- A 32-bit number turned right by n bits. -/
def turnRight (x n : Nat) : Nat := x / 2 ^ n + x % 2 ^ n * 2 ^ (32 - n)

/-- The exclusive or of a number turned right by two amounts and turned (a third amount r) or shifted right. -/
def mixTurned (x p q r : Nat) : Nat := turnRight x p ^^^ turnRight x q ^^^ turnRight x r
def mixShifted (x p q r : Nat) : Nat := turnRight x p ^^^ turnRight x q ^^^ x / 2 ^ r

/-- A sum modulo 2^32. -/
def sum32 (l : List Nat) : Nat := l.sum % 2 ^ 32

/-- n further words of the message schedule, the newest in front. -/
def scheduleMore : Nat → List Nat → List Nat
  | 0, w => w
  | n + 1, w =>
    let back (i : Nat) := w.getD (i - 1) 0
    scheduleMore n (sum32 [mixShifted (back 2) 17 19 10, back 7, mixShifted (back 15) 7 18 3, back 16] :: w)

/-- One round on the list of the eight working numbers a to h; kw is the sum of the round's constant and word. -/
def shaStep (v : List Nat) (kw : Nat) : List Nat :=
  match v with
  | [a, b, c, d, e, f, g, h] =>
    let choice := (e &&& f) ||| ((2 ^ 32 - 1 - e) &&& g)
    let most := (a &&& b) ||| (c &&& (a ||| b))
    let t := sum32 [h, mixTurned e 6 11 25, choice, kw]
    [sum32 [t, mixTurned a 2 13 22, most], a, b, c, sum32 [d, t], e, f, g]
  | _ => v

/-- A number from bytes, the most significant first; the bytes of a number in that order. -/
def beNat (b : List Byte) : Nat := b.foldl (fun n x => 256 * n + x.toNat) 0
def beBytes (v n : Nat) : List Byte := (leBytes v n).reverse

/-- The chaining value after one block of 64 bytes. -/
def shaBlock (ks v : List Nat) (block : List Byte) : List Nat :=
  let words := (List.range 16).map fun i => beNat ((block.drop (60 - 4 * i)).take 4)
  let r := (ks.zipWith (· + ·) (scheduleMore 48 words).reverse).foldl shaStep v
  v.zipWith (fun x y => sum32 [x, y]) r

/-- n blocks of 64 bytes. -/
def shaBlocks (ks : List Nat) : Nat → List Byte → List Nat → List Nat
  | 0, _, v => v
  | n + 1, m, v => shaBlocks ks n (m.drop 64) (shaBlock ks v (m.take 64))

/-- The digest of a message: padded with 0x80, zeros and its length in bits to whole blocks. -/
def sha256 (m : List Byte) : List Byte :=
  let zeros := List.replicate ((119 - m.length % 64) % 64) (0 : Byte)
  let whole := m ++ (0x80 : Byte) :: zeros ++ beBytes (8 * m.length) 8
  (shaBlocks shaConstants (whole.length / 64) whole shaFirst).flatMap fun x => beBytes x 4

end Sys2Proof.Machine
end

