-- ==== Sys2Proof/Machine/Boot.lean ====
section
/-! DEFINITION. Resets, boot and security (R654 to R688): flash, images, the boot stages, the safety record, attestation, flash writes, fuses, recovery. -/

namespace Sys2Proof.Machine

def State.withBoot (s : State) (f : Boot → Boot) : State := { s with boot := f s.boot }

namespace Stage
def HOLD : Nat := 0
def ROM : Nat := 1
def LOAD : Nat := 2
def VERIFY : Nat := 3
def SAFETY : Nat := 4
def RUNTIME : Nat := 5
def FAIL : Nat := 15
end Stage

def State.stage (s : State) : Nat := s.getF F.BOOT_STAT_STAGE
def State.runtime (s : State) : Bool := s.getB F.HST_STAT_RUNTIME
/-- Every group is in STO. -/
def State.allSto (s : State) : Bool := (List.range 8).all fun g => s.gSt g == GS.STO

/-! ### Flash (R661, R662) -/

/-- An erased byte: what an unlisted flash byte reads as (log 45). -/
def erased (_ : Nat) : Byte := 0xFF

def State.flashByte (s : State) (a : Nat) : Byte := mapGet erased s.boot.flash a
def State.flashAt (s : State) (a n : Nat) : List Byte := (List.range n).map fun i => s.flashByte (a + i)
/-- n flash bytes as a little-endian number. -/
def State.flashNum (s : State) (a n : Nat) : Nat := leAt (s.flashAt a n) 0 n

/-- Store bytes from an offset on. -/
def putFlash : List Host.Cell → Nat → List Byte → List Host.Cell
  | m, _, [] => m
  | m, a, b :: bs => putFlash (mapSet erased m a b) (a + 1) bs

/-- Erase the 64 KiB sector of an offset. -/
def eraseSector (m : List Host.Cell) (a : Nat) : List Host.Cell := m.filter fun c => decide (c.1 / 65536 ≠ a / 65536)

/-- Program bytes: a write that begins on a sector boundary first erases that sector (R678). -/
def flashProgram (ofs : Nat) (data : List Byte) (s : State) : State :=
  s.withBoot fun b => { b with flash := putFlash (if ofs % 65536 = 0 then eraseSector b.flash ofs else b.flash) ofs data }

def bankSize : Nat := 0xF00000
def bankBase (b : Nat) : Nat := b * bankSize
/-- A range lies inside bank b (R662). -/
def inBank (b ofs len : Nat) : Bool := decide (bankBase b ≤ ofs) && decide (ofs + len ≤ bankBase b + bankSize)

/-! ### Images (R663 to R665, R669 to R671) -/

def ctxBoot : List Byte := [0x44, 0x4C, 0x58, 0x2D, 0x43, 0x58, 0x31, 0x32, 0x39, 0x36, 0x2D, 0x42, 0x4F, 0x4F, 0x54]
def ctxSafe : List Byte := [0x44, 0x4C, 0x58, 0x2D, 0x43, 0x58, 0x31, 0x32, 0x39, 0x36, 0x2D, 0x53, 0x41, 0x46, 0x45]
def ctxAttest : List Byte := [0x44, 0x4C, 0x58, 0x2D, 0x43, 0x58, 0x31, 0x32, 0x39, 0x36, 0x2D, 0x41, 0x54, 0x54, 0x45, 0x53, 0x54]

/-- MAGIC, FORMAT and PART (R663). -/
def State.imageHead (s : State) (b : Nat) : Bool :=
  s.flashNum (bankBase b) 4 == 0x49584C44 && s.flashNum (bankBase b + 4) 2 == 1 && s.flashNum (bankBase b + 6) 2 == 0x1296
def State.minStepOk (s : State) (b : Nat) : Bool := decide (s.flashNum (bankBase b + 8) 1 ≤ 0xB1)
/-- A candidate (R670). -/
def State.candidate (s : State) (b : Nat) : Bool := s.imageHead b && s.minStepOk b
def State.imageSeq (s : State) (b : Nat) : Nat := s.flashNum (bankBase b + 12) 4
def State.imageSvn (s : State) (b : Nat) : Nat := s.flashNum (bankBase b + 10) 2
def State.imageSlot (s : State) (b : Nat) : Nat := s.flashNum (bankBase b + 9) 1

/-- A section: its type, offset from the bank start, length, LOAD, digest (R664). -/
structure Section where
  type : Nat
  ofs : Nat
  len : Nat
  load : Nat
  digest : List Byte
  deriving DecidableEq, Repr

def State.section (s : State) (b i : Nat) : Section :=
  let a := bankBase b + 88 + 48 * i
  { type := s.flashNum a 1, ofs := s.flashNum (a + 4) 4, len := s.flashNum (a + 8) 4, load := s.flashNum (a + 12) 4, digest := s.flashAt (a + 16) 32 }
def State.sections (s : State) (b : Nat) : List Section := (List.range 3).map (s.section b)
/-- The section of a type. -/
def State.sectionOf (s : State) (b t : Nat) : Section := ((s.sections b).find? fun x => x.type == t).getD ⟨t, 0, 0, 0, []⟩

/-- Header and section table are well formed (R663, R664, R671). -/
def State.wellFormed (s : State) (b : Nat) : Bool :=
  let xs := s.sections b
  let total := s.flashNum (bankBase b + 16) 4
  s.flashNum (bankBase b + 20) 4 == 3 && decide (total ≤ bankSize) && decide (s.imageSvn b ≤ 128)
  && [1, 2, 3].all (fun t => (xs.filter fun x => x.type == t).length == 1)
  && xs.all (fun x => x.ofs % 4096 == 0 && decide (32768 ≤ x.ofs) && decide (x.ofs + x.len ≤ bankSize)
    && (if x.type = 2 then x.load % 16 == 0 && x.len % 9 == 0 && decide (x.load + x.len / 9 ≤ sramWords) else x.load == 0))
  && (List.range 3).all fun i => (List.range i).all fun j => !overlaps (xs.getD i ⟨0, 0, 0, 0, []⟩).ofs (xs.getD i ⟨0, 0, 0, 0, []⟩).len
      (xs.getD j ⟨0, 0, 0, 0, []⟩).ofs (xs.getD j ⟨0, 0, 0, 0, []⟩).len

/-- A key slot is programmed, unrevoked, and holds the hash of a public key (R669, R671). -/
def keyGood (keys : List (Nat × List Byte)) (rev slot : Nat) (pk : List Byte) : Bool :=
  keys.any (fun k => k.1 == slot && k.2 == sha256 pk) && !bit rev slot

def sectionGood (b : Nat) (x : Section) (s : State) : Bool := sha256 (s.flashAt (bankBase b + x.ofs) x.len) == x.digest

/-- The first check of R671 that bank b's image fails; 0: none. -/
def imageReason (b : Nat) (s : State) : Nat :=
  let a := bankBase b
  let pk := s.flashAt (a + 24) 64
  if s.wellFormed b = false then 2
  else if keyGood s.boot.fuses.bootKeys s.boot.fuses.bootRev (s.imageSlot b) pk = false then 3
  else if Config.slhVerify pk (s.flashAt a 256) ctxBoot (s.flashAt (a + 256) 29792) = false then 4
  else if s.imageSvn b < s.boot.fuses.bootSvn then 6
  else if (s.sections b).all (fun x => sectionGood b x s) = false then 5
  else 0

/-- The start of the safety sub-image of a bank. -/
def State.safeBase (s : State) (b : Nat) : Nat := bankBase b + (s.sectionOf b 3).ofs
def State.safeSvn (s : State) (b : Nat) : Nat := s.flashNum (s.safeBase b + 6) 2
def State.safeSlot (s : State) (b : Nat) : Nat := s.flashNum (s.safeBase b + 8) 1

/-- The structure of a safety sub-image is sound (R665, R679). -/
def State.safeShape (s : State) (b : Nat) : Bool :=
  let a := s.safeBase b
  s.flashNum a 4 == 0x53584C44 && s.flashNum (a + 4) 2 == 1 && decide (s.safeSlot b ≤ 1)
  && decide (32768 + s.flashNum (a + 12) 4 ≤ (s.sectionOf b 3).len)

/-- The checks of R669. -/
def State.safeImageOk (s : State) (b : Nat) : Bool :=
  let a := s.safeBase b
  let pk := s.flashAt (a + 16) 64
  s.safeShape b && keyGood s.boot.fuses.safeKeys s.boot.fuses.safeRev (s.safeSlot b) pk
  && Config.slhVerify pk (s.flashAt a 128) ctxSafe (s.flashAt (a + 128) 29792)
  && decide (s.boot.fuses.safeSvn ≤ s.safeSvn b) && decide (s.safeSvn b ≤ 64)
  && sha256 (s.flashAt (a + 32768) (s.flashNum (a + 12) 4)) == s.flashAt (a + 80) 32

/-! ### Boot stages (R667, R670) -/

def setStage (n : Nat) (s : State) : State := s.setF F.BOOT_STAT_STAGE n
def State.bank (s : State) : Nat := s.getF F.BOOT_STAT_BANK
def bootFail (reason : Nat) (s : State) : State := (setStage Stage.FAIL s).setF F.BOOT_STAT_REASON reason

/-- The bank tried fails: the other one is tried, or the boot ends (R670). -/
def bankFails (reason : Nat) (s : State) : State :=
  if s.boot.second then bootFail reason s
  else (setStage Stage.LOAD (s.setF F.BOOT_STAT_BANK (1 - s.bank))).withBoot fun b => { b with second := true, first := reason }

/-- The bank tried first (R670). -/
def State.firstBank (s : State) : Nat :=
  if s.getB F.BOOT_NEXT_ONCE then s.getF F.BOOT_NEXT_BANK
  else if s.candidate 1 && (!s.candidate 0 || decide (s.imageSeq 0 < s.imageSeq 1)) then 1 else 0

/-- Bytes packed 9 to a word, least significant first (R10). -/
def packWords : Nat → List Byte → List W72
  | 0, _ => []
  | n + 1, bs => BitVec.ofNat 72 (leAt bs 0 9) :: packWords n (bs.drop 9)

/-- The law library of a well-formed image is read into a cleared SRAM (R656, R664, R667). -/
def loadLibrary (s : State) : State :=
  let x := s.sectionOf s.bank 2
  let s1 := { s with mem := [], poison := [] }
  if s.wellFormed s.bank then s1.writeWords x.load (packWords (x.len / 9) (s.flashAt (bankBase s.bank + x.ofs) x.len)) else s1

/-- Load the bank that is being tried; one that is no candidate fails with reason 2, or 7 for its stepping. -/
def loadBank (s : State) : State :=
  if s.candidate s.bank then setStage Stage.VERIFY (loadLibrary s)
  else bankFails (if s.imageHead s.bank then 7 else 2) s

/-- A mask of programmed slots. -/
def slotMask (keys : List (Nat × List Byte)) : Nat := keys.foldl (fun m k => m ||| 2 ^ k.1) 0

/-- The registers that show the fuses (R666, R675, R686). -/
def showFuses (s : State) : State :=
  let f := s.boot.fuses
  let s1 := (s.setF F.BOOT_SVN_BOOT f.bootSvn).setF F.BOOT_SVN_SAFE f.safeSvn
  let s2 := ((s1.setF F.BOOT_KEYS_BPROG (slotMask f.bootKeys)).setF F.BOOT_KEYS_BREV f.bootRev).setF F.BOOT_KEYS_SPROG (slotMask f.safeKeys)
  ((s2.setF F.BOOT_KEYS_SREV f.safeRev).setF F.BOOT_UID_UID f.uid).setF F.DMK_UID_V f.uid

/-- Stage 1 ends: fuses read, SRAM cleared, flash probed (R661, R666, R667). -/
def bootRomDone (fusesOk flashOk vfuse : Bool) (s : State) : State :=
  if s.stage ≠ Stage.HOLD ∧ s.stage ≠ Stage.ROM then s
  else
    let s1 := { s.setF F.BOOT_STAT_VFUSE_OK (b2n vfuse) with mem := [], poison := [] }
    if fusesOk = false then bootFail 1 s1
    else if flashOk = false then bootFail 10 (showFuses s1)
    else setStage Stage.LOAD (showFuses s1)

/-- Stage 2: a bank is chosen and its sections are read; where the first is no candidate, the other is tried (R670). -/
def bootLoadDone (s : State) : State :=
  if s.stage ≠ Stage.LOAD then s
  else if s.boot.second then loadBank s
  else
    let s1 := loadBank ((s.setF F.BOOT_STAT_BANK s.firstBank).setF F.BOOT_NEXT_ONCE 0)
    if s1.stage = Stage.LOAD then loadBank s1 else s1

/-- The seeds of the identity key (R675). -/
def State.idSeed (s : State) (label : Byte) : List Byte := sha256 (s.boot.fuses.seed ++ [label])
/-- The identity public key: PK.seed, then PK.root (FIPS 205). -/
def State.idPublic (s : State) : List Byte :=
  let pkSeed := s.idSeed 3
  (pkSeed ++ Config.slhRoot (s.idSeed 1) pkSeed ++ List.replicate 64 0).take 64

/-- Stage 3: the image is checked; the identity key is derived (R671, R675). -/
def bootVerifyDone (s : State) : State :=
  if s.stage ≠ Stage.VERIFY then s
  else
    let r := imageReason s.bank s
    if r ≠ 0 then bankFails r s
    else
      let pk := s.idPublic
      let s1 := s.each (List.range 16) fun m t => t.setF F.BOOT_IDPK_V (leAt pk (4 * m) 4) 0 m
      setStage Stage.SAFETY (s1.withBoot fun b => { b with digests := [1, 2, 3].map fun t => (s.sectionOf s.bank t).digest })

/-! ### Safety record (R672 to R674) -/

def recordBase (c : Nat) : Nat := 0x1F00000 + c * 0x80000

/-- A copy's CHK and SEQ, where it is valid. -/
def State.recordOf (s : State) (c : Nat) : Option (Nat × Nat) :=
  let b := s.flashAt (recordBase c) 28
  if leAt b 0 4 = 0x52584C44 ∧ leAt b 24 4 = crc32c 0xFFFFFFFF (b.take 24) ∧ leAt b 8 4 + leAt b 12 4 = 2 ^ 32 - 1
      ∧ leAt b 16 8 = s.boot.fuses.uidFelt then some (leAt b 8 4, leAt b 4 4) else none

/-- The confirmed check value at boot (R673). -/
def State.recordChk (s : State) : Nat :=
  match s.recordOf 0, s.recordOf 1 with
  | some a, some b => if a.2 < b.2 then b.1 else a.1
  | some a, none => a.1
  | none, some b => b.1
  | none, none => 0

/-- Write the safety record (R674): the invalid copy or the one with the lower SEQ. -/
def recordWrite (s : State) : State :=
  let (c, seq) := match s.recordOf 0, s.recordOf 1 with
    | some a, some b => if a.2 ≤ b.2 then (0, b.2 + 1) else (1, a.2 + 1)
    | some a, none => (1, a.2 + 1)
    | none, some b => (0, b.2 + 1)
    | none, none => (0, 1)
  let chkv := s.getF F.SAF_CHK_CONF_CHK
  let body := leBytes 0x52584C44 4 ++ leBytes seq 4 ++ leBytes chkv 4 ++ leBytes (2 ^ 32 - 1 - chkv) 4 ++ leBytes s.boot.fuses.uidFelt 8
  flashProgram (recordBase c) (body ++ leBytes (crc32c 0xFFFFFFFF body) 4) s

/-- Write the safety record where a step has completed a confirmation (R353, R674): CONF_PEND has fallen by a reset edge. -/
def confirmedRecord (s t : State) : State :=
  if s.getB F.SAF_STATE_CONF_PEND ∧ t.getB F.SAF_STATE_CONF_PEND = false then recordWrite t else t

/-- Stage 4: the safety firmware is verified, both channels test themselves, the safety record is read (R355, R667, R669,
R673).  No event is posted before RUNTIME is 1 (R668). -/
def bootSafetyDone (spOk feltOk : Bool) (s : State) : State :=
  if s.stage ≠ Stage.SAFETY then s
  else if s.safeImageOk s.bank = false then bankFails 8 s
  else if spOk = false ∨ feltOk = false then
    let s1 := (s.setF F.SAF_FAULT_REASON 6).setF F.SAF_FAULT_CH (if spOk then 1 else 0)
    bootFail 9 (s1.setF F.SAF_STATE_STATE SSt.SAFE_FAULT)
  else
    let s1 := (s.setF F.SAF_VER_SP (Config.safVersion 0 (s.flashAt (s.safeBase s.bank + 80) 32))).setF F.SAF_VER_FELT (Config.safVersion 1 [])
    setStage Stage.RUNTIME ((s1.setF F.SAF_CHK_CONF_CHK s.recordChk).setF F.SAF_STATE_STATE SSt.NO_PARAM)

/-- The runtime starts: slot 0 is registered, RUNTIME is 1, BOOTED is posted (R240, R667, R688). -/
def booted (s : State) : State :=
  if s.stage ≠ Stage.RUNTIME ∨ s.runtime = true ∨ s.boot.wdogAt.isSome then s
  else
    let b := s.bank
    let x := s.sectionOf b 2
    let len := x.len / 9
    let fall := s.boot.second
    let s1 := ((s.setF F.CEN_PROG_BASE_BASE x.load 0).setF F.CEN_PROG_LEN_LEN len 0).setF F.CEN_PROG_CHK_CRC (progCrc x.load len s) 0
    let s2 := ((s1.setF F.CEN_PROG_STAT_VALID 1 0).setF F.CEN_PROG_STAT_LIB 1 0).setF F.CEN_LIB_ENTRY_ENTRY (x.load + Config.libEntry x.load len % max 1 len)
    let s3 := ((s2.setF F.BOOT_IMG_SVN (s.imageSvn b)).setF F.BOOT_IMG_SAFE_SVN (s.safeSvn b)).setF F.BOOT_SEQ_SEQ (s.imageSeq b)
    let s4 := ((s3.setF F.BOOT_KEYS_BUSE (s.imageSlot b)).setF F.BOOT_KEYS_SUSE (s.safeSlot b)).setF F.BOOT_STAT_FALLBACK (b2n fall)
    let s5 := (s4.setF F.BOOT_STAT_ALT_REASON (if fall then s.boot.first else 0)).setF F.HST_STAT_RUNTIME 1
    s5.post 0x0E01 14 0 (if fall then 0x0E09 else EC.OK)
      ((s.rd R.BOOT_CAUSE).toNat % 32 + b * 2 ^ 8 + (if fall then s.boot.first else 0) * 2 ^ 16)

/-! ### Fuses (R680, R681) -/

/-- The counter or revoke fuses after a burn of n fuses of what was asked. -/
def burnFuses (x : Burn) (n : Nat) (f : Fuses) : Fuses :=
  if x.revoke then
    if n = 0 then f
    else if x.dom = 0 then { f with bootRev := f.bootRev ||| 2 ^ x.val } else { f with safeRev := f.safeRev ||| 2 ^ x.val }
  else if x.dom = 0 then { f with bootSvn := max f.bootSvn (min x.val (f.bootSvn + n)) }
  else { f with safeSvn := max f.safeSvn (min x.val (f.safeSvn + n)) }

def withFuses (x : Burn) (n : Nat) (s : State) : State := s.withBoot fun b => { b with fuses := burnFuses x n b.fuses }

/-- The first burn in progress ends: read back, or not, after n fuses (R680, R681). -/
def fuseBurnDone (ok : Bool) (n : Nat) (s : State) : State :=
  match s.boot.burns with
  | [] => s
  | x :: xs =>
    let s1 := s.withBoot fun b => { b with burns := xs }
    if ok then
      let s2 := showFuses (withFuses x 255 s1)
      (s2.post 0x0E02 14 0 EC.OK (x.dom + b2n x.revoke * 2 + x.val * 2 ^ 8)).completeHeld x.key EC.OK 0 0
    else (showFuses (withFuses x n s1)).completeHeld x.key 0x0E08 0 0

/-! ### Resets (R654 to R660, R683) -/

/-- What a write in progress has left in its range, and a burn in its fuses, when a reset cuts them off. -/
def cutOff (left : List Byte) (burned : Nat) (s : State) : Boot :=
  let op := s.boot.flashOps.head?.orElse fun _ => s.boot.rec_
  let flash := match op with
    | some o => if left.isEmpty then s.boot.flash else putFlash s.boot.flash o.ofs (left.take o.data.length)
    | none => s.boot.flash
  let fuses := match s.boot.burns with
    | x :: _ => burnFuses x burned s.boot.fuses
    | [] => s.boot.fuses
  { Boot.reset with flash := flash, fuses := fuses, opNo := s.boot.opNo }

/-- A reset that reaches the main die (R655, R656, R660): causes are the bits it records; a power-on reset clears FRC and
leaves only POR. -/
def dieReset (por : Bool) (causes : Nat) (left : List Byte) (burned : Nat) (s : State) : State :=
  let s1 := { State.reset with pending := s.pending, frc := if por then 0 else s.frc, out := s.out, freeCtr := s.freeCtr,
                               boot := cutOff left burned s,
                               pwm := { Pwm.reset with driven := if por then [] else s.pwm.driven } }
  if por then s1
  else (s1.wr R.BOOT_CAUSE (s.rd R.BOOT_CAUSE ||| BitVec.ofNat 32 causes)).wr R.BOOT_NEXT (s.rd R.BOOT_NEXT)

/-- SOFT for an accepted request, WDOG for an expired watchdog: one reset shows both (R683). -/
def State.softCauses (s : State) : Nat := b2n s.boot.rstAt.isSome * 4 + b2n s.boot.wdogAt.isSome * 8

/-- The accepted device reset takes effect (R658). -/
def deviceReset (left : List Byte) (burned : Nat) (s : State) : State :=
  match s.boot.rstAt with
  | some t => if t ≤ s.frc then dieReset false s.softCauses left burned s else s
  | none => s

/-- The watchdog expires (R659): RUNTIME falls, both channels receive a controlled-stop request. -/
def watchdogExpiry (s : State) : State :=
  if s.runtime = false then s
  else requestStop Req.watchdog allGroups ((s.setF F.HST_STAT_RUNTIME 0).withBoot fun b => { b with wdogAt := some s.frc })

/-- The watchdog's reset (R659). -/
def watchdogReset (left : List Byte) (burned : Nat) (s : State) : State :=
  match s.boot.wdogAt with
  | some t => if s.allSto = true ∨ t + 2000000000 ≤ s.frc then dieReset false s.softCauses left burned s else s
  | none => s

/-- The configuration space, the MSI-X table and its pending bits return to their reset values (R654). -/
def msixReset (s : State) : State :=
  ({ s with regs := s.regs.filter fun r => !(decide (0x8000 ≤ r.1) && decide (r.1 < 0xA000)) }).withHst fun h =>
    { h with vecDue := [], vecSent := [], config := .reset }

/-- The Device Serial Number capability: the unique identifier of the device (R91). -/
def State.serialNumber (s : State) : Nat := s.boot.fuses.uid

/-- A link reset (R654, R657). -/
def linkReset (perst : Bool) (left : List Byte) (burned : Nat) (s : State) : State :=
  if perst ∧ s.getB F.BOOT_CFG_PERST_FULL then dieReset false 2 left burned s
  else
    let s1 := (msixReset s).flag F.BOOT_CAUSE_LINK
    let s2 := ((s1.setF F.HST_STAT_WIDTH 0).setF F.HST_STAT_SPEED 0).setF F.HST_STAT_BME 0
    s2.withHst fun h => { h with linkUp := false, d3hot := false, d3Refused := false }

/-! ### Attestation (R676, R677) -/

/-- Bytes 0 to 255 of the report. -/
def attestBody (nonce : List Byte) (s : State) : List Byte :=
  let b0 := leBytes 0x41584C44 4 ++ leBytes 1 2 ++ leBytes 0x1296 2 ++ leBytes 0xB1 1
    ++ leBytes (s.bank + s.getF F.BOOT_STAT_FALLBACK * 2 + s.getF F.BOOT_KEYS_BUSE * 4 + s.getF F.BOOT_KEYS_SUSE * 16) 1
    ++ leBytes s.boot.fuses.bootSvn 2 ++ leBytes s.boot.fuses.safeSvn 2 ++ leBytes (s.getF F.BOOT_IMG_SVN) 2
    ++ leBytes s.boot.fuses.uid 8 ++ (nonce ++ List.replicate 32 0).take 32
  let b1 := leBytes (if s.cycRun then s.tbs.k else s.hst.tickNo) 8 ++ leBytes s.now 9 ++ leBytes 0 3
    ++ leBytes (s.getF F.SAF_CHK_CHK) 4 ++ leBytes (s.getF F.SAF_CHK_CONF_CHK) 4 ++ leBytes s.safSt 1
    ++ leBytes (b2n s.locked + b2n s.cycRun * 2 + s.role * 4) 1 ++ leBytes (s.getF F.BOOT_IMG_SAFE_SVN) 2
    ++ leBytes (s.rd R.LND_DIGEST).toNat 4 ++ leBytes 0 4
  b0 ++ b1 ++ (s.boot.digests.flatMap id ++ List.replicate 96 0).take 96
    ++ (List.range 16).flatMap fun m => leBytes (s.getF F.BOOT_IDPK_V 0 m) 4

/-- TC, or the idle tick: the report of an attestation is latched (R676). -/
def attestLatch (s : State) : State :=
  match s.boot.attest with
  | some a => if a.body.isSome then s else s.withBoot fun b => { b with attest := some { a with body := some (attestBody a.nonce s) } }
  | none => s

def attestKey : Nat := 0xE0001

/-- The signed report is written, and the command completes (R677). -/
def attestDone (s : State) : State :=
  match s.boot.attest with
  | some { nonce := _, host := h, body := some body } =>
    let sig := (Config.slhSign (s.idSeed 1) (s.idSeed 2) (s.idSeed 3) body ctxAttest s.freeCtr ++ List.replicate 29792 0).take 29792
    (((s.tick1.withBoot fun b => { b with attest := none }).emit (.dmaBytes h (body ++ sig)))).completeHeld attestKey EC.OK 0 0
  | _ => s

/-! ### Flash writes (R678, R679, R682) -/

/-- The first FLASH_WRITE in progress ends; a device error leaves what it leaves in the range (R678). -/
def flashWriteDone (ok : Bool) (left : List Byte) (s : State) : State :=
  match s.boot.flashOps with
  | [] => s
  | o :: os =>
    let s1 := s.withBoot fun b => { b with flashOps := os }
    if ok then (flashProgram o.ofs o.data s1).completeHeld o.key EC.OK 0 0
    else (s1.withBoot fun b => { b with flash := putFlash b.flash o.ofs (left.take o.data.length) }).completeHeld o.key 0x0E07 0 0

/-- The code that FLASH_VERIFY finds for bank b (R679). -/
def verifyCode (b : Nat) (s : State) : Nat :=
  if s.candidate b = false then 0x0E01
  else match imageReason b s with
    | 2 => 0x0E01
    | 3 => 0x0E02
    | 4 => 0x0E03
    | 5 => 0x0E04
    | 6 => 0x0E05
    | _ => if s.safeShape b = false then 0x0E01 else if s.safeSvn b < s.boot.fuses.safeSvn ∨ 64 < s.safeSvn b then 0x0E05 else EC.OK

/-- A recovery write starts; one that is not inside a bank is refused (R682). -/
def recoveryWrite (s : State) : State :=
  let ofs := s.getF F.BOOT_REC_OFS_OFS
  let len := s.getF F.BOOT_REC_LEN_LEN
  let data := (List.range (len / 4)).flatMap fun i => leBytes (s.rd (R.BOOT_REC_WIN + 4 * i)).toNat 4
  if inBank 0 ofs len ∨ inBank 1 ofs len then
    ((s.setF F.BOOT_REC_STAT_BUSY 1).setF F.BOOT_REC_STAT_ERR 0).withBoot fun b => { b with rec_ := some { ofs := ofs, data := data, key := 0 } }
  else s.setF F.BOOT_REC_STAT_ERR 1

/-- A recovery write ends (R682). -/
def recoveryWriteDone (ok : Bool) (left : List Byte) (s : State) : State :=
  match s.boot.rec_ with
  | none => s
  | some o =>
    let s1 := (s.withBoot fun b => { b with rec_ := none }).setF F.BOOT_REC_STAT_BUSY 0
    if ok then flashProgram o.ofs o.data s1
    else (s1.withBoot fun b => { b with flash := putFlash b.flash o.ofs (left.take o.data.length) }).setF F.BOOT_REC_STAT_ERR 1

/-! ### Commands and registers (R684 to R686) -/

/-- Unrevoked, programmed slots of a domain. -/
def Fuses.usable (f : Fuses) (dom : Nat) : List Nat :=
  let keys := if dom = 0 then f.bootKeys else f.safeKeys
  let rev := if dom = 0 then f.bootRev else f.safeRev
  (List.range (if dom = 0 then 4 else 2)).filter fun i => keys.any (fun k => k.1 == i) && !bit rev i

/-- The checks of a boot command but for AT_CYC (R676 to R681, R684). -/
def bootCmdCodes (cmd : Nat) (b : BlockArgs) (s : State) : List Nat :=
  let zero (ok : Bool) : List Nat := chk ok EC.BAD_FIELD
  let noPtr := zero (b.ptr != 0 || b.len != 0)
  zero (b.arg1 != 0 || b.arg2 != 0)
  ++ match cmd with
  | 0x0001 => zero (b.arg0 != 0) ++ withData b 30048 ++ chk s.boot.attest.isSome EC.BUSY
  | 0x0002 =>
    zero (decide (2 ^ 25 ≤ b.arg0)) ++ chk (b.ptr % 16 != 0 || b.arg0 % 256 != 0) EC.ALIGN
    ++ chk (b.len % 256 != 0 || decide (b.len < 256) || decide (65536 < b.len)) EC.RANGE
    ++ chk (!inBank (1 - s.bank) b.arg0 b.len) 0x0E06
  | 0x0003 => zero (b.arg0 != 0) ++ noPtr ++ (let c := verifyCode (1 - s.bank) s; chk (c != EC.OK) c)
  | 0x0004 =>
    let run := if b.arg0 = 0 then s.getF F.BOOT_IMG_SVN else s.getF F.BOOT_IMG_SAFE_SVN
    let cnt := if b.arg0 = 0 then s.boot.fuses.bootSvn else s.boot.fuses.safeSvn
    zero (decide (2 ≤ b.arg0)) ++ noPtr ++ chk s.cycRun EC.STATE ++ chk (decide (run ≤ cnt)) 0x0E05
    ++ chk (!s.getB F.BOOT_STAT_VFUSE_OK) 0x0E08
  | 0x0005 =>
    let dom := b.arg0 % 2
    let slot := bits b.arg0 1 2
    let used := if dom = 0 then s.getF F.BOOT_KEYS_BUSE else s.getF F.BOOT_KEYS_SUSE
    zero (decide (8 ≤ b.arg0)) ++ noPtr ++ chk s.cycRun EC.STATE ++ chk (dom == 1 && decide (2 ≤ slot)) EC.RANGE
    ++ chk (slot == used || ((s.boot.fuses.usable dom).filter fun i => i != slot).isEmpty) 0x0E02
  | _ => [EC.BAD_FIELD]

/-- The key under which a boot command is held until its end: its number keeps commands of one kind apart. -/
def State.bootKey (s : State) (cmd : Nat) : Nat :=
  if cmd = 1 then attestKey else 0xE0000 + cmd + s.boot.opNo * 2 ^ 24

/-- A boot command takes effect; all but FLASH_VERIFY complete later, under the key of State.bootKey. -/
def bootCmdRun (cmd : Nat) (b : BlockArgs) (s : State) : State :=
  let key := s.bootKey cmd
  let next (x : Boot) : Boot := { x with opNo := x.opNo + 1 }
  match cmd with
  | 0x0001 =>
    s.withBoot fun x => { x with attest := some { nonce := b.data.take 32, host := b.ptr, body := none } }
  | 0x0002 => s.withBoot fun x => next { x with flashOps := x.flashOps ++ [{ ofs := b.arg0, data := b.data.take b.len, key := key }] }
  | 0x0004 =>
    let run := if b.arg0 = 0 then s.getF F.BOOT_IMG_SVN else s.getF F.BOOT_IMG_SAFE_SVN
    s.withBoot fun x => next { x with burns := x.burns ++ [{ dom := b.arg0, revoke := false, val := run, key := key }] }
  | 0x0005 =>
    s.withBoot fun x => next { x with burns := x.burns ++ [{ dom := b.arg0 % 2, revoke := true, val := bits b.arg0 1 2, key := key }] }
  | _ => s

/-- The checks of a write of v over old to a register of the boot block. -/
def bootCodes (base v : Nat) (s : State) : List Nat :=
  if base = R.BOOT_RST then
    chk (bit v 0 && bits v 16 16 != 0x1296) EC.BAD_FIELD ++ chk (bit v 0 && s.safSt == SSt.OPERATE && !s.allSto) EC.STATE
  else if base = R.BOOT_CFG then chk (decide (bits v 0 10 < 10) || decide (1000 < bits v 0 10)) EC.RANGE
  else if base = R.BOOT_REC_OFS then chk (v % 256 != 0) EC.ALIGN
  else if base = R.BOOT_REC_LEN then chk (v % 256 != 0 || decide (v < 256) || decide (32768 < v)) EC.RANGE
  else if base = R.BOOT_REC_WIN then chk (s.stage != Stage.FAIL) EC.STATE
  else if base = R.BOOT_REC_CMD then
    chk (s.stage != Stage.FAIL) EC.STATE ++ chk (bit v 0 && s.getF F.BOOT_REC_LEN_LEN == 0) EC.RANGE
    ++ chk (bit v 0 && s.getB F.BOOT_REC_STAT_BUSY) EC.BUSY
  else []

/-- What follows an accepted write to a register of the boot block (R658, R682). -/
def bootFollow (base v : Nat) (s : State) : State :=
  let reset (t : State) : State := t.withBoot fun b => { b with rstAt := some (b.rstAt.getD (s.frc + 10000)) }
  if base = R.BOOT_RST then (if bit v 0 then reset s else s)
  else if base = R.BOOT_REC_CMD then
    let s1 := if bit v 0 then recoveryWrite s else s
    if bit v 1 then reset s1 else s1
  else s

end Sys2Proof.Machine
end

