-- ==== Sys2Proof/Machine/Digest.lean ====
section
/-! DEFINITION. The tables that TABLE_WRITE and TABLE_READ name (R121), the configuration digest of a pair (R599), and the thermal rule (R707 to R711). -/

namespace Sys2Proof.Machine

/-! ### Tables -/

/-- A table: its TABLE value, records, words of a record, whether TABLE_WRITE can write it. -/
structure TableDef where
  id : Nat
  recs : Nat
  words : Nat
  writable : Bool
  deriving DecidableEq, Repr

/-- Every table (R207, R292, R335, R393, R530, R578). -/
def tables : List TableDef :=
  [⟨0x0301, 256, 32, true⟩, ⟨0x0302, 256, 17, true⟩, ⟨0x0303, 256, 2, true⟩,
   ⟨0x0401, 128, 8, true⟩, ⟨0x0402, 128, 3, true⟩, ⟨0x0403, 128, 7, true⟩, ⟨0x0404, 16, 10, true⟩,
   ⟨0x0501, 16, 85, true⟩, ⟨0x0502, 256, 8, true⟩, ⟨0x0503, 16, 77, true⟩, ⟨0x0504, 16, 10, true⟩, ⟨0x0505, 16, 1, true⟩,
   ⟨0x0506, 1024, 8, false⟩]
  ++ [⟨0x0601, 1, 4, true⟩, ⟨0x0602, 8, 3, true⟩, ⟨0x0603, 128, 8, true⟩, ⟨0x0604, 16, 8, true⟩, ⟨0x0605, 16, 1, true⟩,
   ⟨0x0606, 8, 1, true⟩, ⟨0x0A01, 64, 5, true⟩,
   ⟨0x0B01, 64, 6, true⟩, ⟨0x0B02, 16, 1, true⟩, ⟨0x0B03, 16, 1, true⟩, ⟨0x0B04, 256, 2, true⟩, ⟨0x0B05, 16, 1, true⟩,
   ⟨0x0B06, 64, 9, false⟩, ⟨0x0B07, 4096, 1, false⟩]

def tableOf (id : Nat) : Option TableDef := tables.find? fun t => t.id == id

/-- Bytes of a record in host memory: its byte length rounded up to a multiple of 16 (R121). -/
def TableDef.hostLen (t : TableDef) : Nat := (9 * t.words + 15) / 16 * 16

/-- A word of a record as a TABLE_READ finds it. -/
def State.tableWord (s : State) (table rec w : Nat) : W72 :=
  if table = 0x0506 then sepObsWord rec w s else BitVec.ofNat 72 (s.tw table rec w)

/-! ### The configuration digest (R599) -/

/-- The registers of R599 item 1 with the bits that count, by rising offset: RWL fields of every block but HST, DMK and LND. -/
def digestRegs : List (Nat × Nat) :=
  let all := (regsTbs ++ regsSch ++ regsCen ++ regsDp ++ regsTrj ++ regsSep ++ regsSaf ++ regsFbk ++ regsPwm ++ regsAdc ++ regsTwl
    ++ regsAcq ++ regsBoot).filter fun d => d.rwl != 0 && d.base != R.TWL_DLY_A && d.base != R.TWL_DLY_B
  let each := all.flatMap fun d => (List.range d.count).flatMap fun i => (List.range d.subCount).map fun j =>
    (d.base + i * d.stride + j * d.sub, if d.base = R.TWL_CFG then mclr d.rwl (2 ^ 6) else d.rwl)
  each.foldr (fun r m => mapIns m r.1 r.2) []

/-- SRAM words that the commit lock protects: node arrays and state records of configured laws (R134, R211). -/
def State.lockedWords (s : State) : List Nat :=
  let ws := (List.range 256).flatMap fun n =>
    if s.getF F.CEN_LAW_CTL_KIND n = 0 then []
    else (List.range (s.nodeLen n)).map (s.nodeBase n + ·) ++ (List.range 32).map (s.stateBase n + ·)
  (ws.filter fun w => decide (w < sramWords)).foldr (fun w l => listIns l w) []

/-- The bytes of R599. -/
def digestBytes (s : State) : List Byte :=
  let regs := digestRegs.flatMap fun r => leBytes ((s.rd r.1).toNat &&& r.2) 4
  let chks := (List.range 32).flatMap fun i => leBytes (s.getF F.CEN_PROG_CHK_CRC i) 4
  let tabs := (tables.filter fun t => t.writable && decide (t.id < 0x0B00)).flatMap fun t => (List.range t.recs).flatMap fun r =>
    (List.range t.words).flatMap fun w => leBytes (s.tw t.id r w) 9
  let words := s.lockedWords.flatMap fun w => leBytes (s.readWord w).toNat 9
  regs ++ chks ++ tabs ++ words ++ s.boot.digests.flatMap id

/-- Recompute LND_DIGEST (R599). -/
def digestTake (s : State) : State := s.setF F.LND_DIGEST_DIGEST (crc32c 0xFFFFFFFF (digestBytes s))

/-! ### The thermal rule (R707 to R711) -/

/-- Entry and leave values of a level, in 0.001 degrees C; level 4 is entered above its value (R708). -/
def thermEntry (level : Nat) : Int := match level with
  | 1 => 100000
  | 2 => 102000
  | 3 => 104000
  | 4 => 105001
  | _ => 110000
def thermLeave (level : Nat) : Int := match level with
  | 1 => 97000
  | 2 => 99000
  | 3 => 101000
  | _ => 105000

/-- The junction temperature: the highest reading, a failed sensor counting as 110 degrees C (R707). -/
def junction (readings : List (Option Int)) : Int := readings.foldl (fun m r => max m (r.getD 110000)) (-273150)

def levelIn (t : Therm) (l : Nat) : Bool := bit t.levels l

/-- The open-drain outputs THERM_N and THERM_CRIT_N: low in levels 1 and 5 (R702, R708). -/
def State.thermN (s : State) : Bool := !levelIn s.therm 1
def State.thermCritN (s : State) : Bool := !levelIn s.therm 5

/-- The counts of samples in a row (R708). -/
def thermCount (tj : Int) (t : Therm) : Therm :=
  (List.range 5).foldl (fun x i =>
    let l := i + 1
    let up := if thermEntry l ≤ tj then satInc 2 (mapGet (fun _ => 0) t.up l) else 0
    let down := if tj ≤ thermLeave l then satInc 100 (mapGet (fun _ => 0) t.down l) else 0
    { x with up := mapSet (fun _ => 0) x.up l up, down := mapSet (fun _ => 0) x.down l down }) t

/-- Levels entered, then levels left, the highest first (R708). -/
def thermLevels (t : Therm) : Therm :=
  let t1 := (List.range 5).foldl (fun x i =>
    if mapGet (fun _ => 0) x.up (i + 1) = 2 then { x with levels := putBits x.levels (i + 1) 1 1 } else x) t
  [5, 4, 3, 2, 1].foldl (fun x l =>
    if levelIn x l && mapGet (fun _ => 0) x.down l == 100 && x.levels / 2 ^ (l + 1) == 0
    then { x with levels := putBits x.levels l 1 0 } else x) t1

/-- The effects of the levels in force (R708, R709, R711). -/
def thermFollow (old : Therm) (s : State) : State :=
  let t := s.therm
  let s1 := (s.setF F.ACQ_G_STAT_SHED (b2n (levelIn t 1))).setF F.SEP_STAT_SHED_TH (b2n (levelIn t 3))
  let s2 := if levelIn old 2 && !levelIn t 2 then s1.each (List.range 4) egressNext else s1
  let s3 := if levelIn t 4 then s2.note 8 else s2
  if levelIn t 5 && !levelIn old 5 then requestStop Req.thermal allGroups s3
  else if levelIn old 5 && !levelIn t 5 then releaseStop Req.thermal s3
  else s3

/-- A sample of the junction temperature, every 1 ms (R707). -/
def thermalSample (readings : List (Option Int)) (s : State) : State :=
  if s.frc < s.therm.next then s
  else
    let t := { thermLevels (thermCount (junction readings) s.therm) with next := s.frc / 1000000 * 1000000 + 1000000 }
    thermFollow s.therm { s with therm := t }

end Sys2Proof.Machine
end

