-- ==== Sys2Proof/Machine/Bar.lean ====
section
/-! DEFINITION. BAR0 as the host sees it: reads with their latches (R72, R91, R435, R668) and register writes with every check, what follows an accepted write, and the record of a rejected one (R14 to R17, R131 to R136, R612, R668). -/

namespace Sys2Proof.Machine

/-! ### Reads -/

/-- One bit per MSI-X vector that waits masked, by its own bit or by the function's (R129). -/
def State.pba (s : State) (lo : Nat) : Word :=
  maskOf 32 lo fun v => s.hst.vecDue.contains v && s.vecMasked v

/-- Reads the host interface forms. -/
def hstView (off : Nat) (s : State) : Option Word :=
  if off = R.HST_STAT then
    some (BitVec.ofNat 32 (putBits (s.rd off).toNat 10 1 (b2n (!s.cycRun && s.getB F.HST_CTL_EN))))
  else if off = R.MSIX_PBA_0 then some (s.pba 0)
  else if off = R.MSIX_PBA_1 then some (s.pba 32)
  else none

/-- Time, counter, cycle and tick number, which their _0 registers read at once (R72). -/
def State.clockWords (s : State) (base : Nat) : Option Nat :=
  if base = R.TBS_NOW_0 then some s.now
  else if base = R.TBS_FRC_0 then some s.frc
  else if base = R.TBS_CYC_NUM_0 then some s.tbs.k
  else if base = R.SCH_TICK_0 then some s.sch.tick
  else none

/-- The present value of a register, whatever latches it. -/
def State.value (s : State) (off : Nat) : Word :=
  let clock := match s.clockWords off, s.clockWords (off - 4), s.clockWords (off - 8) with
    | some v, _, _ => some (BitVec.ofNat 32 v)
    | none, some v, _ => some (BitVec.ofNat 32 (v / 2 ^ 32))
    | none, none, some v => if off = R.TBS_NOW_2 then some (BitVec.ofNat 32 (v / 2 ^ 64)) else none
    | none, none, none => none
  let view :=
    if off < 0x10000 then hstView off s
    else if off < 0x20000 then clock <|> tbsView off s
    else if off < 0x40000 then clock <|> schView off s
    else if off < 0x80000 then cenView off s
    else if off < 0x140000 then trjView off s
    else if off < 0x180000 then sepView off s
    else if off < 0x1A0000 then (if off = R.SAF_IN then some (BitVec.ofNat 32 (s.levels 0)) else none)
    else if off < 0x1C0000 then fbkView off s
    else if off < 0x1E0000 then pwmView off s
    else if off < 0x200000 then adcView off s
    else if 0x2A0000 ≤ off ∧ off < 0x2C0000 then acqView off s
    else none
  view.getD (s.rd off)

/-- The later registers that a read of the register of row base at off latches (R72, R294, R435, R650). -/
def latchSet (base off : Nat) : List Nat :=
  if [R.TBS_FRC_0, R.TBS_CYC_NUM_0, R.SCH_TICK_0, R.SEP_SCYC_0, R.TWL_G_SW_AT_0, R.DMK_MODE_AT_0, R.LND_PROM_AT_0].contains base then
    [off + 4]
  else if [R.TBS_NOW_0, R.TRJ_PCLK_0, R.TRJ_TBL0_0, R.TRJ_CMP_POS_0, R.TRJ_CMP_STEP_0, R.TRJ_CMP_TIME_0, R.PWM_TSTAMP_0,
      R.ADC_CAL_TIME_0, R.ACQ_TRIG_TIME_0].contains base then
    [off + 4, off + 8]
  else if base = R.ACQ_MIN_0 then [4, 8, 0x10, 0x14, 0x18, 0x20, 0x24, 0x28].map (off + ·)
  else fbkLatchSet off

/-- Is the register of a row one of those later registers, so that a read returns its latched value? -/
def latched (base : Nat) : Bool :=
  [R.TBS_FRC_1, R.TBS_CYC_NUM_1, R.SCH_TICK_1, R.SEP_SCYC_1, R.TWL_G_SW_AT_1, R.DMK_MODE_AT_1, R.LND_PROM_AT_1,
   R.TBS_NOW_1, R.TBS_NOW_2, R.TRJ_PCLK_1, R.TRJ_PCLK_2, R.TRJ_TBL0_1, R.TRJ_TBL0_2, R.TRJ_CMP_POS_1, R.TRJ_CMP_POS_2,
   R.TRJ_CMP_STEP_1, R.TRJ_CMP_STEP_2, R.TRJ_CMP_TIME_1, R.TRJ_CMP_TIME_2, R.PWM_TSTAMP_1, R.PWM_TSTAMP_2,
   R.ADC_CAL_TIME_1, R.ADC_CAL_TIME_2, R.ACQ_TRIG_TIME_1, R.ACQ_TRIG_TIME_2].contains base
  || [R.ACQ_MIN_1, R.ACQ_MIN_2, R.ACQ_MAX_0, R.ACQ_MAX_1, R.ACQ_MAX_2, R.ACQ_MEAN_0, R.ACQ_MEAN_1, R.ACQ_MEAN_2].contains base
  || [R.FBK_POS_1, R.FBK_POS_2, R.FBK_SPEED_0, R.FBK_SPEED_1, R.FBK_SPEED_2, R.FBK_TLAT_0, R.FBK_TLAT_1, R.FBK_TLAT_2,
      R.FBK_TEDGE_0, R.FBK_TEDGE_1, R.FBK_TEDGE_2, R.FBK_IDX_POS_1, R.FBK_IDX_POS_2, R.FBK_IDX_TIME_0, R.FBK_IDX_TIME_1,
      R.FBK_IDX_TIME_2].contains base

/-- While RUNTIME = 0 only these offsets read normally (R668). -/
def earlyRead (off : Nat) : Bool :=
  [R.HST_ID, R.HST_REV, R.HST_STAT, R.HST_ERR_CODE, R.HST_ERR_ADDR, R.HST_ERR_CNT, R.SAF_STATE, R.SAF_FAULT].contains off
  || decide (0x2C0000 ≤ off ∧ off < 0x300000)

/-- A read of one register: its value, and the state with what the read latches or takes (R14, R72, R484). -/
def regRead (off : Nat) (s : State) : Word × State :=
  if s.getB F.HST_STAT_RUNTIME = false ∧ earlyRead off = false then (0, s)
  else match findReg off with
  | none => (0, s)
  | some (d, i, _) =>
    let v := (if latched d.base then mapGet (fun _ => 0) s.latch off else s.value off) &&& ~~~ (BitVec.ofNat 32 d.wo)
    let s1 := { s with latch := (latchSet d.base off).foldl (fun l o => mapSet (fun _ => 0) l o (s.value o)) s.latch }
    (v, if d.base = R.ADC_RESULT then resultRead i s1 else s1)

/-! ### The checks of the HST registers (R134, R136) -/

def hstCodes (base n v old : Nat) (s new : State) : List Nat :=
  let en := s.getB F.HST_CTL_EN
  let size := chk (decide (bits v 0 4 < 4) || decide (12 < bits v 0 4)) EC.RANGE
  if base = R.HST_CTL then
    chk (bit v 0 && !bit old 0 && (!s.getB F.HST_STAT_BME || !s.getB F.HST_STAT_RUNTIME)) EC.STATE
    ++ chk (bit v 0 && !bit old 0 && (s.getF F.HST_DB_BASE_ADDR == 0 || s.getF F.HST_MIR_BASE_ADDR == 0 || s.getF F.HST_RIT_BASE_ADDR == 0)) EC.RANGE
  else if base = R.HST_LOCK then chk (!bit v 0 && bit old 0 && s.cycRun) EC.STATE
  else if base = R.HST_DB_BASE_0 ∨ base = R.HST_MIR_BASE_0 ∨ base = R.HST_RIT_BASE_0 then chk (v % 64 != 0) EC.ALIGN ++ chk en EC.STATE
  else if base = R.HST_DB_BASE_1 ∨ base = R.HST_MIR_BASE_1 ∨ base = R.HST_RIT_BASE_1 then chk en EC.STATE
  else if base = R.HST_DB_DL then chk (decide (v < 1000) || decide (25000 < v)) EC.RANGE
  else if base = R.HST_FETCH then chk (v == 0 || decide (1024 < v)) EC.RANGE
  else if base = R.HST_DB_LIMIT then chk (v == 0) EC.RANGE
  else if base = R.HST_LOSS_CTL then chk (decide (2 ≤ bits v 0 2)) EC.BAD_FIELD
  else if base = R.HST_SQ_CFG then
    chk (bits v 16 2 == 3) EC.BAD_FIELD ++ size
    ++ chk (bit v 31 && !bit old 31 && !s.getB F.HST_CQ_CFG_EN (bits v 8 6)) EC.STATE
    ++ chk (bit old 31 && bits v 0 31 != bits old 0 31) EC.STATE
  else if base = R.HST_SQ_BASE_0 ∨ base = R.HST_SQ_BASE_1 then
    chk (base == R.HST_SQ_BASE_0 && v % 64 != 0) EC.ALIGN ++ chk (s.getB F.HST_SQ_CFG_EN n) EC.STATE
  else if base = R.HST_CQ_CFG then
    size ++ chk (bit old 31 && bits v 0 4 != bits old 0 4) EC.STATE
    ++ chk (bit old 31 && !bit v 31 && (List.range 64).any fun q => s.getB F.HST_SQ_CFG_EN q && s.getF F.HST_SQ_CFG_CQ q == n) EC.STATE
  else if base = R.HST_CQ_BASE_0 ∨ base = R.HST_CQ_BASE_1 then
    chk (base == R.HST_CQ_BASE_0 && v % 64 != 0) EC.ALIGN ++ chk (s.getB F.HST_CQ_CFG_EN n) EC.STATE
  else if base = R.HST_EQ_CFG then size ++ chk (bit old 31 && bits v 0 4 != bits old 0 4) EC.STATE
  else if base = R.HST_EQ_BASE_0 ∨ base = R.HST_EQ_BASE_1 then
    chk (base == R.HST_EQ_BASE_0 && v % 64 != 0) EC.ALIGN ++ chk (s.getB F.HST_EQ_CFG_EN n) EC.STATE
  else let _ := new; []

/-- A ring is enabled, which also clears its halt (R107 to R109, R136). -/
def ringEnable (base n : Nat) (s : State) : State :=
  let zero (m : List (Nat × Nat)) : List (Nat × Nat) := mapSet (fun _ => 0) m n 0
  if base = R.HST_SQ_CFG then
    (s.wr (R.HST_SQ_STAT + 0x20 * n) 0).withHst fun h => { h with sqTail := zero h.sqTail }
  else if base = R.HST_CQ_CFG then
    ((s.wr (R.HST_CQ_STAT + 0x20 * n) 0).setF F.HST_CQ_STAT_PHASE 1 n).withHst fun h => { h with cqHead := zero h.cqHead }
  else
    ((s.wr (R.HST_EQ_STAT + 0x20 * n) 0).setF F.HST_EQ_STAT_PHASE 1 n).withHst fun h => { h with eqHead := zero h.eqHead, eqLost := zero h.eqLost }

/-- A ring is disabled: its halt is cleared (R109), at the disable (DESIGN CHOICE, log 67). -/
def ringDisable (base n : Nat) (s : State) : State :=
  if base = R.HST_SQ_CFG then (s.setF F.HST_SQ_STAT_HALT 0 n).setF F.HST_SQ_STAT_CAUSE 0 n
  else if base = R.HST_CQ_CFG then s.setF F.HST_CQ_STAT_HALT 0 n
  else s.setF F.HST_EQ_STAT_HALT 0 n

/-- What follows an accepted write to an HST register; the lock set recomputes the digest (R599). -/
def hstFollow (base n v old : Nat) (s : State) : State :=
  if base = R.HST_SQ_CFG ∨ base = R.HST_CQ_CFG ∨ base = R.HST_EQ_CFG then
    if bit v 31 && !bit old 31 then ringEnable base n s
    else if !bit v 31 && bit old 31 then ringDisable base n s
    else s
  else if base = R.HST_LOCK ∧ bit v 0 ∧ bit old 0 = false then digestTake s
  else s

/-! ### The check of a write -/

/-- STO is in force on every configured axis (R79). -/
def State.axesSto (s : State) : Bool := (List.range 128).all fun a => !s.getB F.AX_CTL_EN a || s.getB F.SAF_AX_STAT_STO a

/-- The checks other blocks make of a new TS, TR or PERIOD (R317, R414, R442). -/
def timingCodes (base : Nat) (new : State) : List Nat :=
  (if base = R.TBS_TR ∨ base = R.TBS_CYC_CTL then budgetCodes new else [])
  ++ (if base = R.TBS_TS ∨ base = R.TBS_TR ∨ base = R.TBS_CYC_CTL then ssiCodes new else [])
  ++ (if base = R.TBS_CYC_CTL then pwmSyncCodes new else [])

/-- The checks of the block that holds the register; s before, new with the value written. -/
def blockCodes (base i j off v old : Nat) (s new : State) : List Nat :=
  if off < 0x10000 then hstCodes base i v old s new
  else if off < 0x20000 then
    let moved := base == R.TBS_CYC_CTL && bits v 0 2 != bits old 0 2
    tbsCodes base i v old s.axesSto s ++ chk (base == R.TBS_CYC_CTL && bit v 8 != bit old 8 && s.pst != PSt.OFF) 0x0C02
    ++ (if v = old then [] else timingCodes base (if moved then periodFollow new else new))
  else if off < 0x40000 then schCodes (progOk s) base i v old s new
  else if off < 0x80000 then cenCodes base i v old s new
  else if off < 0x100000 then
    trjCodes base i v old s new ++ (if base = R.TRJ_ARM_CTL ∧ v ≠ old then budgetCodes new else [])
    ++ chk (base == R.TRJ_RSAFE && s.getB F.SEP_CTL_EN
      && s.enabledArms.any fun a => s.getF F.TRJ_ARM_CTL_GROUP a == i && s.pb 0x0503 a 0 16 16 != bits v 0 16) ECsep.STOP
  else if off < 0x120000 then
    axCodes (base == R.AX_CTL && !bit v 1 && slotRefused (bits v 12 3) new) base i v old s new
    ++ (if base = R.AX_CTL ∧ bit v 0 ∧ bit old 0 = false ∧ bit v 1 then ownerCodes (3 * bits v 4 5) new else [])
  else if off < 0x140000 then
    auxCodes (base == R.AUX_CTL && slotRefused (bits v 12 3) new) (base == R.AUX_CTL && auxNodeBad i new) base i v old s
    ++ (if base = R.AUX_CTL ∧ bit v 0 ∧ bit old 0 = false ∧ bit v 1 = false then ownerCodes (bits v 4 7) new else [])
  else if off < 0x180000 then sepCodes base v old s new
  else if off < 0x1A0000 then []
  else if off < 0x1C0000 then fbkCodes base i v old s new
  else if off < 0x1E0000 then pwmCodes base i v old s new
  else if off < 0x200000 then adcCodes base i j v old s
  else if off < 0x240000 then twlCodes base i v old s new
  else if off < 0x280000 then dmkCodes base i v old s new
  else if off < 0x2A0000 then lndCodes base v old s
  else if off < 0x2C0000 then acqCodes base i v old s
  else bootCodes base v s

/-- What an accepted write leads to in its block. -/
def blockFollow (base i off v old : Nat) (s : State) : State :=
  if off < 0x10000 then hstFollow base i v old s
  else if off < 0x20000 then tbsFollow base i v old s
  else if off < 0x40000 then schFollow base i v old s
  else if off < 0x80000 then cenFollow base i v old s
  else if off < 0x100000 then trjFollow (fun c => (s.chan c).count * 2 ^ 24) base i v old s
  else if off < 0x120000 then refreshPower (axFollow base i v old s)
  else if off < 0x140000 then refreshPower (auxFollow base i v old s)
  else if off < 0x180000 then sepFollow base v old s
  else if off < 0x1A0000 then s
  else if off < 0x1C0000 then fbkFollow base i v old s
  else if off < 0x1E0000 then pwmOffer (pwmFollow base i v old s)
  else if off < 0x200000 then adcFollow base i v old s
  else if off < 0x240000 then twlFollow base i v old s
  else if off < 0x280000 then dmkFollow base i v old s
  else if off < 0x2A0000 then
    if base = R.LND_CTL ∧ bit v 0 ∧ bit old 0 = false then pairEnable (digestTake s)
    else if base = R.LND_CTL ∧ bit v 0 = false ∧ bit old 0 then pairDisable s
    else s
  else if off < 0x2C0000 then acqFollow base i v old s
  else bootFollow base v s

/-- A write of 1 to a requester's flag releases it where its condition holds (R364). -/
def flagRelease (base v : Nat) (s : State) : State :=
  if base = R.TBS_FLAG ∧ bit v 0 ∧ s.getB F.TBS_STAT_PLL_LOCK then releaseStop Req.ref s
  else if base = R.HST_FAULT_FLAG ∧ bit v 3 ∧ s.getB F.HST_STAT_HOST_LOSS = false then releaseStop Req.host s
  else if base = R.SCH_FLAG ∧ bit v 3 then releaseStop Req.l0 s
  else if base = R.CEN_FLAG ∧ bit v 8 then
    s.each ((List.range 256).filter fun n => (s.law n).allValid) fun n t => releaseStop (Req.law n) t
  else if base = R.LND_FLAG ∧ bit v 0 then releaseStop Req.pair s
  else s

/-- The value a register holds after a write of v over old: written fields take v, bits written as 1 of a W1C field
clear but those that the hardware has set at the same edge, all others stay (R14, R53). -/
def RegDef.merge (d : RegDef) (v old set : Nat) : Nat := mor (mclr old (d.rw ||| mclr (v &&& d.w1c) set)) (v &&& d.rw)

/-- The value the register of a row at an offset holds after a host write of v. -/
def State.merged (s : State) (d : RegDef) (off v : Nat) : Word := BitVec.ofNat 32 (d.merge v (s.rd off).toNat (s.updOf off))

/-- The written value as the checks see it: read-only bits stand as they are (R14). -/
def RegDef.seen (d : RegDef) (v old : Nat) : Nat :=
  let m := d.rw ||| d.wo ||| d.w1c
  mor (v &&& m) (mclr old m)

/-- Restrictions that bind only a write that changes something (R17). -/
def stateCode (c : Nat) : Bool := c == EC.STATE || c == EC.BUSY || c == EC.LOCKED

/-- The code of a write of v at an offset; EC_OK: it is accepted (R15 to R17, R19, R132, R134). What a write of
TRJ_CMP_STEP_2 changes is the STEP it commits. -/
def writeCode (off v : Nat) (s : State) : Nat :=
  match findReg off with
  | none => if off % 4 = 0 then EC.BAD_FIELD else EC.ALIGN
  | some (d, i, j) =>
    let old := (s.rd off).toNat
    let new := s.wr off (s.merged d off v)
    let codes := blockCodes d.base i j off (d.seen v old) old s new
    let same := d.rw != 0 && (v &&& d.rw) == (old &&& d.rw) && (v &&& d.wo) == 0
    firstCode (chk (mclr v d.legal != 0) EC.RESERVED_SET
      ++ chk (s.locked && (v &&& d.rwl) != (old &&& d.rwl)) EC.LOCKED
      ++ codes.filter fun c => !(same && d.base != R.TRJ_CMP_STEP_2 && stateCode c))

/-- Carry out an accepted write: what it does to its own register is the host's, no update of the hardware. -/
def writeDo (off v : Nat) (s : State) : State :=
  match findReg off with
  | none => s
  | some (d, i, _) =>
    let old := (s.rd off).toNat
    let t := flagRelease d.base v (blockFollow d.base i off (d.seen v old) old (s.wr off (s.merged d off v)))
    { t with upd := mapSet (fun _ => 0) t.upd off (s.updOf off) }

/-- Has the hardware written an RW field of the register at an offset at the present edge? (R53) -/
def State.meets (s : State) (off : Nat) : Bool :=
  match findReg off with
  | some (d, _, _) => s.updOf off &&& d.rw != 0
  | none => false

/-- An accepted write takes effect: where it meets an update of the hardware on an RW field, at the next edge, at which it
is checked again (R53). -/
def hostWrite (off v : Nat) (s : State) : State :=
  if s.meets off then s.withHst fun h => { h with putOff := h.putOff ++ [(off, v)] } else writeDo off v s

/-- While paired, a register write outside HST, LND and DMK is refused but to a W1C register (R612). -/
def pairedRefusal (off : Nat) (s : State) : Bool :=
  let p := s.pst
  (p == PSt.COPY || p == PSt.SHADOW || p == PSt.READY) && decide (0x10000 ≤ off) && !decide (0x240000 ≤ off ∧ off < 0x2A0000)
    && match findReg off with
      | some (d, _, _) => d.rw != 0 || d.wo != 0
      | none => true

/-- The code of a BAR0 write: before the runtime only the boot block takes writes (R668); full says that it is a 4-byte
write with all its byte enables set (R91).  A write to the reserved range above the boot block keeps EC_BAD_FIELD (DESIGN
CHOICE, log 60). -/
def barCode (off v : Nat) (full : Bool) (s : State) : Nat :=
  if s.getB F.HST_STAT_RUNTIME = false ∧ off < 0x2C0000 then firstCode (chk (!full || off % 4 != 0) EC.ALIGN ++ [EC.STATE])
  else firstCode (chk (!full) EC.ALIGN ++ chk (pairedRefusal off s) 0x0C02 ++ [writeCode off v s].filter (· != EC.OK))

/-- The state with an arm that a descriptor made at the present edge taken back: it completes with EC_BUSY (R70). -/
def dropDescArm (s : State) : State :=
  match s.tbs.pend with
  | none => s
  | some c => match c.by_ with
    | none => s
    | some (q, h) =>
      if c.armEdge ≠ s.frc then s
      else (cancelChange s).withHst fun x =>
        { x with comps := x.comps.map fun e => if e.sq = q ∧ e.head = h ∧ e.code = EC.OK then { e with code := EC.BUSY } else e }

/-- A BAR0 write (R131): applied whole, or rejected and recorded. -/
def barWrite (off v : Nat) (full : Bool) (s : State) : State :=
  let t := if off = R.TBS_P_CMD ∧ bit v 0 then dropDescArm s else s
  let c := barCode off v full t
  if c = EC.OK then
    (hostWrite off v t).withHst fun h => { h with wrote := if t.meets off then h.wrote else h.wrote ++ [(off, v)] }
  else s.reject off (barCode off v full s)

/-- The write of an item of a descriptor: a BAR0 write of the same edge to the same register comes after it, so that its
value stands (R113). -/
def itemWrite (off v : Nat) (s : State) : State :=
  (s.hst.wrote.filter fun w => w.1 == off).foldl (fun t w =>
    let c := barCode w.1 w.2 true t
    if c = EC.OK then writeDo w.1 w.2 t else t.reject w.1 c) (hostWrite off v s)

/-- The writes that the edge just past puts off to the present one: those that met an update of the hardware when they came,
and those whose register the hardware has written after them at that edge (R53).  Each is checked again. -/
def putOffWrites (s : State) : State :=
  let l := s.hst.putOff ++ s.hst.wrote.filter fun w => s.meets w.1
  l.foldl (fun t w => barWrite w.1 w.2 true t) (({ s with upd := [] }).withHst fun h => { h with wrote := [], putOff := [] })

/-- The value of a BAR0 write that gives one field a new value and leaves the register's other written fields as they stand. -/
def fieldValue (f : Fld) (v i j : Nat) (s : State) : Nat :=
  let keep := match findReg (f.off i j) with
    | some (d, _, _) => (s.rd (f.off i j)).toNat &&& d.rw
    | none => 0
  putBits keep f.lo f.width v

/-- The BAR0 write that gives one field a new value. -/
def fieldWrite (f : Fld) (v : Nat) (i j : Nat) (s : State) : State := barWrite (f.off i j) (fieldValue f v i j s) true s

/-- A BAR0 read of size bytes (R91): of 4 bytes or 8 naturally aligned bytes; another size returns zero and records
EC_ALIGN. -/
def barRead (off size : Nat) (s : State) : State :=
  if size = 4 ∧ off % 4 = 0 then
    let r := regRead off s
    r.2.emit (.barRead off r.1)
  else if size = 8 ∧ off % 8 = 0 then
    let r := regRead off s
    let q := regRead (off + 4) r.2
    (q.2.emit (.barRead off r.1)).emit (.barRead (off + 4) q.1)
  else (s.reject off EC.ALIGN).emit (.barRead off 0)

end Sys2Proof.Machine
end

