-- ==== Sys2Proof/Machine/Operands.lean ====
section
/-! DEFINITION. The operand forms of the commands: the fields of a descriptor (R116, R119), descriptors formed of named operands, and the arguments of a block command (R119). -/

namespace Sys2Proof.Machine

/-- Field n of a descriptor. -/
def descFld (d : Desc) (n : Nat) : Nat :=
  match n with
  | 0 => d.f0.toNat
  | 1 => d.f1.toNat
  | 2 => d.f2.toNat
  | 3 => d.f3.toNat
  | 4 => d.f4.toNat
  | 5 => d.f5.toNat
  | 6 => d.f6.toNat
  | _ => d.f7.toNat

/-- OPCODE, FENCE, AT_CYC (R116). -/
def descOp (d : Desc) : Nat := bits d.f0.toNat 0 8
def descFence (d : Desc) : Bool := bit d.f0.toNat 9
def descAt (d : Desc) : Nat := d.f1.toNat

/-- A descriptor of a ring without FENCE and AT_CYC, of an opcode and its fields 2 to 7. -/
def descOf (h : DescHdr) (op : Nat) (f : Nat → Nat) (data : List Byte) : Desc :=
  { f0 := BitVec.ofNat 64 (op % 256 + b2n h.irq * 2 ^ 8 + h.tag % 2 ^ 16 * 2 ^ 16), f1 := 0,
    f2 := BitVec.ofNat 64 (f 2), f3 := BitVec.ofNat 64 (f 3), f4 := BitVec.ofNat 64 (f 4), f5 := BitVec.ofNat 64 (f 5),
    f6 := BitVec.ofNat 64 (f 6), f7 := BitVec.ofNat 64 (f 7), data := data }

/-- The fields of a descriptor as a list, from field 2 on. -/
def fieldsOf (l : List Nat) (n : Nat) : Nat := l.getD (n - 2) 0

def descNop (h : DescHdr) : Desc := descOf h 1 (fieldsOf []) []

/-- REG_WRITE: pairs of offset and value. -/
def descRegWrite (h : DescHdr) (items : List (Nat × Nat)) : Desc :=
  descOf h 2 (fieldsOf (items.length :: items.map fun i => i.1 % 2 ^ 24 + i.2 % 2 ^ 32 * 2 ^ 32)) []

def descRegRead (h : DescHdr) (offs : List Nat) : Desc := descOf h 3 (fieldsOf (offs.length :: offs)) []

/-- WORD_WRITE (op 4) and WORD_READ (op 5): word address, COUNT, host pointer. -/
def descWord (h : DescHdr) (op waddr count ptr : Nat) (data : List Byte) : Desc :=
  descOf h op (fieldsOf [waddr + count * 2 ^ 32, ptr]) data

/-- TABLE_WRITE (op 6) and TABLE_READ (op 7): table, FIRST, COUNT, host pointer. -/
def descTable (h : DescHdr) (op table first count ptr : Nat) (data : List Byte) : Desc :=
  descOf h op (fieldsOf [table + first * 2 ^ 32, count, ptr]) data

/-- TIME_CORR: [0] CANCEL, [4] USE_STEP, [5] USE_RATE, [6] USE_SLEW; STEP, RATE, SLEW and AT as patterns. -/
def descTimeCorr (h : DescHdr) (ctl step rate slew at_ : Nat) : Desc :=
  descOf h 8 (fieldsOf [ctl, step % 2 ^ 64, step / 2 ^ 64, rate + slew * 2 ^ 32, at_ % 2 ^ 64, at_ / 2 ^ 64]) []

/-- STOP with its complement in field 3. -/
def descStop (h : DescHdr) (groups kind : Nat) : Desc :=
  descOf h 9 (fieldsOf [groups + kind * 2 ^ 8, 2 ^ 64 - 1 - (groups + kind * 2 ^ 8)]) []

/-- CLEAR_MISS for the axes of a 128-bit mask. -/
def descClearMiss (h : DescHdr) (mask : Nat) : Desc := descOf h 10 (fieldsOf [mask % 2 ^ 64, mask / 2 ^ 64]) []

/-- A block command with its arguments. -/
def descBlock (h : DescHdr) (block cmd : Nat) (b : BlockArgs) : Desc :=
  descOf h 11 (fieldsOf [block + cmd * 2 ^ 8, b.arg0, b.arg1, b.arg2, b.ptr, b.len]) b.data

/-- The block, the command and the arguments of a BLOCK_CMD. -/
def descBlk (d : Desc) : Nat := bits d.f2.toNat 0 8
def descCmd (d : Desc) : Nat := bits d.f2.toNat 8 16
def descArgs (d : Desc) : BlockArgs :=
  { arg0 := d.f3.toNat, arg1 := d.f4.toNat, arg2 := d.f5.toNat, ptr := d.f6.toNat, len := d.f7.toNat, data := d.data }

/-- The eight fields as the 64 bytes that were fetched (R11). -/
def descBytes (d : Desc) : List Byte :=
  (List.range 64).map fun i => BitVec.ofNat 8 (descFld d (i / 8) / 2 ^ (8 * (i % 8)))

/-- A number of 8 bytes of a list from byte i on. -/
def byteWord (b : List Byte) (i : Nat) : BitVec 64 :=
  BitVec.ofNat 64 ((List.range 8).foldl (fun n j => n + (b.getD (i + j) 0).toNat * 2 ^ (8 * j)) 0)

/-- A descriptor of 64 bytes and the data that follows them (R593). -/
def descOfBytes (b : List Byte) : Desc :=
  { f0 := byteWord b 0, f1 := byteWord b 8, f2 := byteWord b 16, f3 := byteWord b 24, f4 := byteWord b 32, f5 := byteWord b 40,
    f6 := byteWord b 48, f7 := byteWord b 56, data := b.drop 64 }

end Sys2Proof.Machine
end

