-- ==== Sys2Proof/Machine/Desc.lean ====
section
/-! DEFINITION. Descriptors (R95, R111 to R124): the checks of their form at validation, the checks of the state and the effect at T0 or the idle tick, block commands, completions, and the mirrored items of a pair (R593, R603, R612). -/

namespace Sys2Proof.Machine

/-! ### Codes with the item they name (R124, R132) -/

/-- A check of an item: its code and item where it is broken. -/
def chkAt (item : Nat) (broken : Bool) (code : Nat) : List (Nat × Nat) := if broken then [(code, item)] else []

/-- The code that stands first, with the first item that has it (R132). -/
def firstAt : List (Nat × Nat) → Nat × Nat
  | [] => (EC.OK, 0)
  | c :: cs =>
    let r := firstAt cs
    if r.1 = EC.OK then c else if codeRank c.1 ≤ codeRank r.1 then c else r

/-! ### Form (R116, R117, R119 to R122) -/

/-- Bits of a field that its form does not name must be 0 (R116). -/
def fieldBits (d : Desc) (f mask : Nat) : List (Nat × Nat) := chkAt f (mclr (descFld d f) mask != 0) EC.RESERVED_SET

def zeroFields (d : Desc) (l : List Nat) : List (Nat × Nat) := l.flatMap fun f => fieldBits d f 0

/-- A host pointer must be a multiple of 16 (R12). -/
def ptrAt (d : Desc) (f : Nat) : List (Nat × Nat) := chkAt f (descFld d f % 16 != 0) EC.ALIGN

/-- The COUNT of a REG_WRITE or REG_READ, and the items it has. -/
def regCount (d : Desc) : Nat := descFld d 2 % 8
def regItems (d : Desc) : List Nat := (List.range (min 4 (regCount d))).map (3 + ·)

/-- Word address and COUNT of a word copy. -/
def wordAddr (d : Desc) : Nat := bits (descFld d 2) 0 22
def wordCount (d : Desc) : Nat := bits (descFld d 2) 32 16

/-- Table, FIRST and COUNT of a table copy. -/
def tabId (d : Desc) : Nat := bits (descFld d 2) 0 16
def tabFirst (d : Desc) : Nat := bits (descFld d 2) 32 32
def tabCount (d : Desc) : Nat := bits (descFld d 3) 0 32

/-- The checks of the form of one register item, named by its BAR0 offset (R124). -/
def itemForm (d : Desc) (f : Nat) : List (Nat × Nat) :=
  let off := descFld d f % 2 ^ 24
  if descOp d = 2 then chkAt off (mclr (descFld d f) (2 ^ 24 - 1 + (2 ^ 64 - 2 ^ 32)) != 0) EC.RESERVED_SET
  else if descOp d = 3 then chkAt off (mclr (descFld d f) (2 ^ 24 - 1) != 0) EC.RESERVED_SET ++ chkAt off (off % 4 != 0) EC.ALIGN
  else []

/-- The checks of a descriptor's fields 2 to 7 that need no state, register items apart.  Item fields beyond COUNT must be 0
(DESIGN CHOICE, log 68). -/
def fieldCodes (d : Desc) : List (Nat × Nat) :=
  match descOp d with
  | 1 => zeroFields d [2, 3, 4, 5, 6, 7]
  | 2 =>
    fieldBits d 2 7 ++ chkAt 2 (regCount d == 0 || decide (4 < regCount d)) EC.RANGE
    ++ zeroFields d (([3, 4, 5, 6].filter fun f => !(regItems d).contains f) ++ [7])
  | 3 =>
    fieldBits d 2 7 ++ chkAt 2 (regCount d == 0 || decide (4 < regCount d)) EC.RANGE
    ++ zeroFields d (([3, 4, 5, 6].filter fun f => !(regItems d).contains f) ++ [7])
  | 4 | 5 =>
    fieldBits d 2 (2 ^ 22 - 1 + (2 ^ 48 - 2 ^ 32)) ++ ptrAt d 3 ++ zeroFields d [4, 5, 6, 7]
    ++ chkAt 2 (wordCount d == 0 || decide (sramWords < wordAddr d + wordCount d)) EC.RANGE
  | 6 | 7 =>
    fieldBits d 2 (2 ^ 16 - 1 + (2 ^ 64 - 2 ^ 32)) ++ fieldBits d 3 (2 ^ 32 - 1) ++ ptrAt d 4 ++ zeroFields d [5, 6, 7]
    ++ (match tableOf (tabId d) with
      | none => chkAt 2 true EC.BAD_FIELD
      | some t =>
        chkAt 2 (descOp d == 6 && !t.writable) EC.BAD_FIELD
        ++ chkAt 3 (tabCount d == 0 || decide (t.recs < tabFirst d + tabCount d)) EC.RANGE)
  | 8 => fieldBits d 2 0x71 ++ fieldBits d 4 255 ++ fieldBits d 7 255
  | 9 =>
    fieldBits d 2 0xFFFF ++ zeroFields d [4, 5, 6, 7] ++ chkAt 2 (decide (4 ≤ bits (descFld d 2) 8 8)) EC.RANGE
    ++ chkAt 3 (!pairOk 64 (descFld d 2) (descFld d 3)) EC.PAIR_MISMATCH
  | 10 => zeroFields d [4, 5, 6, 7]
  | 11 => fieldBits d 2 0xFFFFFF ++ chkAt 2 (decide (descBlk d < 2) || decide (0x0E < descBlk d)) EC.BAD_FIELD
  | _ => chkAt 0 true EC.BAD_FIELD

/-- AT_CYC must be 0 (R120 and the chapters of the blocks). -/
def atZero (d : Desc) : Bool :=
  match descOp d with
  | 4 | 5 | 8 | 9 => true
  | 11 =>
    [0x03, 0x05, 0x0A, 0x0B, 0x0E].contains (descBlk d) || (descBlk d == 0x06 && descCmd d != 4)
  | _ => false

/-- The number of the cycle whose T0 comes first after the start of the cell cycle (R78). -/
def State.firstCycle (s : State) : Nat := (s.tbs.nextT0 - s.getF F.TBS_CYC_PHASE_V) / s.period

/-- The number of the present cycle; before the first T0 after a start, the one before that T0's (R31, DEDUCED, log 72). -/
def State.cycNow (s : State) : Nat := if s.tbs.started then s.tbs.k else s.firstCycle - 1

/-- The number of the present cycle, or of the present idle tick (R124, R130); while the cell cycle is stopped the tick is the
model's (DESIGN CHOICE, log 69). -/
def State.number (s : State) : Nat := if s.cycRun then s.cycNow else s.hst.tickNo

/-- The first cycle at whose T0 a descriptor validated now can take effect (R95). -/
def State.nextEffect (s : State) : Nat :=
  if !s.tbs.started then s.firstCycle
  else if s.tbs.tcDone then s.tbs.k + 2 else s.tbs.k + 1

/-- The checks of AT_CYC (R117, R120). -/
def atCodes (d : Desc) (s : State) : List (Nat × Nat) :=
  let a := descAt d
  if a = 0 then []
  else
    chkAt 1 (atZero d) EC.BAD_FIELD ++ chkAt 1 (!s.cycRun) EC.STATE
    ++ chkAt 1 (s.cycRun && (decide (a < s.nextEffect) || decide (s.cycNow + 2 ^ 20 < a))) EC.RANGE
    ++ chkAt 1 (decide (512 ≤ (s.hst.queue.filter fun q => q.timed).length)) EC.NO_RESOURCE

/-- What a standby refuses (R612). -/
def standbyRefuses (d : Desc) (s : State) : Bool :=
  (s.role == Role.STANDBY && s.pst != PSt.OFF) && !([1, 3, 5, 7, 9].contains (descOp d))

/-- The writes of a REG_WRITE, each judged with those before it made: codes by offset, and the state (R119, R132). -/
def regWrites (d : Desc) : List Nat → State → List (Nat × Nat) × State
  | [], s => ([], s)
  | f :: fs, s =>
    let off := descFld d f % 2 ^ 24
    let v := descFld d f / 2 ^ 32
    let c := writeCode off v s
    let r := regWrites d fs (if c = EC.OK then itemWrite off v s else s)
    (itemForm d f ++ chkAt off (c != EC.OK) c ++ r.1, r.2)

/-! ### Block commands (R119, R122) -/

/-- The checks of a scheduler command (R162). -/
def schCmdCodes (cmd : Nat) (b : BlockArgs) (s : State) : List Nat :=
  let named := maskBits (b.arg0 % 2 ^ 64 + b.arg1 % 2 ^ 64 * 2 ^ 64) 128
  chk (b.arg2 != 0 || b.ptr != 0 || b.len != 0 || cmd == 0 || decide (3 < cmd)) EC.BAD_FIELD
  ++ (if cmd = 1 then (enableAll (progOk s) named s).1 else [])

def schCmdRun (cmd : Nat) (b : BlockArgs) (s : State) : State :=
  let mask := b.arg0 % 2 ^ 64 + b.arg1 % 2 ^ 64 * 2 ^ 64
  match cmd with
  | 1 => (enableAll (progOk s) (maskBits mask 128) s).2
  | 2 => s.each (maskBits mask 128) fun n t => disableCtx n (t.setF F.SCH_CTX_CTL_EN 0 n)
  | 3 => releaseMask mask s
  | _ => s

/-- SWITCHOVER when its cycle comes: done, refused for a mismatch, or not permitted (R622, R623). -/
def switchCodes2 (cmd : Nat) (b : BlockArgs) (s : State) : List Nat :=
  if cmd = 1 ∧ s.role = Role.STANDBY ∧ s.pst = PSt.READY ∧ s.getF F.LND_PROM_AT_CYC + 1 = s.tbs.k then []
  else
    let c := lndCmdCodes cmd b s
    if c.isEmpty then [0x0C03] else c

/-- The checks of a block command when it takes effect. -/
def cmdCodes (blk cmd : Nat) (b : BlockArgs) (s : State) : List Nat :=
  match blk with
  | 0x02 => schCmdCodes cmd b s
  | 0x03 => cenCmdCodes cmd b s
  | 0x04 => trjCmdCodes cmd b s
  | 0x05 => sepCmdCodes cmd b s
  | 0x06 => safCmdCodes cmd b s
  | 0x0A => twlCmdCodes cmd b s
  | 0x0B => dmkCmdCodes cmd b s
  | 0x0C => switchCodes2 cmd b s
  | 0x0D => acqCmdCodes cmd b s
  | 0x0E => bootCmdCodes cmd b s
  | _ => [EC.BAD_FIELD]

/-- A block command's effect. -/
def cmdRun (blk cmd : Nat) (b : BlockArgs) (s : State) : State :=
  match blk with
  | 0x02 => schCmdRun cmd b s
  | 0x03 => cenCmdRun cmd b s
  | 0x04 => trjCmdRun cmd b s
  | 0x05 => sepCmdRun b s
  | 0x06 => safCmdRun cmd b s
  | 0x0A => twlCmdRun cmd b s
  | 0x0B => dmkCmdRun cmd b s
  | 0x0D => acqCmdRun cmd b s
  | 0x0E => bootCmdRun cmd b s
  | _ => s

/-- The key of a command that completes later. -/
def cmdKey (blk cmd : Nat) (b : BlockArgs) (s : State) : Option Nat :=
  match blk, cmd with
  | 0x03, 1 => some 0x30001
  | 0x06, 2 => some 0x60002
  | 0x0A, 2 => some (0xA0002 + b.arg0 % 8 * 2 ^ 24)
  | 0x0B, 1 => some 0xB0001
  | 0x0B, 3 => some s.hostKey
  | 0x0E, 1 => some (s.bootKey 1)
  | 0x0E, 2 => some (s.bootKey 2)
  | 0x0E, 4 => some (s.bootKey 4)
  | 0x0E, 5 => some (s.bootKey 5)
  | _, _ => none

/-! ### Tables (R121) -/

/-- Word w of the i-th record of the data of a TABLE_WRITE. -/
def copyWord (t : TableDef) (d : Desc) (i w : Nat) : Nat := leAt d.data (i * t.hostLen + 9 * w) 9

/-- Put a record of words into a table. -/
def putRec (table rec n : Nat) (w : Nat → Nat) (s : State) : State :=
  s.each (List.range n) fun j t => t.setTw table rec j (BitVec.ofNat 72 (w j))

/-- The checks of one record, by the chapter of its block. -/
def recCodes (table r : Nat) (w : Nat → Nat) (s : State) : List Nat :=
  match table / 256 with
  | 0x03 => cenRecCodes table r w s
  | 0x04 => trjRecCodes table r w s
  | 0x05 => sepRecCodes table r w s
  | 0x06 => safRecCodes table r w s
  | 0x0A => twlRecCodes r w s
  | _ => dmkRecCodes table r w s

/-- The state with every record of a TABLE_WRITE but record i written (none: all of them). -/
def tableNew (t : TableDef) (d : Desc) (but : Option Nat) (s : State) : State :=
  s.each ((List.range (tabCount d)).filter fun i => some i != but) fun i u => putRec t.id (tabFirst d + i) t.words (copyWord t d i) u

/-- The checks of a TABLE_WRITE when it takes effect: each record against the others as written (R121, R317). -/
def tableCodes (d : Desc) (s : State) : List Nat :=
  match tableOf (tabId d) with
  | none => []
  | some t =>
    ((List.range (tabCount d)).flatMap fun i => recCodes t.id (tabFirst d + i) (copyWord t d i) (tableNew t d (some i) s))
    ++ (if 0x0501 ≤ t.id ∧ t.id ≤ 0x0504 then budgetCodes (tableNew t d none s) else [])

/-- All records of a TABLE_WRITE take effect together. -/
def tableDo (d : Desc) (s : State) : State :=
  match tableOf (tabId d) with
  | none => s
  | some t =>
    let new := tableNew t d none s
    new.each (List.range (tabCount d)) fun i u =>
      let r := tabFirst d + i
      if t.id = 0x0A01 then twlRecFollow r u
      else if t.id = 0x0403 then axRecFollow r u
      else sepRecFollow t.id r (s.sensEn r) u

/-- TABLE_READ: each record goes to host memory at its place. -/
def tableSend (d : Desc) (s : State) : State :=
  match tableOf (tabId d) with
  | none => s
  | some t =>
    { s with out := s.out ++ (List.range (tabCount d)).map fun i =>
        .dmaBytes (descFld d 4 + i * t.hostLen) ((List.range t.words).flatMap fun w => leBytes (s.tableWord t.id (tabFirst d + i) w).toNat 9) }

/-! ### Words (R120) -/

/-- Words from host memory into SRAM. -/
def wordDo (d : Desc) (s : State) : State :=
  s.writeWords (wordAddr d) ((List.range (wordCount d)).map fun i => BitVec.ofNat 72 (leAt d.data (9 * i) 9))

/-- SRAM words to host memory; a poisoned word is not delivered (R45). -/
def wordSend (d : Desc) (s : State) : State :=
  { s with out := s.out ++ ((List.range (wordCount d)).filter fun i => !s.poison.contains (wordAddr d + i)).map fun i =>
      .dmaBytes (descFld d 3 + 9 * i) (leBytes (s.readWord (wordAddr d + i)).toNat 9) }

/-! ### Effect -/

/-- The values of a REG_READ, and the state with what the reads latch. -/
def regReads (d : Desc) : List Nat → State → List Nat × State
  | [], s => ([], s)
  | f :: fs, s =>
    let a := regRead (descFld d f % 2 ^ 24) s
    let r := regReads d fs a.2
    (a.1.toNat :: r.1, r.2)

/-- The change a TIME_CORR arms (R119). -/
def corrChange (d : Desc) (sq head : Nat) (s : State) : TbChange :=
  let f2 := descFld d 2
  { step := if bit f2 4 then some (sx 72 (descFld d 3 + descFld d 4 % 256 * 2 ^ 64)) else none,
    rate := if bit f2 5 then some (sx 32 (descFld d 5)) else none,
    slew := if bit f2 6 then some (sx 32 (descFld d 5 / 2 ^ 32)) else none,
    at_ := descFld d 6 + descFld d 7 % 256 * 2 ^ 64, armEdge := s.frc, by_ := some (sq, head) }

/-- The checks of a TIME_CORR when it takes effect, each with its field: those of a write of TBS_P_CMD (R69, R119, R120). -/
def corrCodes (d : Desc) (s : State) : List (Nat × Nat) :=
  let c := corrChange d 0 0 s
  let tooFar (x : TbChange) : Bool := (armCodes x s).contains EC.RANGE
  let rangeAt := if !tooFar { c with step := none, at_ := 0 } then (if tooFar { c with at_ := 0 } then 3 else 6) else 5
  chkAt 2 (s.getF F.TBS_CTL_SRC == 1) EC.STATE
  ++ if bit (descFld d 2) 0 then []
    else (armCodes c s).map fun code => (code, if code = EC.RANGE then rangeAt else if code = EC.STATE then 3 else 2)

/-- The field that a rejection by a record's or a block command's own checks names.  The spec fixes that it is a field index and
not, for a check that looks at records or at several fields, which (log 47). -/
def itemOf (d : Desc) (c : Nat) : Nat := 2 + Config.offendingField (descOp d) (descFld d 2) c % 6

/-- The checks of the state when the descriptor takes effect, each with the item it names: the range of a WORD_WRITE is named
by field 2, and so is the table of a TABLE_WRITE that is locked or busy. -/
def effectCodes (d : Desc) (s : State) : List (Nat × Nat) :=
  match descOp d with
  | 2 => (regWrites d (regItems d) s).1
  | 4 => (wordCodes (wordAddr d) (wordCount d) s).map fun c => (c, 2)
  | 6 => (tableCodes d s).map fun c => (c, if c = EC.LOCKED ∨ c = EC.STATE ∨ c = EC.BUSY then 2 else itemOf d c)
  | 8 => corrCodes d s
  | 11 => (cmdCodes (descBlk d) (descCmd d) (descArgs d) s).map fun c => (c, itemOf d c)
  | _ => []

/-- The code of those checks that stands first, and its item (R132). -/
def effectCode (d : Desc) (s : State) : Nat × Nat := firstAt (effectCodes d s)

/-- The checks made at validation: the descriptor's form, its cycle, and the unit's role.  A descriptor whose form is broken
is judged over all the rules that it breaks (R132). -/
def formCode (d : Desc) (s : State) : Nat × Nat :=
  let forms := fieldBits d 0 0xFFFF03FF ++ fieldCodes d ++ atCodes d s ++ chkAt 0 (standbyRefuses d s) 0x0C01
    ++ (regItems d).flatMap (itemForm d)
  if (firstAt forms).1 = EC.OK then (EC.OK, 0) else firstAt (forms ++ effectCodes d s)

/-- A stop request of the host for the groups of a mask: kind 1 STO, 2 SS1, 3 SS2 (R99). -/
def hostStop (groups kind : Nat) (s : State) : State :=
  if kind = 0 then s else demandMask F.SAF_G_CAUSE_HOST (kind - 1) groups s

/-- CLEAR_MISS of the axes of a mask: flag and count clear and the axis's requester is released (R119, R364), but of an axis
whose flag the hardware sets at the same edge (R53). -/
def clearMiss (mask : Nat) (s : State) : State :=
  s.each ((maskBits mask 128).filter fun a => !(s.getB F.AX_MISS_MISS a && bit (s.updOf (F.AX_MISS_MISS.off a 0)) F.AX_MISS_MISS.lo)) fun a t =>
    releaseStop a ((t.setF F.AX_MISS_MISS 0 a).setF F.AX_MISS_COUNT 0 a)

/-- DATA0 and DATA1 of the completion of an accepted descriptor (R124); ns: the T0 or tick.  Where R124 gives no data they are
0 (DESIGN CHOICE, log 70). -/
def okData (d : Desc) (ns : Nat) (s : State) : Nat × Nat :=
  match descOp d with
  | 1 => (ns, 0)
  | 3 =>
    let v := (regReads d (regItems d) s).1
    (v.getD 0 0 + v.getD 1 0 * 2 ^ 32, v.getD 2 0 + v.getD 3 0 * 2 ^ 32)
  | _ => (0, 0)

/-- The effect of an accepted descriptor (R119). -/
def effectRun (d : Desc) (sq head : Nat) (s : State) : State :=
  match descOp d with
  | 2 => (regWrites d (regItems d) s).2
  | 3 => (regReads d (regItems d) s).2
  | 4 => wordDo d s
  | 5 => wordSend d s
  | 6 => tableDo d s
  | 7 => tableSend d s
  | 8 => if bit (descFld d 2) 0 then cancelChange s else armChange (corrChange d sq head s) s
  | 9 => hostStop (bits (descFld d 2) 0 8) (bits (descFld d 2) 8 8) s
  | 10 => clearMiss (descFld d 2 + descFld d 3 * 2 ^ 64) s
  | 11 => pwmOffer (cmdRun (descBlk d) (descCmd d) (descArgs d) s)
  | _ => s

/-- The key of a descriptor whose command completes later. -/
def effectKey (d : Desc) (s : State) : Option Nat :=
  if descOp d = 11 then cmdKey (descBlk d) (descCmd d) (descArgs d) s else none

/-- A rejected SENS_FRAME still sets the flags of its checks (R131, R309). -/
def rejectedRun (d : Desc) (s : State) : State :=
  if descOp d = 11 ∧ descBlk d = 0x05 then sepCmdRejected (descArgs d) s else s

def State.addComp (s : State) (c : Comp) : State := s.withHst fun h => { h with comps := h.comps ++ [c] }

/-- A validated descriptor takes effect, or is rejected, and its completion is queued (R95, R111, R124). -/
def descTake (q : Queued) (ns : Nat) (s : State) : State :=
  let c := if q.code = EC.OK then effectCode q.desc s else (q.code, q.d0)
  let comp : Comp := { key := none, sq := q.sq, code := c.1, tag := bits q.desc.f0.toNat 16 16, head := q.head, cyc := q.vcyc,
                       d0 := c.2, d1 := 0, irq := bit q.desc.f0.toNat 8 }
  if c.1 ≠ EC.OK then (if q.code = EC.OK then rejectedRun q.desc s else s).addComp comp
  else
    let r := okData q.desc ns s
    effectRun q.desc q.sq q.head (s.addComp { comp with key := effectKey q.desc s, cyc := s.number, d0 := r.1, d1 := r.2 })

/-- The head of a submission ring. -/
def State.sqHead (s : State) (q : Nat) : Nat := s.getF F.HST_SQ_STAT_HEAD q

/-- A descriptor that takes effect at the present edge (the row of its opcode or command). -/
def descNow (sq : Nat) (d : Desc) (s : State) : State :=
  let c := formCode d s
  descTake { sq := sq, head := s.sqHead sq, desc := d, code := c.1, d0 := c.2, cyc := 0, vcyc := s.number, timed := false }
    (if s.cycRun then s.tbs.t0 else s.hst.tickNo * 31250) s

/-! ### Validation and the queue (R95, R111, R112, R117) -/

/-- What the partner of a pair is told of a descriptor that a unit accepts (R603, R612, R622). -/
def mirrorDesc (q : Queued) (s : State) : State :=
  let d := q.desc
  let cyc := if q.timed then q.cyc else s.nextEffect
  if q.code ≠ EC.OK ∨ s.pst < PSt.COPY ∨ PSt.READY < s.pst then s
  else if descOp d = 9 then roleSend 2 q.sq cyc (leBytes (descFld d 2) 8 ++ leBytes (descFld d 3) 8) s
  else if s.role ≠ Role.ACTIVE then s
  else if descOp d = 11 ∧ descBlk d = 0x0C then roleSend 4 q.sq cyc (leBytes cyc 8) s
  else roleSend 1 q.sq cyc (descBytes d ++ d.data) s

/-- Validate a fetched descriptor and queue it. -/
def validate (sq head : Nat) (d : Desc) (s : State) : State :=
  let c := formCode d s
  let timed := c.1 == EC.OK && descAt d != 0
  let q : Queued := { sq := sq, head := head, desc := d, code := c.1, d0 := c.2,
                      cyc := if timed then descAt d else if s.cycRun then s.nextEffect else 0, vcyc := s.number, timed := timed }
  mirrorDesc q (s.withHst fun h => { h with queue := h.queue ++ [q] })

/-- Ready at the T0 of cycle k, or at an idle tick. -/
def Queued.ready (q : Queued) (idle : Bool) (k : Nat) : Bool := if idle then !q.timed else decide (q.cyc ≤ k)

/-- The descriptors of a ring that take effect now: from the oldest on, up to the first that is not ready (R111). -/
def State.dueOf (s : State) (sq : Nat) : List Queued :=
  (s.hst.queue.filter fun q => q.sq == sq).takeWhile fun q => q.ready (!s.cycRun) s.tbs.k

/-- DESCRIPTOR_EFFECT: ascending ring, ring order within a ring (R112). -/
def descEffects (ns : Nat) (s : State) : State :=
  let due := (List.range 64).flatMap s.dueOf
  let s1 := s.withHst fun h => { h with queue := h.queue.filter fun q => !(s.dueOf q.sq).contains q }
  s1.each due fun q t => descTake q ns t

/-- The cell cycle has stopped: a timed descriptor still pending completes with EC_STATE (R117). -/
def timedStop (s : State) : State :=
  s.withHst fun h => { h with queue := h.queue.map fun q => if q.timed then { q with code := EC.STATE, d0 := 1, cyc := 0, timed := false } else q }

/-- The mirrored items of cycle k take effect on the receiver (R593, R612). -/
def roleItems (s : State) : State :=
  let due := s.lnd.role.filter fun r => decide (r.cyc ≤ s.tbs.k)
  let s1 := s.withLnd fun x => { x with role := x.role.filter fun r => decide (s.tbs.k < r.cyc) }
  s1.each ((List.range 64).flatMap fun n => due.filter fun r => r.ring == n) fun r t =>
    match r.item with
    | 1 =>
      let d := descOfBytes r.data
      if [1, 3, 5, 7].contains (descOp d) then t
      else if (effectCode d t).1 ≠ EC.OK then rejectedRun d t
      else effectRun d r.ring 0 t
    | 2 => hostStop (leAt r.data 0 1) (leAt r.data 1 1) t
    | 5 => enterBr (leAt r.data 0 1 % 8) (leAt r.data 1 1) false false t
    | _ => t

/-- A SWITCHOVER takes effect at the next T0: the roles change at this TC (R622). -/
def switchDue (s : State) : State :=
  let k := s.tbs.k + 1
  let mine := (List.range 64).any fun n =>
    ((s.hst.queue.filter fun q => q.sq == n).takeWhile fun q => q.ready false k).any fun q =>
      q.code == EC.OK && descOp q.desc == 11 && descBlk q.desc == 0x0C && (lndCmdCodes (descCmd q.desc) (descArgs q.desc) s).isEmpty
  let told := s.role == Role.STANDBY && s.pst == PSt.READY && s.lnd.role.any fun r => r.item == 4 && r.cyc == k
  if mine || told then switchPlan s else s

end Sys2Proof.Machine
end

