-- ==== Sys2Proof/Machine/Hst.lean ====
section
/-! DEFINITION. The exchange beat (R89 to R110): doorbell reads, the ring index table, descriptor fetches, completions, MSI-X messages, the status mirror, the loss of the host; and the SRAM scrubber (R45, R46). -/

namespace Sys2Proof.Machine

/-! ### The doorbell block (R92, R93, R97 to R103) -/

/-- The controller can read host memory: link up, bus mastering enabled, not in D3hot (R93). -/
def State.busOk (s : State) : Bool := s.hst.linkUp && s.getB F.HST_STAT_BME && !s.hst.d3hot

/-- The host is lost (R103); stale: by its heartbeat. -/
def hostLost (stale : Bool) (s : State) : State :=
  if s.getB F.HST_STAT_HOST_LOSS then s
  else
    let s1 := ((s.setF F.HST_STAT_HOST_LOSS 1).flag F.HST_FAULT_FLAG_HOST_LOSS).postG 0x0006 EC.OK (b2n stale)
    if s.getF F.HST_LOSS_CTL_ACTION = 1 then requestStop Req.host allGroups s1 else s1

/-- A missed doorbell read (R93, R101). -/
def dbMissed (s : State) : State :=
  let s1 := s.withHst fun h => { h with dbDue := none, dbMiss := true }
  let s2 := ((s1.incF F.HST_DB_CNT_CONSEC).incF F.HST_DB_CNT_TOTAL).flag F.HST_FAULT_FLAG_DB_MISS
  if s2.getF F.HST_DB_LIMIT_LIMIT ≤ s2.getF F.HST_DB_CNT_CONSEC then hostLost false s2 else s2

/-- A doorbell read without good data by its deadline is missed (R93). -/
def doorbellDeadline (s : State) : State :=
  match s.hst.dbDue with
  | some t => if t < s.now then dbMissed s else s
  | none => s

/-- The doorbell read of a cycle or idle tick that began at t0, T72 (R92). -/
def doorbellRead (t0 : Nat) (s : State) : State :=
  let s0 := match s.hst.dbDue with | some _ => dbMissed s | none => s
  let s1 := s0.withHst fun h => { h with dbGood := false, dbMiss := false, fetched := 0, corrPosted := false }
  if s.getB F.HST_CTL_EN = false then s1
  else
    let s2 := s1.withHst fun h => { h with dbDue := some (t0 + s.getF F.HST_DB_DL_DL * 256) }
    if s.busOk then s2.emit (.hostRead (s.getF F.HST_DB_BASE_ADDR) 64) else s2

/-- STOP_PAIR of a good read (R99); a pair of the host is forwarded to the partner as well (R612). -/
def stopPair (v c : Nat) (s : State) : State :=
  let bad (code : Nat) : State := demandMask F.SAF_G_CAUSE_HOST 1 allGroups (s.fault code 0x01 4 0)
  if !pairOk 32 v c then bad EC.PAIR_MISMATCH
  else if 4 ≤ bits v 8 8 ∨ bits v 16 16 ≠ 0 then bad EC.RANGE
  else if bits v 8 8 = 0 then s
  else
    let s1 := if PSt.COPY ≤ s.pst ∧ s.pst ≤ PSt.READY then roleSend 2 0 s.nextEffect (leBytes v 4) s else s
    hostStop (bits v 0 8) (bits v 8 8) s1

/-- The mask bits of the ring index table by entry (R97, R100): submission, completion, event rings. -/
def State.ritMask (s : State) : Nat := s.hst.sqMask.toNat + s.hst.cqMask.toNat * 2 ^ 64 + s.hst.eqMask.toNat * 2 ^ 128

/-- The lines of the index table that hold a masked entry (R94). -/
def State.ritLines (s : State) : List Nat := (List.range 9).filter fun l => bits s.ritMask (16 * l) 16 != 0

/-- A good doorbell read (R97 to R103).  The first one ever counts as one with a changed HB (DESIGN CHOICE, log 65); a missed
read between good ones leaves the count of unchanged HBs as it stands (DESIGN CHOICE, log 66). -/
def doorbellGood (data : List Byte) (s : State) : State :=
  let hb := BitVec.ofNat 64 (leAt data 0 8)
  let changed := !s.hst.hbSeen || hb != s.hst.hb
  let stale := if changed then 0 else s.hst.hbStale + 1
  let s1 := (s.withHst fun h => { h with
    dbDue := none, dbGood := true, hb := hb, hbSeen := true, hbStale := stale, sqMask := BitVec.ofNat 64 (leAt data 8 8),
    cqMask := BitVec.ofNat 64 (leAt data 16 8), eqMask := BitVec.ofNat 8 (leAt data 24 1) }).setF F.HST_DB_CNT_CONSEC 0
  let s2 := if changed then s1.setF F.HST_STAT_HOST_LOSS 0 else s1
  let lim := s.getF F.HST_HB_LIMIT_LIMIT
  let s3 := if lim ≠ 0 ∧ lim ≤ stale then hostLost true s2 else s2
  let s4 := stopPair (leAt data 32 4) (leAt data 36 4) s3
  s4.each s4.ritLines fun l t => t.emit (.hostRead (t.getF F.HST_RIT_BASE_ADDR + 64 * l) 64)

/-- Completion data of the doorbell read (R93): good when whole, without error and in time; else missed. -/
def doorbellCompletion (good : Bool) (data : List Byte) (s : State) : State :=
  match s.hst.dbDue with
  | none => s
  | some t => if good = true ∧ s.now ≤ t ∧ s.busOk = true ∧ data.length = 64 then doorbellGood data s else dbMissed s

/-! ### The ring index table (R94, R100, R109) -/

/-- A ring halts (R109): kind 0 submission, 1 completion, 2 event. -/
def ringHalt (kind n cause : Nat) (s : State) : State :=
  let s1 :=
    if kind = 0 then (s.setF F.HST_SQ_STAT_HALT 1 n).setF F.HST_SQ_STAT_CAUSE cause n
    else if kind = 1 then s.setF F.HST_CQ_STAT_HALT 1 n
    else s.setF F.HST_EQ_STAT_HALT 1 n
  s1.postG 0x0007 EC.OK (n + kind * 2 ^ 8 + cause * 2 ^ 10)

/-- Take one entry of the index table. -/
def ritEntry (e v : Nat) (s : State) : State :=
  let kind := if e < 64 then 0 else if e < 128 then 1 else 2
  let n := e % 64
  let en := if kind = 0 then s.getB F.HST_SQ_CFG_EN n else if kind = 1 then s.getB F.HST_CQ_CFG_EN n else s.getB F.HST_EQ_CFG_EN n
  let halt := if kind = 0 then s.getB F.HST_SQ_STAT_HALT n else if kind = 1 then s.getB F.HST_CQ_STAT_HALT n else s.getB F.HST_EQ_STAT_HALT n
  let size := 2 ^ (if kind = 0 then s.getF F.HST_SQ_CFG_SIZE n else if kind = 1 then s.getF F.HST_CQ_CFG_SIZE n else s.getF F.HST_EQ_CFG_SIZE n)
  if !en || halt then s
  else if size ≤ v then ringHalt kind n 2 s
  else s.withHst fun h =>
    if kind = 0 then { h with sqTail := mapSet (fun _ => 0) h.sqTail n v }
    else if kind = 1 then { h with cqHead := mapSet (fun _ => 0) h.cqHead n v }
    else { h with eqHead := mapSet (fun _ => 0) h.eqHead n v }

/-- A line of the index table has been read (R94). -/
def ritLine (l : Nat) (good : Bool) (data : List Byte) (s : State) : State :=
  if s.hst.dbGood = false ∨ s.ritLines.contains l = false then s
  else if good = false ∨ s.busOk = false then s.flag F.HST_FAULT_FLAG_RIT_MISS
  else s.each ((List.range 16).filter fun i => bit s.ritMask (16 * l + i)) fun i t => ritEntry (16 * l + i) (leAt data (4 * i) 4) t

/-! ### Descriptor fetch (R94, R105, R106, R110, R111) -/

def State.sqTailOf (s : State) (q : Nat) : Nat := mapGet (fun _ => 0) s.hst.sqTail q
def State.fenceOf (s : State) (q : Nat) : Option Queued := mapGet (fun _ => none) s.hst.fence q

/-- Free slots of a completion ring (R106). -/
def State.cqFree (s : State) (n : Nat) : Nat :=
  let size := 2 ^ s.getF F.HST_CQ_CFG_SIZE n
  (mapGet (fun _ => 0) s.hst.cqHead n + 2 * size - 1 - s.getF F.HST_CQ_STAT_TAIL n) % size

/-- Slots of a completion ring held for descriptors already fetched (R106). -/
def State.cqHeld (s : State) (n : Nat) : Nat :=
  let cq (q : Nat) : Bool := s.getF F.HST_SQ_CFG_CQ q == n
  (s.hst.queue.filter fun q => cq q.sq).length + (s.hst.comps.filter fun c => cq c.sq).length
    + ((List.range 64).filter fun q => (s.fenceOf q).isSome && cq q).length

/-- A submission ring that asks to fetch. -/
def State.sqAsks (s : State) (q : Nat) : Bool :=
  s.getB F.HST_SQ_CFG_EN q && !s.getB F.HST_SQ_STAT_HALT q && s.sqHead q != s.sqTailOf q && (s.fenceOf q).isNone
    && decide (s.cqHeld (s.getF F.HST_SQ_CFG_CQ q) < s.cqFree (s.getF F.HST_SQ_CFG_CQ q))

/-- The ring that the arbitration grants (R51, R110). -/
def State.sqWinner (s : State) : Option Nat :=
  let asks := (List.range 64).filter s.sqAsks
  let cls (c : Nat) : List Nat := asks.filter fun q => s.getF F.HST_SQ_CFG_CLASS q == c
  match cls 0, cls 1, cls 2 with
  | q :: _, _, _ => some q
  | [], q :: _, _ => some q
  | [], [], l => match l.find? (fun q => decide (s.hst.lastSq < q)) with
    | some q => some q
    | none => l.head?

/-- An earlier descriptor of the ring has not completed (R111). -/
def State.sqOpen (s : State) (q : Nat) : Bool := s.hst.queue.any (fun d => d.sq == q) || s.hst.comps.any fun c => c.sq == q

/-- A descriptor fetch of the granted ring completes (R94, R109 to R111). -/
def descFetch (q : Nat) (good : Bool) (d : Desc) (s : State) : State :=
  if s.hst.dbGood = false ∨ s.sqWinner ≠ some q ∨ s.getF F.HST_FETCH_BUDGET ≤ s.hst.fetched then s
  else
    let s0 := s.emit (.hostRead (s.getF F.HST_SQ_BASE_V q + 64 * s.sqHead q) 64)
    let s1 := s0.withHst fun h => { h with fetched := h.fetched + 1, lastSq := if s.getF F.HST_SQ_CFG_CLASS q = 2 then q else h.lastSq }
    if good = false ∨ s.busOk = false then ringHalt 0 q 1 s1
    else
      let head := (s.sqHead q + 1) % 2 ^ s.getF F.HST_SQ_CFG_SIZE q
      let s2 := s1.setF F.HST_SQ_STAT_HEAD head q
      if descFence d && s.sqOpen q then
        let held : Queued := { sq := q, head := head, desc := d, code := EC.OK, d0 := 0, cyc := 0, vcyc := 0, timed := false }
        s2.withHst fun h => { h with fence := mapSet (fun _ => none) h.fence q (some held) }
      else validate q head d s2

/-- A held FENCE descriptor is validated once every earlier one of its ring has completed (R111). -/
def fenceRelease (q : Nat) (s : State) : State :=
  match s.fenceOf q with
  | none => s
  | some f =>
    if s.sqOpen q then s
    else validate q f.head f.desc (s.withHst fun h => { h with fence := mapSet (fun _ => none) h.fence q none })

/-! ### Completions, events, messages (R96, R106 to R108, R124, R128, R129) -/

/-- The oldest completion that can be written: its command has ended, no earlier one of its ring waits, its completion ring
is enabled and has a free slot.  The rings are those of earlier entries that wait. -/
def nextComp (s : State) : List Nat → List Comp → Option Comp
  | _, [] => none
  | blocked, c :: cs =>
    let cq := s.getF F.HST_SQ_CFG_CQ c.sq
    if c.key = none ∧ blocked.contains c.sq = false ∧ s.getB F.HST_CQ_CFG_EN cq = true ∧ 0 < s.cqFree cq then some c
    else nextComp s (c.sq :: blocked) cs

/-- Remove the first entry equal to c. -/
def dropComp (c : Comp) : List Comp → List Comp
  | [] => []
  | d :: ds => if d = c then ds else d :: dropComp c ds

/-- Write a completion entry (R106, R107, R124). -/
def compWrite (c : Comp) (s : State) : State :=
  let n := s.getF F.HST_SQ_CFG_CQ c.sq
  let tail := s.getF F.HST_CQ_STAT_TAIL n
  let phase := s.getF F.HST_CQ_STAT_PHASE n
  let size := 2 ^ s.getF F.HST_CQ_CFG_SIZE n
  let f0 := c.code % 2 ^ 16 + phase * 2 ^ 16 + c.sq % 2 ^ 6 * 2 ^ 24 + c.tag % 2 ^ 16 * 2 ^ 32 + c.head % 2 ^ 12 * 2 ^ 48
  let s1 := s.emit (.dma (s.getF F.HST_CQ_BASE_V n + 32 * tail)
    [BitVec.ofNat 64 f0, BitVec.ofNat 64 c.cyc, BitVec.ofNat 64 c.d0, BitVec.ofNat 64 c.d1])
  let s2 := s1.setF F.HST_CQ_STAT_TAIL ((tail + 1) % size) n
  let s3 := if tail + 1 = size then s2.setF F.HST_CQ_STAT_PHASE (1 - phase) n else s2
  if c.irq && s.getB F.HST_CQ_CFG_IRQ_EN n then s3.vecDue (s.getF F.HST_CQ_CFG_VECTOR n) else s3

/-- Write the oldest completion that can be written. -/
def completionWrite (s : State) : State :=
  match nextComp s [] s.hst.comps with
  | none => s
  | some c => compWrite c (s.withHst fun h => { h with comps := dropComp c h.comps })

/-- The OVERFLOW event of ring n, once a slot is free beside the reserved one (R108); its place among the ring's events is
that of R114. -/
def overflowEvent (n : Nat) (s : State) : State :=
  let lost := mapGet (fun _ => 0) s.hst.eqLost n
  if lost = 0 ∨ s.getB F.HST_EQ_CFG_EN n = false ∨ s.getB F.HST_EQ_STAT_HALT n = true ∨ s.eqFree n ≤ 1 then s
  else (s.withHst fun h => { h with eqLost := mapSet (fun _ => 0) h.eqLost n 0 }).post overflowType 0 n EC.OK lost

/-- Send a vector's message: at most once per cycle, after the mirror of that cycle, with MSI-X enabled and not while masked
(R96, R128, R129). -/
def msixMessage (v : Nat) (s : State) : State :=
  if s.hst.vecDue.contains v = false ∨ s.hst.vecSent.contains v = true ∨ s.hst.config.msixEnable = false ∨ s.vecMasked v = true
      ∨ (s.cycRun && !s.tbs.tcDone) = true then s
  else (s.withHst fun h => { h with vecDue := listDel h.vecDue v, vecSent := listIns h.vecSent v }).emit
    (.msix v (s.getF F.MSIX_ADDR_V v) (s.getF F.MSIX_DATA_V v))

/-! ### The status mirror (R96, R130) -/

def mirrorState (s : State) : Nat :=
  let groups (p : Nat → Bool) : Nat := ((List.range 8).filter p).foldl (fun m g => m + 2 ^ g) 0
  b2n s.cycRun + b2n s.locked * 2 + b2n s.hst.dbMiss * 4 + b2n (s.getB F.HST_STAT_HOST_LOSS) * 8
  + b2n (decide ((s.rd R.HST_FAULT_FLAG).toNat ≠ 0)) * 16 + b2n s.hst.rejSince * 32
  + groups (fun g => s.getF F.TRJ_LIM_V g == 0) * 2 ^ 8 + groups (fun g => s.gSt g != GS.RUN || s.safSt != SSt.OPERATE) * 2 ^ 16
  + s.safSt % 2 ^ 8 * 2 ^ 24 + s.role % 4 * 2 ^ 32

/-- Deadline-miss flags of axes lo to lo + 63. -/
def missMask (lo : Nat) (s : State) : Nat :=
  ((List.range 64).filter fun i => s.getB F.AX_MISS_MISS (lo + i)).foldl (fun m i => m + 2 ^ i) 0

/-- Write the mirror (R96, R130): cyc and its T0 in ns; a new message of every vector may follow (R128). -/
def mirrorWrite (cyc t0 : Nat) (s : State) : State :=
  if s.getB F.HST_CTL_EN = false then s.withHst fun h => { h with vecSent := [] }
  else
    let err := s.getF F.HST_FAULT_CODE_CODE + s.getF F.HST_ERR_CODE_CODE * 2 ^ 16 + s.getF F.HST_DB_CNT_CONSEC * 2 ^ 32
    let c := BitVec.ofNat 64 cyc
    let s1 := s.emit (.dma (s.getF F.HST_MIR_BASE_ADDR)
      [c, BitVec.ofNat 64 t0, BitVec.ofNat 64 (mirrorState s), BitVec.ofNat 64 (missMask 0 s), BitVec.ofNat 64 (missMask 64 s), s.hst.hb,
       BitVec.ofNat 64 err, ~~~ c])
    let s2 := s1.withHst fun h => { h with rejSince := false, vecSent := [] }
    if s.getB F.HST_CYC_IRQ_EN then s2.vecDue (s.getF F.HST_CYC_IRQ_VECTOR) else s2

/-! ### D3hot and the scrubber -/

/-- A request for D3hot (R90). -/
def d3hotRequest (s : State) : State :=
  s.withHst fun h => if s.cycRun then { h with d3Refused := true } else { h with d3hot := true }

/-- The words of a row that a code block covers (R41). -/
def blockWords (row b : Nat) : List Nat :=
  (List.range 16).filterMap fun w => if 128 * b < 72 * (w + 1) ∧ 72 * w < 128 * (b + 1) then some (16 * row + w) else none

/-- The data bytes of a code block of a row (R41). -/
def State.blockData (s : State) (row b : Nat) : List Nat := (List.range 16).map fun i => (readByte s.mem (144 * row + 16 * b + i)).toNat

/-- Store the data bytes of a code block. -/
def State.putBlock (s : State) (row b : Nat) (d : List Nat) : State :=
  { s with mem := d.zipIdx.foldl (fun m p => writeByte m (144 * row + 16 * b + p.2) (BitVec.ofNat 8 p.1)) s.mem }

/-- The scrubber reads, corrects and rewrites a code block of a row in which bits have turned over (R42, R45, R46). -/
def scrubBlock (flips : List ByteFlip) (row b : Nat) (s : State) : State :=
  let r := eccRead b flips (s.blockData row b)
  match r.1 with
  | .clean => s.putBlock row b r.2
  | .oneByte i _ => eccRecord false row b i 0 (s.putBlock row b r.2)
  | .uncorrectable =>
    let u := eccRecord true row b 31 0 s
    { u with poison := (blockWords row b).foldl listIns u.poison }

/-- The scrubber's row, with the bits that have turned over in it since it was last written (R46). -/
def scrubRow (flips : List ByteFlip) (s : State) : State :=
  let s1 := s.each ((List.range 9).filter fun b => flips.any fun f => f.block == b) fun b t => scrubBlock flips s.scrub b t
  { s1 with scrub := (s.scrub + 1) % 2 ^ 18 }

end Sys2Proof.Machine
end

