-- ==== Sys2Proof/Machine/Cycle.lean ====
section
/-! DEFINITION. The cell cycle (R29 to R40, R78, R79, R95, R96): what the controller does at T0, TS, TR and TC, at the end of the cell cycle, at an idle tick, and at an edge of the free-running counter. -/

namespace Sys2Proof.Machine

/-! ### T0 (R31, R92, R95, R143, R248) -/

/-- Cycle k begins at its instant (R31); the DEP_UNDER and OVERRUN events of the past one are posted (R144, R485). -/
def beginCycle (s : State) : State :=
  let t := s.tbs.nextT0
  adcOverruns (postUnder (s.withTbs fun b => { b with
    k := (t - s.getF F.TBS_CYC_PHASE_V) / s.period, t0 := t, t0Edge := s.frc, nextT0 := t + s.period, started := true,
    tsDone := false, trDone := false, tcDone := false }))

/-- The signals of a T0 (R143): 0, 2 at the first of a separation cycle, 8 + g for a group whose cycle begins. -/
def t0Signals (s : State) : Nat :=
  1 + b2n (s.sepFirst s.tbs.k) * 4 + ((List.range 8).filter fun g => s.dueIn g s.tbs.k).foldl (fun m g => m + 2 ^ (8 + g)) 0

/-- What the engines do at an observed T0, the descriptors applied before; late are the axes whose set points this T0's
evaluation does not complete by TC (R254). -/
def engineT0 (first : Bool) (late : List Nat) (s : State) : State :=
  let s1 := advanceClocks (factorsTake (if first then envStart (trjCycleStart s) else s))
  let s2 := lawsT0 s1
  let s3 := if s2.sepFirst s2.tbs.k then sepSnapshot s2 else s2
  let s4 := evalGroups late (raiseSignals (t0Signals s3) s3)
  pwmOffer (refreshPower (s4.each (List.range 16) fun n t => auxCycle n (t.auxVbus n) t))

/-- The T0 of the next cycle. -/
def takeT0 (late : List Nat) (s : State) : State :=
  let first := !s.tbs.started
  let s1 := beginCycle (dpKeepInputs s)
  let s2 := pairT0 (doorbellRead (s1.tbs.t0 * 256) (acqT0 s1.tbs.t0 s1))
  let s3 := roleItems (descEffects s2.tbs.t0 (progTake s2))
  mirrorPump (engineT0 first late (dmkT0 (twlT0 s3)))

/-! ### TS and TR (R35) -/

/-- The latch of local feedback, and the limits that its positions release. -/
def latchTs (s : State) : State := mirrorPump (limitsRelease (fbkLatch s))

/-- TS: converters and local feedback sample (R415, R472), the latter at the first edge of its sampler (R29). -/
def takeTs (s : State) : State :=
  let s1 := adcTs (s.withTbs fun b => { b with tsDone := true })
  if s1.samplerEdge then latchTs s1 else fbkWait s1

/-- TR: replies are due, the compute window begins (R143, R313, R510, R616). -/
def takeTr (s : State) : State :=
  let s0 := twlTr (s.withTbs fun b => { b with trDone := true })
  let s1 := raiseSignals (2 ^ 1 + branchesDue s0) (branchesTold s0)
  mirrorPump (pairTr (sepSample s1))

/-! ### TC (R39, R40, R96) -/

/-- The set point of an axis due in the present cycle is not complete (R39, R254). -/
def State.spIsLate (s : State) (a : Nat) : Bool := (s.ax a).lateNow && (s.groupOf a).any fun g => s.dueIn g s.tbs.k

/-- One axis at TC: a late output sets its flag and counts; the third cycle in a row asks for a stop (R39, R40). -/
def axisTc (a : Nat) (s : State) : State :=
  let late := ([2 * a, 2 * a + 1]).filter s.lawIsLate
  let n := s.getF F.AX_MISS_COUNT a
  if late.isEmpty && !s.spIsLate a then (if n < 3 then s.setF F.AX_MISS_COUNT 0 a else s)
  else
    let s1 := ((s.each late lawLate).note 4).setF F.AX_MISS_MISS 1 a
    if n = 2 then requestStop a (s1.axisMask a) ((s1.setF F.AX_MISS_COUNT 3 a).postG 0x0005 EC.OK a)
    else s1.setF F.AX_MISS_COUNT (min 3 (n + 1)) a

/-- TC of the present cycle. -/
def takeTc (s : State) : State :=
  let s1 := lateContexts (auxMeasured (s.each (List.range 128) axisTc))
  let s2 := pairTc (switchDue (factorsIssue s1))
  let s3 := mirrorWrite s2.tbs.k s2.tbs.t0 (attestLatch s2)
  pwmOffer (s3.withTbs fun b => { b with tcDone := true })

/-! ### The rows of the cell cycle -/

/-- Is the present edge at or after an instant, T72? -/
def State.reached (s : State) (t : Nat) : Bool := decide (t ≤ s.now)

/-- TS, TR and TC of the present cycle that have not been taken, in order, up to and with TC: an instant passes whether or not
its own command came (log 48). -/
def tsIfDue (s : State) : State := if s.cycRun && s.tbs.started && !s.tbs.tsDone && s.reached s.tsAt then takeTs s else s
def trIfDue (s0 : State) : State :=
  let s := tsIfDue s0
  if s.cycRun && s.tbs.started && !s.tbs.trDone && s.reached s.trAt then takeTr s else s
def tcIfDue (s0 : State) : State :=
  let s := trIfDue s0
  if s.cycRun && s.tbs.started && !s.tbs.tcDone && s.reached s.tcAt then takeTc s else s

/-- A T0 is due: the cell cycle runs, no accepted stop waits, and its instant has come. -/
def State.t0Due (s : State) : Bool := s.cycRun && !s.tbs.stopping && s.reached (s.tbs.nextT0 * 256)

def cellT0 (late : List Nat) (s : State) : State := if s.t0Due then takeT0 late (tcIfDue s) else s

/-! ### The end of the cell cycle (R79) -/

/-- An accepted stop ends the cell cycle at the instant at which the next T0 would lie, or at once before the first. -/
def State.endDue (s : State) : Bool :=
  s.cycRun && s.tbs.stopping && (!s.tbs.started || s.reached (s.tbs.nextT0 * 256))

/-- CYC_RUN falls to 0; the idle ticks before that instant have passed (R92). -/
def takeEnd (s : State) : State :=
  let last := if s.tbs.started then (s.tbs.nextT0 - 1) / 31250 else s.ns / 31250
  let s1 := ((s.withTbs fun b => { b with started := false, stopping := false, tsDone := true, trDone := true, tcDone := true }).setF
    F.TBS_STAT_CYC_RUN 0).setF F.TBS_CYC_CTL_RUN 0
  let s2 := s1.withHst fun h => { h with tickNo := last }
  let s3 := sepClear ((cmdLost (timedStop s2)).each (List.range 8) groupMembers)
  acqCycleEnd (pairCycleEnd (dmkCycleEnd (twlCycleEnd (adcCycleEnd (pwmCycleEnd s3)))))

def cellEnd (s : State) : State := if s.endDue then takeEnd (tcIfDue s) else s

/-! ### Idle ticks (R92, R96, R118) -/

/-- The number of the idle tick at or before the present edge. -/
def State.tickDue (s : State) : Nat := s.ns / 31250

/-- An idle tick is due. -/
def State.idleDue (s : State) : Bool := !s.cycRun && s.hst.tickNo != s.tickDue

/-- The tick's doorbell read begins before its mirror is written, so that the mirror shows no missed read (DESIGN CHOICE,
log 71). -/
def takeIdle (s : State) : State :=
  let n := s.tickDue
  let s1 := adcOverruns (postUnder (s.withHst fun h => { h with tickNo := n }))
  let s2 := descEffects (n * 31250) (progTake (doorbellRead (n * 31250 * 256) (acqT0 (n * 31250) s1)))
  mirrorWrite n (n * 31250) (attestLatch (limitsRelease (pwmOffer s2)))

def idleTick (s : State) : State := if s.idleDue then takeIdle s else s

/-! ### Edges of the counter -/

/-- One edge of the free-running counter, 1 ns (R55): the events of the past nanosecond are written (R114), host writes put off take effect (R53), the boot leaves HOLD at the first one (R667), a STOP of an acquisition unit that
waited for a sample of the past edge takes effect (R648), and at an edge of the sampler the general inputs are sampled (R274) and the compare units on feedback channels compare (R281; log 32). -/
def edge (s : State) : State :=
  let s1 := acqPast (putOffWrites { s with frc := (s.frc + 1) % 2 ^ 64 }.flushEvents)
  let s2 := if s1.stage = Stage.HOLD then s1.setF F.BOOT_STAT_STAGE Stage.ROM else s1
  if s2.samplerEdge then
    let s3 := fbkStarts s2
    fbkSample (sampleInputs (if s3.fbk.latchDue then latchTs s3 else s3))
  else s2

end Sys2Proof.Machine
end

