-- ==== Sys2Proof/Machine/TimeRows.lean ====
section
/-! DEFINITION. The commands of the time base, the cell cycle, the scrubber and the exchange beat. -/

namespace Sys2Proof.Machine

/-- The answer of every command: the controller goes on. -/
abbrev Answer := Host.Outcome State Fault Refusal

/-! ### Cell cycle (R31, R35, R39, R78 to R80) -/

/-- CELL_CYCLE_T0 (R31): the next cycle begins, where its T0 has come; late are the axes whose set points its evaluations do not
complete by TC (R254). -/
def execCellCycleT0 (s : State) (late : List Nat := []) : Answer := .next (cellT0 late s)

/-- CELL_CYCLE_TS (R35). -/
def execCellCycleTs (s : State) : Answer := .next (tsIfDue s)

/-- CELL_CYCLE_TR (R35). -/
def execCellCycleTr (s : State) : Answer := .next (trIfDue s)

/-- CELL_CYCLE_TC (R39). -/
def execCellCycleTc (s : State) : Answer := .next (tcIfDue s)

/-- CYCLE_END (R79). -/
def execCycleEnd (s : State) : Answer := .next (cellEnd s)

/-- CYCLE_START (R78): RUN is written 1. -/
def execCycleStart (s : State) : Answer := .next (fieldWrite F.TBS_CYC_CTL_RUN 1 0 0 s)

/-- CYCLE_STOP (R79): RUN is written 0. -/
def execCycleStop (s : State) : Answer := .next (fieldWrite F.TBS_CYC_CTL_RUN 0 0 0 s)

/-- PERIOD_WRITE (R80). -/
def execPeriodWrite (period : Nat) (s : State) : Answer := .next (fieldWrite F.TBS_CYC_CTL_PERIOD period 0 0 s)

/-! ### Changes of corrected time (R61 to R68) -/

/-- TBS_ARM (R61): TBS_P_CMD is written with ARM and the parts it uses. -/
def execTbsArm (step rate slew : Bool) (s : State) : Answer :=
  .next (barWrite R.TBS_P_CMD (1 + 16 * b2n step + 32 * b2n rate + 64 * b2n slew) true s)

/-- TBS_CANCEL (R68). -/
def execTbsCancel (s : State) : Answer := .next (barWrite R.TBS_P_CMD 2 true s)

/-- APPLY_CHANGE (R63). -/
def execApplyChange (s : State) : Answer :=
  .next (match s.tbs.pend with
    | some c => if applyDue c s then applyChange c s else s
    | none => s)

/-- SLEW_DONE (R65). -/
def execSlewDone (s : State) : Answer := .next (if slewDue s then endSlew s else s)

/-- TIME_READ_LATCH (R72): a BAR0 read of size bytes. -/
def execTimeReadLatch (off size : Nat) (s : State) : Answer := .next (barRead off size s)

/-! ### Timed starts (R81 to R83) -/

/-- The target of a unit (TBS_TRG_CTL.TARGET, KIND). -/
def State.trgKind (s : State) (u : Nat) : Nat × Nat := (s.getF F.TBS_TRG_CTL_KIND u, s.getF F.TBS_TRG_CTL_TARGET u)

/-- Enabled units whose target has come, lowest first. -/
def State.trgDue (s : State) : List Nat :=
  (List.range 16).filter fun u => s.getB F.TBS_TRG_CTL_EN u && match mapGet (fun _ => none) s.tbs.trgNext u with
    | some t => decide (t ≤ s.now)
    | none => false

/-- The start a fired unit gives its target; at is the instant aimed at, which a converter's strobe resolves to 125 ps
(R81). -/
def trgStart (kind target at_ : Nat) (s : State) : State :=
  match kind with
  | 1 => injStart target (s.phaseRaw at_) s
  | 2 => scanStart target (s.phaseRaw at_) s
  | 3 => acqArm target s
  | 4 => acqForce target s
  | _ => s

/-- The latest step carried corrected time past a target (R82). -/
def State.steppedPast (s : State) (t : Nat) : Bool := match s.tbs.stepFrom with
  | some old => decide (old < t) && decide ((t : Int) ≤ s.tbs.par.time (256 * s.tbs.applyEdge))
  | none => false

/-- Targets of a period after t that the latest step has carried corrected time past as well. -/
def State.skipped (s : State) (t per : Nat) : Nat :=
  if per = 0 ∨ s.steppedPast t = false then 0 else ((s.tbs.par.time (256 * s.tbs.applyEdge)).toNat - t) / per

/-- One unit fires: its flags, its next target, and its start unless a lower unit of the edge gave it (R81 to R83).  After a
step it goes on from the first target after the new time, else from one period after this one. -/
def trgFire (due : List Nat) (u : Nat) (s : State) : State :=
  match mapGet (fun _ => none) s.tbs.trgNext u with
  | none => s
  | some t =>
    let per := s.getF F.TBS_TRG_PER_V u * 256
    let skip := s.skipped t per
    let late := s.tbs.trgLate.contains u || (decide (per ≠ 0) && s.steppedPast t)
    let shared := due.any fun v => decide (v < u) && s.trgKind v == s.trgKind u
    let s1 := ((s.flag F.TBS_TRG_STAT_FIRED u).flagIf shared F.TBS_TRG_STAT_COALESCED u).flagIf late F.TBS_TRG_STAT_LATE u
    let s2 := (s1.setF F.TBS_TRG_STAT_MISSED (min 255 (s1.getF F.TBS_TRG_STAT_MISSED u + skip)) u).withTbs fun b => { b with
      trgLate := listDel b.trgLate u, trgNext := mapSet (fun _ => none) b.trgNext u (if per = 0 then none else some (t + (skip + 1) * per)) }
    if shared then s2 else trgStart (s.trgKind u).1 (s.trgKind u).2 t s2

/-- TIMED_START_FIRE (R81): every unit whose target has come fires. -/
def execTimedStartFire (s : State) : Answer := .next (s.each s.trgDue fun u t => trgFire s.trgDue u t)

/-! ### Reference, scrubber, power state -/

/-- REF_LOSS (R85). -/
def execRefLoss (s : State) : Answer :=
  .next (requestStop Req.ref allGroups ((((s.setF F.TBS_STAT_PLL_LOCK 0).flag F.TBS_FLAG_REF_LOSS).note 9).postG 0x0009 EC.OK 0))

/-- PLL_LOCK_REGAIN (R85). -/
def execPllLockRegain (s : State) : Answer := .next (s.setF F.TBS_STAT_PLL_LOCK 1)

/-- SCRUB_ROW (R46): the next row, with the bits that have turned over in it. -/
def execScrubRow (data check : List ByteFlip) (s : State) : Answer := .next (scrubRow (data ++ check) s)

/-- D3HOT_REQUEST (R90). -/
def execD3hotRequest (s : State) : Answer := .next (d3hotRequest s)

/-! ### The exchange beat (R92 to R111, R128) -/

/-- IDLE_TICK (R92). -/
def execIdleTick (s : State) : Answer := .next (idleTick s)

/-- DOORBELL_COMPLETION (R93). -/
def execDoorbellCompletion (good : Bool) (data : List Byte) (s : State) : Answer := .next (doorbellCompletion good data s)

/-- DOORBELL_DEADLINE (R93). -/
def execDoorbellDeadline (s : State) : Answer := .next (doorbellDeadline s)

/-- RIT_LINE_READ (R94). -/
def execRitLineRead (line : Nat) (good : Bool) (data : List Byte) (s : State) : Answer := .next (ritLine line good data s)

/-- DESCRIPTOR_FETCH (R94). -/
def execDescriptorFetch (sq : Nat) (good : Bool) (desc : Desc) (s : State) : Answer := .next (descFetch sq good desc s)

/-- FENCE_RELEASE (R111). -/
def execFenceRelease (sq : Nat) (s : State) : Answer := .next (fenceRelease sq s)

/-- COMPLETION_WRITE (R106). -/
def execCompletionWrite (s : State) : Answer := .next (completionWrite s)

/-- OVERFLOW_EVENT (R108). -/
def execOverflowEvent (ring : Nat) (s : State) : Answer := .next (overflowEvent ring s)

/-- MSIX_MESSAGE (R128). -/
def execMsixMessage (vector : Nat) (s : State) : Answer := .next (msixMessage vector s)

end Sys2Proof.Machine
end

