-- ==== Sys2Proof/Machine/DescRows.lean ====
section
/-! DEFINITION. The descriptors by opcode (R119): each command is that descriptor taking effect at the present edge, with its completion queued. -/

namespace Sys2Proof.Machine

/-- NOP (R119). -/
def execNop (h : DescHdr) (s : State) : Answer := .next (descNow h.sq (descNop h) s)

/-- REG_WRITE (R119): pairs of offset and value. -/
def execRegWrite (h : DescHdr) (items : List (Nat × Nat)) (s : State) : Answer := .next (descNow h.sq (descRegWrite h items) s)

/-- REG_READ (R119). -/
def execRegRead (h : DescHdr) (offs : List Nat) (s : State) : Answer := .next (descNow h.sq (descRegRead h offs) s)

/-- WORD_WRITE (R120): word address, COUNT, host pointer and the bytes there. -/
def execWordWrite (h : DescHdr) (waddr count ptr : Nat) (data : List Byte) (s : State) : Answer :=
  .next (descNow h.sq (descWord h 4 waddr count ptr data) s)

/-- WORD_READ (R120). -/
def execWordRead (h : DescHdr) (waddr count ptr : Nat) (s : State) : Answer := .next (descNow h.sq (descWord h 5 waddr count ptr []) s)

/-- TABLE_WRITE (R121): TABLE, FIRST, COUNT, host pointer and the bytes there. -/
def execTableWrite (h : DescHdr) (table first count ptr : Nat) (data : List Byte) (s : State) : Answer :=
  .next (descNow h.sq (descTable h 6 table first count ptr data) s)

/-- TABLE_READ (R121). -/
def execTableRead (h : DescHdr) (table first count ptr : Nat) (s : State) : Answer :=
  .next (descNow h.sq (descTable h 7 table first count ptr []) s)

/-- TIME_CORR (R120): the bits of field 2, STEP, RATE, SLEW and AT. -/
def execTimeCorr (h : DescHdr) (ctl step rate slew at_ : Nat) (s : State) : Answer :=
  .next (descNow h.sq (descTimeCorr h ctl step rate slew at_) s)

/-- STOP (R119). -/
def execStop (h : DescHdr) (groups kind : Nat) (s : State) : Answer := .next (descNow h.sq (descStop h groups kind) s)

/-- CLEAR_MISS (R123): a mask of 128 axes. -/
def execClearMiss (h : DescHdr) (axes : Nat) (s : State) : Answer := .next (descNow h.sq (descClearMiss h axes) s)

/-- A block command that takes effect at the present edge. -/
def blockNow (h : DescHdr) (blk cmd : Nat) (b : BlockArgs) (s : State) : State := descNow h.sq (descBlock h blk cmd b) s

end Sys2Proof.Machine
end

