-- ==== Sys2Proof/Machine/SchRows.lean ====
section
/-! DEFINITION. The commands of the register map, the rings and the task scheduler. -/

namespace Sys2Proof.Machine

/-! ### Registers and rings (R107, R109, R131, R134) -/

/-- REGISTER_WRITE (R131): a BAR0 write; full says that it is a 4-byte write with all byte enables set (R91). -/
def execRegisterWrite (off value : Nat) (full : Bool) (s : State) : Answer := .next (barWrite off value full s)

/-- COMMIT_LOCK_SET (R134). -/
def execCommitLockSet (s : State) : Answer := .next (barWrite R.HST_LOCK 1 true s)

/-- COMMIT_LOCK_CLEAR (R134). -/
def execCommitLockClear (s : State) : Answer := .next (barWrite R.HST_LOCK 0 true s)

/-- The EN field of a ring: kind 0 submission, 1 completion, 2 event. -/
def ringField (kind : Nat) : Fld :=
  if kind = 0 then F.HST_SQ_CFG_EN else if kind = 1 then F.HST_CQ_CFG_EN else F.HST_EQ_CFG_EN

/-- RING_ENABLE (R107). -/
def execRingEnable (kind n : Nat) (s : State) : Answer := .next (fieldWrite (ringField kind) 1 n 0 s)

/-- RING_DISABLE (R109). -/
def execRingDisable (kind n : Nat) (s : State) : Answer := .next (fieldWrite (ringField kind) 0 n 0 s)

/-! ### Enable, disable, release (R140, R141, R162, R167) -/

/-- A scheduler command for the contexts of a mask. -/
def schArgs (mask : Nat) : BlockArgs :=
  { arg0 := mask % 2 ^ 64, arg1 := mask / 2 ^ 64 % 2 ^ 64, arg2 := 0, ptr := 0, len := 0, data := [] }

/-- CTX_ENABLE (R141): by descriptor, or by a write of each context's register. -/
def execCtxEnable (h : Option DescHdr) (mask : Nat) (s : State) : Answer :=
  .next (match h with
    | some h => blockNow h 0x02 1 (schArgs mask) s
    | none => s.each (maskBits mask 128) (fieldWrite F.SCH_CTX_CTL_EN 1 · 0))

/-- CTX_DISABLE (R140). -/
def execCtxDisable (h : Option DescHdr) (mask : Nat) (s : State) : Answer :=
  .next (match h with
    | some h => blockNow h 0x02 2 (schArgs mask) s
    | none => s.each (maskBits mask 128) (fieldWrite F.SCH_CTX_CTL_EN 0 · 0))

/-- CTX_RELEASE (R162). -/
def execCtxRelease (h : DescHdr) (mask : Nat) (s : State) : Answer := .next (blockNow h 0x02 3 (schArgs mask) s)

/-- CLR_STAT (R167). -/
def execClrStat (s : State) : Answer := .next (fieldWrite F.SCH_CTL_CLR_STAT 1 0 0 s)

/-! ### Ticks (R138, R145, R155) -/

/-- DELAY_TICK (R138). -/
def execDelayTick (s : State) : Answer := .next (tickStep s)

/-- AGE_PROMOTE (R155): at a tick that has come. -/
def execAgePromote (s : State) : Answer := .next (if s.sch.tick = s.tickAt then s else ageStep s)

/-! ### Dispatch (R148 to R150, R157, R159, R178, R181) -/

/-- The measured latency of a level-0 dispatch (R159). -/
def l0Measure (n : Nat) (held : Bool) (latency : Nat) (s : State) : State :=
  let m := min 65535 latency
  let s1 := if s.getF F.SCH_L0_MAX_MAX < m then s.setF F.SCH_L0_MAX_MAX m else s
  if l0Bound held s < latency then
    requestStop Req.l0 allGroups (((s1.flag F.SCH_FLAG_L0_OVER).note 2).post 0x0206 2 n 0x0208 latency)
  else s1

/-- Put a context on its lanes: resumed where it was interrupted, or started at its entry; a context of the law library
runs its laws. -/
def dispatchOn (n lane latency : Nat) (s : State) : State :=
  let resumed := s.sch.saved.contains n
  let held := s.sch.l0Held.contains n
  let s1 := startRun n lane s
  let s2 := if resumed then s1 else dpStart n s1
  let s3 := if s.getF F.SCH_CTX_CTL_LEVEL n = 0 then l0Measure n held latency s2 else s2
  if s.isLib n && !resumed then lawRuns n s3 else s3

/-- DISPATCH (R149): the context the dispatcher places next, with the measured latency in engine cycles. -/
def execDispatch (n latency : Nat) (s : State) : Answer :=
  .next (if s.getB F.SCH_CTL_EN then
    match placeOf n s with
    | some lane => updateReserv (dispatchOn n lane latency s)
    | none => s
    else s)

/-- A running context of levels 1 to 15 that holds a lane of a ready level-0 context (R153). -/
def State.mustYield (s : State) (n : Nat) : Bool :=
  decide (s.getF F.SCH_CTX_STAT_CUR_LEVEL n ≠ 0) && !s.sch.ended.contains n && (s.lanesOf n &&& s.l0Ready) != 0

/-- PREEMPT (R153): the context is at an interruption point, its state is saved. -/
def execPreempt (n : Nat) (s : State) : Answer :=
  .next (if s.mustYield n then
    updateReserv ((dpPreempt n ((makeReady n true s).flag F.SCH_CTX_FLAG_PREEMPTED n)).withSch fun h => { h with saved := listIns h.saved n })
    else s)

/-- A control-engine context that has ended its run. -/
def State.ctxEnds (s : State) (n : Nat) : Bool :=
  decide (s.lanesOf n ≠ 0) && (s.sch.ended.contains n || s.isLib n)

/-- CTX_COMPLETE (R140). -/
def execCtxComplete (n : Nat) (s : State) : Answer :=
  .next (if s.ctxEnds n then updateReserv (completeCtx n (sliceFree n s)) else s)

/-! ### Services (R151, R152) -/

/-- The service contexts, highest level first: the head is dispatched next. -/
def State.svcHead (s : State) : Option Nat := (readyOrder true s).head?

/-- The lowest idle of the eight service cores. -/
def State.idleCore (s : State) : Option Nat := (List.range 8).find? fun c => !s.sch.cores.any fun p => p.1 == c

/-- A word of a service's parameter record. -/
def State.svcWord (s : State) (n i : Nat) : Nat := (s.readWord ((s.getF F.SCH_CTX_ARG_ARG n + i) % sramWords)).toNat

/-- WORD_COPY (R152): ascending; a poisoned word stays poisoned (R45); addresses wrap at the end of SRAM (log 49). -/
def wordCopy (src dst count : Nat) (s : State) : State :=
  s.each (List.range count) fun i t =>
    let a := (src + i) % sramWords
    let b := (dst + i) % sramWords
    let u := t.writeWord b (t.readWord a)
    if t.poison.contains a then { u with poison := listIns u.poison b } else u

/-- The service error of a context's parameters (R152, R238), if any. -/
def State.svcError (s : State) (n : Nat) : Option Nat :=
  if s.getF F.SCH_CTX_ENTRY_ENTRY n % 2 ^ 16 ≠ 1 then none
  else
    let src := s.svcWord n 0 % sramWords
    let dst := s.svcWord n 1 % sramWords
    let count := s.svcWord n 2
    if count = 0 ∨ 65535 < count then some 0x81
    else if s.touchesLocked src count || s.touchesLocked dst count || s.touchesProg dst count then some 0x82
    else none

/-- The service runs on its core. -/
def svcRun (n : Nat) (s : State) : State :=
  if s.getF F.SCH_CTX_ENTRY_ENTRY n % 2 ^ 16 = 1 then
    wordCopy (s.svcWord n 0 % sramWords) (s.svcWord n 1 % sramWords) (s.svcWord n 2) s
  else s.post 0x0205 2 n EC.OK (s.svcWord n 0 % 2 ^ 64)

/-- SVC_DISPATCH (R151): a service error ends the service and halts the context (R238). -/
def execSvcDispatch (s : State) : Answer :=
  .next (match s.svcHead, s.idleCore with
    | some n, some c =>
      if s.getB F.SCH_CTL_EN = false then s
      else
        let s1 := startRun n (s.getF F.SCH_CTX_STAT_LANE_AT n) s
        match s1.svcError n with
        | some e => (exception n e s1).setF F.CEN_EXC_PC_PC (Config.serviceExcWord n e)
        | none => svcRun n (s1.withSch fun h => { h with cores := mapSet (fun _ => none) h.cores c (some n) })
    | _, _ => s)

/-- SVC_COMPLETE (R151): the service of a core has returned. -/
def execSvcComplete (core : Nat) (s : State) : Answer :=
  .next (match mapGet (fun _ => none) s.sch.cores core with
    | some n => completeCtx n (s.withSch fun h => { h with cores := mapDel h.cores core })
    | none => s)

end Sys2Proof.Machine
end

