-- ==== Sys2Proof/Machine/LawRows.lean ====
section
/-! DEFINITION. The commands of control laws, of the datapath's instructions (each issues in the context named first) and of programs. -/

namespace Sys2Proof.Machine

/-- LAW_ENABLE (R213). -/
def execLawEnable (n : Nat) (s : State) : Answer := .next (fieldWrite F.CEN_LAW_CTL_EN 1 n 0 s)

/-- LAW_DISABLE (R213). -/
def execLawDisable (n : Nat) (s : State) : Answer := .next (fieldWrite F.CEN_LAW_CTL_EN 0 n 0 s)

/-! ### Instructions (R216 to R239) -/

/-- WALNO_NOP (R226). -/
def execWalnoNop (ctx : Nat) (s : State) : Answer := .next (walnoIssue ctx .nop s)

/-- END (R232). -/
def execWalnoEnd (ctx : Nat) (s : State) : Answer := .next (walnoIssue ctx .end_ s)

/-- BR (R226). -/
def execWalnoBr (ctx : Nat) (target : Nat) (s : State) : Answer := .next (walnoIssue ctx (.br target) s)

/-- BRC (R231). -/
def execWalnoBrc (ctx : Nat) (acc cond target : Nat) (s : State) : Answer := .next (walnoIssue ctx (.brc acc cond target) s)

/-- LOOP (R235). -/
def execWalnoLoop (ctx : Nat) (count len : Nat) (s : State) : Answer := .next (walnoIssue ctx (.loop count len) s)

/-- REP (R233). -/
def execWalnoRep (ctx : Nat) (count : Nat) (s : State) : Answer := .next (walnoIssue ctx (.rep count) s)

/-- MAC (R226). -/
def execWalnoMac (ctx : Nat) (acc xg xpm sg spm sb : Nat) (s : State) : Answer := .next (walnoIssue ctx (.mul 0 acc xg xpm sg spm sb) s)

/-- MSU (R226). -/
def execWalnoMsu (ctx : Nat) (acc xg xpm sg spm sb : Nat) (s : State) : Answer := .next (walnoIssue ctx (.mul 1 acc xg xpm sg spm sb) s)

/-- MUL (R226). -/
def execWalnoMul (ctx : Nat) (acc xg xpm sg spm sb : Nat) (s : State) : Answer := .next (walnoIssue ctx (.mul 2 acc xg xpm sg spm sb) s)

/-- MULN (R226). -/
def execWalnoMuln (ctx : Nat) (acc xg xpm sg spm sb : Nat) (s : State) : Answer := .next (walnoIssue ctx (.mul 3 acc xg xpm sg spm sb) s)

/-- CLR (R226). -/
def execWalnoClr (ctx : Nat) (acc : Nat) (s : State) : Answer := .next (walnoIssue ctx (.clr acc) s)

/-- MOV (R226). -/
def execWalnoMov (ctx : Nat) (acc src : Nat) (s : State) : Answer := .next (walnoIssue ctx (.mov acc src) s)

/-- ADDA (R226). -/
def execWalnoAdda (ctx : Nat) (acc src : Nat) (s : State) : Answer := .next (walnoIssue ctx (.adda acc src) s)

/-- SUBA (R226). -/
def execWalnoSuba (ctx : Nat) (acc src : Nat) (s : State) : Answer := .next (walnoIssue ctx (.suba acc src) s)

/-- NEG (R226). -/
def execWalnoNeg (ctx : Nat) (acc : Nat) (s : State) : Answer := .next (walnoIssue ctx (.neg acc) s)

/-- CLMP (R226). -/
def execWalnoClmp (ctx : Nat) (acc lo hi : Nat) (s : State) : Answer := .next (walnoIssue ctx (.clmp acc lo hi) s)

/-- LDE (R228). -/
def execWalnoLde (ctx : Nat) (acc g pm lane : Nat) (s : State) : Answer := .next (walnoIssue ctx (.lde acc g pm lane) s)

/-- LDQ (R226). -/
def execWalnoLdq (ctx : Nat) (acc g pm lane f : Nat) (s : State) : Answer := .next (walnoIssue ctx (.ldq acc g pm lane f) s)

/-- LDI (R230). -/
def execWalnoLdi (ctx : Nat) (acc src inst field : Nat) (s : State) : Answer := .next (walnoIssue ctx (.ldi acc src inst field) s)

/-- STA (R229). -/
def execWalnoSta (ctx : Nat) (acc g pm lane : Nat) (s : State) : Answer := .next (walnoIssue ctx (.sta acc g pm lane) s)

/-- STQ (R226). -/
def execWalnoStq (ctx : Nat) (acc g pm lane f : Nat) (s : State) : Answer := .next (walnoIssue ctx (.stq acc g pm lane f) s)

/-- AGSET (R222). -/
def execWalnoAgset (ctx : Nat) (g base len unit : Nat) (s : State) : Answer := .next (walnoIssue ctx (.agset g base len unit) s)

/-- AGSTG (R228). -/
def execWalnoAgstg (ctx : Nat) (g hdr ls step : Nat) (s : State) : Answer := .next (walnoIssue ctx (.agstg g hdr ls step) s)

/-- AGMOD (R222). -/
def execWalnoAgmod (ctx : Nat) (g step ls exp : Nat) (s : State) : Answer := .next (walnoIssue ctx (.agmod g step ls exp) s)

/-- AGPTR (R222). -/
def execWalnoAgptr (ctx : Nat) (g ptr : Nat) (s : State) : Answer := .next (walnoIssue ctx (.agptr g ptr) s)

/-! ### Programs (R241 to R243) -/

/-- PROG_LOAD (R242): slot, first word, number of words, CRC-32C. -/
def execProgLoad (h : DescHdr) (slot base len crc : Nat) (s : State) : Answer :=
  .next (blockNow h 0x03 1 { arg0 := slot, arg1 := base + len * 2 ^ 32, arg2 := crc, ptr := 0, len := 0, data := [] } s)

/-- PROG_UNLOAD (R243). -/
def execProgUnload (h : DescHdr) (slot : Nat) (s : State) : Answer :=
  .next (blockNow h 0x03 2 { arg0 := slot, arg1 := 0, arg2 := 0, ptr := 0, len := 0, data := [] } s)

/-- PROG_VERIFY_DONE (R243). -/
def execProgVerifyDone (s : State) : Answer := .next (progVerifyDone s)

end Sys2Proof.Machine
end

