-- ==== Sys2Proof/Machine/TrjRows.lean ====
section
/-! DEFINITION. The commands of the trajectory engines. -/

namespace Sys2Proof.Machine

/-! ### Block commands (R289) -/

/-- Arguments of a trajectory command: ARG0, ARG1, and host data of a length at a pointer. -/
def trjArgs (arg0 arg1 ptr len : Nat) (data : List Byte) : BlockArgs :=
  { arg0 := arg0, arg1 := arg1, arg2 := 0, ptr := ptr, len := len, data := data }

/-- A P72 value as host bytes (R10). -/
def p72Bytes (z : Int) : List Byte := leBytes (toBits 72 z) 9

/-- The 48 bytes of a knot (R263). -/
def knotBytes (k : Knot) : List Byte :=
  leBytes k.t 9 ++ p72Bytes k.pos ++ p72Bytes k.vel ++ leBytes (b2n k.last + k.ftag % 256 * 256) 9 ++ leBytes 0 12

/-- MOVE (R258): arm, REL, the targets of joints 0 to 11. -/
def execMove (h : DescHdr) (arm : Nat) (rel : Bool) (targets : List Int) (ptr : Nat) (s : State) : Answer :=
  .next (blockNow h 0x04 1 (trjArgs (arm + 256 * b2n rel) 0 ptr 112
    ((List.range 12).flatMap (fun i => p72Bytes (targets.getD i 0)) ++ leBytes 0 4)) s)

/-- VEL (R262): axis and speed, s40.24. -/
def execVel (h : DescHdr) (axis : Nat) (speed : Int) (s : State) : Answer :=
  .next (blockNow h 0x04 2 (trjArgs axis (toBits 64 speed) 0 0 []) s)

/-- KNOT_PUSH (R264). -/
def execKnotPush (h : DescHdr) (axis : Nat) (knots : List Knot) (ptr : Nat) (s : State) : Answer :=
  .next (blockNow h 0x04 3 (trjArgs axis knots.length ptr (48 * knots.length) (knots.flatMap knotBytes)) s)

/-- TBL_START (R265). -/
def execTblStart (h : DescHdr) (group : Nat) (s : State) : Answer := .next (blockNow h 0x04 4 (trjArgs group 0 0 0 []) s)

/-- TBL_CLEAR (R289). -/
def execTblClear (h : DescHdr) (axis : Nat) (s : State) : Answer := .next (blockNow h 0x04 5 (trjArgs axis 0 0 0 []) s)

/-- PAUSE (R272). -/
def execPause (h : DescHdr) (groups : Nat) (s : State) : Answer := .next (blockNow h 0x04 6 (trjArgs groups 0 0 0 []) s)

/-- RESUME (R272). -/
def execResume (h : DescHdr) (groups : Nat) (s : State) : Answer := .next (blockNow h 0x04 7 (trjArgs groups 0 0 0 []) s)

/-- ABORT (R272). -/
def execAbort (h : DescHdr) (groups : Nat) (s : State) : Answer := .next (blockNow h 0x04 8 (trjArgs groups 0 0 0 []) s)

/-- HOME (R277). -/
def execHome (h : DescHdr) (axis : Nat) (s : State) : Answer := .next (blockNow h 0x04 9 (trjArgs axis 0 0 0 []) s)

/-- SET_POS (R280). -/
def execSetPos (h : DescHdr) (axis : Nat) (pos : Int) (ptr : Nat) (s : State) : Answer :=
  .next (blockNow h 0x04 0xA (trjArgs axis 0 ptr 16 (p72Bytes pos ++ leBytes 0 7)) s)

/-- AUX_MOVE (R286). -/
def execAuxMove (h : DescHdr) (aux : Nat) (rel : Bool) (target : Int) (ptr : Nat) (s : State) : Answer :=
  .next (blockNow h 0x04 0xB (trjArgs (aux + 256 * b2n rel) 0 ptr 16 (p72Bytes target ++ leBytes 0 7)) s)

/-- AUX_VEL (R286). -/
def execAuxVel (h : DescHdr) (aux : Nat) (speed : Int) (s : State) : Answer :=
  .next (blockNow h 0x04 0xC (trjArgs aux (toBits 64 speed) 0 0 []) s)

/-! ### Inputs (R274, R275, R297) -/

/-- The general inputs show their levels (R274). -/
def showGpi (levels : Nat) (s : State) : State := s.withTrj fun t => { t with gpi := BitVec.ofNat 64 levels }

/-- The level of GPI n alone. -/
def showOneGpi (n : Nat) (level : Bool) (s : State) : State :=
  s.withTrj fun t => { t with gpi := BitVec.ofNat 64 (putBits t.gpi.toNat n 1 (b2n level)) }

/-- LIMIT_INPUT_CONFIRM (R274): input j (0 positive limit, 1 negative limit, 2 home) of an enabled axis shows a level at its GPI
from the present edge on, the other general inputs the levels of gpi; the filter takes it with the sampler's edges.  An input that the drive reports is sampled by its
replies. -/
def execLimitInputConfirm (a j : Nat) (active : Bool) (gpi : Nat) (s : State) : Answer :=
  let w := (s.rd (R.AX_IN_SEL + 0x400 * a)).toNat
  .next (if j < 3 ∧ s.getB F.AX_CTL_EN a ∧ bit w (8 * j + 7) ∧ bit w (8 * j + 6) = false then
      let t := showOneGpi (bits w (8 * j) 6) (active != bit w (24 + j)) (showGpi gpi s)
      if s.samplerEdge then sampleInputs t else t
    else s)

/-- AXIS_ENABLE (R297): the general inputs' levels at that moment. -/
def execAxisEnable (a gpi : Nat) (s : State) : Answer := .next (fieldWrite F.AX_CTL_EN 1 a 0 (showGpi gpi s))

/-! ### Compare units and auxiliary channels (R282, R283, R288) -/

/-- CMP_ARM (R283): ARM is written 1, or a new C is committed. -/
def execCmpArm (c : Nat) (pos : Option Int) (s : State) : Answer :=
  .next (match pos with
    | none => fieldWrite F.TRJ_CMP_CTL_ARM 1 c 0 s
    | some z =>
      let o := F.TRJ_CMP_POS_V.off c 0
      let v := toBits 72 z
      barWrite (o + 8) (v / 2 ^ 64) true (barWrite (o + 4) (v / 2 ^ 32 % 2 ^ 32) true (barWrite o (v % 2 ^ 32) true s)))

/-- CMP_PULSE_END (R282). -/
def execCmpPulseEnd (c : Nat) (s : State) : Answer :=
  .next (s.setCmp c ((s.cmp c).turn s.now))

/-- AUX_HOLD_CURRENT (R288): the channel has stood still for HOLD_DLY. -/
def execAuxHoldCurrent (n : Nat) (s : State) : Answer :=
  .next (match (s.aux n).restSince with
    | some r => if s.getB F.AUX_CTL_EN n ∧ s.tb 0x0404 n 5 32 16 * 1000000 ≤ s.ns - r then auxHold n s else s
    | none => s)

end Sys2Proof.Machine
end

