-- ==== Sys2Proof/Machine/SepRows.lean ====
section
/-! DEFINITION. The commands of the separation engine and of the safety channels. -/

namespace Sys2Proof.Machine

/-! ### Separation monitoring (R309 to R338) -/

/-- SENSOR_FRAME (R309): a frame over Damask for an enabled sensor that takes its frames there. -/
def execSensorFrame (i : Nat) (data : List Byte) (s : State) : Answer :=
  .next (if s.sensEn i && s.sens i 0 1 1 == 1 then damaskFrame i data s else s)

/-- SENS_FRAME (R338). -/
def execSensFrame (h : DescHdr) (sensor ptr : Nat) (data : List Byte) (s : State) : Answer :=
  .next (blockNow h 0x05 1 { arg0 := sensor, arg1 := 0, arg2 := 0, ptr := ptr, len := data.length, data := data } s)

/-- SEP_COMPUTE (R313): the length of the computation in engine cycles. -/
def execSepCompute (cycles : Nat) (s : State) : Answer := .next (sepCompute cycles s)

/-- After the handover the export frame leaves over Damask, broadcast as DATA in class 1, in frames joined by MORE; a
standby holds it (R333, R541, R613). -/
def sepExport (s : State) : State :=
  if s.getB F.SEP_CTL_EXP_EN && !s.standby then
    let fs := hostFrames 0xFFF (s.getF F.SEP_EXPORT_STREAM) 0 s 10 (exportFrame s)
    let t := s.each fs fun f u => originate { f with cls := 1, kind := 0, key := none } u
    t.withSep fun x => { x with expSeq := (x.expSeq + 1) % 2 ^ 32 }
  else s

/-- SEP_HANDOVER (R314, R331): what turned over of the records on the way to the safety processor and to Felt; mapsDiffer:
the two copies of Felt's voxel map differ (R347, reason 5). -/
def execSepHandover (s : State) (sp felt : List PairFlip := []) (mapsDiffer : Bool := false) : Answer :=
  let t := sepHandover sp felt s
  .next (if s.sep.phase != .handed && t.sep.phase == .handed then
      let u := sepExport t
      if mapsDiffer then safeFault 5 1 u else u
    else t)

/-- SEP_LATE (R314). -/
def execSepLate (s : State) : Answer := .next (sepLate s)

/-- SAFETY_VERDICT (R315): channel 0 the safety processor, 1 Felt; bad: its pair fails on the crossing. -/
def execSafetyVerdict (ch g : Nat) (bad : Bool) (s : State) : Answer := .next (safetyVerdict ch g bad s)

/-- SEP_ENABLE (R317). -/
def execSepEnable (s : State) : Answer := .next (fieldWrite F.SEP_CTL_EN 1 0 0 s)

/-! ### The safety channels' cycle (R346, R347, R365) -/

/-- POSITION_RECORD (R346): the present cycle's record in a channel (0 the safety processor, 1 Felt), once a cycle; flips:
what turned over on its lane.  Felt sets and compares its own counts with it (R383, R432). -/
def execPositionRecord (ch : Nat) (flips : List PairFlip) (s : State) : Answer :=
  .next (if s.cycRun && s.tbs.started && (s.chRec ch).cyc != some s.tbs.k then
      let t := positionRecord ch flips s
      if ch = 1 then feltRecord t else t
    else s)

/-- DATA_TIMEOUT (R346). -/
def execDataTimeout (s : State) : Answer := .next (dataTimeout s)

/-- SS_TMAX_EXPIRY (R365). -/
def execSsTmaxExpiry (g : Nat) (s : State) : Answer := .next (ssTmaxExpiry g s)

/-- CROSS_COMPARE (R347): differ says that the channels' states, causes or check values are found to differ. -/
def execCrossCompare (differ : Bool) (ch : Nat) (s : State) : Answer := .next (crossCompare differ ch s)

/-- SUPPLY_MONITOR_FAULT (R347). -/
def execSupplyMonitorFault (ch : Nat) (s : State) : Answer := .next (safeFault 2 ch s)

/-- OSCILLATOR_FAULT (R347). -/
def execOscillatorFault (ch : Nat) (s : State) : Answer := .next (safeFault 3 ch s)

/-- PARAM_RECHECK (R347): the check value a channel recomputes. -/
def execParamRecheck (ch value : Nat) (s : State) : Answer := .next (paramRecheck ch value s)

/-! ### Safe inputs (R356 to R361) -/

/-- The inputs a completed confirmation would make pending. -/
def State.pend (s : State) : Nat := s.startPending s.standby (mclr s.lnd.tested s.lnd.disced)

/-- SAFE_INPUT_CHANGE (R356, R703): terminal b of input i in a channel. -/
def execSafeInputChange (ch i b : Nat) (level : Terminal) (s : State) : Answer :=
  .next (confirmedRecord s (inputChange s.pend ch i b level s))

/-- DISC_LATCH (R357). -/
def execDiscLatch (i : Nat) (s : State) : Answer := .next (discTimeout i s)

/-- TEST_PULSE_CHECK (R358). -/
def execTestPulseCheck (i : Nat) (good : Bool) (s : State) : Answer := .next (testPulse i good s)

/-- RESET_EDGE (R359): the release of a reset input in both channels. -/
def execResetEdge (i : Nat) (s : State) : Answer :=
  .next (if s.inFunc i = 3 then confirmedRecord s (resetRelease s.pend i s) else s)

/-- RESET_STUCK (R359). -/
def execResetStuck (i : Nat) (s : State) : Answer := .next (resetStuck i s)

/-! ### Safety commands (R351, R352, R367, R395) -/

/-- Arguments of a safety command. -/
def safArgs (arg0 arg1 : Nat) : BlockArgs := { arg0 := arg0, arg1 := arg1, arg2 := 0, ptr := 0, len := 0, data := [] }

/-- PARAM_OPEN (R395). -/
def execParamOpen (h : DescHdr) (s : State) : Answer := .next (blockNow h 0x06 1 (safArgs 0 0) s)

/-- PARAM_CLOSE (R351). -/
def execParamClose (h : DescHdr) (s : State) : Answer := .next (blockNow h 0x06 2 (safArgs 0 0) s)

/-- PARAM_CLOSE_DONE (R351): agree says that both channels find the same. -/
def execParamCloseDone (agree : Bool) (s : State) : Answer := .next (paramCloseDone agree s.pend s)

/-- CONFIRM (R352): the check value and its complement. -/
def execConfirm (h : DescHdr) (value compl : Nat) (s : State) : Answer := .next (blockNow h 0x06 3 (safArgs value compl) s)

/-- CONFIRM_TIMEOUT (R352). -/
def execConfirmTimeout (s : State) : Answer := .next (confirmTimeout s)

/-- RELEASE (R367): a group mask and its complement. -/
def execRelease (h : DescHdr) (groups compl : Nat) (s : State) : Answer := .next (blockNow h 0x06 4 (safArgs groups compl) s)

/-! ### Black channel and safe outputs (R379, R380, R382) -/

/-- BCH_TIMEOUT (R382). -/
def execBchTimeout (a : Nat) (s : State) : Answer := .next (if s.wdOver a then bchTimeout a s else s)

/-- SAFE_OUTPUT_TEST (R379): element 0 is the safety processor's, 1 Felt's. -/
def execSafeOutputTest (o element : Nat) (seenOff : Bool) (s : State) : Answer :=
  .next (if o < 8 then outputTest element seenOff s else s)

/-- EDM_TIMEOUT (R380). -/
def execEdmTimeout (o : Nat) (s : State) : Answer := .next (edmTimeout o s)

end Sys2Proof.Machine
end

