-- ==== Sys2Proof/Machine/IoRows.lean ====
section
/-! DEFINITION. The commands of position feedback, of the PWM channels and their trips, and of the converters. -/

namespace Sys2Proof.Machine

/-! ### Feedback (R403 to R436) -/

/-- FEEDBACK_INPUT_CHANGE (R403): the inputs of mask (A, B, Z) of a channel take the other level; raw times at which they first showed it. -/
def execFeedbackInputChange (n mask ta tb tz : Nat) (s : State) : Answer := .next (feedbackChange n mask ta tb tz s)

/-- SSI_FRAME_DONE (R411): the bits clocked in, and whether the line answered ready and ended as a monoflop should. -/
def execSsiFrameDone (n raw : Nat) (ready mono : Bool) (s : State) : Answer := .next (ssiFrameDone n raw ready mono s)

/-- LOSS_CHANGE (R420): the inputs whose amplitude lies below the threshold. -/
def execLossChange (n mask : Nat) (s : State) : Answer := .next (lossChange n mask s)

/-- CLR_FAULT (R422). -/
def execClrFault (n : Nat) (s : State) : Answer := .next (fieldWrite F.FBK_CTL_CLR_FAULT 1 n 0 s)

/-- FBK_ENABLE (R436). -/
def execFbkEnable (n : Nat) (s : State) : Answer := .next (fieldWrite F.FBK_CTL_EN 1 n 0 s)

/-- FELT_FEEDBACK_LATCH (R430, R431): the changes of the channel's line pairs since the previous latch, and the SSI frame
snooped. -/
def execFeltFeedbackLatch (n : Nat) (told : List (Nat × Nat) × Option Nat) (s : State) : Answer :=
  .next (feltLatch n told.1 told.2 s)

/-! ### PWM counters (R439 to R462) -/

/-- PWM_ENABLE (R453). -/
def execPwmEnable (n : Nat) (s : State) : Answer := .next (fieldWrite F.PWM_CTL_EN 1 n 0 s)

/-- PWM_RELOAD (R439). -/
def execPwmReload (n : Nat) (s : State) : Answer := .next (pwmOffer (pwmReload n s))

/-- PWM_SYNC_RELOAD (R440). -/
def execPwmSyncReload (s : State) : Answer := .next (pwmOffer (pwmSyncReload s))

/-- PWM_HOLD_LIMIT (R441). -/
def execPwmHoldLimit (n : Nat) (s : State) : Answer := .next (pwmOffer (pwmHoldLimit n s))

/-- PWM_DUTY_WRITE (R449). -/
def execPwmDutyWrite (n duty : Nat) (s : State) : Answer := .next (barWrite (F.PWM_DUTY_DUTY.off n 0) duty true s)

/-- PWM_PER_WRITE (R450). -/
def execPwmPerWrite (n per : Nat) (s : State) : Answer := .next (barWrite (F.PWM_PER_PER.off n 0) per true s)

/-- PWM_REF_EDGE (R446). -/
def execPwmRefEdge (n : Nat) (s : State) : Answer := .next (pwmOffer (refFollow n s))

/-- PWM_TOP (R461). -/
def execPwmTop (n : Nat) (s : State) : Answer := .next (pwmOffer (pwmTop n s))

/-- PWM_CMPB (R461). -/
def execPwmCmpb (n : Nat) (s : State) : Answer := .next (pwmOffer (pwmCmpb n s))

/-- DEAD_TIME_END (R451). -/
def execDeadTimeEnd (n : Nat) (s : State) : Answer := .next (deadTimeEnd n s)

/-! ### Trips and gates (R454 to R460) -/

/-- BLANK_WINDOW_CLOSE (R460). -/
def execBlankWindowClose (g : Nat) (s : State) : Answer := .next (blankClose g s)

/-- TRIP_LATCH (R455): the filtered level of trip input i. -/
def execTripLatch (i : Nat) (level : Bool) (s : State) : Answer := .next (tripInput i level s)

/-- TRIP_FORCE (R455). -/
def execTripForce (g : Nat) (s : State) : Answer := .next (fieldWrite F.PWM_TGRP_CMD_FORCE 1 g 0 s)

/-- TRIP_CLEAR (R458). -/
def execTripClear (g : Nat) (s : State) : Answer := .next (fieldWrite F.PWM_TGRP_CMD_CLEAR 1 g 0 s)

/-- GATE_LINE_CHANGE (R454): channel 0 the safety processor, 1 Felt. -/
def execGateLineChange (ch set : Nat) (s : State) : Answer := .next (gateChange ch set s)

/-! ### Converters (R470 to R492) -/

/-- ADC_ENABLE (R480). -/
def execAdcEnable (c : Nat) (s : State) : Answer := .next (fieldWrite F.ADC_CTL_EN 1 c 0 s)

/-- CONVERSION_DONE (R470): the code converted. -/
def execConversionDone (c code : Nat) (s : State) : Answer := .next (conversionDone c code s)

/-- SCAN_GO (R476). -/
def execScanGo (c : Nat) (s : State) : Answer := .next (fieldWrite F.ADC_CMD_SCAN_GO 1 c 0 s)

/-- INJ_GO (R477). -/
def execInjGo (c : Nat) (s : State) : Answer := .next (fieldWrite F.ADC_CMD_INJ_GO 1 c 0 s)

/-- CAL (R480). -/
def execCal (c : Nat) (s : State) : Answer := .next (fieldWrite F.ADC_CMD_CAL 1 c 0 s)

/-- CLR_OPEN (R486). -/
def execClrOpen (c : Nat) (s : State) : Answer := .next (fieldWrite F.ADC_CMD_CLR_OPEN 1 c 0 s)

/-- CAL_DONE (R481). -/
def execCalDone (c : Nat) (s : State) : Answer := .next (calDone c s)

/-- REF_SETTLE (R482). -/
def execRefSettle (c : Nat) (s : State) : Answer := .next (refSettle c s)

/-- EXT_REF_CHANGE (R482). -/
def execExtRefChange (ok : Bool) (s : State) : Answer := .next (extRefChange ok s)

/-- ADC_RESULT_READ (R484). -/
def execAdcResultRead (c : Nat) (s : State) : Answer := .next (barRead (F.ADC_RESULT_CODE.off c 0) 4 s)

/-- TDAC_WRITE (R488). -/
def execTdacWrite (c code tol : Nat) (s : State) : Answer := .next (barWrite (F.ADC_TDAC_DAC_CODE.off c 0) (code % 2 ^ 12 + tol % 2 ^ 8 * 2 ^ 16) true s)

/-- TDAC_SETTLED (R488). -/
def execTdacSettled (c : Nat) (s : State) : Answer := .next (tdacSettled c s)

end Sys2Proof.Machine
end

