-- ==== Sys2Proof/Machine/BusRows.lean ====
section
/-! DEFINITION. The commands of the Twill field bus and of the Damask fabric. -/

namespace Sys2Proof.Machine

/-! ### Twill (R499 to R531) -/

/-- TWL_ENABLE (R526). -/
def execTwlEnable (b : Nat) (s : State) : Answer := .next (fieldWrite F.TWL_CTL_EN 1 b 0 s)

/-- TWL_DISABLE (R526). -/
def execTwlDisable (b : Nat) (s : State) : Answer := .next (fieldWrite F.TWL_CTL_EN 0 b 0 s)

/-- SYNC_FRAME_SEND (R501). -/
def execSyncFrameSend (b : Nat) (s : State) : Answer := .next (pairSend b 1 s)

/-- POLL_FRAME_SEND (R501). -/
def execPollFrameSend (b : Nat) (s : State) : Answer := .next (pairSend b 2 s)

/-- SAFE_FRAME_SEND (R508). -/
def execSafeFrameSend (b : Nat) (s : State) : Answer := .next (pairSend b 3 s)

/-- CMD_FRAME_SEND (R509). -/
def execCmdFrameSend (b : Nat) (s : State) : Answer := .next (pairSend b 4 s)

/-- SVC_FRAME_SEND (R524). -/
def execSvcFrameSend (b : Nat) (s : State) : Answer := .next (pairSend b 5 s)

/-- TWILL_COPY_RECEIVE (R512): raw time of its start, byte 1 to the FCS. -/
def execTwillCopyReceive (b port raw : Nat) (bytes : List Byte) (s : State) : Answer := .next (pairCopy b port raw bytes s)

/-- RING_OPEN (R514). -/
def execRingOpen (b port : Nat) (s : State) : Answer := .next (ringOpen b port s)

/-- BRANCH_STATE_ADVANCE (R526). -/
def execBranchStateAdvance (b : Nat) (s : State) : Answer := .next (branchTell b (s.brSt b) (branchAdvance b s))

/-- MODE_SWITCH (R522): mode and cycle. -/
def execModeSwitch (h : DescHdr) (mode cycle : Nat) (s : State) : Answer :=
  .next (blockNow h 0x0A 1 { arg0 := mode, arg1 := cycle, arg2 := 0, ptr := 0, len := 0, data := [] } s)

/-- MODE_SWITCH_CHECK (R522). -/
def execModeSwitchCheck (s : State) : Answer := .next (switchCheck s)

/-- MODE_SWITCH_APPLY (R522). -/
def execModeSwitchApply (s : State) : Answer := .next (switchApply s)

/-- SVC_XFER (R531): branch, node, host buffer and the request there. -/
def execSvcXfer (h : DescHdr) (b node ptr : Nat) (req : List Byte) (s : State) : Answer :=
  .next (blockNow h 0x0A 2 { arg0 := b + node * 2 ^ 8, arg1 := 0, arg2 := 0, ptr := ptr, len := 64, data := req } s)

/-- SVC_TIMEOUT (R524). -/
def execSvcTimeout (b : Nat) (s : State) : Answer := .next (svcTimeout b s)

/-- GUARD_BLOCK (R519): edges blocked. -/
def execGuardBlock (b edges : Nat) (s : State) : Answer := .next (guardBlock b edges s)

/-! ### Links (R537, R542, R561); port 0 to 3 Damask, 4 and 5 the Laend lanes (R585) -/

/-- What follows a change of a link end: of a port, or of the pair's lanes. -/
def linkEdge (p : Nat) (f : State → State) (s : State) : State :=
  if p < 4 then portChanged (s.linkSt p) p (f s) else if p < 6 then laneFollow (f s) else s

/-- DMK_PORT_ENABLE (R537). -/
def execDmkPortEnable (p : Nat) (s : State) : Answer := .next (fieldWrite F.DMK_P_CTL_EN 1 p 0 s)

/-- DMK_PORT_DISABLE (R537). -/
def execDmkPortDisable (p : Nat) (s : State) : Answer := .next (fieldWrite F.DMK_P_CTL_EN 0 p 0 s)

/-- LINK_TRAIN_DONE (R537). -/
def execLinkTrainDone (p : Nat) (s : State) : Answer := .next (if s.linkSt p = LinkSt.TRAIN then linkEdge p (trainDone p) s else s)

/-- TRAIN_TIMEOUT (R537). -/
def execTrainTimeout (p : Nat) (s : State) : Answer :=
  .next (if s.linkSt p = LinkSt.TRAIN ∧ (s.link p).since + 500000000 * 256 ≤ s.now then linkEdge p (trainTimeout p) s else s)

/-- LINK_FRAME_SEND (R537). -/
def execLinkFrameSend (p : Nat) (s : State) : Answer := .next (if p < 4 then linkSend p s else laneSend (p - 4) s)

/-- LINK_FRAME_RECEIVE (R542). -/
def execLinkFrameReceive (p raw : Nat) (payload : List Byte) (s : State) : Answer := .next (linkReceive p raw payload s)

/-- LINK_LOSS (R537): reason 0 loss of block lock, 1 too many sync-header errors, 2 no LINK frame for 4 ms. -/
def execLinkLoss (p reason : Nat) (s : State) : Answer :=
  .next (if s.linkLost p reason then linkEdge p (linkFall p (reason == 1)) s else s)

/-! ### Frames (R538 to R552) -/

/-- DAMASK_FRAME_RECEIVE (R539): header and payload, the bits of its code blocks that have turned over, the time the frame takes
to the egress (T72). -/
def execDamaskFrameReceive (port raw : Nat) (hdr payload : List Byte) (flips check : List ByteFlip) (residence : Nat)
    (s : State) : Answer := .next (damaskReceive port raw hdr payload (flips ++ check) residence s)

/-- REASSEMBLY_TIMEOUT (R541). -/
def execReassemblyTimeout (src stream : Nat) (s : State) : Answer := .next (reasmTimeout src stream s)

/-- EGRESS_UNIT_END (R549). -/
def execEgressUnitEnd (p : Nat) (s : State) : Answer := .next (unitEnd p s)

/-- C0_SEND (R552). -/
def execC0Send (r : Nat) (s : State) : Answer := .next (c0Send r s)

/-! ### Discovery, synchronisation, agreement (R543 to R573) -/

/-- DISCOVERY (R555): a change of the fabric has been reported. -/
def execDiscovery (reported : Bool) (s : State) : Answer := .next (discovery reported s)

/-- DISC_REPEAT (R543). -/
def execDiscRepeat (s : State) : Answer := .next (discRepeat s)

/-- ROUTE_TABLE_TIMEOUT (R545). -/
def execRouteTableTimeout (s : State) : Answer := .next (partsTimeout s)

/-- TIME_FRAME_SEND (R562). -/
def execTimeFrameSend (s : State) : Answer := .next (timeFrames s)

/-- ROUND_CLOSE (R564): the partner of a pair has reached SYNC (R598). -/
def execRoundClose (partnerSync : Bool) (s : State) : Answer := .next (joinPass partnerSync (roundClose s))

/-- LISTEN_TIMEOUT (R567). -/
def execListenTimeout (s : State) : Answer := .next (listenTimeout s)

/-- MODE_PROPOSE (R572). -/
def execModePropose (h : DescHdr) (mode cycle : Nat) (s : State) : Answer :=
  .next (blockNow h 0x0B 1 { arg0 := mode, arg1 := cycle, arg2 := 0, ptr := 0, len := 0, data := [] } s)

/-- MODE_AGREEMENT_STEP (R572). -/
def execModeAgreementStep (s : State) : Answer := .next (agreeStep s)

/-- REDISCOVER (R580). -/
def execRediscover (h : DescHdr) (s : State) : Answer :=
  .next (blockNow h 0x0B 2 { arg0 := 0, arg1 := 0, arg2 := 0, ptr := 0, len := 0, data := [] } s)

/-- HOST_SEND (R575): destination, stream, host pointer and the message there. -/
def execHostSend (h : DescHdr) (dst stream ptr : Nat) (data : List Byte) (s : State) : Answer :=
  .next (blockNow h 0x0B 3 { arg0 := dst + stream * 2 ^ 12, arg1 := 0, arg2 := 0, ptr := ptr, len := data.length, data := data } s)

end Sys2Proof.Machine
end

