-- ==== Sys2Proof/Machine/PairRows.lean ====
section
/-! DEFINITION. The commands of the pair and of the acquisition units. -/

namespace Sys2Proof.Machine

/-! ### The pair (R588 to R622) -/

/-- PAIR_ENABLE (R595): what the partner tells of itself at JOIN. -/
def execPairEnable (info : PairInfo) (s : State) : Answer :=
  let t := fieldWrite F.LND_CTL_EN 1 0 0 (s.withLnd fun x => { x with info := some info })
  .next (if t.getB F.LND_CTL_EN then t else fieldWrite F.LND_CTL_EN 1 0 0 s)

/-- PAIR_DISABLE (R595). -/
def execPairDisable (s : State) : Answer := .next (fieldWrite F.LND_CTL_EN 0 0 0 s)

/-- LAEND_FRAME_RECEIVE (R588): lane, raw time of its start, header, payload, the bits of its code blocks that have turned over,
the contents of a STATE frame's item. -/
def execLaendFrameReceive (lane raw : Nat) (hdr payload : List Byte) (flips check : List ByteFlip) (item : Option StateMsg)
    (s : State) : Answer := .next (if lane < 2 then laendReceive lane raw hdr payload (flips ++ check) item s else s)

/-- MIRROR_DEADLINE (R605). -/
def execMirrorDeadline (s : State) : Answer := .next (mirDeadline s)

/-- STREAM_TIMEOUT (R608). -/
def execStreamTimeout (b type : Nat) (s : State) : Answer := .next (streamTimeout b type s)

/-- DIGEST_TIMEOUT (R614). -/
def execDigestTimeout (s : State) : Answer := .next (digestTimeout s)

/-- HB_DEADLINE (R617). -/
def execHbDeadline (s : State) : Answer := .next (hbDeadline s)

/-- SELF_TEST_PASS (R621): the part that failed, 0: none. -/
def execSelfTestPass (part : Nat) (s : State) : Answer := .next (selfTest part s)

/-- JOIN_SYNC_TIMEOUT (R598). -/
def execJoinSyncTimeout (s : State) : Answer := .next (joinTimeout s)

/-- SWITCHOVER (R622): the descriptor is validated; the roles change at the TC before the T0 at which it takes effect. -/
def execSwitchover (h : DescHdr) (s : State) : Answer :=
  .next (validate h.sq (s.sqHead h.sq) (descBlock h 0x0C 1 { arg0 := 0, arg1 := 0, arg2 := 0, ptr := 0, len := 0, data := [] }) s)

/-! ### Acquisition (R631 to R650) -/

/-- Arguments of an acquisition command: a mask of units. -/
def acqArgs (units : Nat) : BlockArgs := { arg0 := units, arg1 := 0, arg2 := 0, ptr := 0, len := 0, data := [] }

/-- ACQ_START (R639). -/
def execAcqStart (h : DescHdr) (units : Nat) (s : State) : Answer := .next (blockNow h 0x0D 1 (acqArgs units) s)

/-- ACQ_STOP (R637). -/
def execAcqStop (h : DescHdr) (units : Nat) (s : State) : Answer := .next (blockNow h 0x0D 2 (acqArgs units) s)

/-- ACQ_FORCE (R636). -/
def execAcqForce (h : DescHdr) (units : Nat) (s : State) : Answer := .next (blockNow h 0x0D 3 (acqArgs units) s)

/-- ACQ_SAMPLE (R631): the engine edge of the grid (none: the edge that observes TC), the units whose staging queue or ring
has no room, the levels of the general inputs. -/
def execAcqSample (edge : Option Nat) (full gpi : Nat) (s : State) : Answer := .next (acqSample edge full (showGpi gpi s))

end Sys2Proof.Machine
end

