-- ==== Sys2Proof/Machine/BootRows.lean ====
section
/-! DEFINITION. The commands of reset, boot, security and the thermal rule. -/

namespace Sys2Proof.Machine

/-- The PCIe link as it has trained (R657; log 46). -/
def setPcie (l : Option PcieLink) (s : State) : State :=
  match l with
  | some x => (((s.setF F.HST_STAT_WIDTH x.width).setF F.HST_STAT_SPEED x.speed).setF F.HST_STAT_BME (b2n x.bme)).withHst fun h =>
    { h with linkUp := true, config := x.config }
  | none => s

/-! ### Resets (R654 to R660); left are the bytes a write in progress has left in its range, burned the fuses a burn has reached -/

/-- POWER_ON_RESET (R654). -/
def execPowerOnReset (left : List Byte) (burned : Nat) (s : State) : Answer := .next (dieReset true 0 left burned s)

/-- EXTERNAL_RESET (R654). -/
def execExternalReset (left : List Byte) (burned : Nat) (s : State) : Answer := .next (dieReset false 2 left burned s)

/-- BOOT_RST (R658). -/
def execBootRst (value : Nat) (s : State) : Answer := .next (barWrite R.BOOT_RST value true s)

/-- DEVICE_RESET (R658). -/
def execDeviceReset (left : List Byte) (burned : Nat) (s : State) : Answer := .next (deviceReset left burned s)

/-- WATCHDOG_EXPIRY (R659). -/
def execWatchdogExpiry (s : State) : Answer := .next (watchdogExpiry s)

/-- WATCHDOG_RESET (R659). -/
def execWatchdogReset (left : List Byte) (burned : Nat) (s : State) : Answer := .next (watchdogReset left burned s)

/-- LINK_RESET (R657): the link as it trains again, where it does. -/
def execLinkReset (perst : Bool) (left : List Byte) (burned : Nat) (link : Option PcieLink) (s : State) : Answer := .next (setPcie link (linkReset perst left burned s))

/-! ### Boot (R667 to R671) -/

/-- BOOT_ROM_DONE (R667). -/
def execBootRomDone (fusesOk flashOk vfuse : Bool) (link : Option PcieLink) (s : State) : Answer :=
  .next (if s.stage = Stage.HOLD ∨ s.stage = Stage.ROM then bootRomDone fusesOk flashOk vfuse (setPcie link s) else s)

/-- BOOT_LOAD_DONE (R670). -/
def execBootLoadDone (s : State) : Answer := .next (bootLoadDone s)

/-- BOOT_VERIFY_DONE (R671). -/
def execBootVerifyDone (s : State) : Answer := .next (bootVerifyDone s)

/-- BOOT_SAFETY_DONE (R669). -/
def execBootSafetyDone (spOk feltOk : Bool) (s : State) : Answer := .next (bootSafetyDone spOk feltOk s)

/-- BOOTED (R667). -/
def execBooted (link : Option PcieLink) (s : State) : Answer :=
  .next (if s.stage = Stage.RUNTIME ∧ s.runtime = false then booted (setPcie link s) else s)

/-! ### Security commands (R676 to R682) -/

/-- Arguments of a boot command. -/
def bootArgs (arg0 ptr len : Nat) (data : List Byte) : BlockArgs :=
  { arg0 := arg0, arg1 := 0, arg2 := 0, ptr := ptr, len := len, data := data }

/-- ATTEST (R676). -/
def execAttest (h : DescHdr) (ptr : Nat) (nonce : List Byte) (s : State) : Answer := .next (blockNow h 0x0E 1 (bootArgs 0 ptr 30048 nonce) s)

/-- ATTEST_DONE (R677). -/
def execAttestDone (s : State) : Answer := .next (attestDone s)

/-- FLASH_WRITE (R678). -/
def execFlashWrite (h : DescHdr) (ofs ptr : Nat) (data : List Byte) (s : State) : Answer := .next (blockNow h 0x0E 2 (bootArgs ofs ptr data.length data) s)

/-- FLASH_WRITE_DONE (R678): a write that failed has left bytes in its range. -/
def execFlashWriteDone (ok : Bool) (left : List Byte) (s : State) : Answer := .next (flashWriteDone ok left s)

/-- FLASH_VERIFY (R679). -/
def execFlashVerify (h : DescHdr) (s : State) : Answer := .next (blockNow h 0x0E 3 (bootArgs 0 0 0 []) s)

/-- SVN_COMMIT (R680): domain, and whether VFUSE is in its range. -/
def execSvnCommit (h : DescHdr) (dom : Nat) (vfuse : Bool) (s : State) : Answer :=
  .next (blockNow h 0x0E 4 (bootArgs dom 0 0 []) (s.setF F.BOOT_STAT_VFUSE_OK (b2n vfuse)))

/-- KEY_REVOKE (R681): domain, slot, and whether VFUSE is in its range. -/
def execKeyRevoke (h : DescHdr) (dom slot : Nat) (vfuse : Bool) (s : State) : Answer :=
  .next (blockNow h 0x0E 5 (bootArgs (dom + 2 * slot) 0 0 []) (s.setF F.BOOT_STAT_VFUSE_OK (b2n vfuse)))

/-- FUSE_BURN_DONE (R680): the fuses a failed burn has reached. -/
def execFuseBurnDone (ok : Bool) (n : Nat) (s : State) : Answer := .next (fuseBurnDone ok n s)

/-- RECOVERY_WRITE (R682). -/
def execRecoveryWrite (s : State) : Answer := .next (fieldWrite F.BOOT_REC_CMD_WRITE 1 0 0 s)

/-- RECOVERY_RESET (R682). -/
def execRecoveryReset (s : State) : Answer := .next (fieldWrite F.BOOT_REC_CMD_RESET 1 0 0 s)

/-- RECOVERY_WRITE_DONE (R682). -/
def execRecoveryWriteDone (ok : Bool) (left : List Byte) (s : State) : Answer := .next (recoveryWriteDone ok left s)

/-! ### Temperature (R707, R708) -/

/-- THERMAL_SAMPLE (R707): the four sensors in millidegrees, none: the self-check failed. -/
def execThermalSample (readings : List (Option Int)) (s : State) : Answer := .next (thermalSample readings s)

end Sys2Proof.Machine
end

