-- ==== Sys2Proof/Machine/Dispatch.lean ====
section
/-! DEFINITION. The dispatch of a command to its meaning. -/

namespace Sys2Proof.Machine

open Sys2Proof

/-- A command's effect on everything but the queue. -/
def exec (i : Instr) (s : State) : Host.Outcome State Fault Refusal :=
  match i with
  | .cellCycleT0 late => Sys2Proof.Machine.execCellCycleT0 s late
  | .cellCycleTs => Sys2Proof.Machine.execCellCycleTs s
  | .cellCycleTr => Sys2Proof.Machine.execCellCycleTr s
  | .cellCycleTc => Sys2Proof.Machine.execCellCycleTc s
  | .cycleEnd => Sys2Proof.Machine.execCycleEnd s
  | .cycleStart => Sys2Proof.Machine.execCycleStart s
  | .cycleStop => Sys2Proof.Machine.execCycleStop s
  | .periodWrite period => Sys2Proof.Machine.execPeriodWrite period s
  | .tbsArm step rate slew => Sys2Proof.Machine.execTbsArm step rate slew s
  | .tbsCancel => Sys2Proof.Machine.execTbsCancel s
  | .applyChange => Sys2Proof.Machine.execApplyChange s
  | .slewDone => Sys2Proof.Machine.execSlewDone s
  | .timeReadLatch off size => Sys2Proof.Machine.execTimeReadLatch off size s
  | .timedStartFire => Sys2Proof.Machine.execTimedStartFire s
  | .refLoss => Sys2Proof.Machine.execRefLoss s
  | .pllLockRegain => Sys2Proof.Machine.execPllLockRegain s
  | .scrubRow data check => Sys2Proof.Machine.execScrubRow data check s
  | .d3hotRequest => Sys2Proof.Machine.execD3hotRequest s
  | .idleTick => Sys2Proof.Machine.execIdleTick s
  | .doorbellCompletion good data => Sys2Proof.Machine.execDoorbellCompletion good data s
  | .doorbellDeadline => Sys2Proof.Machine.execDoorbellDeadline s
  | .ritLineRead line good data => Sys2Proof.Machine.execRitLineRead line good data s
  | .descriptorFetch sq good desc => Sys2Proof.Machine.execDescriptorFetch sq good desc s
  | .fenceRelease sq => Sys2Proof.Machine.execFenceRelease sq s
  | .completionWrite => Sys2Proof.Machine.execCompletionWrite s
  | .overflowEvent ring => Sys2Proof.Machine.execOverflowEvent ring s
  | .msixMessage vector => Sys2Proof.Machine.execMsixMessage vector s
  | .nop h => Sys2Proof.Machine.execNop h s
  | .regWrite h items => Sys2Proof.Machine.execRegWrite h items s
  | .regRead h offs => Sys2Proof.Machine.execRegRead h offs s
  | .wordWrite h waddr count ptr data => Sys2Proof.Machine.execWordWrite h waddr count ptr data s
  | .wordRead h waddr count ptr => Sys2Proof.Machine.execWordRead h waddr count ptr s
  | .tableWrite h table first count ptr data => Sys2Proof.Machine.execTableWrite h table first count ptr data s
  | .tableRead h table first count ptr => Sys2Proof.Machine.execTableRead h table first count ptr s
  | .timeCorr h ctl step rate slew at_ => Sys2Proof.Machine.execTimeCorr h ctl step rate slew at_ s
  | .stop h groups kind => Sys2Proof.Machine.execStop h groups kind s
  | .clearMiss h axes => Sys2Proof.Machine.execClearMiss h axes s
  | .registerWrite off value full => Sys2Proof.Machine.execRegisterWrite off value full s
  | .commitLockSet => Sys2Proof.Machine.execCommitLockSet s
  | .commitLockClear => Sys2Proof.Machine.execCommitLockClear s
  | .ringEnable kind n => Sys2Proof.Machine.execRingEnable kind n s
  | .ringDisable kind n => Sys2Proof.Machine.execRingDisable kind n s
  | .ctxEnable h mask => Sys2Proof.Machine.execCtxEnable h mask s
  | .ctxDisable h mask => Sys2Proof.Machine.execCtxDisable h mask s
  | .ctxRelease h mask => Sys2Proof.Machine.execCtxRelease h mask s
  | .clrStat => Sys2Proof.Machine.execClrStat s
  | .delayTick => Sys2Proof.Machine.execDelayTick s
  | .agePromote => Sys2Proof.Machine.execAgePromote s
  | .dispatch n latency => Sys2Proof.Machine.execDispatch n latency s
  | .preempt n => Sys2Proof.Machine.execPreempt n s
  | .ctxComplete n => Sys2Proof.Machine.execCtxComplete n s
  | .svcDispatch => Sys2Proof.Machine.execSvcDispatch s
  | .svcComplete core => Sys2Proof.Machine.execSvcComplete core s
  | .lawEnable n => Sys2Proof.Machine.execLawEnable n s
  | .lawDisable n => Sys2Proof.Machine.execLawDisable n s
  | .walnoNop ctx => Sys2Proof.Machine.execWalnoNop ctx s
  | .endRun ctx => Sys2Proof.Machine.execWalnoEnd ctx s
  | .br ctx target => Sys2Proof.Machine.execWalnoBr ctx target s
  | .brc ctx acc cond target => Sys2Proof.Machine.execWalnoBrc ctx acc cond target s
  | .loop ctx count len => Sys2Proof.Machine.execWalnoLoop ctx count len s
  | .rep ctx count => Sys2Proof.Machine.execWalnoRep ctx count s
  | .mac ctx acc xg xpm sg spm sb => Sys2Proof.Machine.execWalnoMac ctx acc xg xpm sg spm sb s
  | .msu ctx acc xg xpm sg spm sb => Sys2Proof.Machine.execWalnoMsu ctx acc xg xpm sg spm sb s
  | .mul ctx acc xg xpm sg spm sb => Sys2Proof.Machine.execWalnoMul ctx acc xg xpm sg spm sb s
  | .muln ctx acc xg xpm sg spm sb => Sys2Proof.Machine.execWalnoMuln ctx acc xg xpm sg spm sb s
  | .clr ctx acc => Sys2Proof.Machine.execWalnoClr ctx acc s
  | .mov ctx acc src => Sys2Proof.Machine.execWalnoMov ctx acc src s
  | .adda ctx acc src => Sys2Proof.Machine.execWalnoAdda ctx acc src s
  | .suba ctx acc src => Sys2Proof.Machine.execWalnoSuba ctx acc src s
  | .neg ctx acc => Sys2Proof.Machine.execWalnoNeg ctx acc s
  | .clmp ctx acc lo hi => Sys2Proof.Machine.execWalnoClmp ctx acc lo hi s
  | .lde ctx acc g pm lane => Sys2Proof.Machine.execWalnoLde ctx acc g pm lane s
  | .ldq ctx acc g pm lane f => Sys2Proof.Machine.execWalnoLdq ctx acc g pm lane f s
  | .ldi ctx acc src inst field => Sys2Proof.Machine.execWalnoLdi ctx acc src inst field s
  | .sta ctx acc g pm lane => Sys2Proof.Machine.execWalnoSta ctx acc g pm lane s
  | .stq ctx acc g pm lane f => Sys2Proof.Machine.execWalnoStq ctx acc g pm lane f s
  | .agset ctx g base len unit => Sys2Proof.Machine.execWalnoAgset ctx g base len unit s
  | .agstg ctx g hdr ls step => Sys2Proof.Machine.execWalnoAgstg ctx g hdr ls step s
  | .agmod ctx g step ls exp => Sys2Proof.Machine.execWalnoAgmod ctx g step ls exp s
  | .agptr ctx g ptr => Sys2Proof.Machine.execWalnoAgptr ctx g ptr s
  | .progLoad h slot base len crc => Sys2Proof.Machine.execProgLoad h slot base len crc s
  | .progUnload h slot => Sys2Proof.Machine.execProgUnload h slot s
  | .progVerifyDone => Sys2Proof.Machine.execProgVerifyDone s
  | .move h arm rel targets ptr => Sys2Proof.Machine.execMove h arm rel targets ptr s
  | .vel h axis speed => Sys2Proof.Machine.execVel h axis speed s
  | .knotPush h axis knots ptr => Sys2Proof.Machine.execKnotPush h axis knots ptr s
  | .tblStart h group => Sys2Proof.Machine.execTblStart h group s
  | .tblClear h axis => Sys2Proof.Machine.execTblClear h axis s
  | .pause h groups => Sys2Proof.Machine.execPause h groups s
  | .resume h groups => Sys2Proof.Machine.execResume h groups s
  | .abort h groups => Sys2Proof.Machine.execAbort h groups s
  | .home h axis => Sys2Proof.Machine.execHome h axis s
  | .setPos h axis pos ptr => Sys2Proof.Machine.execSetPos h axis pos ptr s
  | .auxMove h aux rel target ptr => Sys2Proof.Machine.execAuxMove h aux rel target ptr s
  | .auxVel h aux speed => Sys2Proof.Machine.execAuxVel h aux speed s
  | .limitInputConfirm a j active gpi => Sys2Proof.Machine.execLimitInputConfirm a j active gpi s
  | .axisEnable a gpi => Sys2Proof.Machine.execAxisEnable a gpi s
  | .cmpArm c pos => Sys2Proof.Machine.execCmpArm c pos s
  | .cmpPulseEnd c => Sys2Proof.Machine.execCmpPulseEnd c s
  | .auxHoldCurrent n => Sys2Proof.Machine.execAuxHoldCurrent n s
  | .sensorFrame input data => Sys2Proof.Machine.execSensorFrame input data s
  | .sensFrame h sensor ptr data => Sys2Proof.Machine.execSensFrame h sensor ptr data s
  | .sepCompute cycles => Sys2Proof.Machine.execSepCompute cycles s
  | .sepHandover sp felt mapsDiffer => Sys2Proof.Machine.execSepHandover s sp felt mapsDiffer
  | .sepLate => Sys2Proof.Machine.execSepLate s
  | .safetyVerdict ch g bad => Sys2Proof.Machine.execSafetyVerdict ch g bad s
  | .sepEnable => Sys2Proof.Machine.execSepEnable s
  | .positionRecord ch flips => Sys2Proof.Machine.execPositionRecord ch flips s
  | .dataTimeout => Sys2Proof.Machine.execDataTimeout s
  | .ssTmaxExpiry g => Sys2Proof.Machine.execSsTmaxExpiry g s
  | .crossCompare differ ch => Sys2Proof.Machine.execCrossCompare differ ch s
  | .supplyMonitorFault ch => Sys2Proof.Machine.execSupplyMonitorFault ch s
  | .oscillatorFault ch => Sys2Proof.Machine.execOscillatorFault ch s
  | .paramRecheck ch value => Sys2Proof.Machine.execParamRecheck ch value s
  | .safeInputChange ch input b level => Sys2Proof.Machine.execSafeInputChange ch input b level s
  | .discLatch input => Sys2Proof.Machine.execDiscLatch input s
  | .testPulseCheck input good => Sys2Proof.Machine.execTestPulseCheck input good s
  | .resetEdge input => Sys2Proof.Machine.execResetEdge input s
  | .resetStuck input => Sys2Proof.Machine.execResetStuck input s
  | .paramOpen h => Sys2Proof.Machine.execParamOpen h s
  | .paramClose h => Sys2Proof.Machine.execParamClose h s
  | .confirm h value compl => Sys2Proof.Machine.execConfirm h value compl s
  | .confirmTimeout => Sys2Proof.Machine.execConfirmTimeout s
  | .release h groups compl => Sys2Proof.Machine.execRelease h groups compl s
  | .bchTimeout a => Sys2Proof.Machine.execBchTimeout a s
  | .safeOutputTest o element seenOff => Sys2Proof.Machine.execSafeOutputTest o element seenOff s
  | .edmTimeout o => Sys2Proof.Machine.execEdmTimeout o s
  | .feedbackInputChange n mask ta tb tz => Sys2Proof.Machine.execFeedbackInputChange n mask ta tb tz s
  | .ssiFrameDone n raw ready mono => Sys2Proof.Machine.execSsiFrameDone n raw ready mono s
  | .lossChange n mask => Sys2Proof.Machine.execLossChange n mask s
  | .clrFault n => Sys2Proof.Machine.execClrFault n s
  | .fbkEnable n => Sys2Proof.Machine.execFbkEnable n s
  | .feltFeedbackLatch n told => Sys2Proof.Machine.execFeltFeedbackLatch n told s
  | .pwmEnable n => Sys2Proof.Machine.execPwmEnable n s
  | .pwmReload n => Sys2Proof.Machine.execPwmReload n s
  | .pwmSyncReload => Sys2Proof.Machine.execPwmSyncReload s
  | .pwmHoldLimit n => Sys2Proof.Machine.execPwmHoldLimit n s
  | .pwmDutyWrite n duty => Sys2Proof.Machine.execPwmDutyWrite n duty s
  | .pwmPerWrite n per => Sys2Proof.Machine.execPwmPerWrite n per s
  | .pwmRefEdge n => Sys2Proof.Machine.execPwmRefEdge n s
  | .deadTimeEnd n => Sys2Proof.Machine.execDeadTimeEnd n s
  | .blankWindowClose g => Sys2Proof.Machine.execBlankWindowClose g s
  | .tripLatch input level => Sys2Proof.Machine.execTripLatch input level s
  | .tripForce g => Sys2Proof.Machine.execTripForce g s
  | .tripClear g => Sys2Proof.Machine.execTripClear g s
  | .gateLineChange ch set => Sys2Proof.Machine.execGateLineChange ch set s
  | .adcEnable c => Sys2Proof.Machine.execAdcEnable c s
  | .conversionDone c code => Sys2Proof.Machine.execConversionDone c code s
  | .scanGo c => Sys2Proof.Machine.execScanGo c s
  | .injGo c => Sys2Proof.Machine.execInjGo c s
  | .cal c => Sys2Proof.Machine.execCal c s
  | .clrOpen c => Sys2Proof.Machine.execClrOpen c s
  | .calDone c => Sys2Proof.Machine.execCalDone c s
  | .refSettle c => Sys2Proof.Machine.execRefSettle c s
  | .extRefChange ok => Sys2Proof.Machine.execExtRefChange ok s
  | .adcResultRead c => Sys2Proof.Machine.execAdcResultRead c s
  | .tdacWrite c code tol => Sys2Proof.Machine.execTdacWrite c code tol s
  | .twlEnable b => Sys2Proof.Machine.execTwlEnable b s
  | .twlDisable b => Sys2Proof.Machine.execTwlDisable b s
  | .syncFrameSend b => Sys2Proof.Machine.execSyncFrameSend b s
  | .pollFrameSend b => Sys2Proof.Machine.execPollFrameSend b s
  | .svcFrameSend b => Sys2Proof.Machine.execSvcFrameSend b s
  | .safeFrameSend b => Sys2Proof.Machine.execSafeFrameSend b s
  | .cmdFrameSend b => Sys2Proof.Machine.execCmdFrameSend b s
  | .twillCopyReceive b port raw bytes => Sys2Proof.Machine.execTwillCopyReceive b port raw bytes s
  | .ringOpen b port => Sys2Proof.Machine.execRingOpen b port s
  | .branchStateAdvance b => Sys2Proof.Machine.execBranchStateAdvance b s
  | .modeSwitch h mode cycle => Sys2Proof.Machine.execModeSwitch h mode cycle s
  | .modeSwitchCheck => Sys2Proof.Machine.execModeSwitchCheck s
  | .modeSwitchApply => Sys2Proof.Machine.execModeSwitchApply s
  | .svcXfer h b node ptr req => Sys2Proof.Machine.execSvcXfer h b node ptr req s
  | .svcTimeout b => Sys2Proof.Machine.execSvcTimeout b s
  | .guardBlock b edges => Sys2Proof.Machine.execGuardBlock b edges s
  | .dmkPortEnable p => Sys2Proof.Machine.execDmkPortEnable p s
  | .dmkPortDisable p => Sys2Proof.Machine.execDmkPortDisable p s
  | .linkTrainDone p => Sys2Proof.Machine.execLinkTrainDone p s
  | .trainTimeout p => Sys2Proof.Machine.execTrainTimeout p s
  | .linkFrameSend p => Sys2Proof.Machine.execLinkFrameSend p s
  | .linkFrameReceive p raw payload => Sys2Proof.Machine.execLinkFrameReceive p raw payload s
  | .linkLoss p reason => Sys2Proof.Machine.execLinkLoss p reason s
  | .damaskFrameReceive port raw hdr payload flips check residence => Sys2Proof.Machine.execDamaskFrameReceive port raw hdr payload flips check residence s
  | .reassemblyTimeout src stream => Sys2Proof.Machine.execReassemblyTimeout src stream s
  | .egressUnitEnd p => Sys2Proof.Machine.execEgressUnitEnd p s
  | .c0Send r => Sys2Proof.Machine.execC0Send r s
  | .discovery reported => Sys2Proof.Machine.execDiscovery reported s
  | .discRepeat => Sys2Proof.Machine.execDiscRepeat s
  | .routeTableTimeout => Sys2Proof.Machine.execRouteTableTimeout s
  | .timeFrameSend => Sys2Proof.Machine.execTimeFrameSend s
  | .roundClose partnerSync => Sys2Proof.Machine.execRoundClose partnerSync s
  | .listenTimeout => Sys2Proof.Machine.execListenTimeout s
  | .modePropose h mode cycle => Sys2Proof.Machine.execModePropose h mode cycle s
  | .modeAgreementStep => Sys2Proof.Machine.execModeAgreementStep s
  | .rediscover h => Sys2Proof.Machine.execRediscover h s
  | .hostSend h dst stream ptr data => Sys2Proof.Machine.execHostSend h dst stream ptr data s
  | .pairEnable info => Sys2Proof.Machine.execPairEnable info s
  | .pairDisable => Sys2Proof.Machine.execPairDisable s
  | .laendFrameReceive lane raw hdr payload flips check item => Sys2Proof.Machine.execLaendFrameReceive lane raw hdr payload flips check item s
  | .mirrorDeadline => Sys2Proof.Machine.execMirrorDeadline s
  | .streamTimeout b type => Sys2Proof.Machine.execStreamTimeout b type s
  | .digestTimeout => Sys2Proof.Machine.execDigestTimeout s
  | .hbDeadline => Sys2Proof.Machine.execHbDeadline s
  | .selfTestPass part => Sys2Proof.Machine.execSelfTestPass part s
  | .switchover h => Sys2Proof.Machine.execSwitchover h s
  | .acqStart h units => Sys2Proof.Machine.execAcqStart h units s
  | .acqStop h units => Sys2Proof.Machine.execAcqStop h units s
  | .acqForce h units => Sys2Proof.Machine.execAcqForce h units s
  | .acqSample edge full gpi => Sys2Proof.Machine.execAcqSample edge full gpi s
  | .powerOnReset left burned => Sys2Proof.Machine.execPowerOnReset left burned s
  | .externalReset left burned => Sys2Proof.Machine.execExternalReset left burned s
  | .bootRst value => Sys2Proof.Machine.execBootRst value s
  | .deviceReset left burned => Sys2Proof.Machine.execDeviceReset left burned s
  | .watchdogExpiry => Sys2Proof.Machine.execWatchdogExpiry s
  | .watchdogReset left burned => Sys2Proof.Machine.execWatchdogReset left burned s
  | .linkReset perst left burned link => Sys2Proof.Machine.execLinkReset perst left burned link s
  | .bootRomDone fusesOk flashOk vfuse link => Sys2Proof.Machine.execBootRomDone fusesOk flashOk vfuse link s
  | .bootLoadDone => Sys2Proof.Machine.execBootLoadDone s
  | .bootVerifyDone => Sys2Proof.Machine.execBootVerifyDone s
  | .bootSafetyDone spOk feltOk => Sys2Proof.Machine.execBootSafetyDone spOk feltOk s
  | .booted link => Sys2Proof.Machine.execBooted link s
  | .attest h ptr nonce => Sys2Proof.Machine.execAttest h ptr nonce s
  | .attestDone => Sys2Proof.Machine.execAttestDone s
  | .flashWrite h ofs ptr data => Sys2Proof.Machine.execFlashWrite h ofs ptr data s
  | .flashVerify h => Sys2Proof.Machine.execFlashVerify h s
  | .svnCommit h dom vfuse => Sys2Proof.Machine.execSvnCommit h dom vfuse s
  | .keyRevoke h dom slot vfuse => Sys2Proof.Machine.execKeyRevoke h dom slot vfuse s
  | .recoveryWrite => Sys2Proof.Machine.execRecoveryWrite s
  | .recoveryReset => Sys2Proof.Machine.execRecoveryReset s
  | .thermalSample readings => Sys2Proof.Machine.execThermalSample readings s
  | .paramCloseDone agree => Sys2Proof.Machine.execParamCloseDone agree s
  | .flashWriteDone ok left => Sys2Proof.Machine.execFlashWriteDone ok left s
  | .fuseBurnDone ok n => Sys2Proof.Machine.execFuseBurnDone ok n s
  | .recoveryWriteDone ok left => Sys2Proof.Machine.execRecoveryWriteDone ok left s
  | .pwmTop n => Sys2Proof.Machine.execPwmTop n s
  | .pwmCmpb n => Sys2Proof.Machine.execPwmCmpb n s
  | .joinSyncTimeout => Sys2Proof.Machine.execJoinSyncTimeout s
  | .tdacSettled c => Sys2Proof.Machine.execTdacSettled c s

end Sys2Proof.Machine
end

