-- ==== Sys2Proof/Safety.lean ====
section
/-! DEFINITION. What the statements call a safe state, a run that goes on, and the parts of the state of which a statement says that a command leaves them as they are. -/

namespace Sys2Proof

open Sys2Proof.Machine

/-- The SRAM, the registers and the tables are in their canonical form: addresses strictly rising, no entry equal to what an
unlisted address reads as. -/
def Stored (s : State) : Prop :=
  Memory.wf s.mem = true ∧ mapWf regReset s.regs = true ∧ mapWf tabDefault s.tabs = true

/-- A step that does not stop the controller. -/
def Goes (s : State) : Prop := ∃ t, step s = .next t

/-- The parts of the state beside the queue of waiting commands. -/
inductive Part where
  | frc | regs | latch | mem | poison | scrub | tabs | tbs | hst | sch | cen | dp | trj | sep | saf | fbk | pwm | adc | twl
  | links | dmk | lnd | acq | boot | therm | out | freeCtr
  deriving DecidableEq, Repr

/-- A part holds the same in two states. -/
def Part.same (p : Part) (s t : State) : Prop :=
  match p with
  | .frc => t.frc = s.frc
  | .regs => (t.regs, t.upd) = (s.regs, s.upd)
  | .latch => t.latch = s.latch
  | .mem => t.mem = s.mem
  | .poison => t.poison = s.poison
  | .scrub => t.scrub = s.scrub
  | .tabs => t.tabs = s.tabs
  | .tbs => t.tbs = s.tbs
  | .hst => t.hst = s.hst
  | .sch => t.sch = s.sch
  | .cen => t.cen = s.cen
  | .dp => t.dp = s.dp
  | .trj => t.trj = s.trj
  | .sep => t.sep = s.sep
  | .saf => t.saf = s.saf
  | .fbk => t.fbk = s.fbk
  | .pwm => t.pwm = s.pwm
  | .adc => t.adc = s.adc
  | .twl => t.twl = s.twl
  | .links => t.links = s.links
  | .dmk => t.dmk = s.dmk
  | .lnd => t.lnd = s.lnd
  | .acq => t.acq = s.acq
  | .boot => t.boot = s.boot
  | .therm => t.therm = s.therm
  | .out => t.out = s.out
  | .freeCtr => t.freeCtr = s.freeCtr

/-- The answer of a command's meaning is a next state, of which P holds. -/
def Completes (c : Instr) (s : State) (P : State → Prop) : Prop := ∃ t, exec c s = .next t ∧ P t

/-- The BAR0 write of v at an offset is accepted (R16, R131). -/
abbrev Accepts (off v : Nat) (s : State) : Prop := barCode off v true s = EC.OK

/-- The BAR0 write of v at an offset is accepted and takes effect at the present edge: the hardware updates no RW field of
the register at that edge (R16, R53). -/
abbrev Lands (off v : Nat) (s : State) : Prop := Accepts off v s ∧ s.meets off = false

/-- What a BAR0 write that lands leaves: its effect, and its place among the host's writes of the edge (R53, R113). -/
def written (off v : Nat) (s : State) : State :=
  (writeDo off v s).withHst fun h => { h with wrote := h.wrote ++ [(off, v)] }

/-- An instruction of the datapath issues in a context and executes: the context runs on lanes, its run has not ended, and the
word it fetches is that instruction's and is not poisoned (R226, R236, R238). -/
abbrev Issues (x : Nat) (i : Walno) (s : State) : Prop := x < 128 ∧ s.issues x i = true ∧ (s.fetchWord x).2 = false

/-- Where the program counter goes after an instruction that does not branch: it stays while the instruction is repeated, at
the end of a loop's body it returns to the body's first word until the last pass, else it goes to the next word (R233, R235). -/
def Advances (x : Nat) (s t : State) : Prop :=
  let c := s.ctx x
  let d := t.ctx x
  if 1 < c.rep then d.pc = c.pc ∧ d.rep = c.rep - 1 ∧ d.loop.map (fun l => (l.start, l.len, l.left)) = c.loop.map (fun l => (l.start, l.len, l.left))
  else d.rep = 0 ∧ match c.loop with
    | none => d.pc = c.pc + 1 ∧ d.loop = none
    | some l =>
      if c.pc + 1 ≠ l.start + l.len then d.pc = c.pc + 1 ∧ d.loop.map (fun m => (m.start, m.len, m.left)) = some (l.start, l.len, l.left)
      else if l.left ≤ 1 then d.pc = c.pc + 1 ∧ d.loop = none
      else d.pc = l.start ∧ d.loop.map (fun m => (m.start, m.len, m.left)) = some (l.start, l.len, l.left - 1)

/-- A context's run ends with an exception: its number, context and program counter are recorded, the context halts with FAULT,
and its accumulators, its generators and SRAM are as they were (R238). -/
def Raises (x number : Nat) (s t : State) : Prop :=
  t.ctxSt x = CtxSt.HALT ∧ t.getF F.CEN_EXC_LAST_NUM = number ∧ t.getF F.CEN_EXC_LAST_CTX = x
  ∧ t.getF F.CEN_EXC_PC_PC = (s.ctx x).pc % 2 ^ 22 ∧ t.getB F.SCH_CTX_FLAG_FAULT x = true ∧ t.getB F.CEN_DP_FLAG_EXC = true
  ∧ (t.ctx x).accs = (s.ctx x).accs ∧ t.mem = s.mem

/-- A generator as an access sees it: its pointer folded into its range (R222). -/
def folded (x g : Nat) (s : State) : Gen := ((fold x g s).ctx x).gen g

/-- What an access leaves its generator with: its pointer moved by one, by its step, back by one or not at all, within its
range (R221). -/
def Moves (x g pm : Nat) (s t : State) : Prop :=
  let y := folded x g s
  ((t.ctx x).gen g).ptr = (((y.ptr : Int) + if pm = 1 then 1 else if pm = 2 then y.step else if pm = 3 then -1 else 0) % ((max 1 y.len : Nat) : Int)).toNat

/-- No run ends for a sum that saturates: OVF_ACT is 0, or no lane's sum saturates (R172). -/
def Unended (x : Nat) (s : State) (sat : Nat → Bool) : Prop :=
  s.getB F.CEN_CTL_OVF_ACT = false ∨ ∀ l, l < s.laneCount x → sat l = false

/-- The BAR0 write of v at an offset is rejected: by its own checks, an arm of a descriptor made at the same edge being taken
back first where the write arms a change itself (R16, R70, R131). -/
abbrev Rejects (off v : Nat) (full : Bool) (s : State) : Prop :=
  barCode off v full (if off = R.TBS_P_CMD ∧ bit v 0 = true then dropDescArm s else s) ≠ EC.OK

/-- The parts that a command may change; all others it leaves as they are. -/
def Instr.parts (c : Instr) : List Part :=
  match c with
  | .cmpPulseEnd .. =>
    [.trj]
  | .d3hotRequest | .overflowEvent .. =>
    [.hst]
  | .deadTimeEnd .. | .gateLineChange .. =>
    [.pwm]
  | .pllLockRegain | .auxHoldCurrent .. | .digestTimeout =>
    [.regs]
  | .routeTableTimeout =>
    [.dmk]
  | .applyChange | .slewDone =>
    [.regs, .tbs]
  | .bootVerifyDone | .bootSafetyDone .. | .recoveryWriteDone .. =>
    [.regs, .boot]
  | .delayTick | .agePromote =>
    [.regs, .sch]
  | .flashWriteDone .. =>
    [.hst, .boot]
  | .msixMessage .. =>
    [.hst, .out]
  | .reassemblyTimeout .. =>
    [.regs, .dmk]
  | .refSettle .. | .tdacSettled .. =>
    [.regs, .adc]
  | .ritLineRead .. | .booted .. | .joinSyncTimeout =>
    [.regs, .hst]
  | .svcTimeout .. =>
    [.hst, .twl]
  | .blankWindowClose .. | .tripLatch .. =>
    [.regs, .hst, .pwm]
  | .calDone .. | .extRefChange .. =>
    [.regs, .hst, .adc]
  | .completionWrite =>
    [.regs, .hst, .out]
  | .ctxComplete .. | .svcComplete .. =>
    [.regs, .hst, .sch]
  | .fuseBurnDone .. =>
    [.regs, .hst, .boot]
  | .guardBlock .. =>
    [.regs, .twl, .lnd]
  | .limitInputConfirm .. =>
    [.regs, .hst, .trj]
  | .listenTimeout =>
    [.regs, .hst, .dmk]
  | .lossChange .. =>
    [.regs, .hst, .fbk]
  | .preempt .. =>
    [.regs, .sch, .dp]
  | .progVerifyDone =>
    [.regs, .hst, .dp]
  | .resetStuck .. | .confirmTimeout | .edmTimeout .. =>
    [.regs, .hst, .saf]
  | .ringOpen .. | .modeSwitchCheck | .modeSwitchApply =>
    [.regs, .hst, .twl]
  | .selfTestPass .. =>
    [.regs, .hst, .lnd]
  | .sensorFrame .. | .sepCompute .. =>
    [.regs, .hst, .sep]
  | .attestDone =>
    [.hst, .boot, .out, .freeCtr]
  | .bootLoadDone =>
    [.regs, .mem, .poison, .boot]
  | .bootRomDone .. =>
    [.regs, .mem, .poison, .hst]
  | .doorbellDeadline | .ssTmaxExpiry .. | .crossCompare .. | .supplyMonitorFault .. | .oscillatorFault ..
  | .paramRecheck .. | .discLatch .. | .testPulseCheck .. | .bchTimeout .. | .safeOutputTest .. | .paramCloseDone .. =>
    [.regs, .hst, .trj, .saf]
  | .feedbackInputChange .. =>
    [.regs, .hst, .trj, .fbk]
  | .safetyVerdict .. =>
    [.regs, .hst, .saf, .lnd]
  | .linkFrameReceive .. | .egressUnitEnd .. | .c0Send .. =>
    [.regs, .hst, .links, .dmk, .out]
  | .linkFrameSend .. =>
    [.regs, .links, .dmk, .lnd, .out]
  | .linkTrainDone .. | .trainTimeout .. | .linkLoss .. =>
    [.regs, .hst, .links, .dmk, .lnd]
  | .pwmReload .. | .pwmSyncReload | .pwmHoldLimit .. | .pwmRefEdge .. | .pwmTop .. | .pwmCmpb .. =>
    [.regs, .hst, .pwm, .adc, .acq]
  | .refLoss | .dataTimeout =>
    [.regs, .hst, .trj, .saf, .lnd]
  | .safeInputChange .. | .resetEdge .. | .watchdogExpiry =>
    [.regs, .hst, .trj, .saf, .boot]
  | .sepLate =>
    [.regs, .hst, .sch, .sep, .lnd]
  | .syncFrameSend .. | .pollFrameSend .. | .svcFrameSend .. | .safeFrameSend .. | .cmdFrameSend .. | .streamTimeout ..
  | .hbDeadline =>
    [.regs, .hst, .twl, .lnd, .out]
  | .timedStartFire =>
    [.regs, .tbs, .trj, .adc, .acq]
  | .discovery .. | .discRepeat =>
    [.regs, .tabs, .hst, .links, .dmk, .out]
  | .doorbellCompletion .. =>
    [.regs, .hst, .trj, .saf, .lnd, .out]
  | .modeAgreementStep =>
    [.regs, .hst, .twl, .links, .dmk, .out]
  | .positionRecord .. | .feltFeedbackLatch .. =>
    [.regs, .hst, .trj, .saf, .fbk, .lnd]
  | .roundClose .. =>
    [.regs, .tbs, .hst, .dmk, .lnd, .out]
  | .scrubRow .. =>
    [.regs, .mem, .poison, .scrub, .hst, .lnd]
  | .ssiFrameDone .. =>
    [.regs, .hst, .sch, .trj, .fbk, .lnd]
  | .svcDispatch =>
    [.regs, .mem, .poison, .hst, .sch, .lnd]
  | .timeFrameSend =>
    [.regs, .hst, .links, .dmk, .lnd, .out]
  | .timeReadLatch .. | .adcResultRead .. =>
    [.regs, .latch, .hst, .sch, .lnd, .out]
  | .acqSample .. =>
    [.regs, .mem, .poison, .hst, .trj, .acq, .out]
  | .branchStateAdvance .. =>
    [.regs, .hst, .cen, .trj, .twl, .lnd, .out]
  | .conversionDone .. =>
    [.regs, .mem, .poison, .hst, .sch, .adc, .lnd]
  | .walnoNop .. | .endRun .. | .br .. | .brc .. | .loop .. | .rep .. | .mac .. | .msu .. | .mul .. | .muln .. | .clr ..
  | .mov .. | .adda .. | .suba .. | .neg .. | .clmp .. | .lde .. | .ldq .. | .ldi .. | .sta .. | .stq .. | .agset ..
  | .agstg .. | .agmod .. | .agptr .. =>
    [.regs, .mem, .poison, .hst, .sch, .dp, .lnd]
  | .cellCycleTs =>
    [.regs, .tbs, .hst, .sch, .fbk, .adc, .lnd, .out]
  | .twillCopyReceive .. =>
    [.regs, .hst, .sch, .cen, .trj, .twl, .lnd, .out]
  | .damaskFrameReceive .. =>
    [.regs, .tabs, .hst, .sep, .twl, .links, .dmk, .lnd, .out]
  | .mirrorDeadline =>
    [.regs, .hst, .sch, .cen, .trj, .saf, .twl, .lnd, .out]
  | .thermalSample .. =>
    [.regs, .hst, .trj, .saf, .links, .dmk, .lnd, .therm, .out]
  | .dispatch .. =>
    [.regs, .mem, .poison, .hst, .sch, .cen, .dp, .trj, .saf, .lnd]
  | .sepHandover .. =>
    [.regs, .hst, .sch, .trj, .sep, .saf, .links, .dmk, .lnd, .out]
  | .cellCycleTr =>
    [.regs, .tbs, .hst, .sch, .trj, .sep, .saf, .fbk, .adc, .twl, .lnd, .out]
  | .cellCycleTc =>
    [.regs, .tbs, .hst, .sch, .trj, .sep, .saf, .fbk, .pwm, .adc, .twl, .lnd, .acq, .boot, .out]
  | .laendFrameReceive .. =>
    [.regs, .mem, .poison, .tbs, .hst, .sch, .cen, .trj, .sep, .saf, .adc, .twl, .links, .dmk, .lnd, .out]
  | .cycleStart | .cycleStop | .periodWrite .. | .tbsArm .. | .tbsCancel | .registerWrite .. | .commitLockSet
  | .commitLockClear | .ringEnable .. | .ringDisable .. | .clrStat | .lawEnable .. | .lawDisable .. | .axisEnable ..
  | .cmpArm .. | .sepEnable | .clrFault .. | .fbkEnable .. | .pwmEnable .. | .pwmDutyWrite .. | .pwmPerWrite ..
  | .tripForce .. | .tripClear .. | .adcEnable .. | .scanGo .. | .injGo .. | .cal .. | .clrOpen .. | .tdacWrite ..
  | .twlEnable .. | .twlDisable .. | .dmkPortEnable .. | .dmkPortDisable .. | .pairEnable .. | .pairDisable
  | .bootRst .. | .recoveryWrite | .recoveryReset =>
    [.regs, .tbs, .hst, .sch, .cen, .trj, .sep, .saf, .fbk, .pwm, .adc, .twl, .links, .dmk, .lnd, .acq, .boot]
  | .cycleEnd =>
    [.regs, .mem, .poison, .tbs, .hst, .sch, .cen, .trj, .sep, .saf, .fbk, .pwm, .adc, .twl, .dmk, .lnd, .acq, .boot,
     .out]
  | .descriptorFetch .. | .fenceRelease .. | .switchover .. =>
    [.regs, .tabs, .tbs, .hst, .sch, .cen, .trj, .sep, .saf, .fbk, .pwm, .adc, .twl, .links, .dmk, .lnd, .acq, .boot,
     .out]
  | .cellCycleT0 .. | .idleTick | .nop .. | .regWrite .. | .regRead .. | .wordWrite .. | .wordRead .. | .tableWrite ..
  | .tableRead .. | .timeCorr .. | .stop .. | .clearMiss .. | .ctxEnable .. | .ctxDisable .. | .ctxRelease ..
  | .progLoad .. | .progUnload .. | .move .. | .vel .. | .knotPush .. | .tblStart .. | .tblClear .. | .pause ..
  | .resume .. | .abort .. | .home .. | .setPos .. | .auxMove .. | .auxVel .. | .sensFrame .. | .paramOpen ..
  | .paramClose .. | .confirm .. | .release .. | .modeSwitch .. | .svcXfer .. | .modePropose .. | .rediscover ..
  | .hostSend .. | .acqStart .. | .acqStop .. | .acqForce .. | .attest .. | .flashWrite .. | .flashVerify ..
  | .svnCommit .. | .keyRevoke .. =>
    [.regs, .latch, .mem, .poison, .tabs, .tbs, .hst, .sch, .cen, .dp, .trj, .sep, .saf, .fbk, .pwm, .adc, .twl,
     .links, .dmk, .lnd, .acq, .boot, .out]
  | .powerOnReset .. | .externalReset .. | .deviceReset .. | .watchdogReset .. | .linkReset .. =>
    [.frc, .regs, .latch, .mem, .poison, .scrub, .tabs, .tbs, .hst, .sch, .cen, .dp, .trj, .sep, .saf, .fbk, .pwm,
     .adc, .twl, .links, .dmk, .lnd, .acq, .boot, .therm, .out, .freeCtr]

/-- The commands that write one field of one register: the field, the value, the instance. -/
def Instr.asField (c : Instr) : Option (Fld × Nat × Nat) :=
  match c with
  | .cycleStart => some (F.TBS_CYC_CTL_RUN, 1, 0)
  | .cycleStop => some (F.TBS_CYC_CTL_RUN, 0, 0)
  | .periodWrite p => some (F.TBS_CYC_CTL_PERIOD, p, 0)
  | .ringEnable k n => some (ringField k, 1, n)
  | .ringDisable k n => some (ringField k, 0, n)
  | .clrStat => some (F.SCH_CTL_CLR_STAT, 1, 0)
  | .lawEnable n => some (F.CEN_LAW_CTL_EN, 1, n)
  | .lawDisable n => some (F.CEN_LAW_CTL_EN, 0, n)
  | .cmpArm n none => some (F.TRJ_CMP_CTL_ARM, 1, n)
  | .sepEnable => some (F.SEP_CTL_EN, 1, 0)
  | .clrFault n => some (F.FBK_CTL_CLR_FAULT, 1, n)
  | .fbkEnable n => some (F.FBK_CTL_EN, 1, n)
  | .pwmEnable n => some (F.PWM_CTL_EN, 1, n)
  | .tripForce g => some (F.PWM_TGRP_CMD_FORCE, 1, g)
  | .tripClear g => some (F.PWM_TGRP_CMD_CLEAR, 1, g)
  | .adcEnable n => some (F.ADC_CTL_EN, 1, n)
  | .scanGo n => some (F.ADC_CMD_SCAN_GO, 1, n)
  | .injGo n => some (F.ADC_CMD_INJ_GO, 1, n)
  | .cal n => some (F.ADC_CMD_CAL, 1, n)
  | .clrOpen n => some (F.ADC_CMD_CLR_OPEN, 1, n)
  | .twlEnable b => some (F.TWL_CTL_EN, 1, b)
  | .twlDisable b => some (F.TWL_CTL_EN, 0, b)
  | .dmkPortEnable p => some (F.DMK_P_CTL_EN, 1, p)
  | .dmkPortDisable p => some (F.DMK_P_CTL_EN, 0, p)
  | .pairDisable => some (F.LND_CTL_EN, 0, 0)
  | .recoveryWrite => some (F.BOOT_REC_CMD_WRITE, 1, 0)
  | .recoveryReset => some (F.BOOT_REC_CMD_RESET, 1, 0)
  | _ => none

/-- The commands that write one whole register: its offset and the value. -/
def Instr.asWord (c : Instr) : Option (Nat × Nat) :=
  match c with
  | .registerWrite off v true => some (off, v)
  | .commitLockSet => some (R.HST_LOCK, 1)
  | .commitLockClear => some (R.HST_LOCK, 0)
  | .tbsCancel => some (R.TBS_P_CMD, 2)
  | .pwmDutyWrite n d => some (F.PWM_DUTY_DUTY.off n 0, d)
  | .pwmPerWrite n p => some (F.PWM_PER_PER.off n 0, p)
  | .tdacWrite n code tol => some (F.ADC_TDAC_DAC_CODE.off n 0, code % 2 ^ 12 + tol % 2 ^ 8 * 2 ^ 16)
  | .bootRst v => some (R.BOOT_RST, v)
  | _ => none

/-- The commands that are a descriptor taking effect: its ring and tag, and the descriptor. -/
def Instr.asDesc (c : Instr) : Option (DescHdr × Desc) :=
  match c with
  | .nop h => some (h, descNop h)
  | .regWrite h items => some (h, descRegWrite h items)
  | .regRead h offs => some (h, descRegRead h offs)
  | .wordWrite h w n p data => some (h, descWord h 4 w n p data)
  | .wordRead h w n p => some (h, descWord h 5 w n p [])
  | .tableWrite h t f n p data => some (h, descTable h 6 t f n p data)
  | .tableRead h t f n p => some (h, descTable h 7 t f n p [])
  | .timeCorr h ctl step rate slew at_ => some (h, descTimeCorr h ctl step rate slew at_)
  | .stop h groups kind => some (h, descStop h groups kind)
  | .clearMiss h axes => some (h, descClearMiss h axes)
  | .ctxEnable (some h) m => some (h, descBlock h 0x02 1 (schArgs m))
  | .ctxDisable (some h) m => some (h, descBlock h 0x02 2 (schArgs m))
  | .ctxRelease h m => some (h, descBlock h 0x02 3 (schArgs m))
  | .progLoad h slot base len crc => some (h, descBlock h 0x03 1 { arg0 := slot, arg1 := base + len * 2 ^ 32, arg2 := crc, ptr := 0, len := 0, data := [] })
  | .progUnload h slot => some (h, descBlock h 0x03 2 { arg0 := slot, arg1 := 0, arg2 := 0, ptr := 0, len := 0, data := [] })
  | .move h arm rel ts ptr => some (h, descBlock h 0x04 1 (trjArgs (arm + 256 * b2n rel) 0 ptr 112
      ((List.range 12).flatMap (fun i => p72Bytes (ts.getD i 0)) ++ leBytes 0 4)))
  | .vel h a v => some (h, descBlock h 0x04 2 (trjArgs a (toBits 64 v) 0 0 []))
  | .knotPush h a ks ptr => some (h, descBlock h 0x04 3 (trjArgs a ks.length ptr (48 * ks.length) (ks.flatMap knotBytes)))
  | .tblStart h g => some (h, descBlock h 0x04 4 (trjArgs g 0 0 0 []))
  | .tblClear h a => some (h, descBlock h 0x04 5 (trjArgs a 0 0 0 []))
  | .pause h g => some (h, descBlock h 0x04 6 (trjArgs g 0 0 0 []))
  | .resume h g => some (h, descBlock h 0x04 7 (trjArgs g 0 0 0 []))
  | .abort h g => some (h, descBlock h 0x04 8 (trjArgs g 0 0 0 []))
  | .home h a => some (h, descBlock h 0x04 9 (trjArgs a 0 0 0 []))
  | .setPos h a p ptr => some (h, descBlock h 0x04 0xA (trjArgs a 0 ptr 16 (p72Bytes p ++ leBytes 0 7)))
  | .auxMove h n rel p ptr => some (h, descBlock h 0x04 0xB (trjArgs (n + 256 * b2n rel) 0 ptr 16 (p72Bytes p ++ leBytes 0 7)))
  | .auxVel h n v => some (h, descBlock h 0x04 0xC (trjArgs n (toBits 64 v) 0 0 []))
  | .sensFrame h n ptr data => some (h, descBlock h 0x05 1 { arg0 := n, arg1 := 0, arg2 := 0, ptr := ptr, len := data.length, data := data })
  | .paramOpen h => some (h, descBlock h 0x06 1 (safArgs 0 0))
  | .paramClose h => some (h, descBlock h 0x06 2 (safArgs 0 0))
  | .confirm h v c => some (h, descBlock h 0x06 3 (safArgs v c))
  | .release h g c => some (h, descBlock h 0x06 4 (safArgs g c))
  | .modeSwitch h m k => some (h, descBlock h 0x0A 1 { arg0 := m, arg1 := k, arg2 := 0, ptr := 0, len := 0, data := [] })
  | .svcXfer h b n ptr req => some (h, descBlock h 0x0A 2 { arg0 := b + n * 2 ^ 8, arg1 := 0, arg2 := 0, ptr := ptr, len := 64, data := req })
  | .modePropose h m k => some (h, descBlock h 0x0B 1 { arg0 := m, arg1 := k, arg2 := 0, ptr := 0, len := 0, data := [] })
  | .rediscover h => some (h, descBlock h 0x0B 2 { arg0 := 0, arg1 := 0, arg2 := 0, ptr := 0, len := 0, data := [] })
  | .hostSend h dst stream ptr data =>
    some (h, descBlock h 0x0B 3 { arg0 := dst + stream * 2 ^ 12, arg1 := 0, arg2 := 0, ptr := ptr, len := data.length, data := data })
  | .acqStart h u => some (h, descBlock h 0x0D 1 (acqArgs u))
  | .acqStop h u => some (h, descBlock h 0x0D 2 (acqArgs u))
  | .acqForce h u => some (h, descBlock h 0x0D 3 (acqArgs u))
  | .attest h ptr nonce => some (h, descBlock h 0x0E 1 (bootArgs 0 ptr 30048 nonce))
  | .flashWrite h ofs ptr data => some (h, descBlock h 0x0E 2 (bootArgs ofs ptr data.length data))
  | .flashVerify h => some (h, descBlock h 0x0E 3 (bootArgs 0 0 0 []))
  | .svnCommit h dom _ => some (h, descBlock h 0x0E 4 (bootArgs dom 0 0 []))
  | .keyRevoke h dom slot _ => some (h, descBlock h 0x0E 5 (bootArgs (dom + 2 * slot) 0 0 []))
  | _ => none

/-- The state a descriptor finds: what the pins show at that moment (VFUSE, R680) comes with the command. -/
def Instr.shows (c : Instr) (s : State) : State :=
  match c with
  | .svnCommit _ _ vfuse => s.setF F.BOOT_STAT_VFUSE_OK (b2n vfuse)
  | .keyRevoke _ _ _ vfuse => s.setF F.BOOT_STAT_VFUSE_OK (b2n vfuse)
  | _ => s

/-- The commands that issue an instruction of the MAC datapath: the context and the instruction. -/
def Instr.asWalno (c : Instr) : Option (Nat × Walno) :=
  match c with
  | .walnoNop x => some (x, .nop)
  | .endRun x => some (x, .end_)
  | .br x t => some (x, .br t)
  | .brc x a k t => some (x, .brc a k t)
  | .loop x k l => some (x, .loop k l)
  | .rep x k => some (x, .rep k)
  | .mac x a xg xp sg sp sb => some (x, .mul 0 a xg xp sg sp sb)
  | .msu x a xg xp sg sp sb => some (x, .mul 1 a xg xp sg sp sb)
  | .mul x a xg xp sg sp sb => some (x, .mul 2 a xg xp sg sp sb)
  | .muln x a xg xp sg sp sb => some (x, .mul 3 a xg xp sg sp sb)
  | .clr x a => some (x, .clr a)
  | .mov x a r => some (x, .mov a r)
  | .adda x a r => some (x, .adda a r)
  | .suba x a r => some (x, .suba a r)
  | .neg x a => some (x, .neg a)
  | .clmp x a l h => some (x, .clmp a l h)
  | .lde x a g p l => some (x, .lde a g p l)
  | .ldq x a g p l f => some (x, .ldq a g p l f)
  | .ldi x a r i f => some (x, .ldi a r i f)
  | .sta x a g p l => some (x, .sta a g p l)
  | .stq x a g p l f => some (x, .stq a g p l f)
  | .agset x g b l u => some (x, .agset g b l u)
  | .agstg x g h l st => some (x, .agstg g h l st)
  | .agmod x g st l e => some (x, .agmod g st l e)
  | .agptr x g p => some (x, .agptr g p)
  | _ => none

/-- Every field of an instruction lies within its bits (R226, R227). -/
def Walno.Legal (i : Walno) : Prop :=
  match i with
  | .nop | .end_ => True
  | .br t => t < 2 ^ 22
  | .brc a c t => a < 4 ∧ c < 16 ∧ t < 2 ^ 22
  | .loop c l => 1 ≤ c ∧ c ≤ 4096 ∧ 1 ≤ l ∧ l ≤ 16
  | .rep c => 1 ≤ c ∧ c ≤ 4096
  | .mul o a xg xp sg sp sb => o < 4 ∧ a < 4 ∧ xg < 16 ∧ xp < 4 ∧ sg < 16 ∧ sp < 4 ∧ sb < 2
  | .clr a | .neg a => a < 4
  | .mov a r | .adda a r | .suba a r => a < 4 ∧ r < 4
  | .clmp a l h => a < 4 ∧ l < 16 ∧ h < 16
  | .lde a g p l | .sta a g p l => a < 4 ∧ g < 16 ∧ p < 4 ∧ l < 2
  | .ldq a g p l f | .stq a g p l f => a < 4 ∧ g < 16 ∧ p < 4 ∧ l < 2 ∧ f < 128
  | .ldi a r i f => a < 4 ∧ r < 16 ∧ i < 4096 ∧ f < 256
  | .agset g b l u => g < 16 ∧ b < 2 ^ 23 ∧ l < 2 ^ 14 ∧ u < 2
  | .agstg g h l st => g < 16 ∧ h < 2 ^ 22 ∧ l < 2 ^ 14 ∧ st < 2 ^ 14
  | .agmod g st l e => g < 16 ∧ st < 2 ^ 14 ∧ l < 2 ^ 14 ∧ e < 256
  | .agptr g p => g < 16 ∧ p < 2 ^ 14

/-- A command whose condition does not hold leaves the state as it is. -/
def Ignores (c : Instr) (s : State) : Prop := exec c s = .next s

/-- The latched causes of a group (R363). -/
def causeFields : List Fld :=
  [F.SAF_G_CAUSE_START, F.SAF_G_CAUSE_ESTOP, F.SAF_G_CAUSE_GUARD, F.SAF_G_CAUSE_HOST, F.SAF_G_CAUSE_CSTOP, F.SAF_G_CAUSE_SLS,
   F.SAF_G_CAUSE_SLP, F.SAF_G_CAUSE_SOS, F.SAF_G_CAUSE_ZONE, F.SAF_G_CAUSE_ENV, F.SAF_G_CAUSE_BCH, F.SAF_G_CAUSE_POS,
   F.SAF_G_CAUSE_PAIR, F.SAF_G_CAUSE_DATA, F.SAF_G_CAUSE_TMAX]

/-- The state that a demand of a kind (0 STO, 1 SS1, 2 SS2) finds a group in and the one it leads to (R365). -/
def StopLeads (kind st to_ : Nat) : Prop :=
  (kind = 0 → to_ = GS.STO)
  ∧ (kind = 1 → to_ = if st = GS.RUN ∨ st = GS.SS2 ∨ st = GS.SOS then GS.SS1 else st)
  ∧ (kind = 2 → to_ = if st = GS.RUN then GS.SS2 else st)
  ∧ (3 ≤ kind → to_ = st)

/-- A command is a SAFE_FAULT cause: every group in STO, with its reason and channel; in SAFE_FAULT it changes nothing, so
that the first reason stays (R347, R354, R355). -/
def SafeFaults (c : Instr) (reason ch : Nat) (s : State) : Prop :=
  (s.safSt ≠ SSt.SAFE_FAULT → Completes c s fun t =>
    t.safSt = SSt.SAFE_FAULT ∧ (∀ g, g < 8 → t.gSt g = GS.STO) ∧ t.getF F.SAF_FAULT_REASON = reason
    ∧ t.getF F.SAF_FAULT_CH = ch % 2)
  ∧ (s.safSt = SSt.SAFE_FAULT → Ignores c s)

/-- No channel has both its outputs on, and an output that waits for its turn-on finds both off (R451, R452). -/
def PwmApart (s : State) : Prop :=
  ∀ n, ((s.pch n).h = false ∨ (s.pch n).l = false) ∧ ((s.pch n).pend ≠ none → (s.pch n).h = false ∧ (s.pch n).l = false)

end Sys2Proof
end

