-- ==== Sys2Proof/Certificates/Slice0/Obligations.lean ====
section
/-! DEFINITION. The statements for the provers, by chapter of the spec.  A statement that rests on a choice of the model says so in its docstring. -/

open Sys2Proof Sys2Proof.Machine

/-! ### The queue of commands, the stores, the parts -/

/-- A step with a command at the front of the queue is that command's meaning on the state with the queue's rest. -/
def Obligations.StepRunsTheFrontCommand : Prop :=
  ∀ (c : Instr) (l : List Instr) (s : State), s.pending = c :: l → step s = exec c (s.withPending l)

/-- Commands are taken first in, first out: whatever the front command does, the queue loses it and nothing else.
With no command waiting a step is one edge of the free-running counter, 1 ns later and modulo 2^64 (R55; that a step
on an empty queue is an edge is the model's choice, log 1).
The free-running counter counts by one at every edge; power-on reset sets it to 0, and no other command, no other reset
among them, changes it (R55).  That a step with no command waiting is one edge is the model's choice (log 1). -/
def Obligations.FrontCommandLeavesTheQueue : Prop :=
  (∀ s t : State, step s = .next t → t.pending = s.pending.tail)
  ∧ (∀ s : State, s.pending = [] →
    ∃ t, step s = .next t ∧ t.frc = (s.frc + 1) % 2 ^ 64 ∧ t.pending = [] ∧ t.mem = s.mem ∧ t.poison = s.poison ∧ t.tabs = s.tabs)
  ∧ ((∀ s : State, s.pending = [] → ∃ t, step s = .next t ∧ t.frc = (s.frc + 1) % 2 ^ 64)
  ∧ (∀ (left : List Byte) (burned : Nat) (s : State), Completes (.powerOnReset left burned) s fun t => t.frc = 0)
  ∧ ∀ (c : Instr) (s t : State), (∀ left burned, c ≠ .powerOnReset left burned) → exec c s = .next t → t.frc = s.frc)

/-- Every step keeps the canonical form of SRAM, registers and tables, from every state that has it. -/
def Obligations.StepKeepsStoresCanonical : Prop :=
  ∀ s t : State, Stored s → step s = .next t → Stored t

/-- The reset state has empty stores in that form and no command waiting.
Right after power-on reset: FRC is 0, no register differs from its reset value, SRAM holds zeros, nothing is poisoned,
the boot is in stage HOLD, the cell cycle is stopped, the commit lock is clear, the runtime does not serve, every context
is OFF, every group is in STO. -/
def Obligations.ResetState : Prop :=
  (Stored State.reset ∧ State.reset.pending = [])
  ∧ (State.reset.frc = 0 ∧ (∀ off, State.reset.rd off = regReset off) ∧ (∀ w, State.reset.readWord w = 0)
  ∧ State.reset.poison = [] ∧ State.reset.stage = Stage.HOLD ∧ State.reset.cycRun = false ∧ State.reset.locked = false
  ∧ State.reset.runtime = false ∧ (∀ n, n < 128 → State.reset.ctxSt n = CtxSt.OFF) ∧ (∀ g, g < 8 → State.reset.gSt g = GS.STO)
  ∧ ∀ t, exec (.powerOnReset [] 0) State.reset = .next t → t.frc = 0 ∧ t.regs = [] ∧ t.mem = [])

/-- Frame of every command: a command leaves every part of the state outside its list as it was. -/
def Obligations.CommandLeavesOtherPartsAlone : Prop :=
  ∀ (c : Instr) (s t : State), exec c s = .next t → ∀ p, p ∉ c.parts → p.same s t

/-- A word write stores the whole word, leaves every other word and every byte outside its nine bytes as it was, and its
word is no longer poisoned (R41; that poison goes with a write is read from R45).
Stores in canonical form that read the same everywhere are the same data.
The scrubber goes row by row through all 262144 rows: with no more than one byte of a block turned over it corrects the row
and changes no byte (R42, R46); it marks the words of uncorrectable blocks poisoned and no others (R45), and leaves every
byte of another row.  Any error of one byte of a block's 18 is corrected (R42; the code's field and roots are the model's
choice, log 77). -/
def Obligations.SramHoldsItsWords : Prop :=
  (∀ (s : State) (w : Nat) (v : W72),
    (s.writeWord w v).readWord w = v
    ∧ (∀ u, u ≠ w → (s.writeWord w v).readWord u = s.readWord u)
    ∧ (∀ b, b < 9 * w ∨ 9 * w + 9 ≤ b → readByte (s.writeWord w v).mem b = readByte s.mem b)
    ∧ (∀ u, u ∈ (s.writeWord w v).poison ↔ u ∈ s.poison ∧ u ≠ w))
  ∧ (∀ m n : List Host.Cell, Memory.wf m = true → Memory.wf n = true → (∀ a, readByte m a = readByte n a) → m = n)
  ∧ ((∀ (data check : List ByteFlip) (s : State),
    Completes (.scrubRow data check) s fun t =>
      let flips := data ++ check
      t.scrub = (s.scrub + 1) % 262144
      ∧ (∀ w, w ∈ t.poison ↔ w ∈ s.poison ∨ ∃ b, b < 9 ∧ (∃ f ∈ flips, f.block = b) ∧ w ∈ blockWords s.scrub b
          ∧ (eccRead b flips (s.blockData s.scrub b)).1 = .uncorrectable)
      ∧ (∀ a, a < 144 * s.scrub ∨ 144 * s.scrub + 144 ≤ a → readByte t.mem a = readByte s.mem a)
      ∧ ((∀ b, b < 9 → (flips.filter fun f => f.block == b).length ≤ 1) → ∀ a, readByte t.mem a = readByte s.mem a))
  ∧ ∀ (b i e : Nat) (d : List Nat), d.length = 16 → (∀ x ∈ d, x < 256) → i < 18 → 0 < e → e < 256 →
      eccRead b [{ block := b, byte := i, bits := e }] d = (.oneByte i e, d))

/-! ### Instruction words of the MAC datapath -/

/-- Encoding and decoding agree: the 72-bit word of every instruction with legal fields decodes to that instruction (R226). -/
def Obligations.WalnoWordDecodesToItsInstruction : Prop :=
  ∀ i : Walno, Walno.Legal i → i.enc < 2 ^ 72 ∧ walnoDec i.enc = some i

/-! ### Registers -/

/-- What a register holds after an accepted write, bit by bit: a written bit takes the value, a written 1 clears a W1C bit,
but one that the hardware sets at the same edge, every other bit stays (R14, R53).  The premise says that the access types
of one register do not overlap.
The commands that write one field or one register complete: where the write is accepted, its register holds the merged
value, then the block acts on it, then a requester whose flag was cleared is released (R14, R16, R131, R364); where the
hardware updates an RW field of the register at the same edge, the write is kept for the next edge and changes nothing
now (R53). -/
def Obligations.AcceptedWritesMerge : Prop :=
  (∀ (d : RegDef) (v old set i : Nat), d.rw &&& d.w1c = 0 →
    (d.merge v old set).testBit i =
      if d.rw.testBit i then v.testBit i
      else if d.w1c.testBit i && v.testBit i && !set.testBit i then false
      else old.testBit i)
  ∧ ((∀ (c : Instr) (f : Fld) (v i : Nat) (s : State), c.asField = some (f, v, i) → f.off i 0 ≠ R.TBS_P_CMD →
      Lands (f.off i 0) (fieldValue f v i 0 s) s → Completes c s fun t => t = written (f.off i 0) (fieldValue f v i 0 s) s)
  ∧ (∀ (c : Instr) (off v : Nat) (s : State), c.asWord = some (off, v) → ¬(off = R.TBS_P_CMD ∧ bit v 0 = true) → Lands off v s →
      Completes c s fun t => t = written off v s)
  ∧ (∀ (off v : Nat) (s : State), ¬(off = R.TBS_P_CMD ∧ bit v 0 = true) → Accepts off v s → s.meets off = true →
      Completes (.registerWrite off v true) s fun t => t = s.withHst fun h => { h with putOff := h.putOff ++ [(off, v)] })
  ∧ ∀ (off v i j : Nat) (d : RegDef) (s : State), findReg off = some (d, i, j) →
      ∃ u : State, u.rd off = BitVec.ofNat 32 (d.merge v (s.rd off).toNat (s.updOf off)) ∧ (∀ o, o ≠ off → u.rd o = s.rd o)
        ∧ (∀ p, p ≠ Part.regs → p.same s u)
        ∧ ∃ w : State, w = flagRelease d.base v (blockFollow d.base i off (d.seen v (s.rd off).toNat) (s.rd off).toNat u)
          ∧ (∀ o, (writeDo off v s).rd o = w.rd o) ∧ ∀ p, p ≠ Part.regs → p.same w (writeDo off v s))

/-- A rejected write is recorded and changes nothing else: HST_ERR_CODE holds its code and HST_ERR_ADDR its offset,
HST_ERR_CNT counts up to its largest value, REJ is set, every register but these four holds what it held, and no part but
the registers and the host interface's own data changes (R16, R131).  It holds for every offset of the 24-bit map, every
value and every width of the write. -/
def Obligations.RejectedWriteIsRecorded : Prop :=
  ∀ (off v : Nat) (full : Bool) (s : State), off < 2 ^ 24 → Rejects off v full s →
    Completes (.registerWrite off v full) s fun t =>
      t.getF F.HST_ERR_CODE_CODE = barCode off v full s % 2 ^ 16
      ∧ t.getF F.HST_ERR_ADDR_OFFSET = off
      ∧ t.getF F.HST_ERR_CNT_COUNT = satInc (2 ^ 32 - 1) (s.getF F.HST_ERR_CNT_COUNT)
      ∧ t.getB F.HST_FAULT_FLAG_REJ = true
      ∧ (∀ o, o ≠ R.HST_ERR_CODE → o ≠ R.HST_ERR_ADDR → o ≠ R.HST_ERR_CNT → o ≠ R.HST_FAULT_FLAG → t.rd o = s.rd o)
      ∧ ∀ p, p ≠ Part.regs → p ≠ Part.hst → p.same s t

/-- COMMIT_LOCK_SET sets the lock, and COMMIT_LOCK_CLEAR clears it while the cell cycle is stopped (R134).
While the commit lock is set a write that changes a bit of an RWL field is rejected, and while the cell cycle runs the
lock cannot be cleared (R134).
Before the runtime serves, a write below the boot block is rejected with EC_STATE, one of another size or alignment with
EC_ALIGN, which stands before it (R132), and a read outside the listed offsets returns zero (R668). -/
def Obligations.LockAndBootRefuseWrites : Prop :=
  ((∀ s : State, Lands R.HST_LOCK 1 s → Completes .commitLockSet s fun t => t.locked = true)
  ∧ ∀ s : State, Lands R.HST_LOCK 0 s → Completes .commitLockClear s fun t => t.locked = false)
  ∧ ((∀ (off v i j : Nat) (d : RegDef) (s : State), findReg off = some (d, i, j) → s.locked = true →
      v &&& d.rwl ≠ (s.rd off).toNat &&& d.rwl → barCode off v true s ≠ EC.OK)
  ∧ ∀ s : State, s.locked = true → s.cycRun = true → s.getB F.HST_STAT_RUNTIME = true →
      Completes .commitLockClear s fun t => t.locked = true ∧ t.getF F.HST_ERR_CODE_CODE = EC.STATE)
  ∧ ((∀ (off v : Nat) (full : Bool) (s : State), s.getB F.HST_STAT_RUNTIME = false → off < 0x2C0000 →
      barCode off v full s = if full = true ∧ off % 4 = 0 then EC.STATE else EC.ALIGN)
  ∧ ∀ (off : Nat) (s : State), s.getB F.HST_STAT_RUNTIME = false → earlyRead off = false → regRead off s = (0, s))

/-- A read of 4 bytes, or of 8 naturally aligned bytes, puts the value of each of its registers out; a read of another
size, or one that is not aligned, returns zero and records EC_ALIGN (R91).
A read of TBS_NOW_0, TBS_FRC_0 or TBS_CYC_NUM_0 latches the whole value of one edge: in every later state that still
holds the latch, a read of the register's later words returns the words of that value, whatever the time then is (R72). -/
def Obligations.BarReadsReturnOneInstant : Prop :=
  ((∀ (off : Nat) (s : State), off % 4 = 0 →
      Completes (.timeReadLatch off 4) s fun t => ∃ l, t.out = l ++ [.barRead off (regRead off s).1] ∧ t.mem = s.mem ∧ t.frc = s.frc)
  ∧ (∀ (off : Nat) (s : State), off % 8 = 0 →
      Completes (.timeReadLatch off 8) s fun t =>
        ∃ l, t.out = l ++ [.barRead off (regRead off s).1, .barRead (off + 4) (regRead (off + 4) (regRead off s).2).1])
  ∧ ∀ (off size : Nat) (s : State), ¬ (size = 4 ∧ off % 4 = 0) → ¬ (size = 8 ∧ off % 8 = 0) →
      Completes (.timeReadLatch off size) s fun t =>
        (∃ l, t.out = l ++ [.barRead off 0]) ∧ t.getF F.HST_ERR_CODE_CODE = EC.ALIGN)
  ∧ (∀ s t u : State, s.getB F.HST_STAT_RUNTIME = true → u.getB F.HST_STAT_RUNTIME = true → u.latch = t.latch →
    (exec (.timeReadLatch R.TBS_NOW_0 4) s = .next t →
      (regRead R.TBS_NOW_1 u).1 = BitVec.ofNat 32 (s.now / 2 ^ 32) ∧ (regRead R.TBS_NOW_2 u).1 = BitVec.ofNat 32 (s.now / 2 ^ 64))
    ∧ (exec (.timeReadLatch R.TBS_FRC_0 4) s = .next t → (regRead R.TBS_FRC_1 u).1 = BitVec.ofNat 32 (s.frc / 2 ^ 32))
    ∧ (exec (.timeReadLatch R.TBS_CYC_NUM_0 4) s = .next t → (regRead R.TBS_CYC_NUM_1 u).1 = BitVec.ofNat 32 (s.tbs.k / 2 ^ 32)))

/-! ### Time base (chapter 02) -/

/-- At its apply edge an armed change re-anchors corrected time: the new offset is the old one plus the rounded rate term
and the step, the anchor is the present count, the rate is the new one where the change includes one, so that corrected
time steps by exactly the step; the change is no longer pending and APPLIED is set.  Before its edge nothing happens
(R61 to R63).
A slew ends at the first edge at which its correction is made: exactly its amount is folded into the offset at that
edge, the effective rate is the rate again, SLEWING falls and SLEW_DONE is set (R65). -/
def Obligations.TimeBaseChangesAtItsEdge : Prop :=
  ((∀ (c : TbChange) (s : State), s.tbs.pend = some c → applyDue c s = true →
    Completes .applyChange s fun t =>
      t.tbs.par.offset = s.tbs.par.offset
          + (s.tbs.par.rate + s.tbs.par.slew) * (256 * ((s.frc : Int) - s.tbs.par.anchor)) / 2 ^ 40 + c.stepBy
      ∧ t.tbs.par.anchor = s.frc ∧ t.tbs.par.rate = c.rate.getD s.tbs.par.rate
      ∧ t.tbs.par.time (256 * (s.frc : Int)) = s.tbs.par.time (256 * (s.frc : Int)) + c.stepBy
      ∧ t.tbs.pend = none ∧ t.getB F.TBS_STAT_PENDING = false ∧ t.getB F.TBS_FLAG_APPLIED = true
      ∧ t.tbs.prev = s.tbs.par ∧ t.tbs.applyEdge = s.frc)
  ∧ ∀ (c : TbChange) (s : State), s.tbs.pend = some c → applyDue c s = false → exec .applyChange s = .next s)
  ∧ (∀ s : State, slewDue s = true →
    Completes .slewDone s fun t =>
      t.tbs.par.time (256 * (s.frc : Int)) = 256 * (s.frc : Int) + s.tbs.slewBase
          + s.tbs.par.rate * (256 * ((s.frc : Int) - s.tbs.par.anchor)) / 2 ^ 40 + s.tbs.slewAmt
      ∧ t.tbs.par.slew = 0 ∧ t.tbs.par.rate = s.tbs.par.rate ∧ t.tbs.par.anchor = s.frc
      ∧ t.getB F.TBS_STAT_SLEWING = false ∧ t.getB F.TBS_FLAG_SLEW_DONE = true)

/-- One change is armed at a time (R68): an accepted TBS_ARM arms the change that the pending registers hold, with the parts
its command names, and sets PENDING; an ARM while a change is pending is rejected, with EC_BUSY where it breaks no other rule,
and leaves that change; an accepted TBS_CANCEL discards it, and with nothing pending changes nothing of the time base.
Where a register arm meets an arm that a descriptor made at the same edge, the register's is taken and the descriptor
completes with EC_BUSY (R70). -/
def Obligations.OneChangeIsArmed : Prop :=
  ((∀ (step rate slew : Bool) (s : State), s.tbs.pend = none →
      Accepts R.TBS_P_CMD (1 + 16 * b2n step + 32 * b2n rate + 64 * b2n slew) s →
      Completes (.tbsArm step rate slew) s fun t =>
        t.tbs = { s.tbs with pend := some (
          { step := if step then some (s.getS F.TBS_P_STEP_V) else none,
            rate := if rate then some (s.getS F.TBS_P_RATE_V) else none,
            slew := if slew then some (s.getS F.TBS_P_SLEW_V) else none,
            at_ := s.getF F.TBS_P_AT_V, armEdge := s.frc, by_ := none } : TbChange) }
        ∧ t.getB F.TBS_STAT_PENDING = true ∧ (∀ o, o ≠ R.TBS_STAT → t.rd o = s.rd o)
        ∧ ∀ p, p ≠ Part.regs → p ≠ Part.tbs → p ≠ Part.hst → p.same s t)
  ∧ (∀ (step rate slew : Bool) (c : TbChange) (s : State), s.tbs.pend = some c → c.by_ = none →
      Completes (.tbsArm step rate slew) s fun t =>
        t.tbs = s.tbs ∧ t.getB F.HST_FAULT_FLAG_REJ = true ∧ t.getF F.HST_ERR_ADDR_OFFSET = R.TBS_P_CMD
        ∧ (Accepts R.TBS_P_CMD (1 + 16 * b2n step + 32 * b2n rate + 64 * b2n slew) (s.withTbs fun b => { b with pend := none }) →
            t.getF F.HST_ERR_CODE_CODE = EC.BUSY))
  ∧ ∀ s : State, Accepts R.TBS_P_CMD 2 s →
      Completes .tbsCancel s fun t =>
        t.tbs = { s.tbs with pend := none } ∧ t.getB F.TBS_STAT_PENDING = false ∧ (∀ o, o ≠ R.TBS_STAT → t.rd o = s.rd o)
        ∧ ∀ p, p ≠ Part.regs → p ≠ Part.tbs → p ≠ Part.hst → p.same s t)
  ∧ (∀ (step rate slew : Bool) (c : TbChange) (q h : Nat) (s : State),
    s.tbs.pend = some c → c.by_ = some (q, h) → c.armEdge = s.frc →
    Accepts R.TBS_P_CMD (1 + 16 * b2n step + 32 * b2n rate + 64 * b2n slew) (dropDescArm s) →
    Completes (.tbsArm step rate slew) s fun t =>
      t.tbs.pend = some (pendingChange step rate slew s) ∧ t.getB F.TBS_STAT_PENDING = true
      ∧ t.hst.comps = s.hst.comps.map fun e => if e.sq = q ∧ e.head = h ∧ e.code = EC.OK then { e with code := EC.BUSY } else e)

/-- The cell cycle starts at an accepted write of RUN from 0 to 1: CYC_RUN is 1 at once, and its first T0 is the first
instant of the cycle's phase and period that is at or after both TBS_CYC_START and the present time plus 1 us (R78).
An accepted write of RUN from 1 to 0 stops no cycle in progress: CYC_RUN stays as it is and only the stop is noted, and
then no further T0 is due; without STO on every configured axis the write is rejected (R79).
The instants of the cell cycle: T0 is taken where it is due and not otherwise; TS, TR and TC are each taken where their
instant has come, and are then marked taken so that a cycle has each of them once; that an instant passed without its own
command is taken first is the model's choice (log 48).
Cycle k begins at phase + k periods (R31), and the next at the next instant with the next number: no number is skipped
or repeated.
The cell cycle ends at the instant at which the next T0 would lie, once a stop was accepted, or at once where no cycle
has begun; an idle tick is taken where one is due while the cycle is stopped, and otherwise changes nothing (R79, R92). -/
def Obligations.CellCycleGoesByItsInstants : Prop :=
  (∀ s : State, s.getB F.TBS_CYC_CTL_RUN = false → Lands R.TBS_CYC_CTL (fieldValue F.TBS_CYC_CTL_RUN 1 0 0 s) s →
    Completes .cycleStart s fun t =>
      let φ := s.getF F.TBS_CYC_PHASE_V
      let from_ := max (s.getF F.TBS_CYC_START_V) (s.now + 256000)
      t.cycRun = true ∧ t.tbs.started = false ∧ φ ≤ t.tbs.nextT0 ∧ (t.tbs.nextT0 - φ) % s.period = 0
      ∧ from_ ≤ 256 * t.tbs.nextT0
      ∧ ∀ n, φ ≤ n → (n - φ) % s.period = 0 → from_ ≤ 256 * n → t.tbs.nextT0 ≤ n)
  ∧ ((∀ s : State, s.getB F.TBS_CYC_CTL_RUN = true → Lands R.TBS_CYC_CTL (fieldValue F.TBS_CYC_CTL_RUN 0 0 0 s) s →
    Completes .cycleStop s fun t => t.tbs = { s.tbs with stopping := true } ∧ t.cycRun = s.cycRun ∧ t.t0Due = false)
  ∧ ∀ s : State, s.getB F.TBS_CYC_CTL_RUN = true → s.axesSto = false →
      ¬ Accepts R.TBS_CYC_CTL (fieldValue F.TBS_CYC_CTL_RUN 0 0 0 s) s)
  ∧ ((∀ (late : List Nat) (s : State), s.t0Due = true → Completes (.cellCycleT0 late) s fun t => t = takeT0 late (tcIfDue s))
  ∧ (∀ (late : List Nat) (s : State), s.t0Due = false → Ignores (.cellCycleT0 late) s)
  ∧ (∀ s : State, s.cycRun = true → s.tbs.started = true → s.tbs.tsDone = false → s.reached s.tsAt = true →
      Completes .cellCycleTs s fun t => t = takeTs s ∧ t.tbs = { s.tbs with tsDone := true } ∧ Ignores .cellCycleTs t)
  ∧ (∀ s : State, s.cycRun = true → s.tbs.started = true → s.tbs.tsDone = true → s.tbs.trDone = false →
      s.reached s.trAt = true → Completes .cellCycleTr s fun t =>
        t = takeTr s ∧ t.tbs = { s.tbs with trDone := true } ∧ Ignores .cellCycleTr t)
  ∧ (∀ s : State, s.cycRun = true → s.tbs.started = true → s.tbs.tsDone = true → s.tbs.trDone = true →
      s.tbs.tcDone = false → s.reached s.tcAt = true → Completes .cellCycleTc s fun t =>
        t = takeTc s ∧ t.tbs = { s.tbs with tcDone := true } ∧ Ignores .cellCycleTc t)
  ∧ ∀ s : State, s.cycRun = false → Ignores .cellCycleTs s ∧ Ignores .cellCycleTr s ∧ Ignores .cellCycleTc s)
  ∧ (∀ s : State, s.getF F.TBS_CYC_PHASE_V ≤ s.tbs.nextT0 → (s.tbs.nextT0 - s.getF F.TBS_CYC_PHASE_V) % s.period = 0 →
    let u := beginCycle s
    u.tbs.t0 = s.getF F.TBS_CYC_PHASE_V + u.tbs.k * s.period ∧ u.tbs.nextT0 = u.tbs.t0 + s.period
    ∧ (beginCycle u).tbs.k = u.tbs.k + 1
    ∧ u.tsAt = 256 * u.tbs.t0 + 32 * s.getF F.TBS_TS_V ∧ u.tcAt = 256 * (u.tbs.t0 + (s.period - 2000)))
  ∧ ((∀ s : State, s.endDue = true → Completes .cycleEnd s fun t =>
      t = takeEnd (tcIfDue s) ∧ t.tbs = { (tcIfDue s).tbs with started := false, stopping := false, tsDone := true, trDone := true, tcDone := true })
  ∧ (∀ s : State, s.endDue = false → exec .cycleEnd s = .next s)
  ∧ (∀ s : State, s.cycRun = false → s.hst.tickNo ≠ s.ns / 31250 → Completes .idleTick s fun t => t = takeIdle s)
  ∧ ∀ s : State, (s.cycRun = true ∨ s.hst.tickNo = s.ns / 31250) → exec .idleTick s = .next s)

/-- A write of PERIOD sets TS to 0, TR to its default for the new period and the phase to itself modulo the new period:
unchanged where the period grows, and where it shrinks every instant of the old cycle is one of the new; a TS or TR that
leaves TR outside TS + 1 us to P - 6 us is rejected, with EC_RANGE or a code that stands before it (R80). -/
def Obligations.PeriodWriteSetsItsInstants : Prop :=
  (∀ (p : Nat) (s : State), p < 4 → p ≠ s.getF F.TBS_CYC_CTL_PERIOD →
      Lands R.TBS_CYC_CTL (fieldValue F.TBS_CYC_CTL_PERIOD p 0 0 s) s →
      Completes (.periodWrite p) s fun t =>
        t.period = 31250 * 2 ^ p ∧ t.getF F.TBS_TS_V = 0 ∧ t.getF F.TBS_TR_V = trDefault (31250 * 2 ^ p)
        ∧ t.getF F.TBS_CYC_PHASE_V = s.getF F.TBS_CYC_PHASE_V % (31250 * 2 ^ p)
        ∧ (s.getF F.TBS_CYC_PHASE_V < s.period → s.getF F.TBS_CYC_CTL_PERIOD ≤ p →
            t.getF F.TBS_CYC_PHASE_V = s.getF F.TBS_CYC_PHASE_V)
        ∧ (p ≤ s.getF F.TBS_CYC_CTL_PERIOD → ∀ n : Int, (n - s.getF F.TBS_CYC_PHASE_V) % (s.period : Int) = 0 →
            (n - t.getF F.TBS_CYC_PHASE_V) % (t.period : Int) = 0))
  ∧ (∀ (v : Nat) (s : State), trLegal (bits v 0 19) (s.getF F.TBS_TR_V) s.period = false →
      ¬ Accepts R.TBS_TS v s ∧ codeRank (writeCode R.TBS_TS v s) ≤ codeRank EC.RANGE)
  ∧ ∀ (v : Nat) (s : State), trLegal (s.getF F.TBS_TS_V) (bits v 0 21) s.period = false →
      ¬ Accepts R.TBS_TR v s ∧ codeRank (writeCode R.TBS_TR v s) ≤ codeRank EC.RANGE

/-- Timed starts: every unit whose target has come fires, sets FIRED, and goes on from one period after its target, or from
the first target behind those that a step carried time past, which MISSED counts; without a period it has no further target
(R81, R82).  LATE is set where the target had passed when the unit was enabled, or where a step carried time past a periodic
target.  Of the units that share a kind and a target, each but the lowest sets COALESCED and starts nothing, and the lowest
gives its target one start (R83).  A unit that is not due keeps its target and its status.
With one unit due, its target gets one start of its kind, for the instant aimed at. -/
def Obligations.TimedStartsFireOnce : Prop :=
  (∀ s : State, Completes .timedStartFire s fun t => ∀ u, u < 16 →
      (∀ n, u ∈ s.trgDue → mapGet (fun _ => none) s.tbs.trgNext u = some n →
        let per := 256 * s.getF F.TBS_TRG_PER_V u
        let shared := s.trgDue.any fun v => decide (v < u) && s.trgKind v == s.trgKind u
        let late := s.tbs.trgLate.contains u || (decide (per ≠ 0) && s.steppedPast n)
        mapGet (fun _ => none) t.tbs.trgNext u = (if per = 0 then none else some (n + (s.skipped n per + 1) * per))
        ∧ u ∉ t.tbs.trgLate ∧ t.getB F.TBS_TRG_STAT_FIRED u = true
        ∧ t.getF F.TBS_TRG_STAT_MISSED u = min 255 (s.getF F.TBS_TRG_STAT_MISSED u + s.skipped n per)
        ∧ t.getB F.TBS_TRG_STAT_COALESCED u = (s.getB F.TBS_TRG_STAT_COALESCED u || shared)
        ∧ t.getB F.TBS_TRG_STAT_LATE u = (s.getB F.TBS_TRG_STAT_LATE u || late))
      ∧ (u ∉ s.trgDue → mapGet (fun _ => none) t.tbs.trgNext u = mapGet (fun _ => none) s.tbs.trgNext u
          ∧ t.rd (R.TBS_TRG_STAT + 0x20 * u) = s.rd (R.TBS_TRG_STAT + 0x20 * u)))
  ∧ (∀ (u n : Nat) (s : State), s.trgDue = [u] → mapGet (fun _ => none) s.tbs.trgNext u = some n →
      Completes .timedStartFire s fun t => ∃ w : State, t = trgStart (s.trgKind u).1 (s.trgKind u).2 n w
        ∧ ∀ p, p ≠ Part.regs → p ≠ Part.tbs → p.same s w)
  ∧ (∀ s : State, s.trgDue = [] → Ignores .timedStartFire s)
  ∧ ∀ (due : List Nat) (u n : Nat) (s : State), u < 16 → mapGet (fun _ => none) s.tbs.trgNext u = some n →
      (due.any fun v => decide (v < u) && s.trgKind v == s.trgKind u) = true →
      ∀ p, p ≠ Part.regs → p ≠ Part.tbs → p.same s (trgFire due u s)

/-- The reference: its loss clears PLL_LOCK, sets REF_LOSS and asks every group for a stop; its return sets PLL_LOCK alone
and leaves REF_LOSS (R85).  A request for D3hot is taken only while the cell cycle is stopped (R90). -/
def Obligations.ReferenceAndPowerState : Prop :=
  (∀ s : State, Completes .refLoss s fun t => ∃ u : State,
      t = requestStop Req.ref allGroups u ∧ u.getB F.TBS_STAT_PLL_LOCK = false ∧ u.getB F.TBS_FLAG_REF_LOSS = true
      ∧ (∃ e ∈ u.hst.events, e.type = 0x0009 ∧ e.time = s.ns) ∧ u.tbs = s.tbs ∧ u.frc = s.frc)
  ∧ (∀ s : State, Completes .pllLockRegain s fun t =>
      t.getB F.TBS_STAT_PLL_LOCK = true ∧ (∀ o, o ≠ R.TBS_STAT → t.rd o = s.rd o)
      ∧ (t.getB F.TBS_STAT_CYC_RUN = s.getB F.TBS_STAT_CYC_RUN ∧ t.getB F.TBS_STAT_PENDING = s.getB F.TBS_STAT_PENDING))
  ∧ ∀ s : State, Completes .d3hotRequest s fun t =>
      t.hst = (if s.cycRun then { s.hst with d3Refused := true } else { s.hst with d3hot := true }) ∧ ∀ p, p ≠ Part.hst → p.same s t

/-! ### The cell cycle (chapter 01) -/

/-! ### The exchange beat (chapter 03) -/

/-- Events that wait to be written stand in the order of their time, then their source, then their instance, and a posted
event is added to them and stands in that order (R114).
The OVERFLOW event of an enabled ring that dropped events is posted as soon as a slot beside the reserved one is free,
with the number of dropped events, and the ring's drop count since then starts again; it is written in the order of events
to that ring's tail; a halted or disabled ring gets none (R108, R114).  A vector's MSI-X message leaves at most once between
two mirror writes, not while the vector is masked or MSI-X is off, and while the cell cycle runs not before the mirror of that
cycle (R96, R128, R129). -/
def Obligations.EventsAndMessagesKeepOrder : Prop :=
  (∀ (type source inst code detail : Nat) (s : State), s.hst.events.Pairwise (fun a b => a.upTo b = true) →
    (s.post type source inst code detail).hst.events.Pairwise (fun a b => a.upTo b = true)
    ∧ (s.post type source inst code detail).hst.events.Perm
        ({ type := type, source := source, inst := inst, time := s.ns, code := code, detail := detail } :: s.hst.events))
  ∧ ((∀ (n : Nat) (s : State), n < 8 → 0 < mapGet (fun _ => 0) s.hst.eqLost n → s.getB F.HST_EQ_CFG_EN n = true →
      s.getB F.HST_EQ_STAT_HALT n = false → 1 < s.eqFree n →
      Completes (.overflowEvent n) s fun t =>
        mapGet (fun _ => 0) t.hst.eqLost n = 0
        ∧ t.hst.events.Perm
            ({ type := 0x0008, source := 0, inst := n, time := s.ns, code := EC.OK, detail := mapGet (fun _ => 0) s.hst.eqLost n } :: s.hst.events)
        ∧ ∀ p, p ≠ Part.hst → p.same s t)
  ∧ (∀ (n : Nat) (s : State), (mapGet (fun _ => 0) s.hst.eqLost n = 0 ∨ s.getB F.HST_EQ_CFG_EN n = false
      ∨ s.getB F.HST_EQ_STAT_HALT n = true ∨ s.eqFree n ≤ 1) → Ignores (.overflowEvent n) s)
  ∧ (∀ (n lost : Nat) (e : Event) (s : State), n < 8 → s.getB F.HST_EQ_CFG_EN n = true → s.getB F.HST_EQ_STAT_HALT n = false →
      e.type = 0x0008 → e.source = 0 → e.inst = n → e.code = EC.OK → e.detail = lost →
      (s.writeEvent e).out = s.out ++ [.dma (s.getF F.HST_EQ_BASE_V n + 32 * s.getF F.HST_EQ_STAT_TAIL n)
            [BitVec.ofNat 64 (0x0008 + s.getF F.HST_EQ_STAT_PHASE n * 2 ^ 16 + n * 2 ^ 32), BitVec.ofNat 64 e.time, 0,
             BitVec.ofNat 64 lost]])
  ∧ (∀ (v : Nat) (s : State), v ∈ s.hst.vecDue → v ∉ s.hst.vecSent → s.hst.config.msixEnable = true → s.vecMasked v = false →
      (s.cycRun = true → s.tbs.tcDone = true) →
      Completes (.msixMessage v) s fun t =>
        t.out = s.out ++ [.msix v (s.getF F.MSIX_ADDR_V v) (s.getF F.MSIX_DATA_V v)] ∧ v ∉ t.hst.vecDue ∧ v ∈ t.hst.vecSent
        ∧ exec (.msixMessage v) t = .next t)
  ∧ ∀ (v : Nat) (s : State), (v ∉ s.hst.vecDue ∨ v ∈ s.hst.vecSent ∨ s.hst.config.msixEnable = false ∨ s.vecMasked v = true
      ∨ (s.cycRun = true ∧ s.tbs.tcDone = false)) → Ignores (.msixMessage v) s)

/-- A good doorbell read in time takes the heartbeat and the masks, sets the consecutive count to 0, and asks for every line
of the index table that has a masked entry; with STOP_PAIR idle and the heartbeat unchecked nothing else changes (R94, R97,
R99, R101).
A line of the index table is taken entry by entry, each entry whose mask bit is set; a line that fails sets RIT_MISS and
leaves every ring; an index below an enabled ring's size is its new tail, an index at or above it halts the ring with CAUSE
2 and leaves its tail (R94, R100, R109).
A doorbell read with no good data by its deadline is missed: its consecutive and total counts rise, DB_MISS is set, and
below HST_DB_LIMIT nothing else happens; when the count reaches the limit the host is lost: HOST_LOSS is set in status and
flags, the event is posted, and with ACTION 1 every group is asked to stop (R93, R101, R103). -/
def Obligations.DoorbellReadsReachTheHost : Prop :=
  (∀ (data : List Byte) (t0 : Nat) (s : State), s.hst.dbDue = some t0 → s.now ≤ t0 → s.busOk = true → data.length = 64 →
    leAt data 32 4 = 0 → leAt data 36 4 = 2 ^ 32 - 1 → s.getF F.HST_HB_LIMIT_LIMIT = 0 →
    Completes (.doorbellCompletion true data) s fun t =>
      t.hst.hb = BitVec.ofNat 64 (leAt data 0 8) ∧ t.hst.sqMask = BitVec.ofNat 64 (leAt data 8 8)
      ∧ t.hst.cqMask = BitVec.ofNat 64 (leAt data 16 8) ∧ t.hst.eqMask = BitVec.ofNat 8 (leAt data 24 1)
      ∧ t.hst.dbGood = true ∧ t.hst.dbDue = none ∧ t.getF F.HST_DB_CNT_CONSEC = 0
      ∧ (BitVec.ofNat 64 (leAt data 0 8) ≠ s.hst.hb → t.getB F.HST_STAT_HOST_LOSS = false)
      ∧ t.out = s.out ++ t.ritLines.map (fun l => .hostRead (s.getF F.HST_RIT_BASE_ADDR + 64 * l) 64)
      ∧ ∀ p, p ≠ Part.regs → p ≠ Part.hst → p ≠ Part.out → p.same s t)
  ∧ ((∀ (l : Nat) (data : List Byte) (s : State), s.hst.dbGood = true → l ∈ s.ritLines → s.busOk = true →
      Completes (.ritLineRead l true data) s fun t =>
        t = s.each ((List.range 16).filter fun i => bit s.ritMask (16 * l + i)) fun i u => ritEntry (16 * l + i) (leAt data (4 * i) 4) u)
  ∧ (∀ (l : Nat) (data : List Byte) (s : State), s.hst.dbGood = true → l ∈ s.ritLines →
      Completes (.ritLineRead l false data) s fun t => t.getB F.HST_FAULT_FLAG_RIT_MISS = true ∧ t.hst = s.hst
        ∧ ∀ o, o ≠ R.HST_FAULT_FLAG → t.rd o = s.rd o)
  ∧ (∀ (n v : Nat) (s : State), n < 64 → s.getB F.HST_SQ_CFG_EN n = true → s.getB F.HST_SQ_STAT_HALT n = false →
      v < 2 ^ s.getF F.HST_SQ_CFG_SIZE n → (ritEntry n v s).sqTailOf n = v
        ∧ (∀ m, m ≠ n → (ritEntry n v s).sqTailOf m = s.sqTailOf m) ∧ (ritEntry n v s).regs = s.regs)
  ∧ ∀ (n v : Nat) (s : State), n < 64 → s.getB F.HST_SQ_CFG_EN n = true → s.getB F.HST_SQ_STAT_HALT n = false →
      2 ^ s.getF F.HST_SQ_CFG_SIZE n ≤ v → (ritEntry n v s).getB F.HST_SQ_STAT_HALT n = true
        ∧ (ritEntry n v s).getF F.HST_SQ_STAT_CAUSE n = 2 ∧ (ritEntry n v s).hst.sqTail = s.hst.sqTail)
  ∧ ((∀ (t0 : Nat) (s : State), s.hst.dbDue = some t0 → t0 < s.now → s.getF F.HST_DB_CNT_CONSEC + 1 < s.getF F.HST_DB_LIMIT_LIMIT →
    Completes .doorbellDeadline s fun t =>
      t.getF F.HST_DB_CNT_CONSEC = s.getF F.HST_DB_CNT_CONSEC + 1
      ∧ t.getF F.HST_DB_CNT_TOTAL = satInc 65535 (s.getF F.HST_DB_CNT_TOTAL)
      ∧ t.getB F.HST_FAULT_FLAG_DB_MISS = true ∧ t.hst.dbDue = none ∧ t.hst.dbMiss = true
      ∧ ∀ p, p ≠ Part.regs → p ≠ Part.hst → p.same s t)
  ∧ (∀ (t0 : Nat) (s : State), s.hst.dbDue = some t0 → t0 < s.now → s.getF F.HST_DB_CNT_CONSEC < 65535 →
      s.getF F.HST_DB_LIMIT_LIMIT ≤ s.getF F.HST_DB_CNT_CONSEC + 1 →
      Completes .doorbellDeadline s fun t => ∃ u : State, t = hostLost false u
        ∧ u.getF F.HST_DB_CNT_CONSEC = s.getF F.HST_DB_CNT_CONSEC + 1 ∧ u.getF F.HST_STAT_HOST_LOSS = s.getF F.HST_STAT_HOST_LOSS)
  ∧ (∀ (data : List Byte) (t0 : Nat) (s : State), s.hst.dbDue = some t0 → t0 < s.now →
      exec (.doorbellCompletion false data) s = exec .doorbellDeadline s)
  ∧ (∀ (stale : Bool) (s : State), s.getB F.HST_STAT_HOST_LOSS = false →
      ∃ u : State, hostLost stale s = (if s.getF F.HST_LOSS_CTL_ACTION = 1 then requestStop Req.host allGroups u else u)
        ∧ u.getB F.HST_STAT_HOST_LOSS = true ∧ u.getB F.HST_FAULT_FLAG_HOST_LOSS = true
        ∧ ∃ e ∈ u.hst.events, e.type = 0x0006 ∧ e.time = s.ns)
  ∧ ∀ (stale : Bool) (s : State), s.getB F.HST_STAT_HOST_LOSS = true → hostLost stale s = s)

/-- A fetch of the ring that the arbitration grants, within the budget: a good one advances that ring's head by one modulo
its size and queues the descriptor; a failed one halts the ring with CAUSE 1 and advances nothing; a FENCE descriptor with
an earlier one of its ring still open is held and its ring asks for no further fetch (R94, R109 to R111).
A ring that is enabled starts with its tail at 0 and its PHASE at 1 and is not halted; disabling it clears the halt, and
so only disabling and enabling again does (R107, R109; that the halt falls at the disable already is the model's choice). -/
def Obligations.RingsGiveOneDescriptorAtATime : Prop :=
  ((∀ (q : Nat) (d : Desc) (s : State), s.hst.dbGood = true → s.sqWinner = some q → s.hst.fetched < s.getF F.HST_FETCH_BUDGET →
      s.busOk = true → s.getF F.HST_SQ_CFG_SIZE q ≤ 12 → (descFence d && s.sqOpen q) = false →
      Completes (.descriptorFetch q true d) s fun t =>
        t.sqHead q = (s.sqHead q + 1) % 2 ^ s.getF F.HST_SQ_CFG_SIZE q ∧ t.hst.fetched = s.hst.fetched + 1
        ∧ ∃ e, t.hst.queue = s.hst.queue ++ [e] ∧ e.sq = q ∧ e.desc = d ∧ e.head = t.sqHead q)
  ∧ (∀ (q : Nat) (d : Desc) (s : State), s.hst.dbGood = true → s.sqWinner = some q → s.hst.fetched < s.getF F.HST_FETCH_BUDGET →
      Completes (.descriptorFetch q false d) s fun t =>
        t.getB F.HST_SQ_STAT_HALT q = true ∧ t.getF F.HST_SQ_STAT_CAUSE q = 1 ∧ t.sqHead q = s.sqHead q
        ∧ t.hst.queue = s.hst.queue ∧ t.sqAsks q = false)
  ∧ (∀ (q : Nat) (d : Desc) (s : State), s.hst.dbGood = true → s.sqWinner = some q → s.hst.fetched < s.getF F.HST_FETCH_BUDGET →
      s.busOk = true → descFence d = true → s.sqOpen q = true →
      Completes (.descriptorFetch q true d) s fun t =>
        t.hst.queue = s.hst.queue ∧ (∃ f, t.fenceOf q = some f ∧ f.desc = d) ∧ t.sqAsks q = false)
  ∧ (∀ (q : Nat) (f : Queued) (s : State), s.fenceOf q = some f → s.sqOpen q = false →
      Completes (.fenceRelease q) s fun t => t.fenceOf q = none
        ∧ ∃ e, t.hst.queue = s.hst.queue ++ [e] ∧ e.sq = q ∧ e.desc = f.desc ∧ e.head = f.head)
  ∧ ∀ (q : Nat) (s : State), (s.fenceOf q = none ∨ s.sqOpen q = true) → exec (.fenceRelease q) s = .next s)
  ∧ ((∀ (n : Nat) (s : State), n < 64 → s.getB F.HST_CQ_CFG_EN n = false →
      Lands (F.HST_CQ_CFG_EN.off n 0) (fieldValue F.HST_CQ_CFG_EN 1 n 0 s) s →
      Completes (.ringEnable 1 n) s fun t =>
        t.getB F.HST_CQ_CFG_EN n = true ∧ t.getF F.HST_CQ_STAT_PHASE n = 1 ∧ t.getF F.HST_CQ_STAT_TAIL n = 0
        ∧ t.getB F.HST_CQ_STAT_HALT n = false ∧ mapGet (fun _ => 0) t.hst.cqHead n = 0)
  ∧ (∀ (n : Nat) (s : State), n < 8 → s.getB F.HST_EQ_CFG_EN n = false →
      Lands (F.HST_EQ_CFG_EN.off n 0) (fieldValue F.HST_EQ_CFG_EN 1 n 0 s) s →
      Completes (.ringEnable 2 n) s fun t =>
        t.getB F.HST_EQ_CFG_EN n = true ∧ t.getF F.HST_EQ_STAT_PHASE n = 1 ∧ t.getF F.HST_EQ_STAT_TAIL n = 0
        ∧ t.getF F.HST_EQ_STAT_DROP n = 0 ∧ t.getB F.HST_EQ_STAT_HALT n = false)
  ∧ (∀ (n : Nat) (s : State), n < 64 → s.getB F.HST_SQ_CFG_EN n = false →
      Lands (F.HST_SQ_CFG_EN.off n 0) (fieldValue F.HST_SQ_CFG_EN 1 n 0 s) s →
      Completes (.ringEnable 0 n) s fun t =>
        t.getB F.HST_SQ_CFG_EN n = true ∧ t.sqHead n = 0 ∧ t.sqTailOf n = 0 ∧ t.getB F.HST_SQ_STAT_HALT n = false)
  ∧ (∀ (n : Nat) (s : State), n < 64 → s.getB F.HST_SQ_CFG_EN n = true →
      Lands (F.HST_SQ_CFG_EN.off n 0) (fieldValue F.HST_SQ_CFG_EN 0 n 0 s) s →
      Completes (.ringDisable 0 n) s fun t =>
        t.getB F.HST_SQ_CFG_EN n = false ∧ t.getB F.HST_SQ_STAT_HALT n = false ∧ t.getF F.HST_SQ_STAT_CAUSE n = 0)
  ∧ (∀ (n : Nat) (s : State), n < 64 → s.getB F.HST_CQ_CFG_EN n = true →
      Lands (F.HST_CQ_CFG_EN.off n 0) (fieldValue F.HST_CQ_CFG_EN 0 n 0 s) s →
      Completes (.ringDisable 1 n) s fun t => t.getB F.HST_CQ_CFG_EN n = false ∧ t.getB F.HST_CQ_STAT_HALT n = false)
  ∧ ∀ (n : Nat) (s : State), n < 8 → s.getB F.HST_EQ_CFG_EN n = true →
      Lands (F.HST_EQ_CFG_EN.off n 0) (fieldValue F.HST_EQ_CFG_EN 0 n 0 s) s →
      Completes (.ringDisable 2 n) s fun t => t.getB F.HST_EQ_CFG_EN n = false ∧ t.getB F.HST_EQ_STAT_HALT n = false)

/-- COMPLETION_WRITE writes the oldest completion that can be written, never past a completion of the same submission ring
that still waits and never without a free slot: its 32 bytes go to the completion ring's tail with the ring's PHASE, the
tail advances modulo the ring's size, and PHASE flips where the tail wraps to 0 (R106, R107, R111, R124). -/
def Obligations.CompletionsInRingOrder : Prop :=
  (∀ (c : Comp) (s : State), nextComp s [] s.hst.comps = some c →
      s.getF F.HST_CQ_CFG_SIZE (s.getF F.HST_SQ_CFG_CQ c.sq) ≤ 12 →
      Completes .completionWrite s fun t =>
        let n := s.getF F.HST_SQ_CFG_CQ c.sq
        let tail := s.getF F.HST_CQ_STAT_TAIL n
        let phase := s.getF F.HST_CQ_STAT_PHASE n
        let size := 2 ^ s.getF F.HST_CQ_CFG_SIZE n
        t.hst.comps = dropComp c s.hst.comps
        ∧ t.out = s.out ++ [.dma (s.getF F.HST_CQ_BASE_V n + 32 * tail)
            [BitVec.ofNat 64 (c.code % 2 ^ 16 + phase * 2 ^ 16 + c.sq % 2 ^ 6 * 2 ^ 24 + c.tag % 2 ^ 16 * 2 ^ 32 + c.head % 2 ^ 12 * 2 ^ 48),
             BitVec.ofNat 64 c.cyc, BitVec.ofNat 64 c.d0, BitVec.ofNat 64 c.d1]]
        ∧ t.getF F.HST_CQ_STAT_TAIL n = (tail + 1) % size
        ∧ t.getF F.HST_CQ_STAT_PHASE n = if tail + 1 = size then 1 - phase else phase)
  ∧ (∀ (c : Comp) (l : List Comp) (s : State), nextComp s [] l = some c →
      c.key = none ∧ 0 < s.cqFree (s.getF F.HST_SQ_CFG_CQ c.sq) ∧ ∃ a b, l = a ++ c :: b ∧ ∀ x ∈ a, x.sq ≠ c.sq)
  ∧ ∀ s : State, nextComp s [] s.hst.comps = none → exec .completionWrite s = .next s

/-! ### Descriptors (R111 to R124) -/

/-- A descriptor whose form and whose state at its effect break no rule has the effect of its opcode or block command, and
a completion waits with EC_OK, its ring, tag and head, the number of the cycle or tick, its data, and its wish for a
message; a command that ends later keeps its completion until then.  It holds for each of the 45 commands that are
descriptors (R119, R124; that such a command takes effect at the present edge is the model's choice, log 2).
SWITCHOVER is validated and queued for its cycle; where its form breaks a rule the code waits with it (R622).
A rejected descriptor returns its code in the completion and changes nothing else, but for the check flags that a
rejected sensor frame sets (R131): it does not touch the record of rejected register writes.
Of several broken rules the code first in the order is returned: it is one of the codes found, and none found stands
before it (R132). -/
def Obligations.DescriptorRowsTakeEffectOrNone : Prop :=
  (∀ (c : Instr) (h : DescHdr) (d : Desc) (s : State), c.asDesc = some (h, d) →
    (formCode d (c.shows s)).1 = EC.OK → (effectCode d (c.shows s)).1 = EC.OK →
    Completes c s fun t =>
      let u := c.shows s
      let data := okData d (if u.cycRun then u.tbs.t0 else u.hst.tickNo * 31250) u
      t = effectRun d h.sq (u.sqHead h.sq) (u.addComp
        { key := effectKey d u, sq := h.sq, code := EC.OK, tag := bits d.f0.toNat 16 16, head := u.sqHead h.sq,
          cyc := u.number, d0 := data.1, d1 := data.2, irq := bit d.f0.toNat 8 }))
  ∧ (∀ (h : DescHdr) (s : State), Completes (.switchover h) s fun t =>
    ∃ e, t.hst.queue = s.hst.queue ++ [e] ∧ e.sq = h.sq ∧ descBlk e.desc = 0x0C ∧ e.head = s.sqHead h.sq ∧ e.timed = false
      ∧ t.hst.comps = s.hst.comps)
  ∧ (∀ (c : Instr) (h : DescHdr) (d : Desc) (s : State), c.asDesc = some (h, d) → c.shows s = s →
    ((formCode d s).1 ≠ EC.OK ∨ (effectCode d s).1 ≠ EC.OK) →
    Completes c s fun t =>
      (∃ e, t.hst.comps = s.hst.comps ++ [e] ∧ e.sq = h.sq ∧ e.key = none ∧ e.code ≠ EC.OK
        ∧ e.code = if (formCode d s).1 = EC.OK then (effectCode d s).1 else (formCode d s).1)
      ∧ ((formCode d s).1 ≠ EC.OK ∨ descOp d ≠ 11 ∨ descBlk d ≠ 5 → ∀ p, p ≠ Part.hst → p.same s t))
  ∧ (∀ l : List Nat, l ≠ [] → (∀ c ∈ l, c ≠ EC.OK) → firstCode l ∈ l ∧ ∀ c ∈ l, codeRank (firstCode l) ≤ codeRank c)

/-- WORD_WRITE copies COUNT words to SRAM from its word address and leaves every other word and byte; WORD_READ sends each
word of its range that is not poisoned and changes no SRAM (R45, R119, R120).
TABLE_WRITE puts its records FIRST to FIRST + COUNT - 1 together, word for word, and leaves every other record and word
of every table (R119, R121).
TIME_CORR arms the change that it names, with the checks of the register path, or cancels the pending one, which needs the
same source (R69); STOP with kind 0 has no effect, with another kind it is a stop of the host for its groups; a REG_WRITE of
one item writes its register, and where the host wrote the same register at the same edge the host's value stands (R113); NOP
returns the time of its T0 (R99, R119). -/
def Obligations.CommonDescriptorsAct : Prop :=
  ((∀ (h : DescHdr) (w n p : Nat) (data : List Byte) (s : State), w < 2 ^ 22 → n < 2 ^ 16 →
      (formCode (descWord h 4 w n p data) s).1 = EC.OK → (effectCode (descWord h 4 w n p data) s).1 = EC.OK →
      Completes (.wordWrite h w n p data) s fun t =>
        (∀ i, i < n → t.readWord (w + i) = BitVec.ofNat 72 (leAt data (9 * i) 9))
        ∧ (∀ b, b < 9 * w ∨ 9 * (w + n) ≤ b → readByte t.mem b = readByte s.mem b)
        ∧ ∀ q, q ≠ Part.mem → q ≠ Part.poison → q ≠ Part.hst → q.same s t)
  ∧ ∀ (h : DescHdr) (w n p : Nat) (s : State), w < 2 ^ 22 → n < 2 ^ 16 → p < 2 ^ 64 →
      (formCode (descWord h 5 w n p []) s).1 = EC.OK →
      Completes (.wordRead h w n p) s fun t =>
        t.out = s.out ++ ((List.range n).filter fun i => !s.poison.contains (w + i)).map
          (fun i => .dmaBytes (p + 9 * i) (leBytes (s.readWord (w + i)).toNat 9))
        ∧ ∀ q, q ≠ Part.out → q ≠ Part.hst → q.same s t)
  ∧ (∀ (h : DescHdr) (table first count p : Nat) (data : List Byte) (df : TableDef) (s : State),
    table < 2 ^ 16 → first < 2 ^ 32 → count < 2 ^ 32 → tableOf table = some df →
    (formCode (descTable h 6 table first count p data) s).1 = EC.OK →
    (effectCode (descTable h 6 table first count p data) s).1 = EC.OK →
    Completes (.tableWrite h table first count p data) s fun t =>
      (∀ i w, i < count → w < df.words → t.tw table (first + i) w = leAt data (i * df.hostLen + 9 * w) 9 % 2 ^ 72)
      ∧ ∀ tb r w, r < 2 ^ 16 → w < 256 → ¬ (tb = table ∧ first ≤ r ∧ r < first + count ∧ w < df.words) → t.tw tb r w = s.tw tb r w)
  ∧ ((∀ (h : DescHdr) (ctl step rate slew at_ : Nat) (s : State), bit ctl 0 = false → ctl < 2 ^ 64 →
      (formCode (descTimeCorr h ctl step rate slew at_) s).1 = EC.OK → (effectCode (descTimeCorr h ctl step rate slew at_) s).1 = EC.OK →
      Completes (.timeCorr h ctl step rate slew at_) s fun t =>
        t.getB F.TBS_STAT_PENDING = true
        ∧ t.tbs.pend = some (corrChange (descTimeCorr h ctl step rate slew at_) h.sq (s.sqHead h.sq) s)
        ∧ s.tbs.pend = none ∧ ((corrChange (descTimeCorr h ctl step rate slew at_) h.sq (s.sqHead h.sq) s).stepBy ≠ 0 → s.cycRun = false))
  ∧ (∀ (h : DescHdr) (ctl step rate slew at_ : Nat) (s : State), bit ctl 0 = true → ctl < 2 ^ 64 →
      (formCode (descTimeCorr h ctl step rate slew at_) s).1 = EC.OK → (effectCode (descTimeCorr h ctl step rate slew at_) s).1 = EC.OK →
      s.getF F.TBS_CTL_SRC ≠ 1 ∧ Completes (.timeCorr h ctl step rate slew at_) s fun t =>
        t.tbs = { s.tbs with pend := none } ∧ t.getB F.TBS_STAT_PENDING = false)
  ∧ (∀ (h : DescHdr) (groups : Nat) (s : State), groups < 2 ^ 8 → (formCode (descStop h groups 0) s).1 = EC.OK →
      Completes (.stop h groups 0) s fun t => ∀ p, p ≠ Part.hst → p.same s t)
  ∧ (∀ (h : DescHdr) (groups kind : Nat) (s : State), groups < 2 ^ 8 → 1 ≤ kind → kind ≤ 3 → (formCode (descStop h groups kind) s).1 = EC.OK →
      Completes (.stop h groups kind) s fun t => ∃ u : State, t = demandMask F.SAF_G_CAUSE_HOST (kind - 1) groups u
        ∧ ∀ p, p ≠ Part.hst → p.same s u)
  ∧ (∀ (h : DescHdr) (s : State), (formCode (descNop h) s).1 = EC.OK → Completes (.nop h) s fun t =>
      (∃ e, t.hst.comps = s.hst.comps ++ [e] ∧ e.code = EC.OK ∧ e.d0 = if s.cycRun then s.tbs.t0 else s.hst.tickNo * 31250)
      ∧ ∀ p, p ≠ Part.hst → p.same s t)
  ∧ (∀ (h : DescHdr) (off v : Nat) (s : State), off < 2 ^ 24 → v < 2 ^ 32 → (formCode (descRegWrite h [(off, v)]) s).1 = EC.OK →
      s.meets off = false → (∀ w ∈ s.hst.wrote, w.1 ≠ off) →
      writeCode off v s = EC.OK → (∀ e, writeCode off v (s.addComp e) = EC.OK) →
      Completes (.regWrite h [(off, v)]) s fun t => ∃ e, t = writeDo off v (s.addComp e))
  ∧ ∀ (h : DescHdr) (off v x : Nat) (s : State), off < 2 ^ 24 → v < 2 ^ 32 → (formCode (descRegWrite h [(off, v)]) s).1 = EC.OK →
      s.meets off = false → (s.hst.wrote.filter fun w => w.1 == off) = [(off, x)] →
      writeCode off v s = EC.OK → (∀ e, writeCode off v (s.addComp e) = EC.OK) →
      (∀ e, Accepts off x (writeDo off v (s.addComp e))) →
      Completes (.regWrite h [(off, v)]) s fun t => ∃ e, t = writeDo off x (writeDo off v (s.addComp e)))

/-! ### The task scheduler (chapter 04) -/

/-- Taking a context out of OFF and putting it back (R140): enabled with MODE DEP it waits with its counter at DEP_INIT,
with MODE TIMED it stands on a delay list; its current level is its level and its counts are 0.  Disabled in WAIT, DELAY or
READY it is OFF with counter 0; in RUN it only sets STOPPING; in HALT it is OFF and its FAULT flag stays.
DELAY_TICK takes a tick once: the tick number is the present one, no context is left on a delay list with a wake tick
that has come, and a second command in the same microsecond changes nothing (R138, R145).  AGE_PROMOTE likewise takes the
ages of a tick once, and a promotion raises a READY context at level 2 or lower by one level, never into level 0, and sets
AGED (R155). -/
def Obligations.ContextsAndTicks : Prop :=
  ((∀ (n : Nat) (s : State), n < 128 → s.getB F.SCH_CTX_CTL_EN n = false →
      Lands (F.SCH_CTX_CTL_EN.off n 0) (fieldValue F.SCH_CTX_CTL_EN 1 n 0 s) s →
      Completes (.ctxEnable none (2 ^ n)) s fun t =>
        t.getB F.SCH_CTX_CTL_EN n = true
        ∧ (s.getF F.SCH_CTX_CTL_MODE n = 0 → t.ctxSt n = CtxSt.WAIT ∧ t.getF F.SCH_CTX_STAT_DEP_CNT n = s.getF F.SCH_CTX_DEP_DEP_INIT n)
        ∧ (s.getF F.SCH_CTX_CTL_MODE n ≠ 0 → t.ctxSt n = CtxSt.DELAY ∧ mapGet (fun _ => 0) t.sch.wake n
            = if s.getF F.SCH_CTX_WAKE_WAKE n = 0 then s.sch.tick + 1 else s.getF F.SCH_CTX_WAKE_WAKE n)
        ∧ t.getF F.SCH_CTX_STAT_CUR_LEVEL n = s.getF F.SCH_CTX_CTL_LEVEL n ∧ t.getF F.SCH_CTX_CNT_RUNS n = 0)
  ∧ (∀ (n : Nat) (s : State), n < 128 → s.getB F.SCH_CTX_CTL_EN n = true →
      Lands (F.SCH_CTX_CTL_EN.off n 0) (fieldValue F.SCH_CTX_CTL_EN 0 n 0 s) s →
      Completes (.ctxDisable none (2 ^ n)) s fun t =>
        t.getB F.SCH_CTX_CTL_EN n = false
        ∧ (s.ctxSt n = CtxSt.WAIT ∨ s.ctxSt n = CtxSt.DELAY ∨ s.ctxSt n = CtxSt.READY →
            t.ctxSt n = CtxSt.OFF ∧ t.getF F.SCH_CTX_STAT_DEP_CNT n = 0 ∧ ∀ p ∈ t.sch.ready, n ∉ p.2)
        ∧ (s.ctxSt n = CtxSt.RUN → t.ctxSt n = CtxSt.RUN ∧ t.getB F.SCH_CTX_STAT_STOPPING n = true)
        ∧ (s.ctxSt n = CtxSt.HALT → t.ctxSt n = CtxSt.OFF ∧ t.getB F.SCH_CTX_FLAG_FAULT n = s.getB F.SCH_CTX_FLAG_FAULT n))
  ∧ ∀ s : State, Lands (F.SCH_CTL_CLR_STAT.off 0 0) (fieldValue F.SCH_CTL_CLR_STAT 1 0 0 s) s →
      Completes .clrStat s fun t => t.getF F.SCH_L0_MAX_MAX = 0)
  ∧ ((∀ s : State, s.sch.tick ≠ s.tickAt →
      Completes .delayTick s fun t => t.sch.tick = s.tickAt ∧ t.frc = s.frc ∧ exec .delayTick t = .next t
        ∧ ((s.sch.delay.map Prod.fst).Nodup → (∀ key, (s.delayList key).Pairwise (fun a b => a.2 ≤ b.2)) →
          ∀ key, key < 4 → ∀ p ∈ t.delayList key, t.sch.tick < p.2))
  ∧ (∀ s : State, s.sch.tick = s.tickAt → exec .delayTick s = .next s ∧ exec .agePromote s = .next s)
  ∧ (∀ s : State, s.sch.tick ≠ s.tickAt → Completes .agePromote s fun t =>
      t.sch.aged = s.tickAt ∧ t.sch.tick = s.sch.tick ∧ exec .agePromote t = .next t)
  ∧ ∀ (n : Nat) (s : State), n < 128 →
      (s.ctxSt n = CtxSt.READY → s.getB F.SCH_CTX_CTL_AGE_EN n = true → 2 ≤ s.getF F.SCH_CTX_STAT_CUR_LEVEL n →
        s.getF F.SCH_AGE_AGE_T ≤ mapGet (fun _ => 0) s.sch.age n + 1 →
        (ageCtx n s).getF F.SCH_CTX_STAT_CUR_LEVEL n = s.getF F.SCH_CTX_STAT_CUR_LEVEL n - 1
        ∧ (ageCtx n s).getB F.SCH_CTX_FLAG_AGED n = true ∧ (ageCtx n s).ctxSt n = CtxSt.READY)
      ∧ (s.getF F.SCH_CTX_STAT_CUR_LEVEL n < 2 → ageCtx n s = s))

/-- Decrements of one edge on one context: below its counter they count down; at or above it the counter is 0 and the
context is released, once; in any state but WAIT and OFF they are discarded, set DEP_UNDER and count, the state unchanged;
in OFF they are ignored (R142, R144).
A context's release: with DELAY 0 it is READY at the tail of its level's list, else it stands on a delay list with wake
tick now + DELAY, behind every earlier insertion of the same tick (R140, R145, R147). -/
def Obligations.DecrementsReleaseOnce : Prop :=
  (∀ (n count : Nat) (s : State), n < 128 → 0 < count →
    (s.ctxSt n = CtxSt.WAIT → count < s.getF F.SCH_CTX_STAT_DEP_CNT n →
      (decOne n count s).1 = false ∧ (decOne n count s).2.getF F.SCH_CTX_STAT_DEP_CNT n = s.getF F.SCH_CTX_STAT_DEP_CNT n - count
      ∧ (decOne n count s).2.ctxSt n = CtxSt.WAIT ∧ (decOne n count s).2.hst = s.hst)
    ∧ (s.ctxSt n = CtxSt.WAIT → s.getF F.SCH_CTX_STAT_DEP_CNT n ≤ count →
      (decOne n count s).1 = true ∧ (decOne n count s).2.getF F.SCH_CTX_STAT_DEP_CNT n = 0)
    ∧ (s.ctxSt n = CtxSt.OFF → decOne n count s = (false, s))
    ∧ (s.ctxSt n ≠ CtxSt.OFF → s.ctxSt n ≠ CtxSt.WAIT →
      (decOne n count s).1 = false ∧ (decOne n count s).2.ctxSt n = s.ctxSt n
      ∧ (decOne n count s).2.getB F.SCH_CTX_FLAG_DEP_UNDER n = true
      ∧ (decOne n count s).2.getF F.SCH_CTX_CNT_UNDER n = min 65535 (s.getF F.SCH_CTX_CNT_UNDER n + count)))
  ∧ (∀ (n : Nat) (s : State), n < 128 →
    (s.getF F.SCH_CTX_TIME_DELAY n = 0 →
      (releaseCtx n s).ctxSt n = CtxSt.READY
      ∧ (releaseCtx n s).readyList (listKey (s.isSvc n) (s.getF F.SCH_CTX_STAT_CUR_LEVEL n))
        = s.readyList (listKey (s.isSvc n) (s.getF F.SCH_CTX_STAT_CUR_LEVEL n)) ++ [n])
    ∧ (s.getF F.SCH_CTX_TIME_DELAY n ≠ 0 →
      (releaseCtx n s).ctxSt n = CtxSt.DELAY
      ∧ mapGet (fun _ => 0) (releaseCtx n s).sch.wake n = s.sch.tick + s.getF F.SCH_CTX_TIME_DELAY n
      ∧ (releaseCtx n s).delayList (s.getF F.SCH_CTX_CTL_LEVEL n / 4)
        = insWake (s.delayList (s.getF F.SCH_CTX_CTL_LEVEL n / 4)) n (s.sch.tick + s.getF F.SCH_CTX_TIME_DELAY n))
    ∧ ∀ (l : List (Nat × Nat)) (w : Nat), l.Pairwise (fun a b => a.2 ≤ b.2) →
        (insWake l n w).Pairwise (fun a b => a.2 ≤ b.2) ∧ (insWake l n w).Perm ((n, w) :: l)
        ∧ (insWake l n w).filter (fun p => p.2 == w) = l.filter (fun p => p.2 == w) ++ [(n, w)])

/-- DISPATCH of a context that the dispatcher places: it runs with its current level at its level again; a run that is no
resumption counts in RUNS and starts at its entry, a resumed one goes on with its own state.  At levels 1 to 15 its lanes are
an aligned group of its size whose lanes were all free, at level 0 those of its LANE_BASE, all free, and the measured latency
stands in SCH_L0_MAX where it is the largest; a latency above the bound sets L0_OVER.  A context of the law library then runs
the laws that are due in it.  Any other context is not dispatched (R140, R148, R149, R157, R159, R181).
PREEMPT: a running context of levels 1 to 15 that holds a lane of a ready level-0 context becomes READY at the head of its
level's list with PREEMPTED set and holds no lane, and its accumulators, generators and place in its program are kept; any
other context is left, one of level 0 among them (R147, R153).
CTX_COMPLETE: a DEP context waits again with its counter reloaded, a TIMED one stands on a delay list with the next wake
tick of its series, a stopping one is OFF; each successor that waits counts one decrement; a context that has not ended its
run is left (R140, R142).  The next wake tick is the first member of the series behind the present tick, and the series keeps
its phase (R146). -/
def Obligations.RunsDispatchAndComplete : Prop :=
  ((∀ (n lane latency : Nat) (s : State), s.getB F.SCH_CTL_EN = true → placeOf n s = some lane → n < 128 →
      Completes (.dispatch n latency) s fun t => ∃ u : State,
        t = updateReserv (if s.isLib n = true ∧ n ∉ s.sch.saved then lawRuns n u else u)
        ∧ u.ctxSt n = CtxSt.RUN ∧ u.getF F.SCH_CTX_STAT_LANE_AT n = lane % 16
        ∧ u.getF F.SCH_CTX_STAT_CUR_LEVEL n = s.getF F.SCH_CTX_CTL_LEVEL n
        ∧ (s.getF F.SCH_CTX_CTL_LEVEL n ≠ 0 → lane % 2 ^ s.getF F.SCH_CTX_CTL_LANES n = 0
            ∧ groupMask lane (s.getF F.SCH_CTX_CTL_LANES n) &&& s.laneBusy = 0)
        ∧ (s.getF F.SCH_CTX_CTL_LEVEL n = 0 → lane = s.getF F.SCH_CTX_CTL_LANE_BASE n ∧ s.l0Group n &&& s.laneBusy = 0
            ∧ u.getF F.SCH_L0_MAX_MAX = max (s.getF F.SCH_L0_MAX_MAX) (min 65535 latency)
            ∧ (l0Bound (s.sch.l0Held.contains n) s < latency → u.getB F.SCH_FLAG_L0_OVER = true))
        ∧ (n ∉ s.sch.saved → u.getF F.SCH_CTX_CNT_RUNS n = satInc 65535 (s.getF F.SCH_CTX_CNT_RUNS n)
            ∧ u.ctx n = { Ctx.reset with pc := s.getF F.SCH_CTX_ENTRY_ENTRY n })
        ∧ (n ∈ s.sch.saved → u.ctx n = s.ctx n ∧ u.getF F.SCH_CTX_CNT_RUNS n = s.getF F.SCH_CTX_CNT_RUNS n))
  ∧ ∀ (n latency : Nat) (s : State), (s.getB F.SCH_CTL_EN = false ∨ placeOf n s = none) → Ignores (.dispatch n latency) s)
  ∧ ((∀ (n : Nat) (s : State), n < 128 → s.mustYield n = true → Completes (.preempt n) s fun t =>
      t.ctxSt n = CtxSt.READY ∧ t.getB F.SCH_CTX_FLAG_PREEMPTED n = true ∧ n ∈ t.sch.saved ∧ t.lanesOf n = 0
      ∧ t.readyList (listKey (s.isSvc n) (s.getF F.SCH_CTX_STAT_CUR_LEVEL n)) = n :: s.readyList (listKey (s.isSvc n) (s.getF F.SCH_CTX_STAT_CUR_LEVEL n))
      ∧ (t.ctx n).pc = (s.ctx n).pc ∧ (t.ctx n).accs = (s.ctx n).accs ∧ (t.ctx n).gens = (s.ctx n).gens
      ∧ (t.ctx n).rep = (s.ctx n).rep ∧ t.mem = s.mem)
  ∧ (∀ (n : Nat) (s : State), s.mustYield n = false → Ignores (.preempt n) s)
  ∧ ∀ (n : Nat) (s : State), s.getF F.SCH_CTX_STAT_CUR_LEVEL n = 0 ∨ s.lanesOf n &&& s.l0Ready = 0 → s.mustYield n = false)
  ∧ ((∀ (n : Nat) (s : State), n < 128 → s.ctxEnds n = true → Completes (.ctxComplete n) s fun t =>
      (s.getB F.SCH_CTX_STAT_STOPPING n = true →
        t.ctxSt n = CtxSt.OFF ∧ t.getF F.SCH_CTX_STAT_DEP_CNT n = 0 ∧ t.getB F.SCH_CTX_STAT_STOPPING n = false)
      ∧ (s.getB F.SCH_CTX_STAT_STOPPING n = false → s.getF F.SCH_CTX_CTL_MODE n = 0 →
        t.ctxSt n = CtxSt.WAIT ∧ t.getF F.SCH_CTX_STAT_DEP_CNT n = s.getF F.SCH_CTX_DEP_DEP_INIT n)
      ∧ (s.getB F.SCH_CTX_STAT_STOPPING n = false → s.getF F.SCH_CTX_CTL_MODE n ≠ 0 → t.ctxSt n = CtxSt.DELAY
        ∧ mapGet (fun _ => 0) t.sch.wake n = (nextWake (mapGet (fun _ => 0) s.sch.wake n) (s.getF F.SCH_CTX_TIME_PERIOD n) s.sch.tick).1)
      ∧ t.lanesOf n = 0
      ∧ ∀ m, m < 128 → m ≠ n → bit (s.getF F.SCH_CTX_SUCC_SUCC n) m = true → s.ctxSt m = CtxSt.WAIT → 1 < s.getF F.SCH_CTX_STAT_DEP_CNT m →
        t.getF F.SCH_CTX_STAT_DEP_CNT m = s.getF F.SCH_CTX_STAT_DEP_CNT m - 1 ∧ t.ctxSt m = CtxSt.WAIT)
  ∧ (∀ (n : Nat) (s : State), s.ctxEnds n = false → Ignores (.ctxComplete n) s)
  ∧ ∀ prev period tick : Nat, 0 < period →
      tick < (nextWake prev period tick).1 ∧ ((nextWake prev period tick).1 - prev) % period = 0 ∧ prev < (nextWake prev period tick).1
      ∧ (prev + period ≤ tick → (nextWake prev period tick).1 ≤ tick + period)
      ∧ (nextWake prev period tick).2 + 1 = ((nextWake prev period tick).1 - prev) / period)

/-- Services: the head of the highest service list runs on the lowest idle core; WORD_COPY copies in ascending order, and
where its ranges do not meet every destination word is its source word and every other word is untouched; a service error
halts the context; SVC_COMPLETE gives the core back (R151, R152). -/
def Obligations.ServicesRunOnTheirCores : Prop :=
  (∀ (n c : Nat) (s : State), s.svcHead = some n → s.idleCore = some c → s.getB F.SCH_CTL_EN = true → n < 128 →
      Completes .svcDispatch s fun t =>
        (∀ e, (startRun n (s.getF F.SCH_CTX_STAT_LANE_AT n) s).svcError n = some e → t.ctxSt n = CtxSt.HALT ∧ t.mem = s.mem
          ∧ t.getF F.CEN_EXC_LAST_NUM = e ∧ t.getB F.SCH_CTX_FLAG_FAULT n = true)
        ∧ ((startRun n (s.getF F.SCH_CTX_STAT_LANE_AT n) s).svcError n = none →
          t.ctxSt n = CtxSt.RUN ∧ mapGet (fun _ => none) t.sch.cores c = some n))
  ∧ (∀ (src dst count : Nat) (s : State), src + count ≤ sramWords → dst + count ≤ sramWords →
      (src + count ≤ dst ∨ dst + count ≤ src) →
      (∀ i, i < count → (wordCopy src dst count s).readWord (dst + i) = s.readWord (src + i)
        ∧ (dst + i ∈ (wordCopy src dst count s).poison ↔ src + i ∈ s.poison))
      ∧ ∀ u, u < dst ∨ dst + count ≤ u → (wordCopy src dst count s).readWord u = s.readWord u)
  ∧ (∀ (core n : Nat) (s : State), mapGet (fun _ => none) s.sch.cores core = some n → n < 128 →
      Completes (.svcComplete core) s fun t => mapGet (fun _ => none) t.sch.cores core = none ∧ t.ctxSt n ≠ CtxSt.RUN)
  ∧ ∀ s : State, (s.svcHead = none ∨ s.idleCore = none ∨ s.getB F.SCH_CTL_EN = false) → Ignores .svcDispatch s

/-! ### The control engine and its datapath (chapters 05, 06) -/

/-- A law enabled or disabled keeps its output in force until the next T0; from that T0 an enabled one starts with its present
configuration, with no output, gain set, run or state of an earlier enable, its output reading 0 with the exponent EU, its run
and late counts at 0 from the enable on; a disabled one holds nothing and its output is not valid (R182, R203, R213, R230).
A loaded program is judged once: a wrong CRC completes the load with its code, a word that breaks a rule names that word
and its rule, and a good one waits for T0, at which its slot becomes valid with its base and length (R242, R243). -/
def Obligations.LawsAndProgramsStartAfresh : Prop :=
  ((∀ (n : Nat) (s : State), n < 256 → s.lawEn n = false →
      Lands (F.CEN_LAW_CTL_EN.off n 0) (fieldValue F.CEN_LAW_CTL_EN 1 n 0 s) s →
      Completes (.lawEnable n) s fun t => t.lawEn n = true ∧ t.law n = { s.law n with drop := true } ∧ t.getF F.CEN_LAW_CNT_RUNS n = 0
        ∧ t.getF F.CEN_LAW_CNT_LATE n = 0 ∧ t.getF F.CEN_LAW_RUNT_MAX n = 0 ∧ t.lawOut n = s.lawOut n ∧ ∀ m, m ≠ n → t.law m = s.law m)
  ∧ (∀ (n : Nat) (s : State), n < 256 → s.lawEn n = true →
      Lands (F.CEN_LAW_CTL_EN.off n 0) (fieldValue F.CEN_LAW_CTL_EN 0 n 0 s) s →
      Completes (.lawDisable n) s fun t => t.lawEn n = false ∧ t.lawOut n = s.lawOut n ∧ t.law n = { s.law n with drop := true }
        ∧ ∀ m, m ≠ n → t.law m = s.law m)
  ∧ (∀ (n : Nat) (s : State), n < 256 → s.lawEn n = true → (s.law n).drop = true →
      (∃ l, (lawT0 n s).law n = l ∧ l.cfg = some (s.lawCfg n) ∧ l.force = none ∧ l.buf = none ∧ l.act = none ∧ l.pend = none
        ∧ l.runNo = 0 ∧ l.drop = false)
      ∧ (lawT0 n s).lawOut n = ([], (euOf (s.tw 0x0301 n 2)).1, true) ∧ ∀ m, m ≠ n → (lawT0 n s).law m = s.law m)
  ∧ ∀ (n : Nat) (s : State), n < 256 → s.lawEn n = false →
      (lawT0 n s).law n = Law.reset ∧ ((lawT0 n s).lawOut n).2.2 = false ∧ ∀ m, m ≠ n → (lawT0 n s).law m = s.law m)
  ∧ ((∀ (v : Ver) (s : State), s.dp.ver = some v → progCrc v.base v.len s = v.crc → firstBad v.base v.len s = none →
      Completes .progVerifyDone s fun t => t.dp.ver = none ∧ t.dp.verOk = some v ∧ t.regs = s.regs)
  ∧ (∀ (v : Ver) (w r : Nat) (s : State), s.dp.ver = some v → progCrc v.base v.len s = v.crc → firstBad v.base v.len s = some (w, r) →
      w < 2 ^ 22 → r < 8 → Completes .progVerifyDone s fun t => t.dp.ver = none ∧ t.dp.verOk = s.dp.verOk
        ∧ t.getF F.CEN_VER_ERR_WORD = w ∧ t.getF F.CEN_VER_ERR_RULE = r ∧ ∀ e ∈ t.hst.comps, e.key ≠ some 0x30001)
  ∧ (∀ (v : Ver) (s : State), s.dp.ver = some v → progCrc v.base v.len s ≠ v.crc →
      Completes .progVerifyDone s fun t => t.dp.ver = none ∧ t.dp.verOk = s.dp.verOk ∧ t.regs = s.regs
        ∧ ∀ e ∈ t.hst.comps, e.key ≠ some 0x30001)
  ∧ (∀ s : State, s.dp.ver = none → exec .progVerifyDone s = .next s)
  ∧ ∀ (v : Ver) (s : State), s.dp.verOk = some v → v.slot < 32 → v.base < 2 ^ 22 → v.len < 2 ^ 14 →
      (progTake s).getB F.CEN_PROG_STAT_VALID v.slot = true ∧ (progTake s).getF F.CEN_PROG_BASE_BASE v.slot = v.base
      ∧ (progTake s).getF F.CEN_PROG_LEN_LEN v.slot = v.len ∧ (progTake s).dp.verOk = none)

/-- An instruction issues where its context runs on lanes, its run has not ended, and the word it fetches, from its cache slice
or from SRAM at its counter, is the instruction's; then it does what the datapath gives it.  A word delivered poisoned ends
the run with exception 2 and leaves the context in HALT, and an instruction whose word is not fetched changes nothing (R226,
R236, R238).
Where a context goes next: WALNO_NOP goes on; BR to its target; BRC to its target where its condition holds and on where
not; REP has the next instruction execute COUNT times; LOOP has the next LEN words execute COUNT times; END_RUN ends the run,
after which nothing issues in it (R226, R231 to R235).  None of them touches an accumulator, a generator or SRAM. -/
def Obligations.DatapathFlowOfControl : Prop :=
  ((∀ (c : Instr) (x : Nat) (i : Walno) (s : State), c.asWalno = some (x, i) → Issues x i s →
      Completes c s fun t => t = walnoRun x i (s.setCtx x { (s.ctx x).copied (s.sliceOf x).isSome i.enc with begun := true }))
  ∧ (∀ (c : Instr) (x : Nat) (i : Walno) (s : State), c.asWalno = some (x, i) → x < 128 → s.issues x i = true → (s.fetchWord x).2 = true →
      Completes c s fun t => Raises x 2 s t)
  ∧ (∀ (c : Instr) (x : Nat) (i : Walno) (s : State), c.asWalno = some (x, i) → s.issues x i = false → Ignores c s)
  ∧ ∀ (x : Nat) (s : State), (s.ctx x).loop = none → s.fetchWord x = ((s.readWord (s.ctx x).pc).toNat, s.poison.contains (s.ctx x).pc))
  ∧ ((∀ (x : Nat) (s : State), Issues x .nop s → Completes (.walnoNop x) s fun t =>
      Advances x s t ∧ (t.ctx x).accs = (s.ctx x).accs ∧ (t.ctx x).gens = (s.ctx x).gens ∧ t.mem = s.mem)
  ∧ (∀ (x target : Nat) (s : State), Issues x (.br target) s → Completes (.br x target) s fun t =>
      (t.ctx x).pc = target ∧ (t.ctx x).accs = (s.ctx x).accs ∧ (t.ctx x).gens = (s.ctx x).gens ∧ t.mem = s.mem)
  ∧ (∀ (x a k target : Nat) (s : State), Issues x (.brc a k target) s → Completes (.brc x a k target) s fun t =>
      (if (s.ctx x).cond a k = true then (t.ctx x).pc = target else Advances x s t)
      ∧ (t.ctx x).accs = (s.ctx x).accs ∧ (t.ctx x).gens = (s.ctx x).gens ∧ t.mem = s.mem)
  ∧ (∀ (x k : Nat) (s : State), Issues x (.rep k) s → Completes (.rep x k) s fun t =>
      (t.ctx x).rep = k ∧ (t.ctx x).pc = (s.ctx x).pc + 1
      ∧ (t.ctx x).accs = (s.ctx x).accs ∧ (t.ctx x).gens = (s.ctx x).gens ∧ t.mem = s.mem)
  ∧ (∀ (x k n : Nat) (s : State), Issues x (.loop k n) s → Completes (.loop x k n) s fun t =>
      (t.ctx x).pc = (s.ctx x).pc + 1
      ∧ (t.ctx x).loop = some { start := (s.ctx x).pc + 1, len := n, left := k, again := false, body := [] }
      ∧ (t.ctx x).accs = (s.ctx x).accs ∧ (t.ctx x).gens = (s.ctx x).gens ∧ t.mem = s.mem)
  ∧ ∀ (x : Nat) (s : State), Issues x .end_ s → Completes (.endRun x) s fun t =>
      x ∈ t.sch.ended ∧ t.ctxEnds x = true ∧ (∀ i, t.issues x i = false)
      ∧ (t.ctx x).accs = (s.ctx x).accs ∧ (t.ctx x).gens = (s.ctx x).gens ∧ t.mem = s.mem)

/-- What an accumulator of each lane holds after an instruction that writes accumulators, CLR, MOV, NEG, ADDA, SUBA, MAC, MSU,
MUL, MULN, LDE, LDQ, LDI and CLMP: cleared, copied, negated, added or subtracted with alignment, multiplied and accumulated
with the element each lane reads, loaded, or clamped; poison is carried, the pointers of the generators used move, and the
counter goes on.  A generator of the wrong unit is exception 8, and with OVF_ACT = 1 a sum that saturates is exception 4 (R170
to R172, R175, R221 to R224, R226, R230, R238, R239).
The instructions that write accumulators, each of them named, leave SRAM, every accumulator but the named one, and every
other context's datapath state as they were, whether they complete or end the run (R226). -/
def Obligations.AccumulatorsPerLane : Prop :=
  (∀ (x a l : Nat) (s : State), a < 4 → l < s.laneCount x →
    let u := s.ctx x
    (Issues x (.clr a) s → Completes (.clr x a) s fun t => (t.ctx x).acc l a = Acc.reset ∧ Advances x s t)
    ∧ (∀ r, Issues x (.mov a r) s → Completes (.mov x a r) s fun t => (t.ctx x).acc l a = u.acc l r ∧ Advances x s t)
    ∧ (Issues x (.neg a) s → Unended x s (fun k => (accSat (-(u.acc k a).a)).2) → Completes (.neg x a) s fun t =>
        (t.ctx x).acc l a = { u.acc l a with a := (accSat (-(u.acc l a).a)).1 } ∧ Advances x s t)
    ∧ (∀ r, ∀ c ∈ [(Instr.adda x a r, Walno.adda a r, (1 : Int)), (Instr.suba x a r, Walno.suba a r, (-1 : Int))], Issues x c.2.1 s →
        let sum (k : Nat) : Acc × Bool := match (u.acc k r).e with
          | some e => (u.acc k a).add (c.2.2 * (u.acc k r).a) e
          | none => (u.acc k a, false)
        (Unended x s (fun k => (sum k).2) → Completes c.1 s fun t =>
          (t.ctx x).acc l a = { (sum l).1 with bad := (u.acc l a).bad || (u.acc l r).bad } ∧ Advances x s t)
        ∧ (s.getB F.CEN_CTL_OVF_ACT = true → (sum l).2 = true → Completes c.1 s fun t =>
          t.ctxSt x = CtxSt.HALT ∧ t.getF F.CEN_EXC_LAST_NUM = 4 ∧ t.getF F.CEN_EXC_LAST_CTX = x ∧ t.mem = s.mem))
    ∧ (∀ xg xp sg sp sb, ∀ o ∈ [(Instr.mac x a xg xp sg sp sb, 0), (Instr.msu x a xg xp sg sp sb, 1),
          (Instr.mul x a xg xp sg sp sb, 2), (Instr.muln x a xg xp sg sp sb, 3)], Issues x (.mul o.2 a xg xp sg sp sb) s →
        let gx := folded x xg s
        let gs := folded x sg s
        let bx := s.elemAt (gx.addr 0)
        let by_ (k : Nat) := s.elemAt (gs.addr k)
        let a0 (k : Nat) := if o.2 < 2 then u.acc k a else Acc.reset
        let sum (k : Nat) := (a0 k).add (if o.2 % 2 = 0 then bx.1 * (by_ k).1 else -(bx.1 * (by_ k).1)) (gx.exp + gs.exp)
        (gx.unit ≠ 1 → gs.unit ≠ 1 → Unended x s (fun k => (sum k).2) → Completes o.1 s fun t =>
          (t.ctx x).acc l a = { (sum l).1 with bad := (a0 l).bad || bx.2 || (by_ l).2 } ∧ Moves x xg xp s t
          ∧ (sg ≠ xg → Moves x sg sp s t) ∧ Advances x s t)
        ∧ (gx.unit = 1 ∨ gs.unit = 1 → Completes o.1 s fun t => Raises x 8 s t))
    ∧ (∀ g p n, Issues x (.lde a g p n) s →
        let y := folded x g s
        let b := s.elemAt (y.addr (if n = 1 then l else 0))
        (y.unit ≠ 1 → Completes (.lde x a g p n) s fun t =>
          (t.ctx x).acc l a = { a := b.1 * 2 ^ 35, e := some y.exp, bad := b.2 } ∧ Moves x g p s t ∧ Advances x s t)
        ∧ (y.unit = 1 → Completes (.lde x a g p n) s fun t => Raises x 8 s t))
    ∧ (∀ g p n f, Issues x (.ldq a g p n f) s →
        let y := folded x g s
        let w := y.addr (if n = 1 then l else 0)
        (y.unit ≠ 0 → Completes (.ldq x a g p n f) s fun t =>
          (t.ctx x).acc l a = { a := sx 72 (s.readWord w).toNat, e := some (70 - f), bad := s.poison.contains w }
          ∧ Moves x g p s t ∧ Advances x s t)
        ∧ (y.unit = 0 → Completes (.ldq x a g p n f) s fun t => Raises x 8 s t))
    ∧ (∀ r i f, Issues x (.ldi a r i f) s → Completes (.ldi x a r i f) s fun t =>
        let v := (u.snap.getD s.inputs).get r i f
        (t.ctx x).acc l a = { a := v.1, e := some v.2.1, bad := false } ∧ (t.ctx x).inv = (u.inv || !v.2.2) ∧ Advances x s t)
    ∧ (∀ lo hi, Issues x (.clmp a lo hi) s →
        let yl := folded x lo s
        let yh := folded x hi s
        let vl : Rat := ((s.elemAt (yl.addr l)).1 : Int) * 2 ^ 35 * pow2 (yl.exp - 70)
        let vh : Rat := ((s.elemAt (yh.addr l)).1 : Int) * 2 ^ 35 * pow2 (yh.exp - 70)
        (yl.unit ≠ 1 → yh.unit ≠ 1 → Completes (.clmp x a lo hi) s fun t =>
          ((t.ctx x).acc l a).val = min vh (max vl (u.acc l a).val)
          ∧ ((t.ctx x).acc l a).bad = ((u.acc l a).bad || (s.elemAt (yl.addr l)).2 || (s.elemAt (yh.addr l)).2) ∧ Advances x s t)
        ∧ (yl.unit = 1 ∨ yh.unit = 1 → Completes (.clmp x a lo hi) s fun t => Raises x 8 s t)))
  ∧ (∀ (x a : Nat) (c : Instr) (s : State), x < 128 → a < 4 →
    (c = .clr x a ∨ (∃ r, c = .mov x a r) ∨ (∃ r, c = .adda x a r) ∨ (∃ r, c = .suba x a r) ∨ c = .neg x a ∨ (∃ lo hi, c = .clmp x a lo hi)
      ∨ (∃ xg xp sg sp sb, c = .mac x a xg xp sg sp sb) ∨ (∃ xg xp sg sp sb, c = .msu x a xg xp sg sp sb)
      ∨ (∃ xg xp sg sp sb, c = .mul x a xg xp sg sp sb) ∨ (∃ xg xp sg sp sb, c = .muln x a xg xp sg sp sb)
      ∨ (∃ g p l, c = .lde x a g p l) ∨ (∃ g p l f, c = .ldq x a g p l f) ∨ ∃ r k f, c = .ldi x a r k f) →
    Completes c s fun t => t.mem = s.mem ∧ t.poison = s.poison
      ∧ (∀ l b, b < 4 → b ≠ a → (t.ctx x).acc l b = (s.ctx x).acc l b)
      ∧ ∀ y, y ≠ x → t.ctx y = s.ctx y)

/-- The generator instructions AGSET, AGMOD, AGPTR and AGSTG: AGSET gives base, length and unit, AGMOD step, lane stride and
exponent, AGPTR the pointer, each leaving the generator's other parts but for the header that AGSET and AGMOD make invalid;
AGSTG takes all from a stage header; a range beyond SRAM is exception 1 and a bad header exception 3; every other generator,
the accumulators and SRAM stay (R222, R223, R226, R228, R238).
Stores.  STA without a stage header stores in each lane's element the accumulator's value at the generator's exponent,
rounded and held to 36 bits, and STQ in each lane's word the value at F fraction bits, rounded to nearest with ties to even
and held to 72 bits; where lanes address one place the lowest lane's stands.  STA with a header stores at the exponent that
the header's mode gives and writes it with SAT to the header.  No other word or byte of SRAM changes, the accumulators stay,
the pointer moves.  A wrong unit is exception 8, protected SRAM exception 7 (R173, R174, R221, R225, R226, R229, R238). -/
def Obligations.GeneratorsAddressStores : Prop :=
  (∀ (x g : Nat) (s : State), g < 16 →
    let y := (s.ctx x).gen g
    let Sets (t : State) (z : Gen) : Prop := (t.ctx x).gen g = z ∧ (∀ h, h ≠ g → (t.ctx x).gen h = (s.ctx x).gen h)
      ∧ (t.ctx x).accs = (s.ctx x).accs ∧ t.mem = s.mem ∧ Advances x s t
    (∀ b n u, Issues x (.agset g b n u) s →
        (rangeBad b n u = false → Completes (.agset x g b n u) s fun t => Sets t { y with base := b, len := n, unit := u, hdr := none })
        ∧ (rangeBad b n u = true → Completes (.agset x g b n u) s fun t => Raises x 1 s t))
    ∧ (∀ st n e, Issues x (.agmod g st n e) s → Completes (.agmod x g st n e) s fun t =>
        Sets t { y with step := sx 14 st, ls := n, exp := sx 8 e, hdr := none })
    ∧ (∀ p, Issues x (.agptr g p) s → Completes (.agptr x g p) s fun t => Sets t { y with ptr := p })
    ∧ ∀ h n st, Issues x (.agstg g h n st) s →
        let w := (s.readWord h).toNat
        (hdrBad w 0 = false → rangeBad (2 * (h + 1)) (hdrLen w) 0 = false → Completes (.agstg x g h n st) s fun t =>
          Sets t { base := 2 * (h + 1), len := hdrLen w, ptr := 0, unit := 0, step := sx 14 st, ls := n, exp := hdrExp w, hdr := some h })
        ∧ (hdrBad w 0 = true → Completes (.agstg x g h n st) s fun t => Raises x 3 s t)
        ∧ (hdrBad w 0 = false → rangeBad (2 * (h + 1)) (hdrLen w) 0 = true → Completes (.agstg x g h n st) s fun t => Raises x 1 s t))
  ∧ ((∀ (x a g p n : Nat) (s : State), a < 4 → Issues x (.sta a g p n) s →
      let y := folded x g s
      let u := s.ctx x
      (y.unit ≠ 1 → y.hdr = none → (∀ l ∈ storeLanes s x n, s.protStore x (y.addr l / 2) = false) →
        Completes (.sta x a g p n) s fun t =>
          (∀ l ∈ storeLanes s x n, (∀ k, k < l → y.addr k ≠ y.addr l) →
            (t.elemAt (y.addr l)).1 = elemSat (mantissa ((u.acc l a).val) y.exp))
          ∧ Moves x g p s t ∧ Advances x s t)
      ∧ (∀ w h, y.unit ≠ 1 → y.hdr = some w → h = (s.readWord w).toNat → n ≠ 1 → hdrMode h < 3 → (hdrMode h = 0 ∨ y.len = 1) →
          s.protStore x (y.addr 0 / 2) = false → s.protStore x w = false → y.addr 0 / 2 ≠ w →
          let v := storeVals (hdrMode h) (s.getF F.CEN_CTL_GROW_MAX) (hdrExp h) [(u.acc 0 a).val]
          Completes (.sta x a g p n) s fun t =>
            (t.elemAt (y.addr 0)).1 = v.2.1.getD 0 0
            ∧ t.readWord w = BitVec.ofNat 72 (putBits (putBits h 0 8 (toBits 8 v.1)) 11 1 (b2n v.2.2.1))
            ∧ Moves x g p s t ∧ Advances x s t)
      ∧ (y.unit = 1 → Completes (.sta x a g p n) s fun t => Raises x 8 s t)
      ∧ (y.unit ≠ 1 → y.hdr = none → (∃ l ∈ storeLanes s x n, s.protStore x (y.addr l / 2) = true) →
          Completes (.sta x a g p n) s fun t => Raises x 7 s t)
      ∧ ∀ w, (∀ l ∈ storeLanes s x n, y.addr l / 2 ≠ w) → y.hdr ≠ some w →
          Completes (.sta x a g p n) s fun t => t.readWord w = s.readWord w ∧ (t.ctx x).accs = u.accs
            ∧ ∀ b, 9 * w ≤ b → b < 9 * w + 9 → readByte t.mem b = readByte s.mem b)
  ∧ ∀ (x a g p n f : Nat) (s : State), a < 4 → Issues x (.stq a g p n f) s →
      let y := folded x g s
      let u := s.ctx x
      (y.unit ≠ 0 → (∀ l ∈ storeLanes s x n, s.protStore x (y.addr l) = false) →
        Completes (.stq x a g p n f) s fun t =>
          (∀ l ∈ storeLanes s x n, (∀ k, k < l → y.addr k ≠ y.addr l) →
            t.readWord (y.addr l) = BitVec.ofNat 72 (toBits 72 (clampI (-(2 ^ 71)) (2 ^ 71 - 1) (qround ((u.acc l a).val * pow2 f)))))
          ∧ Moves x g p s t ∧ Advances x s t)
      ∧ (y.unit = 0 → Completes (.stq x a g p n f) s fun t => Raises x 8 s t)
      ∧ (y.unit ≠ 0 → (∃ l ∈ storeLanes s x n, s.protStore x (y.addr l) = true) → Completes (.stq x a g p n f) s fun t => Raises x 7 s t)
      ∧ ∀ w, (∀ l ∈ storeLanes s x n, y.addr l ≠ w) →
          Completes (.stq x a g p n f) s fun t => t.readWord w = s.readWord w ∧ (t.ctx x).accs = u.accs
            ∧ ∀ b, 9 * w ≤ b → b < 9 * w + 9 → readByte t.mem b = readByte s.mem b)

/-! ### The counter; every command goes on (chapters 02, 95) -/

/-- Every command answers a next state in every state: no input stops the controller.  What a command does where its
condition does not hold, and that it changes nothing then, is said by the statements of its family. -/
def Obligations.EveryCommandGoesOn : Prop :=
  (∀ (c : Instr) (s : State), ∃ t, exec c s = .next t) ∧ ∀ s : State, Goes s

/-! ### Trajectory events (chapter 07) -/

/-- LIMIT_INPUT_CONFIRM shows a level at the general input that the axis's limit or home input is taken from; an input of an
axis that is not enabled, that is not in use, or that comes from a drive, shows nothing.  At a sampler edge all general inputs
are sampled, and with AX_IN_FILT 0 the input's filtered state is then the shown one.  A sample that differs from the filtered
state begins a run of equal samples; the state changes with the sample that ends AX_IN_FILT microseconds of them, which shows
the home input in HOME_IN and latches an active limit's LIM_P or LIM_N; a sample that equals the state ends the run; no other
input of the axis changes (R274, R275, R278).  The general inputs' levels at that moment come with
the command; that a general input keeps the level last shown is the model's choice.
AXIS_ENABLE, where its write lands, enables the axis with the general inputs' levels shown (R275, R297).
CMP_ARM sets ARM, or writes a new compare position in its three words.  Arming takes the side of the source at that moment
against C, starts the fire count again and fires nothing.  A new position is committed whole by its last word: before it C
stays, after it the unit holds it and the register shows it, and an armed unit is armed with it afresh; a fire of that same
edge is taken back (R283, R291, R294).  A pulse that has ended gives way to the one that waits, one that has not stays, and no
other unit changes (R282).
An auxiliary channel that has stood still for HOLD_DLY takes the current of its ramp and shows REDUCED, also where that
current is still its running current, or no current and no REDUCED where it has no power; before that time nothing changes
(R288). -/
def Obligations.TrajectoryInputsAndOutputs : Prop :=
  ((∀ (a j gpi : Nat) (active : Bool) (s : State), a < 128 → j < 3 → s.getB F.AX_CTL_EN a = true →
      bit (s.rd (R.AX_IN_SEL + 0x400 * a)).toNat (8 * j + 7) = true → bit (s.rd (R.AX_IN_SEL + 0x400 * a)).toNat (8 * j + 6) = false →
      let idx := bits (s.rd (R.AX_IN_SEL + 0x400 * a)).toNat (8 * j) 6
      let level := active != bit (s.rd (R.AX_IN_SEL + 0x400 * a)).toNat (24 + j)
      Completes (.limitInputConfirm a j active gpi) s fun t =>
        t.trj.gpi.getLsbD idx = level ∧ (∀ i, i < 64 → i ≠ idx → t.trj.gpi.getLsbD i = gpi.testBit i) ∧ t.rawInput a j = active
        ∧ (s.samplerEdge = false → t.trj = { s.trj with gpi := t.trj.gpi } ∧ ∀ p, p ≠ Part.trj → p.same s t)
        ∧ (s.samplerEdge = true → t.trj.gpiSeen = t.trj.gpi
            ∧ (t.trj.gpi ≠ s.trj.gpiSeen → s.getF F.AX_IN_FILT_FILT a = 0 → bit (t.ax a).filt j = active)))
  ∧ (∀ (a j gpi : Nat) (active : Bool) (s : State), 3 ≤ j ∨ s.getB F.AX_CTL_EN a = false
      ∨ bit (s.rd (R.AX_IN_SEL + 0x400 * a)).toNat (8 * j + 7) = false ∨ bit (s.rd (R.AX_IN_SEL + 0x400 * a)).toNat (8 * j + 6) = true →
      Ignores (.limitInputConfirm a j active gpi) s)
  ∧ ∀ (a j at_ : Nat) (active : Bool) (pos : Int) (s : State), a < 128 → j < 3 →
      (bit (s.ax a).filt j = active → ((inputSample a j at_ active pos s).ax a).filt = (s.ax a).filt
        ∧ mapGet (fun _ => none) ((inputSample a j at_ active pos s).ax a).cand j = none)
      ∧ (bit (s.ax a).filt j ≠ active →
        let c := (mapGet (fun _ => none) (s.ax a).cand j).getD { since := at_, pos := pos }
        (at_ - c.since < 1000 * s.getF F.AX_IN_FILT_FILT a → ((inputSample a j at_ active pos s).ax a).filt = (s.ax a).filt
          ∧ mapGet (fun _ => none) ((inputSample a j at_ active pos s).ax a).cand j = some c)
        ∧ (1000 * s.getF F.AX_IN_FILT_FILT a ≤ at_ - c.since →
          (∀ i, bit ((inputSample a j at_ active pos s).ax a).filt i = if i = j then active else bit (s.ax a).filt i)
          ∧ (j = 2 → (inputSample a j at_ active pos s).getB F.AX_STAT_HOME_IN a = active)
          ∧ (j = 0 → active = true → (inputSample a j at_ active pos s).getB F.AX_STAT_LIM_P a = true)
          ∧ (j = 1 → active = true → (inputSample a j at_ active pos s).getB F.AX_STAT_LIM_N a = true))))
  ∧ (∀ (a gpi : Nat) (s : State), a < 128 →
    Lands (F.AX_CTL_EN.off a 0) (fieldValue F.AX_CTL_EN 1 a 0 (showGpi gpi s)) (showGpi gpi s) →
    Completes (.axisEnable a gpi) s fun t =>
      t = written (F.AX_CTL_EN.off a 0) (fieldValue F.AX_CTL_EN 1 a 0 (showGpi gpi s)) (showGpi gpi s)
      ∧ t.getB F.AX_CTL_EN a = true ∧ t.trj.gpi = BitVec.ofNat 64 gpi)
  ∧ ((∀ (c : Nat) (s : State), c < 32 → s.getB F.TRJ_CMP_CTL_ARM c = false →
      Lands (F.TRJ_CMP_CTL_ARM.off c 0) (fieldValue F.TRJ_CMP_CTL_ARM 1 c 0 s) s → Completes (.cmpArm c none) s fun t =>
        t.getB F.TRJ_CMP_CTL_ARM c = true ∧ t.getB F.TRJ_CMP_STAT_ARMED c = true ∧ t.getF F.TRJ_CMP_STAT_FIRES c = 0
        ∧ (t.cmp c).c = (s.cmp c).c ∧ (t.cmp c).pulse = (s.cmp c).pulse ∧ (t.cmp c).pulse2 = (s.cmp c).pulse2 ∧ t.trj.fired = s.trj.fired
        ∧ (t.cmp c).side = sideOf (cmpSource (fun n => (s.chan n).count * 2 ^ 24) c s).1 (s.cmp c).c)
  ∧ (∀ (c : Nat) (z : Int) (s : State), c < 32 →
      let o := F.TRJ_CMP_POS_V.off c 0
      let v := toBits 72 z
      let s1 := written o (v % 2 ^ 32) s
      let s2 := written (o + 4) (v / 2 ^ 32 % 2 ^ 32) s1
      Lands o (v % 2 ^ 32) s → Lands (o + 4) (v / 2 ^ 32 % 2 ^ 32) s1 → Lands (o + 8) (v / 2 ^ 64) s2 →
      (s2.cmp c).c = (s.cmp c).c ∧ s2.getF F.TRJ_CMP_POS_V c = s.getF F.TRJ_CMP_POS_V c
      ∧ Completes (.cmpArm c (some z)) s fun t =>
        t.getF F.TRJ_CMP_POS_V c = v ∧ (t.cmp c).c = sx 72 v
        ∧ ((∀ p, (s.cmp c).prior = some p → p.edge ≠ s.frc) →
            t.trj.fired = s.trj.fired ∧ (t.cmp c).pulse = (s.cmp c).pulse ∧ (t.cmp c).pulse2 = (s.cmp c).pulse2
            ∧ t.getB F.TRJ_CMP_CTL_ARM c = s.getB F.TRJ_CMP_CTL_ARM c
            ∧ (s.getB F.TRJ_CMP_CTL_ARM c = true → t.getB F.TRJ_CMP_STAT_ARMED c = true ∧ t.getF F.TRJ_CMP_STAT_FIRES c = 0
                ∧ (t.cmp c).side = sideOf (cmpSource (fun n => (s.chan n).count * 2 ^ 24) c s).1 (sx 72 v)))
        ∧ (∀ p, (s.cmp c).prior = some p → p.edge = s.frc →
            c ∉ t.trj.fired ∧ (t.cmp c).pulse = p.pulse ∧ (t.cmp c).pulse2 = p.pulse2))
  ∧ (∀ (c : Nat) (s : State), Completes (.cmpPulseEnd c) s fun t =>
      (∀ b e, (s.cmp c).pulse = some (b, e) → e ≤ s.now → (t.cmp c).pulse = (s.cmp c).pulse2 ∧ (t.cmp c).pulse2 = none)
      ∧ (∀ b e, (s.cmp c).pulse = some (b, e) → s.now < e → t.cmp c = s.cmp c)
      ∧ ((s.cmp c).pulse = none → t.cmp c = s.cmp c)
      ∧ ∀ d, d ≠ c → t.cmp d = s.cmp d))
  ∧ ((∀ (n r : Nat) (s : State), n < 16 → (s.aux n).restSince = some r → s.getB F.AUX_CTL_EN n = true →
      s.tb 0x0404 n 5 32 16 * 1000000 ≤ s.ns - r →
      Completes (.auxHoldCurrent n) s fun t =>
        let i := if (s.aux n).power then
            auxCurrent (s.auxRun n) (s.tb 0x0404 n 5 0 16) (s.tb 0x0404 n 5 32 16) (s.tb 0x0404 n 5 48 16) (some (s.ns - r)) else 0
        t.getF F.AUX_CUR_I n = min 65535 i
        ∧ t.getB F.AUX_STAT_REDUCED n = (s.aux n).power
        ∧ t.getB F.AUX_FLAG_REDUCED n = (s.getB F.AUX_FLAG_REDUCED n || (s.aux n).power))
  ∧ ∀ (n : Nat) (s : State), (∀ r, (s.aux n).restSince = some r →
        s.getB F.AUX_CTL_EN n = false ∨ s.ns - r < s.tb 0x0404 n 5 32 16 * 1000000) →
      Ignores (.auxHoldCurrent n) s)

/-! ### Separation monitoring (chapter 08) -/

/-- A Damask frame of an enabled sensor is accepted where it fails no check: it becomes the sensor's accepted frame and is
counted; a frame that fails is discarded as a whole, with each failed check's flag set and DISC counted, and the separation
cycle's one FRAME_BAD event posted; no other sensor's frame changes.  A sensor that takes no Damask frames ignores it
(R309).
The computation ends with each group's limit at most its cap, at most 1, and at most the limit of each of its enabled
arms (R313, R323); without a sample nothing is computed.  The handover, in time, forms both channels' verdicts for every
group as complement pairs and raises signal 6; a channel whose handed records hold a failed pair accepts nothing and records
the fault, and a failed pair among the parameters is SAFE_FAULT (R331, R333; that such a parameter leads to reason 7 is the
model's choice); copies of Felt's voxel map that differ are SAFE_FAULT with reason 5 (R347); late, or without a result, it does nothing, and SEP_LATE sets LATE and raises signal 6 (R314).  The factor a
group is issued is its limit where both channels accepted it after the handover, 0 in every other case with cause 7, and 0 for
an inactive group (R315; the last is the model's choice, log 53).
A channel's verdict for a group is taken once: a good pair sets that channel's ACCEPT for the group, VETO where it is 0,
and leaves the other channel's; a pair that fails is an internal fault and accepts nothing; a verdict that comes at or after
the edge of TC is not taken and counts as missing; without a verdict that waits nothing changes (R315, R334, R377). -/
def Obligations.SeparationCycle : Prop :=
  ((∀ (i : Nat) (data : List Byte) (s : State), i < 16 → s.sensEn i = true → s.sens i 0 1 1 = 1 → frameFails i data s = 0 →
      Completes (.sensorFrame i data) s fun t =>
        (∀ j, mapGet (fun _ => none) t.sep.accepted j = if j = i then some (frameOf data) else mapGet (fun _ => none) s.sep.accepted j)
        ∧ t.getF F.SEP_S_GOOD_GOOD i = satInc (2 ^ 32 - 1) (s.getF F.SEP_S_GOOD_GOOD i)
        ∧ t.getF F.SEP_S_BAD_DISC i = s.getF F.SEP_S_BAD_DISC i ∧ t.hst = s.hst)
  ∧ (∀ (i : Nat) (data : List Byte) (s : State), i < 16 → s.sensEn i = true → s.sens i 0 1 1 = 1 → frameFails i data s ≠ 0 →
      Completes (.sensorFrame i data) s fun t =>
        t.sep.accepted = s.sep.accepted ∧ t.getF F.SEP_S_BAD_DISC i = satInc (2 ^ 16 - 1) (s.getF F.SEP_S_BAD_DISC i)
        ∧ t.getF F.SEP_S_GOOD_GOOD i = s.getF F.SEP_S_GOOD_GOOD i ∧ t.getB F.SEP_FLAG_FRAME_BAD = true
        ∧ (∀ b, b < 5 → bit (t.rd (R.SEP_S_FLAG + 0x20 * i)).toNat b
            = (bit (s.rd (R.SEP_S_FLAG + 0x20 * i)).toNat b || bit (frameFails i data s) b))
        ∧ i ∈ t.sep.badNow ∧ (s.sep.badNow.contains i = true → t.hst = s.hst)
        ∧ (s.sep.badNow.contains i = false → ∃ e ∈ t.hst.events, e.type = 0x0507 ∧ e.inst = i ∧ e.code = 0x050C))
  ∧ ∀ (i : Nat) (data : List Byte) (s : State), s.sensEn i = false ∨ s.sens i 0 1 1 ≠ 1 → Ignores (.sensorFrame i data) s)
  ∧ ((∀ (n : Nat) (s : State), s.sep.phase = .sampled → Completes (.sepCompute n) s fun t =>
      t.sep.phase = .computed ∧ t.getF F.SEP_SCYC_V = s.sep.j % 2 ^ 64
      ∧ (∀ g, g < 8 → t.getF F.SEP_G_L_L g ≤ min (s.groupCap g) one23 ∧ t.getB F.SEP_G_STAT_LATE g = false
          ∧ (s.getB F.SEP_CTL_CAPONLY = false → ∀ a ∈ s.enabledArms, s.getF F.TRJ_ARM_CTL_GROUP a = g →
              t.getF F.SEP_A_L_L a = (armResult a s).l ∧ t.getF F.SEP_G_L_L g ≤ (armResult a s).l)))
  ∧ (∀ (n : Nat) (s : State), s.sep.phase ≠ .sampled → Ignores (.sepCompute n) s)
  ∧ (∀ (sp felt : List PairFlip) (s : State), s.sep.phase = .computed → s.ns ≤ s.handoverDue → s.badParam 0x0501 0x0504 = none →
      Completes (.sepHandover sp felt) s fun t =>
        ∃ u : State, t = sepExport (raiseSignals (2 ^ 6) u) ∧ u.sep.phase = .handed ∧ u.sep.hand = s.handRecords
          ∧ (∀ g, g < 8 → let a := spAccept g s && !handBad s.handRecords sp
              let b := feltAccept g s && !handBad s.handRecords felt
              mapGet (fun _ => none) u.saf.verdicts g = some (b2n a, 1 - b2n a)
              ∧ mapGet (fun _ => none) u.saf.verdicts (8 + g) = some (b2n b, 1 - b2n b))
          ∧ (handBad s.handRecords sp = true ∨ handBad s.handRecords felt = true →
              u.getB F.HST_FAULT_FLAG_PAIR = true ∧ u.getF F.HST_FAULT_CODE_CODE = EC.PAIR_MISMATCH))
  ∧ (∀ (sp felt : List PairFlip) (s : State), s.sep.phase = .computed → s.ns ≤ s.handoverDue → s.badParam 0x0501 0x0504 ≠ none →
      s.safSt ≠ SSt.SAFE_FAULT → Completes (.sepHandover sp felt) s fun t =>
        t.safSt = SSt.SAFE_FAULT ∧ t.getF F.SAF_FAULT_REASON = 7 ∧ ∀ g, g < 8 → t.gSt g = GS.STO)
  ∧ (∀ (sp felt : List PairFlip) (s : State), s.sep.phase = .computed → s.ns ≤ s.handoverDue → s.badParam 0x0501 0x0504 = none →
      s.safSt ≠ SSt.SAFE_FAULT → Completes (.sepHandover sp felt true) s fun t =>
        t.safSt = SSt.SAFE_FAULT ∧ t.getF F.SAF_FAULT_REASON = 5 ∧ t.getF F.SAF_FAULT_CH = 1 ∧ ∀ g, g < 8 → t.gSt g = GS.STO)
  ∧ (∀ (sp felt : List PairFlip) (s : State), s.sep.phase ≠ .computed ∨ s.handoverDue < s.ns → Ignores (.sepHandover sp felt) s ∧ Ignores (.sepHandover sp felt true) s)
  ∧ (∀ s : State, s.sep.phase = .snapshot ∨ s.sep.phase = .sampled ∨ s.sep.phase = .computed → s.handoverDue ≤ s.ns →
      Completes .sepLate s fun t => ∃ u : State, t = raiseSignals (2 ^ 6) u ∧ u.sep.phase = .late
        ∧ u.getB F.SEP_FLAG_LATE = true ∧ (∀ g, g < 8 → u.getB F.SEP_G_STAT_LATE g = true)
        ∧ ∃ e ∈ u.hst.events, e.type = 0x0501)
  ∧ (∀ s : State, s.sep.phase = .idle ∨ s.sep.phase = .handed ∨ s.sep.phase = .late ∨ s.ns < s.handoverDue → Ignores .sepLate s)
  ∧ (∀ (g : Nat) (s : State), g < 8 → s.inactive g = true →
      mapGet (fun _ => (0, 2 ^ 24 - 1)) (factorIssue g s).sep.facNext g = (0, 2 ^ 24 - 1))
  ∧ ∀ (g : Nat) (s : State), g < 8 → s.inactive g = false →
      let ok : Prop := s.sep.phase = .handed ∧ s.getB F.SEP_G_STAT_ACC_SP g = true ∧ s.getB F.SEP_G_STAT_ACC_FELT g = true
      let t := factorIssue g s
      (ok → mapGet (fun _ => (0, 2 ^ 24 - 1)) t.sep.facNext g = (s.getF F.SEP_G_L_L g, 2 ^ 24 - 1 - s.getF F.SEP_G_L_L g))
      ∧ (¬ ok → mapGet (fun _ => (0, 2 ^ 24 - 1)) t.sep.facNext g = (0, 2 ^ 24 - 1) ∧ t.getF F.SEP_G_STAT_CAUSE g = 7))
  ∧ ((∀ (ch g v c : Nat) (s : State), ch < 2 → g < 8 → v < 2 → mapGet (fun _ => none) s.saf.verdicts (8 * ch + g) = some (v, c) →
      s.verdictLate = false → pairOk 1 v c = true → Completes (.safetyVerdict ch g false) s fun t =>
        t.getB F.SEP_G_STAT_ACC_SP g = (if ch = 0 then v == 1 else s.getB F.SEP_G_STAT_ACC_SP g)
        ∧ t.getB F.SEP_G_STAT_ACC_FELT g = (if ch = 1 then v == 1 else s.getB F.SEP_G_STAT_ACC_FELT g)
        ∧ t.getB F.SAF_FLAG_VETO = (s.getB F.SAF_FLAG_VETO || v == 0)
        ∧ mapGet (fun _ => none) t.saf.verdicts (8 * ch + g) = none ∧ Ignores (.safetyVerdict ch g false) t)
  ∧ (∀ (ch g v c : Nat) (bad : Bool) (s : State), ch < 2 → g < 8 → mapGet (fun _ => none) s.saf.verdicts (8 * ch + g) = some (v, c) →
      s.verdictLate = false → bad = true ∨ pairOk 1 v c = false → Completes (.safetyVerdict ch g bad) s fun t =>
        t.getB F.SEP_G_STAT_ACC_SP g = s.getB F.SEP_G_STAT_ACC_SP g ∧ t.getB F.SEP_G_STAT_ACC_FELT g = s.getB F.SEP_G_STAT_ACC_FELT g
        ∧ mapGet (fun _ => none) t.saf.verdicts (8 * ch + g) = none
        ∧ t.getB F.HST_FAULT_FLAG_PAIR = true ∧ t.getF F.HST_FAULT_CODE_CODE = EC.PAIR_MISMATCH
        ∧ t.getF F.HST_FAULT_SRC_BLOCK = 5 ∧ t.getF F.HST_FAULT_SRC_INST = g)
  ∧ (∀ (ch g : Nat) (bad : Bool) (s : State), s.verdictLate = true → Ignores (.safetyVerdict ch g bad) s)
  ∧ ∀ (ch g : Nat) (bad : Bool) (s : State), ch < 2 → mapGet (fun _ => none) s.saf.verdicts (8 * ch + g) = none →
      Ignores (.safetyVerdict ch g bad) s)

/-! ### Safety channels (chapter 09) -/

/-- A demand in OPERATE latches its cause and takes the group where the table of transitions leads, whatever state it finds;
no other group's state or causes change (R363, R365).  Outside OPERATE it latches nothing (the model's choice, log 54).
What raises a demand with each cell cycle.  Each channel takes its position record once per cycle; a pair of an enabled axis
in it that fails stops with cause PAIR the groups it concerns; standstill of eight records of a channel ends SS1 in STO and SS2
in SOS (R346, R366).  A record of either channel
that does not come stops every group with SS1 and cause DATA; a stop that lasts past SS_TMAX and a remote axis without a
valid connection stop with STO (R346, R365, R382).  Before its time each changes nothing. -/
def Obligations.SafetyDemands : Prop :=
  ((∀ (cause : Fld) (kind g : Nat) (s : State), cause ∈ causeFields → g < 8 → s.safSt = SSt.OPERATE →
      let t := demand cause kind g s
      t.getB cause g = true ∧ StopLeads kind (s.gSt g) (t.gSt g) ∧ t.safSt = SSt.OPERATE
      ∧ (∀ f ∈ causeFields, f ≠ cause → t.getB f g = s.getB f g)
      ∧ ∀ h, h < 8 → h ≠ g → t.gSt h = s.gSt h ∧ t.causes h = s.causes h)
  ∧ ∀ (cause : Fld) (kind g : Nat) (s : State), s.safSt ≠ SSt.OPERATE → demand cause kind g s = s)
  ∧ ((∀ (ch : Nat) (flips : List PairFlip) (s : State), ch < 2 → s.cycRun = true → s.tbs.started = true → (s.chRec ch).cyc ≠ some s.tbs.k →
      Completes (.positionRecord ch flips) s fun t =>
        (t.chRec ch).cyc = some s.tbs.k ∧ (t.chRec ch).at_ = some s.frc ∧ t.chRec (1 - ch) = s.chRec (1 - ch)
        ∧ (∀ a, a < 128 → s.getB F.AX_CTL_EN a = true → t.chAx ch a = s.recordAxis flips a)
        ∧ Ignores (.positionRecord ch flips) t
        ∧ (s.badParam 0x0601 0x0606 = none → ∀ a g, a < 128 → g < 8 → s.getB F.AX_CTL_EN a = true → s.recordAxis flips a = none →
            (s.sGroupOf a = some g ∨ s.sGroupOf a = none) → s.safSt = SSt.OPERATE →
            t.getB F.SAF_G_CAUSE_PAIR g = true ∧ t.gSt g ≠ GS.RUN ∧ t.gSt g ≠ GS.SS2 ∧ t.gSt g ≠ GS.SOS))
  ∧ (∀ (ch : Nat) (flips : List PairFlip) (s : State), s.cycRun = false ∨ s.tbs.started = false ∨ (s.chRec ch).cyc = some s.tbs.k →
      Ignores (.positionRecord ch flips) s)
  ∧ (∀ (ch g : Nat) (s : State), ch < 2 → g < 8 →
      (∀ a ∈ s.sAxes g, ∃ r, s.chAx ch a = some r ∧ r.spd.natAbs ≤ s.axField a 5 * 2 ^ 24) → (s.schan ch g).still = 7 →
      (s.gSt g = GS.SS1 → (standstill ch g s).gSt g = GS.STO) ∧ (s.gSt g = GS.SS2 → (standstill ch g s).gSt g = GS.SOS))
  ∧ (∀ (ch r : Nat) (s : State), ch < 2 → (s.chRec ch).at_ = some r → r + 2 * s.period < s.frc → s.safSt = SSt.OPERATE →
      Completes .dataTimeout s fun t => ∀ g, g < 8 → t.getB F.SAF_G_CAUSE_DATA g = true ∧ StopLeads 1 (s.gSt g) (t.gSt g))
  ∧ (∀ s : State, (∀ ch r, ch < 2 → (s.chRec ch).at_ = some r → s.frc ≤ r + 2 * s.period) → Ignores .dataTimeout s)
  ∧ (∀ (g : Nat) (s : State), g < 8 → s.safSt = SSt.OPERATE → s.gSt g = GS.SS1 ∨ s.gSt g = GS.SS2 →
      (s.sgrp g).since + s.pb 0x0602 g 0 1 16 * 1000000 ≤ s.frc →
      Completes (.ssTmaxExpiry g) s fun t => t.gSt g = GS.STO ∧ t.getB F.SAF_G_CAUSE_TMAX g = true)
  ∧ (∀ (g : Nat) (s : State), (s.gSt g ≠ GS.SS1 ∧ s.gSt g ≠ GS.SS2) ∨ s.frc < (s.sgrp g).since + s.pb 0x0602 g 0 1 16 * 1000000 →
      Ignores (.ssTmaxExpiry g) s)
  ∧ (∀ (a g : Nat) (s : State), s.wdOver a = true → s.sGroupOf a = some g → s.safSt = SSt.OPERATE →
      Completes (.bchTimeout a) s fun t => t.gSt g = GS.STO ∧ t.getB F.SAF_G_CAUSE_BCH g = true ∧ t.getB F.SAF_FLAG_BCH = true
        ∧ ∃ e ∈ t.hst.events, e.type = 0x0604 ∧ e.inst = a)
  ∧ ∀ (a : Nat) (s : State), s.wdOver a = false → Ignores (.bchTimeout a) s)

/-- What puts the controller into SAFE_FAULT, with its reason: the fourth difference in a row of the cross-comparison, a
supply monitor, an oscillator, an output element that does not switch off, a check value that no longer agrees; a comparison
that agrees starts the count again, and the first reason stays (R347, R355). -/
def Obligations.SafeFaultCauses : Prop :=
  (∀ (ch : Nat) (s : State), SafeFaults (.supplyMonitorFault ch) 2 ch s ∧ SafeFaults (.oscillatorFault ch) 3 ch s)
  ∧ (∀ (ch v : Nat) (s : State), s.safSt = SSt.START_TEST ∨ s.safSt = SSt.OPERATE → v ≠ s.getF F.SAF_CHK_CONF_CHK →
      SafeFaults (.paramRecheck ch v) 7 ch s)
  ∧ (∀ (ch v : Nat) (s : State), (s.safSt ≠ SSt.START_TEST ∧ s.safSt ≠ SSt.OPERATE) ∨ v = s.getF F.SAF_CHK_CONF_CHK →
      Ignores (.paramRecheck ch v) s)
  ∧ (∀ (o el : Nat) (s : State), o < 8 → SafeFaults (.safeOutputTest o el false) 4 el s)
  ∧ (∀ (o el : Nat) (s : State), Ignores (.safeOutputTest o el true) s)
  ∧ (∀ (d : Bool) (ch : Nat) (s : State), s.cycRun = true → s.saf.cmpCyc ≠ some s.tbs.k →
      Completes (.crossCompare d ch) s fun t =>
        t.saf.cmpCyc = some s.tbs.k
        ∧ t.saf.diffs = (if d = true ∨ s.levels 0 ≠ s.levels 1 then min (s.saf.diffs + 1) 4 else 0)
        ∧ (t.saf.diffs < 4 → t.safSt = s.safSt ∧ t.regs = s.regs)
        ∧ (3 ≤ s.saf.diffs → d = true ∨ s.levels 0 ≠ s.levels 1 → t.safSt = SSt.SAFE_FAULT
            ∧ (s.safSt ≠ SSt.SAFE_FAULT → t.getF F.SAF_FAULT_REASON = 1 ∧ t.getF F.SAF_FAULT_CH = ch % 2
                ∧ ∀ g, g < 8 → t.gSt g = GS.STO)))
  ∧ ∀ (d : Bool) (ch : Nat) (s : State), s.cycRun = false ∨ s.saf.cmpCyc = some s.tbs.k → Ignores (.crossCompare d ch) s

/-- Safe inputs: a terminal's filtered level changes in its one channel, an open terminal reading low; low is the active level,
but high for channel B of a TYPE 1 input (R703); and in OPERATE an active emergency stop or guard latches its cause for its
groups and stops them as its REACT says, in whichever channel (R344, R356, R363).  A disagreement past DISC and
a failed test pulse latch DISC, which keeps the input active (R357, R358).  Before its time, and with the level it has, each
changes nothing.
A reset input acts at its release after a valid press: in OPERATE each of its groups in STO or SOS keeps only the causes
whose condition still holds and enters RUN where none does; while a confirmation is still waited for it serves that alone, which takes
the check value as confirmed and, from UNCONFIRMED, starts the start-up test (R352, R355, R359, R360).  An input of another
function does nothing; a press past 5 s sets RESET_STUCK and then counts no more. -/
def Obligations.SafeInputsAndResets : Prop :=
  ((∀ (ch i b : Nat) (level : Terminal) (s : State), ch < 2 → i < 16 → b < 2 → bit (s.lows ch) (2 * i + b) ≠ (level != Terminal.high) →
      Completes (.safeInputChange ch i b level) s fun t =>
        (∀ c n, c < 2 → n < 32 → bit (t.lows c) n = if c = ch ∧ n = 2 * i + b then level != Terminal.high else bit (s.lows c) n)
        ∧ t.atActive ch (2 * i + b) = ((level != Terminal.high) != (b == 1 && s.inType i == 1))
        ∧ ∀ g, g < 8 → bit (s.inGroups i) g = true → (level != Terminal.high) ≠ (b == 1 && s.inType i == 1) → (b = 0 ∨ s.inType i ≠ 2) →
            s.safSt = SSt.OPERATE →
            (s.inFunc i = 1 → t.getB F.SAF_G_CAUSE_ESTOP g = true ∧ StopLeads (s.inReact i) (s.gSt g) (t.gSt g))
            ∧ (s.inFunc i = 2 → t.getB F.SAF_G_CAUSE_GUARD g = true ∧ StopLeads (s.inReact i) (s.gSt g) (t.gSt g)))
  ∧ (∀ (ch i b : Nat) (level : Terminal) (s : State), bit (s.lows ch) (2 * i + b) = (level != Terminal.high) →
      Ignores (.safeInputChange ch i b level) s)
  ∧ (∀ (c : Instr) (i : Nat) (s : State), i < 16 → s.inFunc i ≠ 0 → bit (s.getF F.SAF_IN_STAT_DISC) i = false →
      (c = .discLatch i ∧ (∃ r, mapGet (fun _ => none) s.saf.disagree i = some r ∧ r + s.inCfg i 14 8 * 10000000 < s.frc))
        ∨ (c = .testPulseCheck i false ∧ s.inCfg i 33 1 = 1) →
      Completes c s fun t =>
        bit (t.getF F.SAF_IN_STAT_DISC) i = true ∧ t.inActive i = true ∧ t.getB F.SAF_FLAG_DISC = true
        ∧ (∃ e ∈ t.hst.events, e.type = 0x0603 ∧ e.inst = i)
        ∧ ∀ g, g < 8 → bit (s.inGroups i) g = true → s.safSt = SSt.OPERATE → s.inFunc i = 1 →
            t.getB F.SAF_G_CAUSE_ESTOP g = true ∧ StopLeads (s.inReact i) (s.gSt g) (t.gSt g))
  ∧ (∀ (i : Nat) (s : State), (∀ r, mapGet (fun _ => none) s.saf.disagree i = some r → s.frc ≤ r + s.inCfg i 14 8 * 10000000) →
      Ignores (.discLatch i) s)
  ∧ ∀ (i : Nat) (s : State), Ignores (.testPulseCheck i true) s)
  ∧ ((∀ (i : Nat) (s : State), i < 16 → s.inFunc i = 3 → s.inType i = 2 → s.inBoth i true = true → s.validPress i = true →
      s.getB F.SAF_STATE_CONF_PEND = false → s.safSt = SSt.OPERATE → Completes (.resetEdge i) s fun t =>
        ∀ g, g < 8 →
          (bit (s.inGroups i) g = true ∧ (s.gSt g = GS.STO ∨ s.gSt g = GS.SOS) →
            t.causes g = s.causes g &&& s.causesHeld g
            ∧ t.gSt g = if s.causes g &&& s.causesHeld g = 0 then GS.RUN else s.gSt g)
          ∧ (bit (s.inGroups i) g = false ∨ (s.gSt g ≠ GS.STO ∧ s.gSt g ≠ GS.SOS) → t.causes g = s.causes g ∧ t.gSt g = s.gSt g))
  ∧ (∀ (i : Nat) (s : State), i < 16 → s.inFunc i = 3 → s.inType i = 2 → s.inBoth i true = true → s.validPress i = true →
      s.getB F.SAF_STATE_CONF_PEND = true → (∀ n, s.saf.confDue = some n → s.frc < n) → s.safSt = SSt.UNCONFIRMED →
      Completes (.resetEdge i) s fun t =>
        t.getF F.SAF_CHK_CONF_CHK = s.getF F.SAF_CHK_CHK ∧ t.getB F.SAF_STATE_CONF_PEND = false
        ∧ t.safSt = (if s.pend = 0 then SSt.OPERATE else SSt.START_TEST) ∧ ∃ u : State, u.boot = s.boot ∧ t = recordWrite u)
  ∧ (∀ (i : Nat) (s : State), s.inFunc i ≠ 3 → Ignores (.resetEdge i) s)
  ∧ (∀ (i r : Nat) (s : State), mapGet (fun _ => none) s.saf.press i = some r → r + 5000000000 < s.frc →
      Completes (.resetStuck i) s fun t =>
        t.getB F.SAF_FLAG_RESET_STUCK = true ∧ t.validPress i = false ∧ ∃ e ∈ t.hst.events, e.type = 0x0608 ∧ e.inst = i)
  ∧ ∀ (i : Nat) (s : State), (∀ r, mapGet (fun _ => none) s.saf.press i = some r → s.frc ≤ r + 5000000000) →
      Ignores (.resetStuck i) s)

/-- The end of PARAM_CLOSE: a set that fails a check completes with its code and changes no check value; one that passes has
its check value and complement shown, and leads to the start-up test where it is the confirmed one, else to UNCONFIRMED
(R351, R355).  A confirmation, and an output's feedback, that do not come in time set their flags and stay undone (R352,
R380); with none waiting each changes nothing. -/
def Obligations.ParametersAndTheirTimes : Prop :=
  (∀ (agree : Bool) (n : Nat) (s : State), s.saf.closing = some n → firstCode (paramCodes agree s) ≠ EC.OK →
      Completes (.paramCloseDone agree) s fun t =>
        t = (s.withSaf fun x => { x with closing := none }).completeHeld 0x60002 (firstCode (paramCodes agree s)) 0 0
        ∧ t.safSt = s.safSt)
  ∧ (∀ (agree : Bool) (n : Nat) (s : State), s.saf.closing = some n → firstCode (paramCodes agree s) = EC.OK →
      Completes (.paramCloseDone agree) s fun t =>
        t.getF F.SAF_CHK_CHK = checkValue s % 2 ^ 32 ∧ t.getB F.SAF_STATE_CHK_VALID = true ∧ t.saf.closing = none
        ∧ t.safSt = (if checkValue s = s.getF F.SAF_CHK_CONF_CHK then (if s.pend = 0 then SSt.OPERATE else SSt.START_TEST)
            else SSt.UNCONFIRMED)
        ∧ ∃ u : State, t = u.completeHeld 0x60002 EC.OK 0 0)
  ∧ (∀ (agree : Bool) (s : State), s.saf.closing = none → Ignores (.paramCloseDone agree) s)
  ∧ (∀ (n : Nat) (s : State), s.saf.confDue = some n → n ≤ s.frc → Completes .confirmTimeout s fun t =>
      t.getB F.SAF_STATE_CONF_PEND = false ∧ t.getB F.SAF_FLAG_TIMEOUT = true ∧ t.saf.confDue = none
      ∧ t.getF F.SAF_CHK_CONF_CHK = s.getF F.SAF_CHK_CONF_CHK ∧ ∃ e ∈ t.hst.events, e.type = 0x0606)
  ∧ (∀ s : State, (∀ n, s.saf.confDue = some n → s.frc < n) → Ignores .confirmTimeout s)
  ∧ (∀ (o n : Nat) (s : State), o < 8 → mapGet (fun _ => none) s.saf.edm o = some n → n ≤ s.frc →
      bit (s.getF F.SAF_OUT_ON) o = s.edmActive o → Completes (.edmTimeout o) s fun t =>
        bit (t.getF F.SAF_OUT_EDM_F) o = true ∧ bit (t.getF F.SAF_OUT_ON) o = false ∧ t.getB F.SAF_FLAG_EDM = true
        ∧ ∃ e ∈ t.hst.events, e.type = 0x0605 ∧ e.inst = o)
  ∧ ∀ (o : Nat) (s : State), (∀ n, mapGet (fun _ => none) s.saf.edm o = some n → s.frc < n ∨ bit (s.getF F.SAF_OUT_ON) o ≠ s.edmActive o) →
      Ignores (.edmTimeout o) s

/-! ### Local feedback (chapter 10) -/

/-- Quadrature: a change of A or of B alone is one count in the direction that the levels and DIR give, at the time of its
edge; a change of both is a decode error and no count (R402, R405, R418).  A channel that is disabled, that has not
started, or that is on SSI, follows its terminals and nothing else (R436).
SSI: a frame that fails leaves the count and makes the cycle's values invalid; the first good one sets the count, and a
later one adds the signed difference of LEN bits where no JUMP is set; its values are valid where neither FAULT nor LOSS
stood at the latch (R411, R413, R421).  LOSS follows the inputs the mode uses,
and its rise sets FAULT (R419, R420).  Felt's own count moves by what it decoded itself from the line pairs and the snooped
frame, by the MODE, DIR and SSI fields told to it at the channel's enable; fields whose pair fails, and a line pair not in
complement form, vote for a stop of the groups of the channel's axes (R430, R431).  Where the channel has no frame to come, or
is disabled or has not started, nothing changes. -/
def Obligations.FeedbackChannels : Prop :=
  ((∀ (n m ta tb tz : Nat) (s : State), Completes (.feedbackInputChange n m ta tb tz) s fun t => t.pins n = s.pins n ^^^ m % 8)
  ∧ (∀ (n m ta tb tz : Nat) (s : State), s.fbkOn n = false ∨ s.fbkMode n = 2 →
      Completes (.feedbackInputChange n m ta tb tz) s fun t => t.fbk.chans = s.fbk.chans ∧ ∀ p, p ≠ Part.fbk → p.same s t)
  ∧ (∀ (n ta tb tz : Nat) (s : State), n < 32 → s.fbkOn n = true → s.fbkMode n = 0 →
      let sign : Int := if s.getB F.FBK_CFG_DIR n then -1 else 1
      let a := bit (s.pins n) 0
      let b := bit (s.pins n) 1
      (Completes (.feedbackInputChange n 1 ta tb tz) s fun t =>
        (t.chan n).count = wrap48 ((s.chan n).count + sign * (if a = b then 1 else -1)) ∧ (t.chan n).tEdge = s.stamp ta)
      ∧ (Completes (.feedbackInputChange n 2 ta tb tz) s fun t =>
        (t.chan n).count = wrap48 ((s.chan n).count + sign * (if a = b then -1 else 1)) ∧ (t.chan n).tEdge = s.stamp tb)
      ∧ Completes (.feedbackInputChange n 3 ta tb tz) s fun t =>
        (t.chan n).count = (s.chan n).count ∧ (t.chan n).tEdge = (s.chan n).tEdge
        ∧ bit (t.rd (R.FBK_FLAG + 0x100 * n)).toNat 0 = true
        ∧ t.getF F.FBK_ERR_CNT_DEC n = satInc (2 ^ 16 - 1) (s.getF F.FBK_ERR_CNT_DEC n)))
  ∧ ((∀ (n raw tl : Nat) (ready mono : Bool) (s : State), n < 32 → s.fbkEn n = true → s.fbkMode n = 2 → (s.chan n).frameAt = some tl →
      Completes (.ssiFrameDone n raw ready mono) s fun t => ∃ u : State, t = fbkSignal u ∧ (u.chan n).frameAt = none
        ∧ u.getF F.FBK_SSI_RAW_RAW n = raw % 2 ^ s.ssiBits n % 2 ^ 52
        ∧ (frameKind n (raw % 2 ^ s.ssiBits n) ready mono s ≠ 0 →
            (u.chan n).count = (s.chan n).count ∧ u.getB F.FBK_STAT_VALID n = false
            ∧ u.getF F.FBK_ERR_CNT_DEC n = satInc (2 ^ 16 - 1) (s.getF F.FBK_ERR_CNT_DEC n))
        ∧ (frameKind n (raw % 2 ^ s.ssiBits n) ready mono s = 0 →
            let v := frameValue n (raw % 2 ^ s.ssiBits n) s
            let len := s.getF F.FBK_SSI_LEN n
            ((s.chan n).ssiLast = none → (u.chan n).count = wrap48 v ∧ u.getB F.FBK_STAT_VALID n = !(s.chan n).frameBad)
            ∧ (∀ q, (s.chan n).ssiLast = some q → s.getF F.FBK_SSI_JUMP n = 0 →
                (u.chan n).count = wrap48 ((s.chan n).count + sx len (toBits len (v - q)))
                ∧ u.getB F.FBK_STAT_VALID n = !(s.chan n).frameBad)))
  ∧ (∀ (n raw : Nat) (ready mono : Bool) (s : State), s.fbkEn n = false ∨ s.fbkMode n ≠ 2 ∨ (s.chan n).frameAt = none →
      Ignores (.ssiFrameDone n raw ready mono) s)
  ∧ (∀ (n m : Nat) (s : State), n < 32 → Completes (.lossChange n m) s fun t =>
      let l := decide (m % 8 &&& modeInputs (s.fbkMode n) ≠ 0)
      t.getB F.FBK_STAT_LOSS n = l ∧ (t.chan n).below = m % 8
      ∧ (l = true → s.getB F.FBK_STAT_LOSS n = false → t.getB F.FBK_STAT_FAULT n = true ∧ t.getB F.FBK_FLAG_LOSS n = true
          ∧ ∃ e ∈ t.hst.events, e.type = 0x0703 ∧ e.inst = n)
      ∧ (l = s.getB F.FBK_STAT_LOSS n → t.regs = s.regs ∧ t.hst = s.hst))
  ∧ (∀ (n fields : Nat) (lines : List (Nat × Nat)) (frame : Option Nat) (s : State), s.fbkOn n = true → s.fbkHeld 1 n = some fields →
      Completes (.feltFeedbackLatch n (lines, frame)) s fun t =>
        let x := lines.foldl (feltLine (bits fields 0 2)) { steps := 0, pins := (s.chan n).feltPins, ref := (s.chan n).feltRef, good := true }
        let f : Int := match frame with
          | some raw => if bits fields 0 2 = 2 then (feltFrame fields (s.chan n).feltSsi raw).1 else 0
          | none => 0
        (t.chan n).felt = toBits 32 (((s.chan n).felt : Int) + (if bit fields 2 then -x.steps else x.steps) + f)
        ∧ (t.chan n).feltPins = x.pins ∧ (t.chan n).count = (s.chan n).count
        ∧ (x.good = false → s.safSt = SSt.OPERATE → ∀ a ∈ s.feltAxes n, ∀ g, g < 8 → (s.sGroupOf a = some g ∨ s.sGroupOf a = none) →
            t.getB F.SAF_G_CAUSE_PAIR g = true)
        ∧ (x.good = true → ∀ p, p ≠ Part.fbk → p.same s t))
  ∧ (∀ (n : Nat) (lines : List (Nat × Nat)) (frame : Option Nat) (s : State), s.fbkOn n = true → s.fbkHeld 1 n = none →
      s.safSt = SSt.OPERATE → Completes (.feltFeedbackLatch n (lines, frame)) s fun t =>
        (t.chan n).felt = (s.chan n).felt
        ∧ ∀ a ∈ s.feltAxes n, ∀ g, g < 8 → (s.sGroupOf a = some g ∨ s.sGroupOf a = none) → t.getB F.SAF_G_CAUSE_PAIR g = true)
  ∧ ∀ (n : Nat) (lines : List (Nat × Nat)) (frame : Option Nat) (s : State), s.fbkOn n = false → Ignores (.feltFeedbackLatch n (lines, frame)) s)

/-! ### PWM outputs and trips (chapter 11) -/

/-- The two outputs of a channel are never on together, and an output that waits out its dead time finds both off: no step
from a state in which this holds of every channel breaks it, whatever the command; nor do the outputs as they leave ever
overlap (R451, R452, R456).  It holds at reset. -/
def Obligations.PwmOutputsNeverOverlap : Prop :=
  PwmApart State.reset
  ∧ (∀ s t : State, PwmApart s → step s = .next t → PwmApart t)
  ∧ ∀ s : State, PwmApart s → ∀ n, ¬ (s.outH n = true ∧ s.outL n = true)

/-- The counters: a period that has ended starts the next at its end edge from 0 with the count of its period starts modulo
16 as dither index, or with the period number the cell cycle gives (R439, R445); the T0 strobe starts every tied channel at one edge with its time stamp, once per
cycle (R440); a hold of 256 counts gives SYNC_LOST (R441); the turn of an up-down counter and its CMPB event come once.
Requests raised leave for converters and acquisition units at the end of each (R462).
REF follows the duty condition where the period still allows it, and the outputs follow REF with the dead time: one
turns off at once, the other on when the dead time since that one's turn-off is over; an output still waiting counts as
swallowed; a tripped channel's outputs stay (R446, R447, R451, R452, R456).  The end of a dead time turns on the output that
waits.  A gate line takes the state its channel wants for the set, and off turns both outputs of the set's channels off
(R454). -/
def Obligations.PwmPeriodsAndOutputs : Prop :=
  ((∀ (n e : Nat) (s : State), (s.pch n).run = true → s.endEdge n = some e → e ≤ s.pclk → s.lastPeriod n = false →
      Completes (.pwmReload n) s fun t =>
        (t.pch n).run = true ∧ (t.pch n).edge = e ∧ (t.pch n).cnt = 0 ∧ (t.pch n).down = false
        ∧ (s.tied n = false → (t.pch n).per = none ∧ (t.pch n).dith = (s.pch n).starts % 16 ∧ (t.pch n).starts = (s.pch n).starts + 1)
        ∧ (∀ i, s.tied n = true → (s.pch n).per = some i →
            (t.pch n).per = some (i + 1) ∧ (t.pch n).dith = (s.tbs.k * s.nper n + (i + 1)) % 16)
        ∧ (∀ m, m ≠ n → t.pch m = s.pch m) ∧ t.pwm.reqs = [])
  ∧ (∀ (n : Nat) (s : State), (s.pch n).run = false → exec (.pwmReload n) s = .next (pwmOffer s) ∧ exec (.pwmTop n) s = .next (pwmOffer s)
      ∧ exec (.pwmHoldLimit n) s = .next (pwmOffer s) ∧ exec (.pwmCmpb n) s = .next (pwmOffer s))
  ∧ (∀ s : State, s.cycRun = true → s.tbs.started = true → s.pwm.strobe ≠ some s.tbs.k → s.strobeEdge ≤ s.pclk →
      Completes .pwmSyncReload s fun t =>
        t.pwm.strobe = some s.tbs.k
        ∧ ∀ n, n < 72 →
          (s.pwmEn n = true ∧ s.syncOf n = true ∧ ((s.pch n).run = true ∨ (s.pch n).wait = true) →
            (t.pch n).run = true ∧ (t.pch n).wait = false ∧ (t.pch n).edge = s.strobeEdge ∧ (t.pch n).cnt = 0
            ∧ (t.pch n).per = some 0 ∧ t.getF F.PWM_TSTAMP_V n = s.pwmTime s.strobeEdge % 2 ^ 72)
          ∧ (s.pwmEn n = false ∨ s.syncOf n = false → t.pch n = s.pch n))
  ∧ (∀ s : State, s.cycRun = false ∨ s.tbs.started = false ∨ s.pwm.strobe = some s.tbs.k →
      exec .pwmSyncReload s = .next (pwmOffer s))
  ∧ (∀ (n e : Nat) (s : State), n < 72 → (s.pch n).run = true → s.lastPeriod n = true → s.endEdge n = some e → e + 256 ≤ s.pclk →
      Completes (.pwmHoldLimit n) s fun t =>
        (t.pch n).edge = e + 256 ∧ (t.pch n).cnt = 0 ∧ t.getB F.PWM_FLAG_SYNC_LOST n = true
        ∧ ∃ v ∈ t.hst.events, v.type = 0x0803 ∧ v.inst = n)
  ∧ (∀ (n : Nat) (s : State), (s.pch n).run = true → (s.pch n).top = false → s.upDown n = true → (s.pch n).down = false →
      s.turnEdge n ≤ s.pclk → Completes (.pwmTop n) s fun t =>
        (t.pch n).top = true ∧ (t.pch n).down = true ∧ (t.pch n).edge = s.turnEdge n)
  ∧ ∀ (n : Nat) (s : State), (s.pch n).run = true → (s.pch n).edge ≤ s.pclk → s.cntOf n = s.getF F.PWM_CMPB_CMPB n →
      (s.pch n).cmpb ≠ some s.pclk → s.lastPeriod n = false → Completes (.pwmCmpb n) s fun t => (t.pch n).cmpb = some s.pclk)
  ∧ ((∀ (n : Nat) (s : State), n < 72 → (s.pch n).run = true → s.condA n ≠ (s.pch n).ref →
      ¬ (s.condA n = true ∧ (s.pch n).rose = true) → ¬ (s.condA n = false ∧ (s.pch n).fell = true) →
      Completes (.pwmRefEdge n) s fun t =>
        let c := s.pch n
        (t.pch n).ref = s.condA n
        ∧ (s.tripped n = true → (t.pch n).h = c.h ∧ (t.pch n).l = c.l ∧ (t.pch n).pend = c.pend)
        ∧ (s.tripped n = false → s.condA n = true →
            (t.pch n).l = false ∧ ((t.pch n).h = true ↔ c.h = true ∨ (if c.l then s.pclk else c.lOff) + s.dt n ≤ s.pclk))
        ∧ (s.tripped n = false → s.condA n = false →
            (t.pch n).h = false ∧ ((t.pch n).l = true ↔ c.l = true ∨ (if c.h then s.pclk else c.hOff) + s.dt n ≤ s.pclk))
        ∧ (s.tripped n = false → t.getB F.PWM_FLAG_SWALLOW n = (s.getB F.PWM_FLAG_SWALLOW n || c.pend.isSome)))
  ∧ (∀ (n : Nat) (s : State), (s.pch n).run = false ∨ s.condA n = (s.pch n).ref → exec (.pwmRefEdge n) s = .next (pwmOffer s))
  ∧ (∀ (n e : Nat) (high : Bool) (s : State), (s.pch n).pend = some (high, e) → e ≤ s.pclk →
      Completes (.deadTimeEnd n) s fun t =>
        (t.pch n).pend = none ∧ (t.pch n).h = (if high then true else (s.pch n).h) ∧ (t.pch n).l = (if high then (s.pch n).l else true)
        ∧ ∀ m, m ≠ n → t.pch m = s.pch m)
  ∧ (∀ (n : Nat) (s : State), (∀ high e, (s.pch n).pend = some (high, e) → s.pclk < e) → Ignores (.deadTimeEnd n) s)
  ∧ ∀ (ch set : Nat) (s : State), ch < 2 → set < 24 → Completes (.gateLineChange ch set) s fun t =>
      (∀ i, bit t.pwm.gateSp i = if ch = 0 ∧ i = set then s.gateWanted set else bit s.pwm.gateSp i)
      ∧ (∀ i, bit t.pwm.gateFelt i = if ch = 1 ∧ i = set then s.gateWanted set else bit s.pwm.gateFelt i)
      ∧ t.pwm.chans = s.pwm.chans
      ∧ (s.gateWanted set = false → ∀ n, n / 3 = set → t.outH n = false ∧ t.outL n = false))

/-- A trip group latches where one of its inputs is active outside its blanking window, from the windows as they stand
before the edge, and holds its enabled channels in their trip state, H off in any case, L off too under TSTATE 0; a group
without such an input stays as it is (R455, R456, R459).  At a window's end an input still active latches the group (R460).
CLEAR is rejected while an input is active (R458). -/
def Obligations.TripsLatchAndHold : Prop :=
  (∀ (i : Nat) (level : Bool) (s : State), i < 8 → Completes (.tripLatch i level) s fun t =>
      let u := s.withPwm fun x => { x with tin := putBits x.tin i 1 (b2n level) }
      t.pwm.tin = u.pwm.tin
      ∧ ∀ g, g < 16 →
        (u.tripCause g ≠ 0 → s.blanked g = false → s.tripLatched g = false →
          t.tripLatched g = true ∧ t.getF F.PWM_TGRP_STAT_CAUSE g = u.tripCause g
          ∧ (∃ e ∈ t.hst.events, e.type = 0x0801 ∧ e.inst = g)
          ∧ ∀ n, n < 72 → s.getF F.PWM_CFG_TGRP n = g → s.pwmEn n = true → (s.pch n).resume = false →
              (t.pch n).h = false ∧ t.getB F.PWM_FLAG_TRIP n = true
              ∧ (s.getB F.PWM_CFG_TSTATE n = false → (t.pch n).l = false ∧ (t.pch n).pend = none))
        ∧ (u.tripCause g = 0 ∨ s.blanked g = true → t.tripLatched g = s.tripLatched g))
  ∧ (∀ (g e : Nat) (s : State), g < 16 → s.blankEnd g = some e → e ≤ s.pclk → Completes (.blankWindowClose g) s fun t =>
      (s.tripCause g ≠ 0 → t.tripLatched g = true)
      ∧ (s.tripCause g = 0 → t.blankEnd g = none ∧ t.regs = s.regs ∧ t.pwm.chans = s.pwm.chans))
  ∧ (∀ (g : Nat) (s : State), (∀ e, s.blankEnd g = some e → s.pclk < e) → Ignores (.blankWindowClose g) s)
  ∧ ∀ (g : Nat) (s : State), g < 16 → s.tripLatched g = true → s.tripCause g ≠ 0 →
      ¬ Accepts (F.PWM_TGRP_CMD_CLEAR.off g 0) (fieldValue F.PWM_TGRP_CMD_CLEAR 1 g 0 s) s

/-! ### Converters and acquisition (chapters 12, 16) -/

/-- A conversion that has had its time ends, and the converter is allocated again at its next slot, 200 ns after the strobe:
a TS result is stored less its mid-code and offset, or as no value; a scan or injected result is delivered with its input,
kind and overrun, to ADC_RESULT or as two words of the buffer (R470, R474, R478, R484, R485).  Before its time nothing
happens.
A calibration that has had its time makes the converter calibrated, and is reported; a reference that has settled is OK;
the loss of the external reference ends REF_OK of every converter that uses it, and its return starts settling (R481, R482).
A read of ADC_RESULT returns it, clears NEW and latches its sample time (R484); the settled test DAC launches the injected
strobe it held (R488).  What is not due changes nothing. -/
def Obligations.ConvertersDeliver : Prop :=
  ((∀ (c code : Nat) (v : Conv) (s : State), c < 16 → v.pos < 8 → (s.adcCh c).conv = some v → v.strobe + 204 * 256 ≤ s.raw →
      Completes (.conversionDone c code) s fun t => ∃ u : State, (u.adcCh c).conv = none
        ∧ t = (if v.kind = .ts ∧ (s.adcCh c).tsLeft = [] then adcSignal (adcAlloc c (v.strobe + 200 * 256) u)
            else adcAlloc c (v.strobe + 200 * 256) u)
        ∧ (v.kind = .ts → mapGet (fun _ => none) u.adc.store (8 * c + v.pos) =
            if v.unset = true ∨ v.refOk = false ∨ (bit (u.getF F.ADC_STAT_OPEN c) v.pos = true ∧ s.inputCfg c v.pos 4 1 = 1) then none
            else some ((code % 2 ^ 14 : Nat) - 8192 * (s.inputCfg c v.pos 0 1 : Nat) - sx 12 (s.inputCfg c v.pos 16 12)))
        ∧ (v.kind ≠ .ts →
            u.getF F.ADC_RESULT_CODE c = code % 2 ^ 14 ∧ u.getF F.ADC_RESULT_INPUT c = 8 * c + v.pos
            ∧ u.getB F.ADC_RESULT_INJ c = (v.kind == .inj) ∧ u.getB F.ADC_RESULT_OVR c = s.getB F.ADC_RESULT_NEW c
            ∧ u.getB F.ADC_RESULT_LATE c = v.late
            ∧ u.getB F.ADC_RESULT_SCAN_END c = (v.kind == .scan && (s.adcCh c).scan.isEmpty)
            ∧ (u.adcCh c).resTime = s.stamp v.strobe
            ∧ (s.getB F.ADC_CFG_DEST c = false → u.getB F.ADC_RESULT_NEW c = true ∧ u.mem = s.mem)
            ∧ (s.getB F.ADC_CFG_DEST c = true →
                u.readWord (s.getF F.ADC_BUF_BASE_BASE c + s.getF F.ADC_BUF_PTR_PTR c) = BitVec.ofNat 72 (s.stamp v.strobe))))
  ∧ ∀ (c code : Nat) (s : State), (∀ v, (s.adcCh c).conv = some v → s.raw < v.strobe + 204 * 256) → Ignores (.conversionDone c code) s)
  ∧ ((∀ (c e : Nat) (s : State), c < 16 → (s.adcCh c).calEnd = some e → e ≤ s.raw → Completes (.calDone c) s fun t => ∃ u : State,
      t = adcAlloc c (convEdge s.raw) u ∧ u.getB F.ADC_STAT_CAL_VALID c = true ∧ u.getB F.ADC_STAT_CAL_RUN c = false
      ∧ u.getB F.ADC_FLAG_CAL_DONE c = true ∧ u.getF F.ADC_CAL_TIME_V c = s.stamp e % 2 ^ 72 ∧ (u.adcCh c).calEnd = none
      ∧ ∃ v ∈ u.hst.events, v.type = 0x0904 ∧ v.inst = c)
  ∧ (∀ (c : Nat) (s : State), (∀ e, (s.adcCh c).calEnd = some e → s.raw < e) → Ignores (.calDone c) s)
  ∧ (∀ (c e : Nat) (s : State), c < 16 → (s.adcCh c).settle = some e → e ≤ s.raw → Completes (.refSettle c) s fun t => ∃ u : State,
      t = adcAlloc c (convEdge s.raw) u ∧ u.getB F.ADC_STAT_REF_OK c = true ∧ (u.adcCh c).settle = none)
  ∧ (∀ (c : Nat) (s : State), (∀ e, (s.adcCh c).settle = some e → s.raw < e) → Ignores (.refSettle c) s)
  ∧ (∀ (ok : Bool) (s : State), s.getB F.ADC_REF_STAT_EXT_OK ≠ ok → Completes (.extRefChange ok) s fun t =>
      t.getB F.ADC_REF_STAT_EXT_OK = ok
      ∧ ∀ c, c < 16 → s.adcEn c = true → s.getF F.ADC_CFG_REF_SEL c = 1 →
          (t.adcCh c).settle = (if ok then some (s.raw + 10000 * 256) else none)
          ∧ t.getB F.ADC_STAT_REF_OK c = (ok && s.getB F.ADC_STAT_REF_OK c)
          ∧ (ok = false → s.getB F.ADC_STAT_REF_OK c = true → t.getB F.ADC_FLAG_REF_LOSS c = true))
  ∧ (∀ s : State, Ignores (.extRefChange (s.getB F.ADC_REF_STAT_EXT_OK)) s)
  ∧ (∀ (c : Nat) (s : State), c < 16 → s.getB F.HST_STAT_RUNTIME = true → Completes (.adcResultRead c) s fun t =>
      t.out = s.out ++ [.barRead (R.ADC_RESULT + 0x100 * c) (s.rd (R.ADC_RESULT + 0x100 * c))]
      ∧ t.getB F.ADC_RESULT_NEW c = false ∧ t.getF F.ADC_RES_TIME_V c = (s.adcCh c).resTime % 2 ^ 72)
  ∧ (∀ (c : Nat) (late : Bool) (s : State), c < 16 → (s.adcCh c).dacUntil ≤ s.raw → (s.adcCh c).inj = some late → s.adcEn c = true →
      (s.adcCh c).conv = none → (s.adcCh c).calEnd = none → (s.adcCh c).tsLeft = [] → Completes (.tdacSettled c) s fun t =>
        ∃ v, (t.adcCh c).conv = some v ∧ v.kind = .inj ∧ v.strobe = convEdge s.raw
          ∧ v.pos = s.getF F.ADC_CFG_INJ_IN c ∧ v.late = late ∧ (t.adcCh c).inj = none ∧ t.getB F.ADC_STAT_INJ_PEND c = false)
  ∧ ∀ (c : Nat) (s : State), (s.adcCh c).inj = none ∨ s.raw < (s.adcCh c).dacUntil → Ignores (.tdacSettled c) s)

/-- A sample edge: a unit whose sample is due counts it; without room it is dropped and counted, and the unit goes no
further; else it is stored, the unit arms when its pre-trigger samples are in, a forced trigger takes it to POST with its
pre-trigger count, and the last post sample ends the record (R637, R638, R641).  Where a STOP meets the sample, a trigger at it
stands and the record ends with STOPPED; without one the unit is IDLE and there is no record (R648).  Shedding ends every unit that samples
(R647).  Where no unit's sample is due only fires of compare units reach the conditions (R635). -/
def Obligations.SamplesTakeARecordOn : Prop :=
  (∀ (edge : Option Nat) (full gpi u : Nat) (s : State), u < 8 → s.getB F.ACQ_CFG_SMODE u = edge.isSome →
      s.sampleDue u (edge.getD 0) = true → s.aShed = false → Completes (.acqSample edge full gpi) s fun t =>
        (bit full u = true → (s.au u).stop = false → t.aSt u = s.aSt u ∧ (t.au u).n = (s.au u).n + 1 ∧ (t.au u).stored = (s.au u).stored
          ∧ (t.au u).gap = true ∧ t.getB F.ACQ_FLAG_DROP u = true
          ∧ t.getF F.ACQ_CNT_DROP u = satInc (2 ^ 16 - 1) (s.getF F.ACQ_CNT_DROP u))
        ∧ (bit full u = false → s.aSt u = AcqSt.FILL → s.getB F.ACQ_CFG_ARM_EARLY u = false → (s.au u).force = false →
            (s.au u).stop = false → (t.au u).stored = (s.au u).stored + 1
            ∧ t.aSt u = if s.getF F.ACQ_PRE_PRE u ≤ (s.au u).stored + 1 then AcqSt.ARMED else AcqSt.FILL)
        ∧ (bit full u = false → s.aSt u = AcqSt.ARMED → (s.au u).force = true → s.getF F.ACQ_POST_POST u ≠ 0 →
            s.getB F.ACQ_CFG_STREAM u = false → (s.au u).stop = false →
            t.aSt u = AcqSt.POST ∧ (t.au u).stored = (s.au u).stored + 1 ∧ (t.au u).force = false
            ∧ t.getF F.ACQ_PRE_N_N u = min (s.getF F.ACQ_PRE_PRE u) (s.au u).stored ∧ bit (t.getF F.ACQ_REC_INFO_MET u) 4 = true)
        ∧ (bit full u = false → s.aSt u = AcqSt.ARMED → (s.au u).force = true → (s.au u).stop = true →
            t.aSt u = AcqSt.DONE ∧ t.getB F.ACQ_FLAG_DONE u = true
            ∧ (s.getF F.ACQ_POST_POST u ≠ 0 → t.getB F.ACQ_FLAG_STOPPED u = true))
        ∧ (bit full u = false → s.aSt u = AcqSt.FILL → s.getB F.ACQ_CFG_ARM_EARLY u = false → (s.au u).force = false →
            (s.au u).trig = none → (s.au u).stop = true → t.aSt u = AcqSt.IDLE ∧ t.rd (R.ACQ_FLAG + 0x400 * u) = s.rd (R.ACQ_FLAG + 0x400 * u))
        ∧ (bit full u = false → s.aSt u = AcqSt.POST → (s.au u).trig ≠ none → s.getB F.ACQ_CFG_STREAM u = false →
            s.getB F.ACQ_CFG_AUTO u = false → (s.au u).stop = false →
            (t.au u).postN = (s.au u).postN + 1 ∧ (t.au u).stored = (s.au u).stored + 1
            ∧ t.aSt u = if (s.au u).postN + 1 = s.getF F.ACQ_POST_POST u ∧ s.getF F.ACQ_POST_POST u ≠ 2 ^ 32 - 1 then AcqSt.DONE
                else AcqSt.POST))
  ∧ (∀ (edge : Option Nat) (full gpi u : Nat) (s : State), u < 8 → s.getB F.ACQ_CFG_SMODE u = edge.isSome →
      s.sampleDue u (edge.getD 0) = true → s.aShed = true → Completes (.acqSample edge full gpi) s fun t =>
        t.aBusy u = false ∧ t.getB F.ACQ_FLAG_SHED u = true)
  ∧ ∀ (edge : Option Nat) (full gpi : Nat) (s : State), s.aShed = false →
      (∀ u, u < 8 → (s.au u).stop = false ∧ (s.getB F.ACQ_CFG_SMODE u = edge.isSome → s.sampleDue u (edge.getD 0) = false)) →
      exec (.acqSample edge full gpi) s = .next (acqFires false (showGpi gpi s))

/-! ### Twill (chapter 13) -/

/-- A scheduled frame of a branch leaves once in its cycle, when its gate is open and the branch's state sends it: out of
every port the branch uses, with its header, payload and FCS (R498, R501), of the symbols after the 17 before byte 1 as many as pass
while Felt's gate is open (R519, R520); a unit whose gates are shut sends none (R594).
POLL clears what the nodes have shown (R510), CMD in RUN shows the nodes it reaches too late (R504).  Not due, or left to
the active of a pair (R607), it does nothing. -/
def Obligations.TwillFramesLeaveOnce : Prop :=
  ∀ (b type : Nat) (c : Instr) (s : State), b < 8 →
    (c, type) ∈ [(Instr.syncFrameSend b, 1), (.pollFrameSend b, 2), (.safeFrameSend b, 3), (.cmdFrameSend b, 4), (.svcFrameSend b, 5)] →
    (s.sendDue b type = true → s.mirrored = false ∨ type = 3 → Completes c s fun t =>
      t.sendDue b type = false ∧ Ignores c t ∧ (∀ d, d ≠ b → t.br d = s.br d)
      ∧ (17 < s.gateSymbols b type → ∀ p ∈ s.ports b,
          Output.twill b p ((withFcs (frameBytes b type p (bodyOf b type p (s.pairByte b) s) s)).take (s.gateSymbols b type - 17)) ∈ t.out)
      ∧ (∀ o c, s.feltGate b type = some (o, c) → o ≤ s.now → s.gateSymbols b type = (c - s.now) / 2560)
      ∧ (s.twl.shut = true → s.gateSymbols b type = 0 ∧ (s.leads = false → t.out = s.out))
      ∧ (type = 2 → t.getF F.TWL_STAT_NODE_OK b = 0 ∧ ∀ n, n < 16 → n < s.nodes b → t.getB F.TWL_N_STAT_VALID b n = false)
      ∧ (type = 4 → s.brSt b = BrSt.RUN → s.nodes b ≤ 16 → ∀ n, n < s.nodes b →
          t.getB F.TWL_N_STAT_CMD_LATE b n = decide (1850 * 256 < 100 * 256 + s.delivery b n)))
    ∧ (s.sendDue b type = false ∨ s.mirrored = true ∧ type ≠ 3 → Ignores c s)

/-- A returning copy at a controller that is not in a pair: where the branch is off or does not use the port it is nothing;
else the port is locked and seen again, and a copy whose FCS fails is counted (R514, R518).  A good SYNC copy gives the hops
and, unless it has been turned around, the ring delay of its direction (R515); a copy of no frame type gives nothing; any
other outside its window sets OOW and gives no value (R517); one inside it that agrees with the frame sent goes to its slices
(R499, R512).
A node's slice with a wrong length or check value changes nothing; the first valid one, or a copy that passed earlier,
is taken: its bytes are the node's, NSTAT and the port it came by are shown, the node is OK; a later copy is dropped, and
one that differs sets DIFF and is counted (R512, R513). -/
def Obligations.TwillCopiesAndSlices : Prop :=
  (∀ (b port raw : Nat) (all : List Byte) (s : State), b < 8 → port < 2 → s.role = Role.SINGLE → s.pairRun = false →
    let c : Instr := .twillCopyReceive b port raw all
    let bytes := all.take (all.length - 4)
    let fcs := leAt all (all.length - 4) 4 == crc32c 0xFFFFFFFF bytes
    let type := leAt bytes 0 1 % 16
    let dir := leAt bytes 0 1 / 16 % 2
    let time := s.stamp raw - (if port = 0 then s.getF F.TWL_DLY_A_RXD b else s.getF F.TWL_DLY_B_RXD b)
    let crc := if port = 0 then F.TWL_CNT_CRC_A else F.TWL_CNT_CRC_B
    let live := s.brSt b ≠ BrSt.OFF ∧ port ∈ s.ports b
    let seen (t : State) : Prop :=
      t.getB (if port = 0 then F.TWL_STAT_LOCK_A else F.TWL_STAT_LOCK_B) b = true ∧ bit (t.br b).seen port = true
      ∧ bit (t.br b).openPorts port = false
      ∧ t.getF crc b = if fcs then s.getF crc b else satInc (2 ^ 16 - 1) (s.getF crc b)
    (¬ live → Ignores c s)
    ∧ (live → type = 1 → Completes c s fun t => seen t
        ∧ (fcs = true → s.headerOk b bytes = true →
            mapGet (fun _ => none) (t.br b).hops port = some (leAt bytes 45 1)
            ∧ mapGet (fun _ => none) (t.br b).dNow port = some ((time + 2 ^ 73 - leAt bytes 6 9) % 2 ^ 32)
            ∧ t.getF (if port = 1 then F.TWL_D_AB_D else F.TWL_D_BA_D) b
              = if dir = port ∧ s.ports b = [0, 1] then s.getF (if port = 1 then F.TWL_D_AB_D else F.TWL_D_BA_D) b
                else (time + 2 ^ 73 - leAt bytes 6 9) % 2 ^ 32)
        ∧ (fcs = false ∨ s.headerOk b bytes = false → (t.br b).hops = (s.br b).hops))
    ∧ (live → type = 0 ∨ 5 < type → Completes c s fun t => seen t ∧ t.twl.slots = s.twl.slots ∧ (t.br b).got = (s.br b).got
        ∧ t.getB F.TWL_FLAG_OOW b = s.getB F.TWL_FLAG_OOW b)
    ∧ (live → 2 ≤ type → type ≤ 5 → s.inWindow b port type time = false → Completes c s fun t => seen t
        ∧ t.getB F.TWL_FLAG_OOW b = true ∧ t.getF F.TWL_CNT_OOW_COUNT b = satInc (2 ^ 32 - 1) (s.getF F.TWL_CNT_OOW_COUNT b)
        ∧ t.twl.slots = s.twl.slots ∧ (t.br b).got = (s.br b).got)
    ∧ (live → 2 ≤ type → type ≤ 5 → s.inWindow b port type time = true → Completes c s fun t => ∃ u : State, seen u
        ∧ u.twl.slots = s.twl.slots ∧ (u.br b).got = (s.br b).got
        ∧ t = if bytes.length = 6 + s.payloadNow b type ∧ (s.br b).sent.contains type = true
            ∧ (fcs = true → s.headerOk b bytes = true) then copyTake b port time bytes u else u))
  ∧ (∀ (b n port edge : Nat) (d : List Byte) (s : State), b < 8 → n < 16 → port < 2 →
    let good := 16 ≤ d.length ∧ leAt d (d.length - 4) 4 = crc32c 0xFFFFFFFF (d.take (d.length - 4))
    let old := mapGet (fun _ => none) (s.br b).got n
    let t := sliceIn b n port edge d s
    (¬ good → t = s)
    ∧ (good → (∀ e p d0, old = some (e, p, d0) → edge < e ∨ edge = e ∧ port = 0) →
        mapGet (fun _ => none) (t.br b).got n = some (edge, port, d) ∧ t.getF F.TWL_N_STAT_NSTAT b n = leAt d 0 2
        ∧ t.getB F.TWL_N_STAT_VALID b n = true ∧ t.getB F.TWL_N_STAT_VIA_B b n = (port == 1)
        ∧ bit (t.getF F.TWL_STAT_NODE_OK b) n = true)
    ∧ ∀ e p d0, good → old = some (e, p, d0) → ¬ (edge < e ∨ edge = e ∧ port = 0) →
        t.twl = s.twl ∧ t.getB F.TWL_FLAG_DIFF b = (s.getB F.TWL_FLAG_DIFF b || decide (d0 ≠ d))
        ∧ t.getF F.TWL_N_CNT_DIFF b n = if d0 = d then s.getF F.TWL_N_CNT_DIFF b n else satInc (2 ^ 16 - 1) (s.getF F.TWL_N_CNT_DIFF b n))

/-- The states of a branch: START to SYNC after 16 good cycles in a row, to FAULT with TOPO after 16 of a wrong length; SYNC,
with every layout loaded, to RUN after 64, or to FAULT with BUDGET where a node is reached too late; each change is posted
(R504, R526); a standby that runs with its active waits for the active's states (R527, R607).  A port without a copy for 2
cycles is open, its lock gone, and posted once (R514).  Otherwise nothing changes.
An announced mode switch is checked at the eighth T0 before its cycle: with every polled node's acknowledgement it stays
announced, without one it is cancelled and each branch that lacks one sets SW_FAIL; at the T0 of its cycle a checked switch
puts the new mode in force (R522).  A switch agreed over Damask is left to its agreement (R572).  Otherwise nothing
changes.
A service transfer without a response for 64 cycles: the host's completes with 0x0A06 and the branch is free again; a
layout's starts its wait anew (R524, R525).  Edges that Felt blocks while the gates are closed are counted and noted, and
posted with their number when the cycle ends (R519; the time of the one event is read from R535, log 85). -/
def Obligations.TwillStatesAndModes : Prop :=
  ((∀ (b : Nat) (s : State), b < 8 →
    let c : Instr := .branchStateAdvance b
    let x := s.br b
    let enters (st detail : Nat) (t : State) : Prop :=
      t.brSt b = st ∧ (t.br b).good = 0 ∧ ∃ e ∈ t.hst.events, e.type = 0x0A01 ∧ e.inst = b ∧ e.detail = detail
    (s.mirrored = true → Ignores c s)
    ∧ (s.mirrored = false → s.brSt b = BrSt.START → 16 ≤ x.good → Completes c s (enters BrSt.SYNC 2))
    ∧ (s.mirrored = false → s.brSt b = BrSt.START → x.good < 16 → 16 ≤ x.topo → Completes c s fun t => enters BrSt.FAULT 4 t ∧ t.getB F.TWL_FLAG_TOPO b = true)
    ∧ (s.mirrored = false → s.brSt b = BrSt.SYNC → 64 ≤ x.good → x.lay = [] → s.lateNodes b = [] → Completes c s (enters BrSt.RUN 3))
    ∧ (s.mirrored = false → s.brSt b = BrSt.SYNC → 64 ≤ x.good → x.lay = [] → s.lateNodes b ≠ [] → Completes c s fun t =>
        enters BrSt.FAULT 12 t ∧ t.getB F.TWL_FLAG_BUDGET b = true)
    ∧ (¬ (s.brSt b = BrSt.START ∧ (16 ≤ x.good ∨ 16 ≤ x.topo)) → ¬ (s.brSt b = BrSt.SYNC ∧ 64 ≤ x.good ∧ x.lay = []) → Ignores c s))
  ∧ ∀ (b port : Nat) (s : State), b < 8 → port < 2 →
    let x := s.br b
    let due := s.brSt b ≠ BrSt.OFF ∧ 2 ≤ (if port = 0 then x.missA else x.missB) ∧ bit x.openPorts port = false ∧ port ∈ s.ports b
    (due → Completes (.ringOpen b port) s fun t =>
        bit (t.br b).openPorts port = true ∧ t.getB F.TWL_STAT_RING_OPEN b = true ∧ t.getB F.TWL_FLAG_RING_OPEN b = true
        ∧ t.getB (if port = 0 then F.TWL_STAT_LOCK_A else F.TWL_STAT_LOCK_B) b = false
        ∧ (∃ e ∈ t.hst.events, e.type = 0x0A03 ∧ e.inst = b ∧ e.detail = 1 + 2 * port) ∧ Ignores (.ringOpen b port) t)
    ∧ (¬ due → Ignores (.ringOpen b port) s))
  ∧ ((∀ s : State,
    let due := s.getB F.TWL_G_MODE_SWP = true ∧ s.twl.checked = false ∧ s.tbs.started = true ∧ s.getF F.TWL_G_SW_AT_SW_AT ≤ s.tbs.k + 8
    (due → (∀ b, b < 8 → s.noAck b = 0) → Completes .modeSwitchCheck s fun t =>
        t = s.withTwl (fun x => { x with checked := true }) ∧ Ignores .modeSwitchCheck t)
    ∧ (due → ∀ b, b < 8 → s.noAck b ≠ 0 → Completes .modeSwitchCheck s fun t =>
        t.getB F.TWL_G_MODE_SWP = false ∧ t.getF F.TWL_G_MODE_NEXT = s.twlMode ∧ t.twlMode = s.twlMode ∧ t.getB F.TWL_FLAG_SW_FAIL b = true
        ∧ ∃ e ∈ t.hst.events, e.type = 0x0A05 ∧ e.inst = b ∧ e.detail = (s.noAck b + s.tbs.k * 2 ^ 16))
    ∧ (¬ due → Ignores .modeSwitchCheck s))
  ∧ ∀ s : State,
    let due := s.getB F.TWL_G_MODE_SWP = true ∧ s.twl.checked = true ∧ (s.dmk.agree.any (·.joined)) = false ∧ s.tbs.started = true
      ∧ s.getF F.TWL_G_SW_AT_SW_AT ≤ s.tbs.k
    (due → Completes .modeSwitchApply s fun t =>
        t.twlMode = s.getF F.TWL_G_MODE_NEXT ∧ t.getB F.TWL_G_MODE_SWP = false ∧ t.twl.checked = false
        ∧ ∃ e ∈ t.hst.events, e.type = 0x0A06 ∧ e.detail = s.getF F.TWL_G_MODE_NEXT)
    ∧ (¬ due → Ignores .modeSwitchApply s))
  ∧ ((∀ (b : Nat) (v : Svc) (s : State), (s.br b).svc = some v → v.start + 64 ≤ s.tbs.k → Completes (.svcTimeout b) s fun t =>
      (v.host = none → (t.br b).svc = some { v with start := s.tbs.k } ∧ t.hst = s.hst)
      ∧ (∀ ptr, v.host = some ptr → (t.br b).svc = none
          ∧ t.hst.comps = s.hst.comps.map fun c => if c.key = some (0xA0002 + b * 2 ^ 24) then { c with key := none, code := 0x0A06, d0 := 0, d1 := 0 } else c)
      ∧ (∀ d, d ≠ b → t.br d = s.br d) ∧ t.regs = s.regs)
  ∧ (∀ (b : Nat) (s : State), (∀ v, (s.br b).svc = some v → s.tbs.k < v.start + 64) → Ignores (.svcTimeout b) s)
  ∧ ∀ (b edges : Nat) (s : State), b < 8 → Completes (.guardBlock b edges) s fun t =>
      t.getF F.TWL_CNT_GUARD_COUNT b = min (2 ^ 32 - 1) (s.getF F.TWL_CNT_GUARD_COUNT b + edges) ∧ t.getB F.TWL_FLAG_GUARD b = true
      ∧ (t.br b).blocked = (s.br b).blocked + edges ∧ t.twl.slots = s.twl.slots ∧ bit t.lnd.fault 10 = true ∧ t.hst = s.hst
      ∧ ((s.br b).blocked = 0 → guardReport b s = s)
      ∧ ((s.br b).blocked ≠ 0 → ((guardReport b s).br b).blocked = 0
          ∧ ∃ e ∈ (guardReport b s).hst.events, e.type = 0x0A04 ∧ e.inst = b ∧ e.detail = (s.br b).blocked))

/-! ### Links and the Damask fabric (chapter 14; the Laend lanes are ends 4 and 5, R585) -/

/-- The states of a link end: training done gives LOCK; after 500 ms training starts anew, with TRAIN_FAIL on a Damask port;
the loss of the link falls back by LINK_MODE, an exit from UP sets DOWN and posts LINK, and what waited at the port is lost
(R537, R584).  Where the condition does not hold nothing changes.
A LINK request leaves every millisecond from LOCK on, numbered; on a busy Damask port it waits for the unit in progress
(R542, R548).  A valid LINK frame from a new neighbour takes a port from LOCK to PEER and shows who it is; another
neighbour's UID loses the link; a response within 100 us of its request from the same neighbour is a measurement, and eight
give the delay and UP (R537, R561).  Every other is dropped. -/
def Obligations.LinkEnds : Prop :=
  ((∀ (p : Nat) (s : State), p < 6 → s.linkSt p = LinkSt.TRAIN → Completes (.linkTrainDone p) s fun t => t.linkSt p = LinkSt.LOCK)
  ∧ (∀ (p : Nat) (s : State), s.linkSt p ≠ LinkSt.TRAIN → Ignores (.linkTrainDone p) s ∧ Ignores (.trainTimeout p) s)
  ∧ (∀ (p : Nat) (s : State), p < 6 → s.linkSt p = LinkSt.TRAIN → (s.link p).since + 500000000 * 256 ≤ s.now →
      Completes (.trainTimeout p) s fun t =>
        t.linkSt p = LinkSt.TRAIN ∧ (t.link p).since = s.now ∧ (p < 4 → t.getB F.DMK_P_FLAG_TRAIN_FAIL p = true))
  ∧ (∀ (p : Nat) (s : State), s.now < (s.link p).since + 500000000 * 256 → Ignores (.trainTimeout p) s)
  ∧ (∀ (p reason : Nat) (s : State), p < 6 → s.linkLost p reason = true → Completes (.linkLoss p reason) s fun t =>
      t.linkSt p = (if s.linkMode p = 0 then LinkSt.TRAIN else LinkSt.LOCK) ∧ (t.link p).uid = none ∧ (t.link p).meas = []
      ∧ (p < 4 → (t.dport p).q0 = [] ∧ (t.dport p).q1 = [] ∧ (t.dport p).q2 = [] ∧ (t.dport p).rest = none
          ∧ (s.linkSt p = LinkSt.UP → t.getB F.DMK_P_FLAG_DOWN p = true ∧ ∃ e ∈ t.hst.events, e.type = 0x0B01 ∧ e.inst = p)
          ∧ (reason = 1 → t.getB F.DMK_P_FLAG_HIBER p = true)))
  ∧ ∀ (p reason : Nat) (s : State), s.linkLost p reason = false → Ignores (.linkLoss p reason) s)
  ∧ ((∀ (p : Nat) (s : State), p < 4 → LinkSt.LOCK ≤ s.linkSt p → (s.link p).sent = 0 ∨ (s.link p).sent + 1000000 * 256 ≤ s.now →
      let no := ((s.link p).reqNo + 1) % 2 ^ 32
      let body := linkBody 1 p no 0 s.dAddr s.dUid s
      Completes (.linkFrameSend p) s fun t =>
        (t.link p).sent = s.now ∧ (t.link p).reqNo = no ∧ t.linkSt p = s.linkSt p
        ∧ ((s.dport p).cur ≠ none → (t.dport p).links = (s.dport p).links ++ [body] ∧ t.out = s.out)
        ∧ ((s.dport p).cur = none → (s.dport p).links = [] →
            (∃ h, t.out = s.out ++ [.dmk p h (withTx body (s.now + s.txd p)) [] true])
            ∧ (no, s.now + s.txd p) ∈ (t.link p).reqs))
  ∧ (∀ (l : Nat) (s : State), l < 2 → LinkSt.LOCK ≤ s.linkSt (4 + l) →
      (s.link (4 + l)).sent = 0 ∨ (s.link (4 + l)).sent + 1000000 * 256 ≤ s.now → Completes (.linkFrameSend (4 + l)) s fun t =>
        (t.link (4 + l)).sent = s.now ∧ t.regs = s.regs
        ∧ ∃ h, t.out = s.out ++ [.lnd l h (withTx (linkBody 1 (4 + l) (((s.link (4 + l)).reqNo + 1) % 2 ^ 32) 0 0 s.dUid s) (s.now + s.txd (4 + l)))])
  ∧ (∀ (p : Nat) (s : State), s.linkSt p < LinkSt.LOCK ∨ ((s.link p).sent ≠ 0 ∧ s.now < (s.link p).sent + 1000000 * 256) → p < 6 →
      Ignores (.linkFrameSend p) s)
  ∧ (∀ (p raw : Nat) (b : List Byte) (s : State), p < 4 → s.linkSt p < LinkSt.LOCK ∨ linkValid b = false → Ignores (.linkFrameReceive p raw b) s)
  ∧ (∀ (p raw : Nat) (b : List Byte) (s : State), p < 4 → s.linkSt p = LinkSt.LOCK → linkValid b = true → leAt b 0 1 = 1 →
      (s.link p).uid = none → Completes (.linkFrameReceive p raw b) s fun t =>
        t.linkSt p = LinkSt.PEER ∧ (t.link p).uid = some (leAt b 8 8) ∧ t.getF F.DMK_P_NUID_V p = leAt b 8 8
        ∧ t.getF F.DMK_P_STAT_NPORT p = leAt b 1 1 % 4 ∧ (t.link p).heard = s.now)
  ∧ (∀ (p raw u : Nat) (b : List Byte) (s : State), p < 4 → LinkSt.LOCK ≤ s.linkSt p → linkValid b = true →
      (s.link p).uid = some u → u ≠ leAt b 8 8 → Completes (.linkFrameReceive p raw b) s fun t =>
        t.linkSt p = if s.linkMode p = 0 then LinkSt.TRAIN else LinkSt.LOCK)
  ∧ ∀ (p t4 t1 : Nat) (b : List Byte) (s : State), p < 4 → s.linkSt p = LinkSt.PEER → t4 ≤ t1 + 100000 * 256 →
      (s.link p).reqs.find? (fun r => r.1 == leAt b 4 4) = some (leAt b 4 4, t1) → (s.link p).uid = some (leAt b 8 8) →
      let m := ((((t4 : Int) - t1) - ((leAt b 48 9 : Int) - leAt b 16 9)) :: (s.link p).meas).take 16
      let t := linkMeasure p t4 b s
      (t.link p).meas = m
      ∧ (m.length < 8 → t.regs = s.regs)
      ∧ (8 ≤ m.length → t.linkSt p = LinkSt.UP ∧ t.ldly p = measMean m % 2 ^ 32 ∧ t.getB F.DMK_P_STAT_LDLY_V p = true))

/-- A frame is judged at its port: on a port that is not up, a node that is not enabled or by a LINK frame nothing happens;
a bad header, or a continuation of nothing, is dropped and counted alone (R539).  Where a frame goes: source-routed by its
route; a broadcast once, out of every other port and to this node; this node's address to it; else by the table, the
alternate where the primary is not up, never back and at most 255 hops (R557, R558). -/
def Obligations.FramesFindTheirWay : Prop :=
  (∀ (port raw residence : Nat) (h p : List Byte) (flips check : List ByteFlip) (s : State),
      s.dmkUp port = false ∨ s.dEn = false ∨ leAt h 0 1 / 16 = 3 → Ignores (.damaskFrameReceive port raw h p flips check residence) s)
  ∧ (∀ (port raw residence : Nat) (h p : List Byte) (flips check : List ByteFlip) (s : State),
      s.dmkUp port = true → s.dEn = true → leAt h 0 1 / 16 ≠ 3 →
      headerGood h = false ∨ (bit (leAt h 0 1) 2 = true ∧ (s.dport port).inn = []) →
      Completes (.damaskFrameReceive port raw h p flips check residence) s fun t =>
        t.getF F.DMK_P_CNT_HDR_HDR port = satInc (2 ^ 16 - 1) (s.getF F.DMK_P_CNT_HDR_HDR port) ∧ ∀ q, q ≠ Part.regs → q.same s t)
  ∧ (∀ (port raw residence e : Nat) (h p : List Byte) (s : State), s.dmkUp port = true → s.dEn = true → leAt h 0 1 / 16 ≠ 3 →
      headerGood h = true → bit (leAt h 0 1) 2 = false → leAt h 0 1 % 4 = 2 →
      let f := dmkFrame h (p.take (leAt h 7 2)) [] port (s.stamp raw) (s.stamp raw + residence)
      s.wayOf f port = ([e], false, false) → Completes (.damaskFrameReceive port raw h p [] [] residence) s fun t =>
        ∃ u : State, t = enqueue e { f with hops := f.hops + 1, rptr := if f.rlen = 0 then f.rptr else f.rptr + 1 } u ∧ u.regs = s.regs)
  ∧ ∀ (f : DFrame) (port : Nat) (s : State),
      (f.rlen ≠ 0 → f.rptr = f.rlen → s.wayOf f port = ([], true, false))
      ∧ (f.rlen = 0 → f.dst = 0xFFF → s.fresh f.src f.fseq = false → s.wayOf f port = ([], false, false))
      ∧ (f.rlen = 0 → f.dst = 0xFFF → s.fresh f.src f.fseq = true → f.hops < 255 →
          (s.wayOf f port).2 = (true, false) ∧ ∀ q, q ∈ (s.wayOf f port).1 ↔ q ≠ port ∧ s.dmkUp q = true)
      ∧ (f.rlen = 0 → f.dst ≠ 0xFFF → f.dst = s.dAddr → s.dAddr ≠ 0 → s.wayOf f port = ([], true, false))
      ∧ (f.rlen = 0 → f.dst ≠ 0xFFF → f.dst ≠ s.dAddr → ∀ e, s.routeTo f.dst = some e → e ≠ port → f.hops < 255 →
          s.wayOf f port = ([e], false, false))
      ∧ (f.rlen = 0 → f.dst ≠ 0xFFF → f.dst ≠ s.dAddr → s.routeTo f.dst = none ∨ s.routeTo f.dst = some port ∨ f.hops = 255 →
          s.wayOf f port = ([], false, true))
      ∧ (∀ e, s.routeTo f.dst = some e → s.dmkUp e = true)
      ∧ ∀ e ∈ (s.wayOf f port).1, e ≠ port ∧ s.dmkUp e = true

/-- At the end of a unit the egress goes on: with the frame's next unit where nothing of class 0 waits and none is to come,
else it is preempted, its remainder kept as a continuation and counted, and class 0 starts (R548 to R550); a waiting LINK frame
preempts as well (read from R542 and R548, log 79).  Before that end
nothing happens.  A message without its next frame for 10 ms is discarded and counted (R541).  A class-0 record sends once
in a cycle from its T_SEND on (R552). -/
def Obligations.EgressPreemptsForClass0 : Prop :=
  (∀ (p : Nat) (c : DCur) (s : State), (s.dport p).cur = some c → c.link = false → c.off < c.frame.payload.length → c.ends ≤ 5 * s.now →
      (s.dport p).q0 = [] → (s.dport p).links = [] → s.windowMeets p c.ends (c.ends + unitSpan c.frame c.off) = false → Completes (.egressUnitEnd p) s fun t =>
        ∃ d, (t.dport p).cur = some d ∧ d.frame = c.frame ∧ d.off = c.off + unitLen c.frame c.off ∧ c.ends < d.ends ∧ t.regs = s.regs)
  ∧ (∀ (p : Nat) (c : DCur) (g : DFrame) (r : List DFrame) (s : State), p < 4 → (s.dport p).cur = some c → c.link = false →
      c.off < c.frame.payload.length → c.ends ≤ 5 * s.now → (s.dport p).q0 = g :: r → (s.dport p).links = [] → s.linkSt p = LinkSt.UP →
      s.beShed = false → Completes (.egressUnitEnd p) s fun t =>
        t.getF F.DMK_P_CNT_PRE_PRE p = satInc (2 ^ 32 - 1) (s.getF F.DMK_P_CNT_PRE_PRE p) ∧ (t.dport p).q0 = r
        ∧ (∃ f, (t.dport p).rest = some f ∧ f.cont = true ∧ f.payload = c.frame.payload.drop c.off ∧ f.dst = c.frame.dst)
        ∧ ∃ d, (t.dport p).cur = some d ∧ d.frame.fseq = g.fseq ∧ d.frame.stream = g.stream)
  ∧ (∀ (p : Nat) (c : DCur) (l : List Byte) (r : List (List Byte)) (s : State), p < 4 → (s.dport p).cur = some c → c.link = false →
      c.off < c.frame.payload.length → c.ends ≤ 5 * s.now → (s.dport p).links = l :: r → Completes (.egressUnitEnd p) s fun t =>
        t.getF F.DMK_P_CNT_PRE_PRE p = satInc (2 ^ 32 - 1) (s.getF F.DMK_P_CNT_PRE_PRE p) ∧ (t.dport p).links = r
        ∧ ∃ d, (t.dport p).cur = some d ∧ d.link = true)
  ∧ (∀ (p : Nat) (c : DCur) (s : State), (s.dport p).cur = some c → 5 * s.now < c.ends → Ignores (.egressUnitEnd p) s)
  ∧ (∀ (src stream : Nat) (r : Reasm) (s : State), 
      s.dmk.reasm.find? (fun q => q.is src stream && decide (q.time + 10000000 * 256 ≤ s.now)) = some r → Completes (.reassemblyTimeout src stream) s fun t =>
        t.dmk.reasm = s.dmk.reasm.filter (fun q => q != r)
        ∧ (r.drop = false → t.getB F.DMK_FLAG_SEQ_GAP = true ∧ t.getF F.DMK_CNT_RX_GAP = satInc (2 ^ 16 - 1) (s.getF F.DMK_CNT_RX_GAP)))
  ∧ (∀ (src stream : Nat) (s : State), (∀ r ∈ s.dmk.reasm, r.is src stream = true → s.now < r.time + 10000000 * 256) →
      Ignores (.reassemblyTimeout src stream) s)
  ∧ ∀ (r : Nat) (s : State),
      let due := s.c0En r = true ∧ s.c0 r 0 20 1 ≠ 0 ∧ s.standby = false ∧ s.cycRun = true ∧ s.tbs.started = true
        ∧ (s.tbs.t0 + s.c0 r 1 0 32) * 256 ≤ s.now ∧ s.dmk.c0Sent.contains r = false ∧ s.dEn = true ∧ s.dAddr ≠ 0
      (due → Completes (.c0Send r) s fun t =>
        t.dmk.c0Sent = listIns s.dmk.c0Sent r ∧ Ignores (.c0Send r) t)
      ∧ (¬ due → Ignores (.c0Send r) s)

/-- A discovery starts at the acting root after a change: with a neighbour it asks the first, alone it ends at once with one
node (R543, R555).  A request without an answer is sent again after 1 ms, three times (R543); an incomplete route table is
dropped 100 ms after its first part (R545).  Otherwise nothing changes. -/
def Obligations.DiscoveryAsksItsNeighbours : Prop :=
  (∀ (reported : Bool) (s : State), s.getB F.DMK_STAT_ROOT_ACT = false ∨ s.dmk.disc ≠ none ∨ (s.dmk.discDue = false ∧ reported = false) →
      Ignores (.discovery reported) s)
  ∧ (∀ (reported : Bool) (s : State), s.getB F.DMK_STAT_ROOT_ACT = true → s.dmk.disc = none → s.dmk.discDue = true ∨ reported = true →
      (∃ p, p < 4 ∧ s.linkSt p = LinkSt.UP ∧ s.getF F.DMK_P_NUID_V p ≠ 0 ∧ s.getF F.DMK_P_NUID_V p ≠ s.dUid) →
      Completes (.discovery reported) s fun t => ∃ d, t.dmk.disc = some d ∧ d.todo ≠ [] ∧ d.tries = 0 ∧ d.sentAt = s.now
        ∧ (∃ n, d.nodes = [n] ∧ n.uid = s.dUid) ∧ t.dmk.discDue = false)
  ∧ (∀ (reported : Bool) (s : State), s.getB F.DMK_STAT_ROOT_ACT = true → s.dmk.disc = none → s.dmk.discDue = true ∨ reported = true →
      (∀ p, p < 4 → s.linkSt p ≠ LinkSt.UP) → Completes (.discovery reported) s fun t =>
        t.dmk.disc = none ∧ t.dmk.discDue = false ∧ t.dmk.hasTable = true ∧ t.getF F.DMK_STAT_NODES = 1
        ∧ ∃ e ∈ t.hst.events, e.type = 0x0B0B ∧ e.detail = 1)
  ∧ (∀ (d : Disc) (route back : List Nat) (uid : Nat) (l : List DiscTask) (s : State), s.dmk.disc = some d →
      d.todo = .probe route back uid :: l →
      (s.now < d.sentAt + 1000000 * 256 → Ignores .discRepeat s)
      ∧ (d.sentAt + 1000000 * 256 ≤ s.now → d.tries < 3 → Completes .discRepeat s fun t =>
          t.dmk.disc = some { d with tries := d.tries + 1, sentAt := s.now }))
  ∧ (∀ s : State, s.dmk.disc = none → Ignores .discRepeat s)
  ∧ (∀ (id at_ : Nat) (ps : List (Nat × List Nat)) (s : State), s.dmk.parts = some (id, at_, ps) →
      (at_ + 100000000 * 256 ≤ s.now → Completes .routeTableTimeout s fun t => t = s.withDmk fun d => { d with parts := none })
      ∧ (s.now < at_ + 100000000 * 256 → Ignores .routeTableTimeout s))
  ∧ ∀ s : State, s.dmk.parts = none → Ignores .routeTableTimeout s

/-! ### Common time over the fabric -/

/-- A round is closed once, at its half: N is the number of offsets, this node's own among them where it is a source, and
the lists start again (R564).  With the cell cycle running an offset above STEP_LIM arms nothing and leaves the node OUT;
while a change waits the correction is skipped and counted (R565).  Too few offsets take SYNC to HOLDOVER and enough take it
back; eight near rounds in a row give SYNC (R566, R567).
A source's TIME frame leaves once in its slot; the active of a pair sends it on both lanes as well (R562, R600).  Without
a TIME frame for three rounds COLD and ACQUIRE go back to LISTEN, and a source in LISTEN goes to COLD, after its back-off
where it has yielded (R567, R569).  Otherwise nothing changes. -/
def Obligations.FabricTime : Prop :=
  ((∀ (psync : Bool) (s : State), s.pst ≠ PSt.JOIN → s.syncSt = SyncSt.OFF ∨ s.now < s.dmk.sync.round * s.syncInt + s.syncInt / 2 →
      Ignores (.roundClose psync) s)
  ∧ (∀ (psync : Bool) (s : State), s.pst ≠ PSt.JOIN → s.syncSt ≠ SyncSt.OFF → s.dmk.sync.round * s.syncInt + s.syncInt / 2 ≤ s.now →
      Completes (.roundClose psync) s fun t =>
        t.dmk.sync.round = max (s.dmk.sync.round + 1) (s.now / s.syncInt) ∧ t.dmk.sync.offs = [] ∧ t.dmk.sync.rhos = []
        ∧ t.getF F.DMK_SYNC_STAT_N = min 31 (s.dmk.sync.offs.length + b2n s.srcEn))
  ∧ (∀ (delta : Rat) (rho : Option Rat) (s : State), s.getB F.TBS_CTL_SRC = true →
      s.cycRun = true → ((s.getF F.DMK_STEP_LIM_LIM * 256 : Nat) : Rat) < qabs delta →
      (syncCorrect delta rho s).syncSt = SyncSt.OUT ∧ (syncCorrect delta rho s).tbs = s.tbs)
  ∧ (∀ (delta : Rat) (rho : Option Rat) (s : State), s.getB F.TBS_CTL_SRC = true → s.cycRun = false → s.tbs.pend ≠ none →
      (syncCorrect delta rho s).tbs = s.tbs
      ∧ (syncCorrect delta rho s).getF F.DMK_SYNC_STAT_SKIP = satInc (2 ^ 16 - 1) (s.getF F.DMK_SYNC_STAT_SKIP))
  ∧ ∀ (n : Nat) (delta : Option Rat) (s : State),
      (s.syncSt = SyncSt.SYNC → n < 2 * s.syncK + 1 → (syncAdvance n delta s).syncSt = SyncSt.HOLDOVER
        ∧ (syncAdvance n delta s).getB F.DMK_FLAG_HOLDOVER = true)
      ∧ (s.syncSt = SyncSt.HOLDOVER → 2 * s.syncK + 1 ≤ n → (syncAdvance n delta s).syncSt = SyncSt.SYNC)
      ∧ (∀ d, delta = some d → s.syncSt = SyncSt.ACQUIRE → 2 * s.syncK + 1 ≤ n → qabs d ≤ (s.getF F.DMK_SYNC_TOL_TOL : Nat) →
          s.dmk.sync.good = 7 → (syncAdvance n delta s).syncSt = SyncSt.SYNC))
  ∧ ((∀ s : State,
    let due := s.slotRound * s.syncInt + s.getF F.DMK_SYNC_CFG_SLOT * 10000 * 256 ≤ s.now ∧ s.dmk.sync.sentR ≠ some s.slotRound
    (due → Completes .timeFrameSend s fun t =>
      t.dmk.sync.sentR = some s.slotRound ∧ Ignores .timeFrameSend t
      ∧ (s.role = Role.ACTIVE → s.pst ≠ PSt.OFF → ∀ l ∈ s.upLanes,
          ∃ h, Output.lnd l h (withTx (timeBody s.slotRound s) (s.now + s.txd (4 + l))) ∈ t.out))
    ∧ (¬ due → Ignores .timeFrameSend s))
  ∧ ∀ s : State,
    let due := s.dmk.sync.heard + 3 * s.syncInt
    let back := if s.dmk.sync.yielded then (s.dUid % 256 + 1) * s.syncInt else 0
    (s.syncSt = SyncSt.LISTEN → s.srcEn = true → due + back ≤ s.now → Completes .listenTimeout s fun t => t.syncSt = SyncSt.COLD)
    ∧ (s.syncSt = SyncSt.COLD ∨ s.syncSt = SyncSt.ACQUIRE → due ≤ s.now → Completes .listenTimeout s fun t => t.syncSt = SyncSt.LISTEN)
    ∧ (s.syncSt = SyncSt.LISTEN → s.srcEn = false ∨ s.now < due + back → Ignores .listenTimeout s)
    ∧ (s.syncSt = SyncSt.COLD ∨ s.syncSt = SyncSt.ACQUIRE → s.now < due → Ignores .listenTimeout s)
    ∧ (s.syncSt ≠ SyncSt.LISTEN → s.syncSt ≠ SyncSt.COLD → s.syncSt ≠ SyncSt.ACQUIRE → Ignores .listenTimeout s))

/-- A mode agreement goes by its cycles: the proposer without every vote 24 cycles before the switch ends it, cancels the
announced switch and completes its command with 0x0B07; with every report it commits 4 cycles before and completes; at the
switch's cycle a committed one leaves the switch to apply, one that is not is cancelled (R571, R572).  Before a step's cycle
nothing happens. -/
def Obligations.AgreementGoesByItsCycles : Prop :=
  (∀ s : State, s.dmk.agree = none ∨ s.tbs.started = false → Ignores .modeAgreementStep s)
  ∧ ∀ (a : Agree) (s : State), s.dmk.agree = some a → s.tbs.started = true →
      (a.step = 0 → s.tbs.k + 24 < a.ks → Ignores .modeAgreementStep s)
      ∧ (a.step = 0 → a.ks ≤ s.tbs.k + 24 → a.mine = true → allIn a a.yes = false → Completes .modeAgreementStep s fun t =>
          t.dmk.agree = none ∧ t.getB F.DMK_MODE_STAT_ACTIVE = false ∧ (a.joined = true → t.getB F.TWL_G_MODE_SWP = false)
          ∧ ∀ c ∈ s.hst.comps, c.key = some 0xB0001 → ({ c with key := none, code := 0x0B07, d0 := 0, d1 := 0 } : Comp) ∈ t.hst.comps)
      ∧ (a.step = 0 → a.ks ≤ s.tbs.k + 24 → a.mine = false ∨ allIn a a.yes = true → Completes .modeAgreementStep s fun t =>
          t.dmk.agree = some { a with step := 1 } ∧ t.hst = s.hst)
      ∧ (a.step = 2 → a.ks ≤ s.tbs.k + 4 → a.mine = true → allIn a a.ready = true → Completes .modeAgreementStep s fun t =>
          t.dmk.agree = some { a with step := 3, commit := true }
          ∧ ∀ c ∈ s.hst.comps, c.key = some 0xB0001 → ({ c with key := none, code := EC.OK, d0 := 0, d1 := 0 } : Comp) ∈ t.hst.comps)
      ∧ (a.step = 3 → a.ks ≤ s.tbs.k → a.commit = false → a.joined = true → Completes .modeAgreementStep s fun t =>
          t.dmk.agree = none ∧ t.getB F.TWL_G_MODE_SWP = false ∧ t.twlMode = s.twlMode)

/-! ### Active and standby pairs (chapter 15) -/

/-- PAIR_ENABLE, where its write lands and raises EN, opens both lanes by LINK_MODE and waits for the link with what
the partner tells (R585, R595).  A JOIN of 1 s without synchronisation fails with reason 6: SINGLE, OFF, posted (R598).
While a unit is in COPY, SHADOW or READY a write outside the host, pair and fabric blocks to a register that is not all W1C
is refused (R612).
The end of a self-test pass of a standby in SHADOW or READY counts; a failed part is a fault of the unit, flagged and
posted with the part; any other unit has none (R621). -/
def Obligations.PairsJoinAndTest : Prop :=
  ((∀ (info : PairInfo) (s : State),
    let u := s.withLnd fun x => { x with info := some info }
    u.getB F.LND_CTL_EN = false → Lands R.LND_CTL (fieldValue F.LND_CTL_EN 1 0 0 u) u → Completes (.pairEnable info) s fun t =>
      t.getB F.LND_CTL_EN = true ∧ t.lnd.info = some info ∧ t.lnd.armed = true ∧ t.pst = s.pst
      ∧ ∀ p, p = 4 ∨ p = 5 → t.linkSt p = if s.linkMode p = 0 then LinkSt.TRAIN else LinkSt.LOCK)
  ∧ (∀ s : State, s.pst = PSt.JOIN → s.lnd.joinAt + 1000000000 * 256 ≤ s.now → Completes .joinSyncTimeout s fun t =>
      t.pst = PSt.OFF ∧ t.role = Role.SINGLE ∧ t.getF F.LND_FAIL_JOIN = 6 ∧ t.getB F.LND_FLAG_JOIN_FAIL = true
      ∧ ∃ e ∈ t.hst.events, e.type = 0x0C02 ∧ e.detail = 6)
  ∧ (∀ s : State, s.pst ≠ PSt.JOIN ∨ s.now < s.lnd.joinAt + 1000000000 * 256 → Ignores .joinSyncTimeout s)
  ∧ ∀ (off v i j : Nat) (d : RegDef) (s : State), s.pst = PSt.COPY ∨ s.pst = PSt.SHADOW ∨ s.pst = PSt.READY → s.getB F.HST_STAT_RUNTIME = true →
      0x10000 ≤ off → ¬ (0x240000 ≤ off ∧ off < 0x2A0000) → findReg off = some (d, i, j) → d.rw ≠ 0 ∨ d.wo ≠ 0 → ¬ Accepts off v s)
  ∧ (∀ (part : Nat) (s : State),
    let due := s.role = Role.STANDBY ∧ (s.pst = PSt.SHADOW ∨ s.pst = PSt.READY)
    (due → Completes (.selfTestPass part) s fun t =>
      t.lnd.passes = satInc (2 ^ 32 - 1) s.lnd.passes ∧ t.lnd.passAt = s.now
      ∧ (part = 0 → t.regs = s.regs ∧ t.hst = s.hst)
      ∧ (part ≠ 0 → t.getB F.LND_FLAG_SELFTEST = true ∧ bit t.lnd.fault 7 = true ∧ ∃ e ∈ t.hst.events, e.type = 0x0C08 ∧ e.detail = part))
    ∧ (¬ due → Ignores (.selfTestPass part) s))

/-- A Laend frame: on a lane that is not up, or one whose sequence number has been taken on the other lane, it is nothing; a
good new one is taken once and acts by its kind; a heartbeat is kept (R588, R615).  A damaged copy is noted while the other
lane may still bring it, and the second is counted as lost (R588). -/
def Obligations.LaendFramesAreTakenOnce : Prop :=
  (∀ (l raw : Nat) (h p : List Byte) (flips check : List ByteFlip) (item : Option StateMsg) (s : State),
      2 ≤ l ∨ s.linkSt (4 + l) < LinkSt.LOCK → Ignores (.laendFrameReceive l raw h p flips check item) s)
  ∧ (∀ (l raw : Nat) (h p : List Byte) (item : Option StateMsg) (s : State), l < 2 → s.linkSt (4 + l) = LinkSt.UP →
      lndHeaderGood h = true → p.length = leAt h 9 2 → leAt h 0 1 ≠ 0 →
      (s.lnd.taken.contains (leAt h 11 2) = true → Ignores (.laendFrameReceive l raw h p [] [] item) s)
      ∧ (s.lnd.taken.contains (leAt h 11 2) = false → Completes (.laendFrameReceive l raw h p [] [] item) s fun t =>
          ∃ u : State, t = laendTake l raw (leAt h 0 1) (leAt h 1 8) p item u ∧ u.lnd.taken = (leAt h 11 2 :: s.lnd.taken).take 256
            ∧ u.regs = s.regs ∧ u.hst = s.hst)
      ∧ (s.lnd.taken.contains (leAt h 11 2) = false → leAt h 0 1 = 1 → p.length = 64 → s.pst = PSt.OFF →
          Completes (.laendFrameReceive l raw h p [] [] item) s fun t =>
            ∃ x, t.lnd.hbs = (x :: s.lnd.hbs).take 4 ∧ x.k = leAt p 0 8 ∧ x.fault = leAt p 10 2))
  ∧ ∀ (l raw : Nat) (h p : List Byte) (item : Option StateMsg) (s : State), l < 2 → s.linkSt (4 + l) = LinkSt.UP →
      s.linkSt (4 + (1 - l)) = LinkSt.UP → lndHeaderGood h = false → s.lnd.taken.contains (leAt h 11 2) = false →
      let seq := leAt h 11 2
      ((∀ f ∈ s.lnd.failed, f.2 = seq → f.1 = l) → Completes (.laendFrameReceive l raw h p [] [] item) s fun t =>
          (l, seq) ∈ t.lnd.failed ∧ t.regs = s.regs)
      ∧ ((∃ f ∈ s.lnd.failed, f.2 = seq ∧ f.1 ≠ l) → Completes (.laendFrameReceive l raw h p [] [] item) s fun t =>
          (∀ f ∈ t.lnd.failed, f.2 ≠ seq) ∧ t.getF F.LND_L_CNT_LOST l = satInc (2 ^ 16 - 1) (s.getF F.LND_L_CNT_LOST l))

/-- What a pair does at its deadlines.  Without a complete mirror at TR + MIR_DL a standby goes on with its own inputs, shown,
counted and posted (R605); 60 ns after a gate opening without a stream it composes SYNC or POLL itself (R608); the digest of
the cycle before missing at T0 + 1 us is flagged (R614).  At T0 + HB_DL the partner's report is judged once: present it
counts, missing it is flagged, and missing twice an active has no partner (read from R617, log 80); an isolated unit with eight in a row from an active comes back as standby (R595, R617).
Before its time each changes nothing. -/
def Obligations.PairDeadlines : Prop :=
  (∀ s : State,
    let due := s.mirrored = true ∧ s.lnd.mirDone = false ∧ s.cycRun = true ∧ s.tbs.started = true
      ∧ s.trAt + s.getF F.LND_CFG_MIR_DL * 250 * 256 < s.now
    (due → Completes .mirrorDeadline s fun t => ∃ u : State, t = mirRaise u ∧ u.lnd.mirDone = true
        ∧ u.getB F.LND_STAT_UNMIRRORED = true ∧ u.getB F.LND_FLAG_MIRROR_LATE = true ∧ ∃ e ∈ u.hst.events, e.type = 0x0C07 ∧ e.detail = s.tbs.k)
    ∧ (¬ due → Ignores .mirrorDeadline s))
  ∧ (∀ (b type : Nat) (s : State), b < 8 →
    let due := s.mirrored = true ∧ (type = 1 ∨ type = 2) ∧ s.lnd.streams.contains (b, type) = false ∧ s.sendDue b type = true
      ∧ s.gateAt b type + 60 * 256 < s.now
    (due → Completes (.streamTimeout b type) s fun t => t.sendDue b type = false ∧ t.lnd.streams.contains (b, type) = true
        ∧ (17 < s.gateSymbols b type → ∀ p ∈ s.ports b,
            Output.twill b p ((withFcs (frameBytes b type p (bodyOf b type p (s.pairByte b) s) s)).take (s.gateSymbols b type - 17)) ∈ t.out))
    ∧ (¬ due → Ignores (.streamTimeout b type) s))
  ∧ (∀ s : State,
    let due := (s.pst = PSt.SHADOW ∨ s.pst = PSt.READY) ∧ s.getB F.LND_STAT_PARTNER = true ∧ s.tbs.started = true
      ∧ s.tbs.t0 * 256 + 256000 < s.now ∧ (s.lnd.theirs.find? fun x => x.1 + 1 == s.tbs.k) = none
    (due → Completes .digestTimeout s fun t => t.getB F.LND_FLAG_DIGEST_MISS = true) ∧ (¬ due → Ignores .digestTimeout s))
  ∧ ∀ s : State,
    let due := PSt.COPY ≤ s.pst ∧ s.tbs.started = true ∧ s.cycRun = true ∧ s.tbs.t0 * 256 + s.getF F.LND_CFG_HB_DL * 256000 < s.now
      ∧ s.lnd.hbCyc ≠ some s.tbs.k
    (due → s.hbNow = none → Completes .hbDeadline s fun t =>
        t.getB F.LND_STAT_HB_OK = false ∧ t.getB F.LND_FLAG_HB_LOST = true ∧ t.lnd.hbGone = s.lnd.hbGone + 1 ∧ t.lnd.hbBack = 0
        ∧ (s.role = Role.ACTIVE → 1 ≤ s.lnd.hbGone → t.getB F.LND_STAT_PARTNER = false)
        ∧ Ignores .hbDeadline t)
    ∧ (∀ h, due → s.hbNow = some h → s.pst ≠ PSt.ISOLATED → Completes .hbDeadline s fun t =>
        t.getB F.LND_STAT_HB_OK = true ∧ t.lnd.hbGone = 0 ∧ t.lnd.hbBack = s.lnd.hbBack + 1 ∧ t.pst = s.pst ∧ t.role = s.role)
    ∧ (∀ h, due → s.hbNow = some h → s.pst = PSt.ISOLATED → 7 ≤ s.lnd.hbBack → h.role = Role.ACTIVE → s.pairLink = true →
        Completes .hbDeadline s fun t => t.role = Role.STANDBY ∧ t.pst = PSt.COPY ∧ t.twl.shut = false ∧ t.getB F.LND_STAT_PARTNER = true)
    ∧ (¬ due → Ignores .hbDeadline s)

/-! ### Resets, boot, security, temperature (chapters 17, 18) -/

/-- A reset that reaches the die: the external reset, an accepted device reset after its delay, the watchdog's when every
group is in STO or 2 s have passed, and PERST# where PERST_FULL is set.  FRC goes on, SRAM is cleared, every register but
BOOT_CAUSE, which adds its cause, and BOOT_NEXT holds its reset value, and every other part is as after power-on, the output
balls driven since power came on apart (R697); flash
outside a write that it cut off, and the fuses where no burn was in progress, stay (R654 to R660, R683).  Before its time
nothing happens.
The expiry of the watchdog ends the service of registers and stops every group with a controlled stop (R659).  A link
reset that does not reach the die records LINK, returns the MSI-X table to its reset values and takes the link down; every
other register and part stays, and the link that trains again serves (R654, R657). -/
def Obligations.ResetsReachTheirParts : Prop :=
  ((∀ (c : Instr) (causes burned : Nat) (left : List Byte) (s : State),
    (c = .externalReset left burned ∧ causes = 2)
    ∨ (c = .deviceReset left burned ∧ causes = s.softCauses ∧ ∃ t, s.boot.rstAt = some t ∧ t ≤ s.frc)
    ∨ (c = .watchdogReset left burned ∧ causes = s.softCauses ∧ ∃ t, s.boot.wdogAt = some t ∧ (s.allSto = true ∨ t + 2000000000 ≤ s.frc))
    ∨ (c = .linkReset true left burned none ∧ s.getB F.BOOT_CFG_PERST_FULL = true ∧ causes = 2) →
    Completes c s fun t =>
      t.frc = s.frc ∧ t.pending = s.pending ∧ t.out = s.out ∧ t.runtime = false ∧ t.stage = Stage.HOLD
      ∧ (∀ off, off ≠ R.BOOT_CAUSE → off ≠ R.BOOT_NEXT → t.rd off = regReset off)
      ∧ t.rd R.BOOT_CAUSE = s.rd R.BOOT_CAUSE ||| BitVec.ofNat 32 causes ∧ t.rd R.BOOT_NEXT = s.rd R.BOOT_NEXT
      ∧ (∀ p, p ≠ Part.frc → p ≠ Part.regs → p ≠ Part.boot → p ≠ Part.out → p ≠ Part.freeCtr → p ≠ Part.pwm → p.same State.reset t)
      ∧ t.pwm = { Pwm.reset with driven := s.pwm.driven }
      ∧ t.boot.flashOps = [] ∧ t.boot.rstAt = none ∧ t.boot.wdogAt = none ∧ (s.boot.burns = [] → t.boot.fuses = s.boot.fuses)
      ∧ ∀ a, (∀ o, (s.boot.flashOps.head?.orElse fun _ => s.boot.rec_) = some o → a < o.ofs ∨ o.ofs + o.data.length ≤ a) →
          t.flashByte a = s.flashByte a)
  ∧ (∀ (left : List Byte) (burned : Nat) (s : State), (∀ t, s.boot.rstAt = some t → s.frc < t) → Ignores (.deviceReset left burned) s)
  ∧ ∀ (left : List Byte) (burned : Nat) (s : State),
      (∀ t, s.boot.wdogAt = some t → s.allSto = false ∧ s.frc < t + 2000000000) → Ignores (.watchdogReset left burned) s)
  ∧ ((∀ s : State, s.runtime = true → Completes .watchdogExpiry s fun t => ∃ u : State, t = requestStop Req.watchdog allGroups u
      ∧ u.runtime = false ∧ u.boot.wdogAt = some s.frc ∧ ∀ o, o ≠ R.HST_STAT → u.rd o = s.rd o)
  ∧ (∀ s : State, s.runtime = false → Ignores .watchdogExpiry s)
  ∧ ∀ (perst : Bool) (left : List Byte) (burned : Nat) (link : Option PcieLink) (s : State),
      (perst = true → s.getB F.BOOT_CFG_PERST_FULL = false) → Completes (.linkReset perst left burned link) s fun t =>
        t.getB F.BOOT_CAUSE_LINK = true ∧ t.hst.linkUp = link.isSome ∧ t.hst.d3hot = false ∧ t.hst.vecDue = [] ∧ t.hst.vecSent = []
        ∧ (link = none → t.getB F.HST_STAT_BME = false) ∧ (∀ x, link = some x → t.getB F.HST_STAT_BME = x.bme)
        ∧ (∀ o, 0x8000 ≤ o → o < 0xA000 → t.rd o = regReset o)
        ∧ (∀ o, o ≠ R.HST_STAT → o ≠ R.BOOT_CAUSE → o < 0x8000 ∨ 0xA000 ≤ o → t.rd o = s.rd o)
        ∧ ∀ p, p ≠ Part.regs → p ≠ Part.hst → p.same s t)

/-- The stages of the boot: ROM with bad fuses fails with reason 1, with bad flash with 10, else SRAM is cleared, the fuses
are shown and LOAD begins (R667); LOAD takes the bank of BOOT_NEXT once, or the candidate with the higher sequence, and goes
to VERIFY (R670); VERIFY goes to SAFETY with the digests of the sections, or to the other bank, or, that tried too, fails with
the reason (R670, R671); SAFETY, with a good image of the safety firmware, gives NO_PARAM and the recorded check value, or
SAFE_FAULT with reason 6 where a channel's self-test fails, and without one is the end of that bank with reason 8 (R355, R673); then the runtime serves and BOOTED is posted (R668, R688).  In another stage each does
nothing. -/
def Obligations.BootGoesThroughItsStages : Prop :=
  (∀ (fusesOk flashOk vfuse : Bool) (s : State), s.stage = Stage.HOLD ∨ s.stage = Stage.ROM →
      Completes (.bootRomDone fusesOk flashOk vfuse none) s fun t =>
        t.mem = [] ∧ t.poison = [] ∧ t.getB F.BOOT_STAT_VFUSE_OK = vfuse
        ∧ (fusesOk = false → t.stage = Stage.FAIL ∧ t.getF F.BOOT_STAT_REASON = 1)
        ∧ (fusesOk = true → flashOk = false → t.stage = Stage.FAIL ∧ t.getF F.BOOT_STAT_REASON = 10)
        ∧ (fusesOk = true → flashOk = true → t.stage = Stage.LOAD)
        ∧ (fusesOk = true → t.getF F.BOOT_SVN_BOOT = s.boot.fuses.bootSvn % 256 ∧ t.getF F.BOOT_SVN_SAFE = s.boot.fuses.safeSvn % 256
            ∧ t.getF F.BOOT_UID_UID = s.boot.fuses.uid % 2 ^ 64 ∧ t.dUid = s.boot.fuses.uid % 2 ^ 64))
  ∧ (∀ (f g v : Bool) (l : Option PcieLink) (s : State), s.stage ≠ Stage.HOLD → s.stage ≠ Stage.ROM → Ignores (.bootRomDone f g v l) s)
  ∧ (∀ s : State, s.stage = Stage.LOAD → s.boot.second = false → s.candidate s.firstBank = true → Completes .bootLoadDone s fun t =>
      t.stage = Stage.VERIFY ∧ t.bank = s.firstBank ∧ t.getB F.BOOT_NEXT_ONCE = false ∧ t.boot.second = false)
  ∧ (∀ s : State, s.stage = Stage.LOAD → s.boot.second = false → s.candidate 0 = false → s.candidate 1 = false →
      Completes .bootLoadDone s fun t => t.stage = Stage.FAIL ∧ t.bank = 1 - s.firstBank)
  ∧ (∀ s : State, s.stage ≠ Stage.LOAD → Ignores .bootLoadDone s)
  ∧ (∀ s : State, s.stage = Stage.VERIFY →
      (imageReason s.bank s = 0 → Completes .bootVerifyDone s fun t =>
        t.stage = Stage.SAFETY ∧ t.boot.digests = [1, 2, 3].map fun k => (s.sectionOf s.bank k).digest)
      ∧ (imageReason s.bank s ≠ 0 → s.boot.second = false → Completes .bootVerifyDone s fun t =>
        t.stage = Stage.LOAD ∧ t.bank = 1 - s.bank ∧ t.boot.second = true ∧ t.boot.first = imageReason s.bank s)
      ∧ (imageReason s.bank s ≠ 0 → s.boot.second = true → Completes .bootVerifyDone s fun t =>
        t.stage = Stage.FAIL ∧ t.getF F.BOOT_STAT_REASON = imageReason s.bank s))
  ∧ (∀ s : State, s.stage ≠ Stage.VERIFY → Ignores .bootVerifyDone s)
  ∧ (∀ (sp felt : Bool) (s : State), s.stage = Stage.SAFETY →
      Completes (.bootSafetyDone sp felt) s fun t =>
        (s.safeImageOk s.bank = true → sp = true → felt = true →
          t.stage = Stage.RUNTIME ∧ t.safSt = SSt.NO_PARAM ∧ t.getF F.SAF_CHK_CONF_CHK = s.recordChk % 2 ^ 32)
        ∧ (s.safeImageOk s.bank = true → sp = false ∨ felt = false → t.stage = Stage.FAIL ∧ t.getF F.BOOT_STAT_REASON = 9
            ∧ t.safSt = SSt.SAFE_FAULT ∧ t.getF F.SAF_FAULT_REASON = 6 ∧ t.getF F.SAF_FAULT_CH = b2n sp)
        ∧ (s.safeImageOk s.bank = false → s.boot.second = false → t.stage = Stage.LOAD ∧ t.bank = 1 - s.bank ∧ t.boot.second = true
            ∧ t.boot.first = 8)
        ∧ (s.safeImageOk s.bank = false → s.boot.second = true → t.stage = Stage.FAIL ∧ t.getF F.BOOT_STAT_REASON = 8))
  ∧ (∀ (sp felt : Bool) (s : State), s.stage ≠ Stage.SAFETY → Ignores (.bootSafetyDone sp felt) s)
  ∧ (∀ s : State, s.stage = Stage.RUNTIME → s.runtime = false → s.boot.wdogAt = none → Completes (.booted none) s fun t =>
      t.runtime = true ∧ t.getB F.CEN_PROG_STAT_VALID 0 = true ∧ t.getB F.BOOT_STAT_FALLBACK = s.boot.second
      ∧ ∃ e ∈ t.hst.events, e.type = 0x0E01 ∧ e.code = if s.boot.second then 0x0E09 else EC.OK)
  ∧ ∀ (l : Option PcieLink) (s : State), s.stage ≠ Stage.RUNTIME ∨ s.runtime = true → Ignores (.booted l) s

/-- The end of a flash write: its bytes stand in flash, a whole sector before them erased where it began on one, every other
byte stays, and the command completes; a device error completes with 0x0E07 and leaves every byte outside the range (R678).
A recovery write does the same without a command, and an error shows in ERR (R682).  FLASH_VERIFY completes with what it finds
of the other bank and changes no flash (R679).  Without a write nothing happens.
Fuses only burn: after a burn, read back or cut short, no counter is lower and no revoked key is back, keys, seed and
UIDs stay; read back, the counter has what was asked, or the key is revoked, and the command completes; cut short it completes
with 0x0E08 (R680, R681).  The attestation, its report latched, goes to host memory, all of it signed, and completes
(R677). -/
def Obligations.FlashAndFuses : Prop :=
  ((∀ (ok : Bool) (left : List Byte) (o : FlashOp) (os : List FlashOp) (s : State), s.boot.flashOps = o :: os →
    Completes (.flashWriteDone ok left) s fun t =>
      t.boot.flashOps = os ∧ t.regs = s.regs
      ∧ (ok = true → (∀ i, i < o.data.length → t.flashByte (o.ofs + i) = o.data.getD i 0)
          ∧ ∀ a, a < o.ofs ∨ o.ofs + o.data.length ≤ a →
            t.flashByte a = if o.ofs % 65536 = 0 ∧ a / 65536 = o.ofs / 65536 then 0xFF else s.flashByte a)
      ∧ (ok = false → ∀ a, a < o.ofs ∨ o.ofs + o.data.length ≤ a → t.flashByte a = s.flashByte a)
      ∧ ∀ c ∈ s.hst.comps, c.key = some o.key →
          ({ c with key := none, code := if ok then EC.OK else 0x0E07, d0 := 0, d1 := 0 } : Comp) ∈ t.hst.comps)
  ∧ (∀ (ok : Bool) (left : List Byte) (o : FlashOp) (s : State), s.boot.rec_ = some o → Completes (.recoveryWriteDone ok left) s fun t =>
      t.boot.rec_ = none ∧ t.getB F.BOOT_REC_STAT_BUSY = false ∧ (ok = false → t.getB F.BOOT_REC_STAT_ERR = true)
      ∧ (ok = true → (∀ i, i < o.data.length → t.flashByte (o.ofs + i) = o.data.getD i 0)
          ∧ t.getB F.BOOT_REC_STAT_ERR = s.getB F.BOOT_REC_STAT_ERR)
      ∧ ∀ a, a / 65536 ≠ o.ofs / 65536 → a < o.ofs ∨ o.ofs + o.data.length ≤ a → t.flashByte a = s.flashByte a)
  ∧ (∀ (h : DescHdr) (s : State), (formCode (descBlock h 0x0E 3 (bootArgs 0 0 0 [])) s).1 = EC.OK →
      Completes (.flashVerify h) s fun t =>
        (∃ e, t.hst.comps = s.hst.comps ++ [e] ∧ e.sq = h.sq ∧ e.code = (effectCode (descBlock h 0x0E 3 (bootArgs 0 0 0 [])) s).1)
        ∧ t.boot.flash = s.boot.flash)
  ∧ ∀ (ok : Bool) (left : List Byte) (s : State), (s.boot.flashOps = [] → Ignores (.flashWriteDone ok left) s)
      ∧ (s.boot.rec_ = none → Ignores (.recoveryWriteDone ok left) s))
  ∧ ((∀ (ok : Bool) (n : Nat) (x : Burn) (xs : List Burn) (s : State), s.boot.burns = x :: xs → Completes (.fuseBurnDone ok n) s fun t =>
    let f := s.boot.fuses
    let g := t.boot.fuses
    t.boot.burns = xs ∧ f.bootSvn ≤ g.bootSvn ∧ f.safeSvn ≤ g.safeSvn
    ∧ (∀ i, bit f.bootRev i = true → bit g.bootRev i = true) ∧ (∀ i, bit f.safeRev i = true → bit g.safeRev i = true)
    ∧ g.bootKeys = f.bootKeys ∧ g.safeKeys = f.safeKeys ∧ g.uid = f.uid ∧ g.seed = f.seed ∧ t.boot.flash = s.boot.flash
    ∧ (ok = true → x.revoke = false → x.dom = 0 → x.val ≤ f.bootSvn + 255 → x.val ≤ g.bootSvn)
    ∧ (ok = true → x.revoke = true → x.dom = 0 → bit g.bootRev x.val = true)
    ∧ (ok = true → x.revoke = true → x.dom = 1 → bit g.safeRev x.val = true)
    ∧ ∀ c ∈ s.hst.comps, c.key = some x.key →
        ({ c with key := none, code := if ok then EC.OK else 0x0E08, d0 := 0, d1 := 0 } : Comp) ∈ t.hst.comps)
  ∧ (∀ (ok : Bool) (n : Nat) (s : State), s.boot.burns = [] → Ignores (.fuseBurnDone ok n) s)
  ∧ (∀ (nonce body : List Byte) (h : Nat) (s : State), s.boot.attest = some { nonce := nonce, host := h, body := some body } →
      Completes .attestDone s fun t => t.boot.attest = none ∧ t.regs = s.regs
        ∧ (∃ sig : List Byte, sig.length = 29792 ∧ t.out = s.out ++ [.dmaBytes h (body ++ sig)])
        ∧ ∀ c ∈ s.hst.comps, c.key = some attestKey → ({ c with key := none, code := EC.OK, d0 := 0, d1 := 0 } : Comp) ∈ t.hst.comps)
  ∧ ∀ s : State, (∀ a, s.boot.attest = some a → a.body = none) → Ignores .attestDone s)

/-- A temperature sample, once a millisecond, enters every level whose entry value two samples in a row have reached, and
leaves a level only after a hundred at or below its leave value, from the highest down; level 1 sheds acquisition, level 3
separation (R707 to R709).  Level 5 stops every group, and its end releases that stop (R711).  Before its millisecond a
sample is nothing. -/
def Obligations.ThermalLevelsShedAndStop : Prop :=
  (∀ (readings : List (Option Int)) (s : State), s.therm.next ≤ s.frc → Completes (.thermalSample readings) s fun t =>
    let x := thermLevels (thermCount (junction readings) s.therm)
    (∃ u : State, u.therm.levels = x.levels ∧ s.frc < u.therm.next ∧ u.therm.next ≤ s.frc + 1000000
      ∧ u.getB F.ACQ_G_STAT_SHED = levelIn x 1 ∧ u.getB F.SEP_STAT_SHED_TH = levelIn x 3
      ∧ t = (if levelIn x 5 = true ∧ levelIn s.therm 5 = false then requestStop Req.thermal allGroups u
          else if levelIn s.therm 5 = true ∧ levelIn x 5 = false then releaseStop Req.thermal u else u)))
  ∧ (∀ (readings : List (Option Int)) (s : State), s.frc < s.therm.next → Ignores (.thermalSample readings) s)
  ∧ ∀ (tj : Int) (l : Nat) (x : Therm), 1 ≤ l → l ≤ 5 →
      let y := thermLevels (thermCount tj x)
      (thermEntry l ≤ tj → 1 ≤ mapGet (fun _ => 0) x.up l → levelIn y l = true)
      ∧ (levelIn x l = false → levelIn y l = true → thermEntry l ≤ tj ∧ 1 ≤ mapGet (fun _ => 0) x.up l)
      ∧ (levelIn x l = true → levelIn y l = false → tj ≤ thermLeave l ∧ 99 ≤ mapGet (fun _ => 0) x.down l ∧ ∀ k, l < k → k ≤ 5 → levelIn y k = false)
end

