-- ==== Sys2Proof/Laws/Maps.lean ====
section
/-! SUPPORT. The sparse maps: what reading, writing and deleting a key do, the canonical form, and its uniqueness. -/

namespace Sys2Proof.Machine

variable {α : Type}

theorem mapGet_mapIns (d : Nat → α) (m : List (Nat × α)) (k j : Nat) (v : α) :
    mapGet d (mapIns m k v) j = if j = k then v else mapGet d m j := by
  induction m with
  | nil => simp only [mapIns, mapGet, eq_comm]
  | cons e m ih =>
    obtain ⟨i, w⟩ := e
    simp only [mapIns]
    split
    · simp only [mapGet, eq_comm]
    · split
      · subst_vars; simp only [mapGet, eq_comm]; split <;> rfl
      · simp only [mapGet, ih]; split
        · subst_vars; simp_all
        · rfl

theorem mapGet_mapDel (d : Nat → α) (m : List (Nat × α)) (k j : Nat) :
    mapGet d (mapDel m k) j = if j = k then d k else mapGet d m j := by
  induction m with
  | nil => simp only [mapDel, mapGet]; split <;> simp_all
  | cons e m ih =>
    obtain ⟨i, w⟩ := e
    simp only [mapDel]
    split
    · subst_vars; rw [ih]; split
      · rfl
      · simp only [mapGet]; split
        · subst_vars; contradiction
        · rfl
    · simp only [mapGet, ih]; split
      · subst_vars; simp_all
      · rfl

/-- Reading a key after a write. -/
theorem mapGet_mapSet [DecidableEq α] (d : Nat → α) (m : List (Nat × α)) (k j : Nat) (v : α) :
    mapGet d (mapSet d m k v) j = if j = k then v else mapGet d m j := by
  simp only [mapSet]
  split
  · subst_vars; exact mapGet_mapDel d m k j
  · exact mapGet_mapIns d m k j v

@[simp] theorem mapGet_mapSet_same [DecidableEq α] (d : Nat → α) (m : List (Nat × α)) (k : Nat) (v : α) :
    mapGet d (mapSet d m k v) k = v := by simp [mapGet_mapSet]

theorem mapGet_mapSet_ne [DecidableEq α] (d : Nat → α) (m : List (Nat × α)) {k j : Nat} (v : α) (h : j ≠ k) :
    mapGet d (mapSet d m k v) j = mapGet d m j := by simp [mapGet_mapSet, h]

/-! ### The canonical form -/

theorem keysAbove_mono {m : List (Nat × α)} {a b : Nat} (hab : a ≤ b) (h : keysAbove m b = true) : keysAbove m a = true := by
  induction m with
  | nil => rfl
  | cons e m ih =>
    simp only [keysAbove, Bool.and_eq_true, decide_eq_true_eq] at h ⊢
    exact ⟨by omega, ih h.2⟩

theorem mapGet_of_keysAbove (d : Nat → α) {m : List (Nat × α)} {n k : Nat} (h : keysAbove m n = true) (hk : k ≤ n) :
    mapGet d m k = d k := by
  induction m with
  | nil => rfl
  | cons e m ih =>
    simp only [keysAbove, Bool.and_eq_true, decide_eq_true_eq] at h
    simp only [mapGet]
    rw [if_neg (by omega), ih h.2]

theorem keysAbove_mapDel {m : List (Nat × α)} {n k : Nat} (h : keysAbove m n = true) : keysAbove (mapDel m k) n = true := by
  induction m with
  | nil => rfl
  | cons e m ih =>
    simp only [keysAbove, Bool.and_eq_true] at h
    simp only [mapDel]
    split
    · exact ih h.2
    · simp only [keysAbove, Bool.and_eq_true]; exact ⟨h.1, ih h.2⟩

theorem keysAbove_mapIns {m : List (Nat × α)} {n k : Nat} {v : α} (h : keysAbove m n = true) (hk : n < k) :
    keysAbove (mapIns m k v) n = true := by
  induction m with
  | nil => simp [mapIns, keysAbove, hk]
  | cons e m ih =>
    simp only [mapIns]
    have h2 := h
    simp only [keysAbove, Bool.and_eq_true, decide_eq_true_eq] at h
    split
    · simp only [keysAbove, Bool.and_eq_true, decide_eq_true_eq]; exact ⟨hk, h⟩
    · split
      · simp only [keysAbove, Bool.and_eq_true, decide_eq_true_eq]; exact ⟨hk, h.2⟩
      · simp only [keysAbove, Bool.and_eq_true, decide_eq_true_eq]; exact ⟨h.1, ih h.2⟩

theorem mapWf_mapDel [DecidableEq α] (d : Nat → α) {m : List (Nat × α)} (k : Nat) (h : mapWf d m = true) :
    mapWf d (mapDel m k) = true := by
  induction m with
  | nil => rfl
  | cons e m ih =>
    simp only [mapWf, Bool.and_eq_true] at h
    simp only [mapDel]
    split
    · exact ih h.2
    · simp only [mapWf, Bool.and_eq_true]; exact ⟨⟨h.1.1, keysAbove_mapDel h.1.2⟩, ih h.2⟩

theorem mapWf_mapIns [DecidableEq α] (d : Nat → α) {m : List (Nat × α)} {k : Nat} {v : α} (h : mapWf d m = true)
    (hv : v ≠ d k) : mapWf d (mapIns m k v) = true := by
  induction m with
  | nil => simp [mapIns, mapWf, keysAbove, hv]
  | cons e m ih =>
    obtain ⟨j, w⟩ := e
    have hw := h
    simp only [mapWf, Bool.and_eq_true, decide_eq_true_eq] at h
    simp only [mapIns]
    split
    · rename_i hk
      simp only [mapWf, keysAbove, Bool.and_eq_true, decide_eq_true_eq]
      exact ⟨⟨hv, hk, keysAbove_mono (Nat.le_of_lt hk) h.1.2⟩, h⟩
    · split
      · subst_vars
        simp only [mapWf, Bool.and_eq_true, decide_eq_true_eq]; exact ⟨⟨hv, h.1.2⟩, h.2⟩
      · simp only [mapWf, Bool.and_eq_true, decide_eq_true_eq]
        exact ⟨⟨h.1.1, keysAbove_mapIns h.1.2 (by omega)⟩, ih h.2⟩

/-- A write keeps the canonical form. -/
theorem mapWf_mapSet [DecidableEq α] (d : Nat → α) {m : List (Nat × α)} (k : Nat) (v : α) (h : mapWf d m = true) :
    mapWf d (mapSet d m k v) = true := by
  simp only [mapSet]
  split
  · exact mapWf_mapDel d k h
  · exact mapWf_mapIns d h ‹_›

theorem keysAbove_filter {m : List (Nat × α)} {n : Nat} (p : Nat × α → Bool) (h : keysAbove m n = true) :
    keysAbove (m.filter p) n = true := by
  induction m with
  | nil => rfl
  | cons e m ih =>
    simp only [keysAbove, Bool.and_eq_true] at h
    simp only [List.filter]
    split
    · simp only [keysAbove, Bool.and_eq_true]; exact ⟨h.1, ih h.2⟩
    · exact ih h.2

/-- Leaving entries out keeps the canonical form. -/
theorem mapWf_filter [DecidableEq α] (d : Nat → α) {m : List (Nat × α)} (p : Nat × α → Bool) (h : mapWf d m = true) :
    mapWf d (m.filter p) = true := by
  induction m with
  | nil => rfl
  | cons e m ih =>
    simp only [mapWf, Bool.and_eq_true] at h
    simp only [List.filter]
    split
    · simp only [mapWf, Bool.and_eq_true]; exact ⟨⟨h.1.1, keysAbove_filter p h.1.2⟩, ih h.2⟩
    · exact ih h.2

/-! ### SRAM bytes -/

theorem readByte_writeByte (m : List Host.Cell) (a b : Nat) (v : Byte) :
    readByte (writeByte m a v) b = if b = a then v else readByte m b := mapGet_mapSet ramDefault m a b v

theorem writeByte_wf {m : List Host.Cell} (a : Nat) (v : Byte) (h : Memory.wf m = true) : Memory.wf (writeByte m a v) = true :=
  mapWf_mapSet ramDefault a v h

theorem writeBytes_wf {m : List Host.Cell} (n a v : Nat) (h : Memory.wf m = true) : Memory.wf (writeBytes m a v n) = true := by
  induction n generalizing m a v with
  | zero => exact h
  | succ n ih => exact ih (a + 1) (v / 256) (writeByte_wf a _ h)

/-- A byte outside the stored ones reads as before. -/
theorem readByte_writeBytes_out (m : List Host.Cell) (n a v b : Nat) (h : b < a ∨ a + n ≤ b) :
    readByte (writeBytes m a v n) b = readByte m b := by
  induction n generalizing m a v with
  | zero => rfl
  | succ n ih =>
    simp only [writeBytes]
    rw [ih _ (a + 1) _ (by omega), readByte_writeByte, if_neg (by omega)]

theorem readBytes_writeByte_lt (m : List Host.Cell) (n a b : Nat) (v : Byte) (h : b < a) :
    readBytes (writeByte m b v) a n = readBytes m a n := by
  induction n generalizing a with
  | zero => rfl
  | succ n ih => simp only [readBytes]; rw [ih (a + 1) (by omega), readByte_writeByte, if_neg (by omega)]

theorem readBytes_congr {m m' : List Host.Cell} (n a : Nat) (h : ∀ b, a ≤ b → b < a + n → readByte m' b = readByte m b) :
    readBytes m' a n = readBytes m a n := by
  induction n generalizing a with
  | zero => rfl
  | succ n ih =>
    simp only [readBytes]
    rw [h a (by omega) (by omega), ih (a + 1) fun b h1 h2 => h b (by omega) (by omega)]

/-- Stored bytes read back. -/
theorem readBytes_writeBytes (m : List Host.Cell) (n a v : Nat) : readBytes (writeBytes m a v n) a n = v % 256 ^ n := by
  induction n generalizing m a v with
  | zero => simp only [readBytes, Nat.pow_zero, Nat.mod_one]
  | succ n ih =>
    simp only [readBytes, writeBytes]
    rw [ih, readByte_writeBytes_out _ _ _ _ _ (by omega), readByte_writeByte, if_pos rfl, BitVec.toNat_ofNat,
      Nat.pow_succ' (n := n), Nat.mod_mul]

end Sys2Proof.Machine
end

