-- ==== Sys2Proof/Laws/Regs.lean ====
section
/-! SUPPORT. Registers, their fields and the SRAM words: reading after writing, and what a write leaves alone. -/

namespace Sys2Proof.Machine

variable {s : State}

/-! ### Bits of a number -/

theorem putBits_lt {n lo w v m : Nat} (hn : n < 2 ^ m) (h : lo + w ≤ m) : putBits n lo w v < 2 ^ m := by
  unfold putBits
  have h1 : n % 2 ^ lo < 2 ^ lo := Nat.mod_lt _ (Nat.two_pow_pos lo)
  have h2 : v % 2 ^ w + 1 ≤ 2 ^ w := Nat.mod_lt _ (Nat.two_pow_pos w)
  have h3 : n / 2 ^ (lo + w) + 1 ≤ 2 ^ (m - (lo + w)) := by
    rw [Nat.add_one_le_iff, Nat.div_lt_iff_lt_mul (Nat.two_pow_pos _), ← Nat.pow_add]
    simpa [Nat.sub_add_cancel h] using hn
  have h4 := Nat.mul_le_mul_right (2 ^ lo) h2
  have h5 := Nat.mul_le_mul_right (2 ^ (lo + w)) h3
  rw [← Nat.pow_add, Nat.sub_add_cancel h] at h5
  rw [← Nat.pow_add] at h4
  have e : w + lo = lo + w := Nat.add_comm _ _
  rw [e] at h4
  rw [Nat.add_mul] at h4 h5
  omega

theorem putBits_eq (n lo w v : Nat) :
    putBits n lo w v = n % 2 ^ lo + 2 ^ lo * (v % 2 ^ w + 2 ^ w * (n / 2 ^ (lo + w))) := by
  unfold putBits
  rw [Nat.mul_add, ← Nat.mul_assoc, ← Nat.pow_add, Nat.mul_comm (v % 2 ^ w), Nat.mul_comm (n / 2 ^ (lo + w)), Nat.add_assoc]

/-- The bits put in. -/
@[simp] theorem bits_putBits (n lo w v : Nat) : bits (putBits n lo w v) lo w = v % 2 ^ w := by
  rw [putBits_eq]
  unfold bits
  rw [Nat.add_mul_div_left _ _ (Nat.two_pow_pos lo), Nat.div_eq_of_lt (Nat.mod_lt _ (Nat.two_pow_pos lo)), Nat.zero_add,
    Nat.add_mul_mod_self_left, Nat.mod_mod]

/-- Bits below those put in. -/
theorem bits_putBits_below {n lo w v l u : Nat} (h : l + u ≤ lo) : bits (putBits n lo w v) l u = bits n l u := by
  rw [putBits_eq]
  unfold bits
  obtain ⟨k, rfl⟩ : ∃ k, lo = l + u + k := ⟨lo - (l + u), by omega⟩
  generalize v % 2 ^ w + 2 ^ w * (n / 2 ^ (l + u + k + w)) = q
  have e : n % 2 ^ (l + u + k) + 2 ^ (l + u + k) * q = n % 2 ^ (l + u + k) + 2 ^ l * (2 ^ u * (2 ^ k * q)) := by
    rw [← Nat.mul_assoc, ← Nat.mul_assoc, ← Nat.pow_add, ← Nat.pow_add]
  rw [e, Nat.add_mul_div_left _ _ (Nat.two_pow_pos l), Nat.add_mul_mod_self_left]
  rw [show l + u + k = l + (u + k) by omega, Nat.pow_add, Nat.mod_mul_right_div_self, Nat.pow_add, Nat.mod_mul_right_mod]

/-- Bits above those put in. -/
theorem bits_putBits_above {n lo w v l u : Nat} (h : lo + w ≤ l) : bits (putBits n lo w v) l u = bits n l u := by
  obtain ⟨k, rfl⟩ : ∃ k, l = lo + w + k := ⟨l - (lo + w), by omega⟩
  rw [putBits_eq]
  unfold bits
  congr 1
  rw [Nat.pow_add _ (lo + w), ← Nat.div_div_eq_div_mul, ← Nat.div_div_eq_div_mul]
  congr 1
  rw [Nat.pow_add, ← Nat.div_div_eq_div_mul, Nat.add_mul_div_left _ _ (Nat.two_pow_pos lo),
    Nat.div_eq_of_lt (Nat.mod_lt _ (Nat.two_pow_pos lo)), Nat.zero_add, Nat.add_mul_div_left _ _ (Nat.two_pow_pos w),
    Nat.div_eq_of_lt (Nat.mod_lt _ (Nat.two_pow_pos w)), Nat.zero_add]

/-! ### Registers -/

theorem State.rd_put (s : State) (a b m : Nat) (v : Word) : (s.put a v m).rd b = if b = a then v else s.rd b :=
  mapGet_mapSet regReset s.regs a b v

theorem State.rd_wr (s : State) (a b : Nat) (v : Word) : (s.wr a v).rd b = if b = a then v else s.rd b := State.rd_put s a b _ v

@[simp] theorem State.rd_wr_same (s : State) (a : Nat) (v : Word) : (s.wr a v).rd a = v := by simp [State.rd_wr]

theorem State.rd_wrN_out (s : State) (off v m n b : Nat) (h : b < off ∨ off + 4 * n ≤ b) : (s.wrN off v m n).rd b = s.rd b := by
  induction n generalizing s off v m with
  | zero => rfl
  | succ n ih => simp only [State.wrN]; rw [ih _ _ _ _ (by omega), State.rd_put, if_neg (by omega)]

theorem State.rdN_congr {s t : State} (off n : Nat) (h : ∀ b, off ≤ b → b < off + 4 * n → t.rd b = s.rd b) :
    t.rdN off n = s.rdN off n := by
  induction n generalizing off with
  | zero => rfl
  | succ n ih =>
    simp only [State.rdN]
    rw [h off (by omega) (by omega), ih (off + 4) fun b h1 h2 => h b (by omega) (by omega)]

theorem State.rdN_lt (s : State) (off n : Nat) : s.rdN off n < 2 ^ (32 * n) := by
  induction n generalizing off with
  | zero => simp [State.rdN]
  | succ n ih =>
    simp only [State.rdN]
    have h1 := ih (off + 4)
    have h2 := (s.rd off).isLt
    have e : 2 ^ (32 * (n + 1)) = 2 ^ 32 * 2 ^ (32 * n) := by rw [← Nat.pow_add]; congr 1; omega
    rw [e]
    have h3 := Nat.mul_le_mul_left (2 ^ 32) (Nat.succ_le_of_lt h1)
    rw [Nat.mul_succ] at h3
    omega

theorem State.rdN_wrN (s : State) (off v m n : Nat) : (s.wrN off v m n).rdN off n = v % 2 ^ (32 * n) := by
  induction n generalizing s off v m with
  | zero => simp [State.rdN, Nat.mod_one]
  | succ n ih =>
    simp only [State.rdN, State.wrN]
    rw [ih, State.rd_wrN_out _ _ _ _ _ _ (by omega), State.rd_put, if_pos rfl, BitVec.toNat_ofNat,
      show 32 * (n + 1) = 32 + 32 * n by omega, Nat.pow_add, Nat.mod_mul]

theorem Fld.fits (f : Fld) : f.lo + f.width ≤ 32 * f.parts := by unfold Fld.parts; omega

/-! ### Fields -/

/-- A field read back after it is set. -/
@[simp] theorem State.getF_setF (s : State) (f : Fld) (v i j : Nat) : (s.setF f v i j).getF f i j = v % 2 ^ f.width := by
  unfold State.getF State.setF
  rw [State.rdN_wrN, Nat.mod_eq_of_lt (putBits_lt (State.rdN_lt s _ _) f.fits), bits_putBits]

/-- A register that a field does not lie in. -/
theorem State.rd_setF_out (s : State) (f : Fld) (v i j b : Nat) (h : b < f.off i j ∨ f.off i j + 4 * f.parts ≤ b) :
    (s.setF f v i j).rd b = s.rd b := State.rd_wrN_out _ _ _ _ _ _ h

/-- A field of other registers. -/
theorem State.getF_setF_out (s : State) (f g : Fld) (v i j k l : Nat)
    (h : g.off k l + 4 * g.parts ≤ f.off i j ∨ f.off i j + 4 * f.parts ≤ g.off k l) :
    (s.setF f v i j).getF g k l = s.getF g k l := by
  unfold State.getF
  rw [State.rdN_congr (s := s)]
  exact fun b h1 h2 => State.rd_setF_out s f v i j b (by omega)

/-- Another field of the same registers. -/
theorem State.getF_setF_beside (s : State) (f g : Fld) (v i j k l : Nat) (ho : g.off k l = f.off i j) (hp : g.parts = f.parts)
    (h : g.lo + g.width ≤ f.lo ∨ f.lo + f.width ≤ g.lo) : (s.setF f v i j).getF g k l = s.getF g k l := by
  unfold State.getF State.setF
  rw [ho, hp, State.rdN_wrN, Nat.mod_eq_of_lt (putBits_lt (State.rdN_lt s _ _) f.fits)]
  rcases h with h | h
  · exact bits_putBits_below h
  · exact bits_putBits_above h

/-! ### SRAM words -/

/-- A word read back after it is written. -/
@[simp] theorem State.readWord_writeWord (s : State) (w : Nat) (v : W72) : (s.writeWord w v).readWord w = v := by
  show BitVec.ofNat 72 (readBytes (writeBytes s.mem (9 * w) v.toNat 9) (9 * w) 9) = v
  rw [readBytes_writeBytes]
  apply BitVec.eq_of_toNat_eq
  have := v.isLt
  rw [BitVec.toNat_ofNat, show (256 : Nat) ^ 9 = 2 ^ 72 by decide, Nat.mod_mod, Nat.mod_eq_of_lt this]

/-- Another word reads as before. -/
theorem State.readWord_writeWord_ne (s : State) (v : W72) {w u : Nat} (h : u ≠ w) : (s.writeWord w v).readWord u = s.readWord u := by
  have e : readBytes (writeBytes s.mem (9 * w) v.toNat 9) (9 * u) 9 = readBytes s.mem (9 * u) 9 :=
    readBytes_congr 9 (9 * u) fun b h1 h2 => readByte_writeBytes_out _ _ _ _ _ (by omega)
  exact congrArg (BitVec.ofNat 72) e

/-! ### Table words -/

theorem State.tw_setTw (s : State) (table rec word t r w : Nat) (v : W72) :
    (s.setTw table rec word v).tw t r w = if tabKey t r w = tabKey table rec word then v.toNat else s.tw t r w := by
  unfold State.tw State.setTw
  rw [mapGet_mapSet]
  split <;> rfl

end Sys2Proof.Machine
end

