-- ==== Sys2Proof/Laws/State.lean ====
section
/-! SUPPORT. The fields of the state after each plain update: one lemma per field and update, so that no proof unfolds a record update. -/

namespace Sys2Proof.Machine

variable (s : State)

@[simp] theorem State.withTbs_tbs (f : Tbs → Tbs) : (s.withTbs f).tbs = f s.tbs := rfl
@[simp] theorem State.withTbs_pending (f : Tbs → Tbs) : (s.withTbs f).pending = s.pending := rfl
@[simp] theorem State.withTbs_frc (f : Tbs → Tbs) : (s.withTbs f).frc = s.frc := rfl
@[simp] theorem State.withTbs_regs (f : Tbs → Tbs) : (s.withTbs f).regs = s.regs := rfl
@[simp] theorem State.withTbs_latch (f : Tbs → Tbs) : (s.withTbs f).latch = s.latch := rfl
@[simp] theorem State.withTbs_upd (f : Tbs → Tbs) : (s.withTbs f).upd = s.upd := rfl
@[simp] theorem State.withTbs_mem (f : Tbs → Tbs) : (s.withTbs f).mem = s.mem := rfl
@[simp] theorem State.withTbs_poison (f : Tbs → Tbs) : (s.withTbs f).poison = s.poison := rfl
@[simp] theorem State.withTbs_scrub (f : Tbs → Tbs) : (s.withTbs f).scrub = s.scrub := rfl
@[simp] theorem State.withTbs_tabs (f : Tbs → Tbs) : (s.withTbs f).tabs = s.tabs := rfl
@[simp] theorem State.withTbs_hst (f : Tbs → Tbs) : (s.withTbs f).hst = s.hst := rfl
@[simp] theorem State.withTbs_sch (f : Tbs → Tbs) : (s.withTbs f).sch = s.sch := rfl
@[simp] theorem State.withTbs_cen (f : Tbs → Tbs) : (s.withTbs f).cen = s.cen := rfl
@[simp] theorem State.withTbs_dp (f : Tbs → Tbs) : (s.withTbs f).dp = s.dp := rfl
@[simp] theorem State.withTbs_trj (f : Tbs → Tbs) : (s.withTbs f).trj = s.trj := rfl
@[simp] theorem State.withTbs_sep (f : Tbs → Tbs) : (s.withTbs f).sep = s.sep := rfl
@[simp] theorem State.withTbs_saf (f : Tbs → Tbs) : (s.withTbs f).saf = s.saf := rfl
@[simp] theorem State.withTbs_fbk (f : Tbs → Tbs) : (s.withTbs f).fbk = s.fbk := rfl
@[simp] theorem State.withTbs_pwm (f : Tbs → Tbs) : (s.withTbs f).pwm = s.pwm := rfl
@[simp] theorem State.withTbs_adc (f : Tbs → Tbs) : (s.withTbs f).adc = s.adc := rfl
@[simp] theorem State.withTbs_twl (f : Tbs → Tbs) : (s.withTbs f).twl = s.twl := rfl
@[simp] theorem State.withTbs_links (f : Tbs → Tbs) : (s.withTbs f).links = s.links := rfl
@[simp] theorem State.withTbs_dmk (f : Tbs → Tbs) : (s.withTbs f).dmk = s.dmk := rfl
@[simp] theorem State.withTbs_lnd (f : Tbs → Tbs) : (s.withTbs f).lnd = s.lnd := rfl
@[simp] theorem State.withTbs_acq (f : Tbs → Tbs) : (s.withTbs f).acq = s.acq := rfl
@[simp] theorem State.withTbs_boot (f : Tbs → Tbs) : (s.withTbs f).boot = s.boot := rfl
@[simp] theorem State.withTbs_therm (f : Tbs → Tbs) : (s.withTbs f).therm = s.therm := rfl
@[simp] theorem State.withTbs_out (f : Tbs → Tbs) : (s.withTbs f).out = s.out := rfl
@[simp] theorem State.withTbs_freeCtr (f : Tbs → Tbs) : (s.withTbs f).freeCtr = s.freeCtr := rfl
@[simp] theorem State.withTbs_rd (f : Tbs → Tbs) (off : Nat) : (s.withTbs f).rd off = s.rd off := rfl

@[simp] theorem State.withHst_hst (f : Hst → Hst) : (s.withHst f).hst = f s.hst := rfl
@[simp] theorem State.withHst_pending (f : Hst → Hst) : (s.withHst f).pending = s.pending := rfl
@[simp] theorem State.withHst_frc (f : Hst → Hst) : (s.withHst f).frc = s.frc := rfl
@[simp] theorem State.withHst_regs (f : Hst → Hst) : (s.withHst f).regs = s.regs := rfl
@[simp] theorem State.withHst_latch (f : Hst → Hst) : (s.withHst f).latch = s.latch := rfl
@[simp] theorem State.withHst_upd (f : Hst → Hst) : (s.withHst f).upd = s.upd := rfl
@[simp] theorem State.withHst_mem (f : Hst → Hst) : (s.withHst f).mem = s.mem := rfl
@[simp] theorem State.withHst_poison (f : Hst → Hst) : (s.withHst f).poison = s.poison := rfl
@[simp] theorem State.withHst_scrub (f : Hst → Hst) : (s.withHst f).scrub = s.scrub := rfl
@[simp] theorem State.withHst_tabs (f : Hst → Hst) : (s.withHst f).tabs = s.tabs := rfl
@[simp] theorem State.withHst_tbs (f : Hst → Hst) : (s.withHst f).tbs = s.tbs := rfl
@[simp] theorem State.withHst_sch (f : Hst → Hst) : (s.withHst f).sch = s.sch := rfl
@[simp] theorem State.withHst_cen (f : Hst → Hst) : (s.withHst f).cen = s.cen := rfl
@[simp] theorem State.withHst_dp (f : Hst → Hst) : (s.withHst f).dp = s.dp := rfl
@[simp] theorem State.withHst_trj (f : Hst → Hst) : (s.withHst f).trj = s.trj := rfl
@[simp] theorem State.withHst_sep (f : Hst → Hst) : (s.withHst f).sep = s.sep := rfl
@[simp] theorem State.withHst_saf (f : Hst → Hst) : (s.withHst f).saf = s.saf := rfl
@[simp] theorem State.withHst_fbk (f : Hst → Hst) : (s.withHst f).fbk = s.fbk := rfl
@[simp] theorem State.withHst_pwm (f : Hst → Hst) : (s.withHst f).pwm = s.pwm := rfl
@[simp] theorem State.withHst_adc (f : Hst → Hst) : (s.withHst f).adc = s.adc := rfl
@[simp] theorem State.withHst_twl (f : Hst → Hst) : (s.withHst f).twl = s.twl := rfl
@[simp] theorem State.withHst_links (f : Hst → Hst) : (s.withHst f).links = s.links := rfl
@[simp] theorem State.withHst_dmk (f : Hst → Hst) : (s.withHst f).dmk = s.dmk := rfl
@[simp] theorem State.withHst_lnd (f : Hst → Hst) : (s.withHst f).lnd = s.lnd := rfl
@[simp] theorem State.withHst_acq (f : Hst → Hst) : (s.withHst f).acq = s.acq := rfl
@[simp] theorem State.withHst_boot (f : Hst → Hst) : (s.withHst f).boot = s.boot := rfl
@[simp] theorem State.withHst_therm (f : Hst → Hst) : (s.withHst f).therm = s.therm := rfl
@[simp] theorem State.withHst_out (f : Hst → Hst) : (s.withHst f).out = s.out := rfl
@[simp] theorem State.withHst_freeCtr (f : Hst → Hst) : (s.withHst f).freeCtr = s.freeCtr := rfl
@[simp] theorem State.withHst_rd (f : Hst → Hst) (off : Nat) : (s.withHst f).rd off = s.rd off := rfl

@[simp] theorem State.withSch_sch (f : Sch → Sch) : (s.withSch f).sch = f s.sch := rfl
@[simp] theorem State.withSch_pending (f : Sch → Sch) : (s.withSch f).pending = s.pending := rfl
@[simp] theorem State.withSch_frc (f : Sch → Sch) : (s.withSch f).frc = s.frc := rfl
@[simp] theorem State.withSch_regs (f : Sch → Sch) : (s.withSch f).regs = s.regs := rfl
@[simp] theorem State.withSch_latch (f : Sch → Sch) : (s.withSch f).latch = s.latch := rfl
@[simp] theorem State.withSch_upd (f : Sch → Sch) : (s.withSch f).upd = s.upd := rfl
@[simp] theorem State.withSch_mem (f : Sch → Sch) : (s.withSch f).mem = s.mem := rfl
@[simp] theorem State.withSch_poison (f : Sch → Sch) : (s.withSch f).poison = s.poison := rfl
@[simp] theorem State.withSch_scrub (f : Sch → Sch) : (s.withSch f).scrub = s.scrub := rfl
@[simp] theorem State.withSch_tabs (f : Sch → Sch) : (s.withSch f).tabs = s.tabs := rfl
@[simp] theorem State.withSch_tbs (f : Sch → Sch) : (s.withSch f).tbs = s.tbs := rfl
@[simp] theorem State.withSch_hst (f : Sch → Sch) : (s.withSch f).hst = s.hst := rfl
@[simp] theorem State.withSch_cen (f : Sch → Sch) : (s.withSch f).cen = s.cen := rfl
@[simp] theorem State.withSch_dp (f : Sch → Sch) : (s.withSch f).dp = s.dp := rfl
@[simp] theorem State.withSch_trj (f : Sch → Sch) : (s.withSch f).trj = s.trj := rfl
@[simp] theorem State.withSch_sep (f : Sch → Sch) : (s.withSch f).sep = s.sep := rfl
@[simp] theorem State.withSch_saf (f : Sch → Sch) : (s.withSch f).saf = s.saf := rfl
@[simp] theorem State.withSch_fbk (f : Sch → Sch) : (s.withSch f).fbk = s.fbk := rfl
@[simp] theorem State.withSch_pwm (f : Sch → Sch) : (s.withSch f).pwm = s.pwm := rfl
@[simp] theorem State.withSch_adc (f : Sch → Sch) : (s.withSch f).adc = s.adc := rfl
@[simp] theorem State.withSch_twl (f : Sch → Sch) : (s.withSch f).twl = s.twl := rfl
@[simp] theorem State.withSch_links (f : Sch → Sch) : (s.withSch f).links = s.links := rfl
@[simp] theorem State.withSch_dmk (f : Sch → Sch) : (s.withSch f).dmk = s.dmk := rfl
@[simp] theorem State.withSch_lnd (f : Sch → Sch) : (s.withSch f).lnd = s.lnd := rfl
@[simp] theorem State.withSch_acq (f : Sch → Sch) : (s.withSch f).acq = s.acq := rfl
@[simp] theorem State.withSch_boot (f : Sch → Sch) : (s.withSch f).boot = s.boot := rfl
@[simp] theorem State.withSch_therm (f : Sch → Sch) : (s.withSch f).therm = s.therm := rfl
@[simp] theorem State.withSch_out (f : Sch → Sch) : (s.withSch f).out = s.out := rfl
@[simp] theorem State.withSch_freeCtr (f : Sch → Sch) : (s.withSch f).freeCtr = s.freeCtr := rfl
@[simp] theorem State.withSch_rd (f : Sch → Sch) (off : Nat) : (s.withSch f).rd off = s.rd off := rfl

@[simp] theorem State.withCen_cen (f : Cen → Cen) : (s.withCen f).cen = f s.cen := rfl
@[simp] theorem State.withCen_pending (f : Cen → Cen) : (s.withCen f).pending = s.pending := rfl
@[simp] theorem State.withCen_frc (f : Cen → Cen) : (s.withCen f).frc = s.frc := rfl
@[simp] theorem State.withCen_regs (f : Cen → Cen) : (s.withCen f).regs = s.regs := rfl
@[simp] theorem State.withCen_latch (f : Cen → Cen) : (s.withCen f).latch = s.latch := rfl
@[simp] theorem State.withCen_upd (f : Cen → Cen) : (s.withCen f).upd = s.upd := rfl
@[simp] theorem State.withCen_mem (f : Cen → Cen) : (s.withCen f).mem = s.mem := rfl
@[simp] theorem State.withCen_poison (f : Cen → Cen) : (s.withCen f).poison = s.poison := rfl
@[simp] theorem State.withCen_scrub (f : Cen → Cen) : (s.withCen f).scrub = s.scrub := rfl
@[simp] theorem State.withCen_tabs (f : Cen → Cen) : (s.withCen f).tabs = s.tabs := rfl
@[simp] theorem State.withCen_tbs (f : Cen → Cen) : (s.withCen f).tbs = s.tbs := rfl
@[simp] theorem State.withCen_hst (f : Cen → Cen) : (s.withCen f).hst = s.hst := rfl
@[simp] theorem State.withCen_sch (f : Cen → Cen) : (s.withCen f).sch = s.sch := rfl
@[simp] theorem State.withCen_dp (f : Cen → Cen) : (s.withCen f).dp = s.dp := rfl
@[simp] theorem State.withCen_trj (f : Cen → Cen) : (s.withCen f).trj = s.trj := rfl
@[simp] theorem State.withCen_sep (f : Cen → Cen) : (s.withCen f).sep = s.sep := rfl
@[simp] theorem State.withCen_saf (f : Cen → Cen) : (s.withCen f).saf = s.saf := rfl
@[simp] theorem State.withCen_fbk (f : Cen → Cen) : (s.withCen f).fbk = s.fbk := rfl
@[simp] theorem State.withCen_pwm (f : Cen → Cen) : (s.withCen f).pwm = s.pwm := rfl
@[simp] theorem State.withCen_adc (f : Cen → Cen) : (s.withCen f).adc = s.adc := rfl
@[simp] theorem State.withCen_twl (f : Cen → Cen) : (s.withCen f).twl = s.twl := rfl
@[simp] theorem State.withCen_links (f : Cen → Cen) : (s.withCen f).links = s.links := rfl
@[simp] theorem State.withCen_dmk (f : Cen → Cen) : (s.withCen f).dmk = s.dmk := rfl
@[simp] theorem State.withCen_lnd (f : Cen → Cen) : (s.withCen f).lnd = s.lnd := rfl
@[simp] theorem State.withCen_acq (f : Cen → Cen) : (s.withCen f).acq = s.acq := rfl
@[simp] theorem State.withCen_boot (f : Cen → Cen) : (s.withCen f).boot = s.boot := rfl
@[simp] theorem State.withCen_therm (f : Cen → Cen) : (s.withCen f).therm = s.therm := rfl
@[simp] theorem State.withCen_out (f : Cen → Cen) : (s.withCen f).out = s.out := rfl
@[simp] theorem State.withCen_freeCtr (f : Cen → Cen) : (s.withCen f).freeCtr = s.freeCtr := rfl
@[simp] theorem State.withCen_rd (f : Cen → Cen) (off : Nat) : (s.withCen f).rd off = s.rd off := rfl

@[simp] theorem State.withDp_dp (f : Dp → Dp) : (s.withDp f).dp = f s.dp := rfl
@[simp] theorem State.withDp_pending (f : Dp → Dp) : (s.withDp f).pending = s.pending := rfl
@[simp] theorem State.withDp_frc (f : Dp → Dp) : (s.withDp f).frc = s.frc := rfl
@[simp] theorem State.withDp_regs (f : Dp → Dp) : (s.withDp f).regs = s.regs := rfl
@[simp] theorem State.withDp_latch (f : Dp → Dp) : (s.withDp f).latch = s.latch := rfl
@[simp] theorem State.withDp_upd (f : Dp → Dp) : (s.withDp f).upd = s.upd := rfl
@[simp] theorem State.withDp_mem (f : Dp → Dp) : (s.withDp f).mem = s.mem := rfl
@[simp] theorem State.withDp_poison (f : Dp → Dp) : (s.withDp f).poison = s.poison := rfl
@[simp] theorem State.withDp_scrub (f : Dp → Dp) : (s.withDp f).scrub = s.scrub := rfl
@[simp] theorem State.withDp_tabs (f : Dp → Dp) : (s.withDp f).tabs = s.tabs := rfl
@[simp] theorem State.withDp_tbs (f : Dp → Dp) : (s.withDp f).tbs = s.tbs := rfl
@[simp] theorem State.withDp_hst (f : Dp → Dp) : (s.withDp f).hst = s.hst := rfl
@[simp] theorem State.withDp_sch (f : Dp → Dp) : (s.withDp f).sch = s.sch := rfl
@[simp] theorem State.withDp_cen (f : Dp → Dp) : (s.withDp f).cen = s.cen := rfl
@[simp] theorem State.withDp_trj (f : Dp → Dp) : (s.withDp f).trj = s.trj := rfl
@[simp] theorem State.withDp_sep (f : Dp → Dp) : (s.withDp f).sep = s.sep := rfl
@[simp] theorem State.withDp_saf (f : Dp → Dp) : (s.withDp f).saf = s.saf := rfl
@[simp] theorem State.withDp_fbk (f : Dp → Dp) : (s.withDp f).fbk = s.fbk := rfl
@[simp] theorem State.withDp_pwm (f : Dp → Dp) : (s.withDp f).pwm = s.pwm := rfl
@[simp] theorem State.withDp_adc (f : Dp → Dp) : (s.withDp f).adc = s.adc := rfl
@[simp] theorem State.withDp_twl (f : Dp → Dp) : (s.withDp f).twl = s.twl := rfl
@[simp] theorem State.withDp_links (f : Dp → Dp) : (s.withDp f).links = s.links := rfl
@[simp] theorem State.withDp_dmk (f : Dp → Dp) : (s.withDp f).dmk = s.dmk := rfl
@[simp] theorem State.withDp_lnd (f : Dp → Dp) : (s.withDp f).lnd = s.lnd := rfl
@[simp] theorem State.withDp_acq (f : Dp → Dp) : (s.withDp f).acq = s.acq := rfl
@[simp] theorem State.withDp_boot (f : Dp → Dp) : (s.withDp f).boot = s.boot := rfl
@[simp] theorem State.withDp_therm (f : Dp → Dp) : (s.withDp f).therm = s.therm := rfl
@[simp] theorem State.withDp_out (f : Dp → Dp) : (s.withDp f).out = s.out := rfl
@[simp] theorem State.withDp_freeCtr (f : Dp → Dp) : (s.withDp f).freeCtr = s.freeCtr := rfl
@[simp] theorem State.withDp_rd (f : Dp → Dp) (off : Nat) : (s.withDp f).rd off = s.rd off := rfl

@[simp] theorem State.withTrj_trj (f : Trj → Trj) : (s.withTrj f).trj = f s.trj := rfl
@[simp] theorem State.withTrj_pending (f : Trj → Trj) : (s.withTrj f).pending = s.pending := rfl
@[simp] theorem State.withTrj_frc (f : Trj → Trj) : (s.withTrj f).frc = s.frc := rfl
@[simp] theorem State.withTrj_regs (f : Trj → Trj) : (s.withTrj f).regs = s.regs := rfl
@[simp] theorem State.withTrj_latch (f : Trj → Trj) : (s.withTrj f).latch = s.latch := rfl
@[simp] theorem State.withTrj_upd (f : Trj → Trj) : (s.withTrj f).upd = s.upd := rfl
@[simp] theorem State.withTrj_mem (f : Trj → Trj) : (s.withTrj f).mem = s.mem := rfl
@[simp] theorem State.withTrj_poison (f : Trj → Trj) : (s.withTrj f).poison = s.poison := rfl
@[simp] theorem State.withTrj_scrub (f : Trj → Trj) : (s.withTrj f).scrub = s.scrub := rfl
@[simp] theorem State.withTrj_tabs (f : Trj → Trj) : (s.withTrj f).tabs = s.tabs := rfl
@[simp] theorem State.withTrj_tbs (f : Trj → Trj) : (s.withTrj f).tbs = s.tbs := rfl
@[simp] theorem State.withTrj_hst (f : Trj → Trj) : (s.withTrj f).hst = s.hst := rfl
@[simp] theorem State.withTrj_sch (f : Trj → Trj) : (s.withTrj f).sch = s.sch := rfl
@[simp] theorem State.withTrj_cen (f : Trj → Trj) : (s.withTrj f).cen = s.cen := rfl
@[simp] theorem State.withTrj_dp (f : Trj → Trj) : (s.withTrj f).dp = s.dp := rfl
@[simp] theorem State.withTrj_sep (f : Trj → Trj) : (s.withTrj f).sep = s.sep := rfl
@[simp] theorem State.withTrj_saf (f : Trj → Trj) : (s.withTrj f).saf = s.saf := rfl
@[simp] theorem State.withTrj_fbk (f : Trj → Trj) : (s.withTrj f).fbk = s.fbk := rfl
@[simp] theorem State.withTrj_pwm (f : Trj → Trj) : (s.withTrj f).pwm = s.pwm := rfl
@[simp] theorem State.withTrj_adc (f : Trj → Trj) : (s.withTrj f).adc = s.adc := rfl
@[simp] theorem State.withTrj_twl (f : Trj → Trj) : (s.withTrj f).twl = s.twl := rfl
@[simp] theorem State.withTrj_links (f : Trj → Trj) : (s.withTrj f).links = s.links := rfl
@[simp] theorem State.withTrj_dmk (f : Trj → Trj) : (s.withTrj f).dmk = s.dmk := rfl
@[simp] theorem State.withTrj_lnd (f : Trj → Trj) : (s.withTrj f).lnd = s.lnd := rfl
@[simp] theorem State.withTrj_acq (f : Trj → Trj) : (s.withTrj f).acq = s.acq := rfl
@[simp] theorem State.withTrj_boot (f : Trj → Trj) : (s.withTrj f).boot = s.boot := rfl
@[simp] theorem State.withTrj_therm (f : Trj → Trj) : (s.withTrj f).therm = s.therm := rfl
@[simp] theorem State.withTrj_out (f : Trj → Trj) : (s.withTrj f).out = s.out := rfl
@[simp] theorem State.withTrj_freeCtr (f : Trj → Trj) : (s.withTrj f).freeCtr = s.freeCtr := rfl
@[simp] theorem State.withTrj_rd (f : Trj → Trj) (off : Nat) : (s.withTrj f).rd off = s.rd off := rfl

@[simp] theorem State.withSep_sep (f : Sep → Sep) : (s.withSep f).sep = f s.sep := rfl
@[simp] theorem State.withSep_pending (f : Sep → Sep) : (s.withSep f).pending = s.pending := rfl
@[simp] theorem State.withSep_frc (f : Sep → Sep) : (s.withSep f).frc = s.frc := rfl
@[simp] theorem State.withSep_regs (f : Sep → Sep) : (s.withSep f).regs = s.regs := rfl
@[simp] theorem State.withSep_latch (f : Sep → Sep) : (s.withSep f).latch = s.latch := rfl
@[simp] theorem State.withSep_upd (f : Sep → Sep) : (s.withSep f).upd = s.upd := rfl
@[simp] theorem State.withSep_mem (f : Sep → Sep) : (s.withSep f).mem = s.mem := rfl
@[simp] theorem State.withSep_poison (f : Sep → Sep) : (s.withSep f).poison = s.poison := rfl
@[simp] theorem State.withSep_scrub (f : Sep → Sep) : (s.withSep f).scrub = s.scrub := rfl
@[simp] theorem State.withSep_tabs (f : Sep → Sep) : (s.withSep f).tabs = s.tabs := rfl
@[simp] theorem State.withSep_tbs (f : Sep → Sep) : (s.withSep f).tbs = s.tbs := rfl
@[simp] theorem State.withSep_hst (f : Sep → Sep) : (s.withSep f).hst = s.hst := rfl
@[simp] theorem State.withSep_sch (f : Sep → Sep) : (s.withSep f).sch = s.sch := rfl
@[simp] theorem State.withSep_cen (f : Sep → Sep) : (s.withSep f).cen = s.cen := rfl
@[simp] theorem State.withSep_dp (f : Sep → Sep) : (s.withSep f).dp = s.dp := rfl
@[simp] theorem State.withSep_trj (f : Sep → Sep) : (s.withSep f).trj = s.trj := rfl
@[simp] theorem State.withSep_saf (f : Sep → Sep) : (s.withSep f).saf = s.saf := rfl
@[simp] theorem State.withSep_fbk (f : Sep → Sep) : (s.withSep f).fbk = s.fbk := rfl
@[simp] theorem State.withSep_pwm (f : Sep → Sep) : (s.withSep f).pwm = s.pwm := rfl
@[simp] theorem State.withSep_adc (f : Sep → Sep) : (s.withSep f).adc = s.adc := rfl
@[simp] theorem State.withSep_twl (f : Sep → Sep) : (s.withSep f).twl = s.twl := rfl
@[simp] theorem State.withSep_links (f : Sep → Sep) : (s.withSep f).links = s.links := rfl
@[simp] theorem State.withSep_dmk (f : Sep → Sep) : (s.withSep f).dmk = s.dmk := rfl
@[simp] theorem State.withSep_lnd (f : Sep → Sep) : (s.withSep f).lnd = s.lnd := rfl
@[simp] theorem State.withSep_acq (f : Sep → Sep) : (s.withSep f).acq = s.acq := rfl
@[simp] theorem State.withSep_boot (f : Sep → Sep) : (s.withSep f).boot = s.boot := rfl
@[simp] theorem State.withSep_therm (f : Sep → Sep) : (s.withSep f).therm = s.therm := rfl
@[simp] theorem State.withSep_out (f : Sep → Sep) : (s.withSep f).out = s.out := rfl
@[simp] theorem State.withSep_freeCtr (f : Sep → Sep) : (s.withSep f).freeCtr = s.freeCtr := rfl
@[simp] theorem State.withSep_rd (f : Sep → Sep) (off : Nat) : (s.withSep f).rd off = s.rd off := rfl

@[simp] theorem State.withSaf_saf (f : Saf → Saf) : (s.withSaf f).saf = f s.saf := rfl
@[simp] theorem State.withSaf_pending (f : Saf → Saf) : (s.withSaf f).pending = s.pending := rfl
@[simp] theorem State.withSaf_frc (f : Saf → Saf) : (s.withSaf f).frc = s.frc := rfl
@[simp] theorem State.withSaf_regs (f : Saf → Saf) : (s.withSaf f).regs = s.regs := rfl
@[simp] theorem State.withSaf_latch (f : Saf → Saf) : (s.withSaf f).latch = s.latch := rfl
@[simp] theorem State.withSaf_upd (f : Saf → Saf) : (s.withSaf f).upd = s.upd := rfl
@[simp] theorem State.withSaf_mem (f : Saf → Saf) : (s.withSaf f).mem = s.mem := rfl
@[simp] theorem State.withSaf_poison (f : Saf → Saf) : (s.withSaf f).poison = s.poison := rfl
@[simp] theorem State.withSaf_scrub (f : Saf → Saf) : (s.withSaf f).scrub = s.scrub := rfl
@[simp] theorem State.withSaf_tabs (f : Saf → Saf) : (s.withSaf f).tabs = s.tabs := rfl
@[simp] theorem State.withSaf_tbs (f : Saf → Saf) : (s.withSaf f).tbs = s.tbs := rfl
@[simp] theorem State.withSaf_hst (f : Saf → Saf) : (s.withSaf f).hst = s.hst := rfl
@[simp] theorem State.withSaf_sch (f : Saf → Saf) : (s.withSaf f).sch = s.sch := rfl
@[simp] theorem State.withSaf_cen (f : Saf → Saf) : (s.withSaf f).cen = s.cen := rfl
@[simp] theorem State.withSaf_dp (f : Saf → Saf) : (s.withSaf f).dp = s.dp := rfl
@[simp] theorem State.withSaf_trj (f : Saf → Saf) : (s.withSaf f).trj = s.trj := rfl
@[simp] theorem State.withSaf_sep (f : Saf → Saf) : (s.withSaf f).sep = s.sep := rfl
@[simp] theorem State.withSaf_fbk (f : Saf → Saf) : (s.withSaf f).fbk = s.fbk := rfl
@[simp] theorem State.withSaf_pwm (f : Saf → Saf) : (s.withSaf f).pwm = s.pwm := rfl
@[simp] theorem State.withSaf_adc (f : Saf → Saf) : (s.withSaf f).adc = s.adc := rfl
@[simp] theorem State.withSaf_twl (f : Saf → Saf) : (s.withSaf f).twl = s.twl := rfl
@[simp] theorem State.withSaf_links (f : Saf → Saf) : (s.withSaf f).links = s.links := rfl
@[simp] theorem State.withSaf_dmk (f : Saf → Saf) : (s.withSaf f).dmk = s.dmk := rfl
@[simp] theorem State.withSaf_lnd (f : Saf → Saf) : (s.withSaf f).lnd = s.lnd := rfl
@[simp] theorem State.withSaf_acq (f : Saf → Saf) : (s.withSaf f).acq = s.acq := rfl
@[simp] theorem State.withSaf_boot (f : Saf → Saf) : (s.withSaf f).boot = s.boot := rfl
@[simp] theorem State.withSaf_therm (f : Saf → Saf) : (s.withSaf f).therm = s.therm := rfl
@[simp] theorem State.withSaf_out (f : Saf → Saf) : (s.withSaf f).out = s.out := rfl
@[simp] theorem State.withSaf_freeCtr (f : Saf → Saf) : (s.withSaf f).freeCtr = s.freeCtr := rfl
@[simp] theorem State.withSaf_rd (f : Saf → Saf) (off : Nat) : (s.withSaf f).rd off = s.rd off := rfl

@[simp] theorem State.withFbk_fbk (f : Fbk → Fbk) : (s.withFbk f).fbk = f s.fbk := rfl
@[simp] theorem State.withFbk_pending (f : Fbk → Fbk) : (s.withFbk f).pending = s.pending := rfl
@[simp] theorem State.withFbk_frc (f : Fbk → Fbk) : (s.withFbk f).frc = s.frc := rfl
@[simp] theorem State.withFbk_regs (f : Fbk → Fbk) : (s.withFbk f).regs = s.regs := rfl
@[simp] theorem State.withFbk_latch (f : Fbk → Fbk) : (s.withFbk f).latch = s.latch := rfl
@[simp] theorem State.withFbk_upd (f : Fbk → Fbk) : (s.withFbk f).upd = s.upd := rfl
@[simp] theorem State.withFbk_mem (f : Fbk → Fbk) : (s.withFbk f).mem = s.mem := rfl
@[simp] theorem State.withFbk_poison (f : Fbk → Fbk) : (s.withFbk f).poison = s.poison := rfl
@[simp] theorem State.withFbk_scrub (f : Fbk → Fbk) : (s.withFbk f).scrub = s.scrub := rfl
@[simp] theorem State.withFbk_tabs (f : Fbk → Fbk) : (s.withFbk f).tabs = s.tabs := rfl
@[simp] theorem State.withFbk_tbs (f : Fbk → Fbk) : (s.withFbk f).tbs = s.tbs := rfl
@[simp] theorem State.withFbk_hst (f : Fbk → Fbk) : (s.withFbk f).hst = s.hst := rfl
@[simp] theorem State.withFbk_sch (f : Fbk → Fbk) : (s.withFbk f).sch = s.sch := rfl
@[simp] theorem State.withFbk_cen (f : Fbk → Fbk) : (s.withFbk f).cen = s.cen := rfl
@[simp] theorem State.withFbk_dp (f : Fbk → Fbk) : (s.withFbk f).dp = s.dp := rfl
@[simp] theorem State.withFbk_trj (f : Fbk → Fbk) : (s.withFbk f).trj = s.trj := rfl
@[simp] theorem State.withFbk_sep (f : Fbk → Fbk) : (s.withFbk f).sep = s.sep := rfl
@[simp] theorem State.withFbk_saf (f : Fbk → Fbk) : (s.withFbk f).saf = s.saf := rfl
@[simp] theorem State.withFbk_pwm (f : Fbk → Fbk) : (s.withFbk f).pwm = s.pwm := rfl
@[simp] theorem State.withFbk_adc (f : Fbk → Fbk) : (s.withFbk f).adc = s.adc := rfl
@[simp] theorem State.withFbk_twl (f : Fbk → Fbk) : (s.withFbk f).twl = s.twl := rfl
@[simp] theorem State.withFbk_links (f : Fbk → Fbk) : (s.withFbk f).links = s.links := rfl
@[simp] theorem State.withFbk_dmk (f : Fbk → Fbk) : (s.withFbk f).dmk = s.dmk := rfl
@[simp] theorem State.withFbk_lnd (f : Fbk → Fbk) : (s.withFbk f).lnd = s.lnd := rfl
@[simp] theorem State.withFbk_acq (f : Fbk → Fbk) : (s.withFbk f).acq = s.acq := rfl
@[simp] theorem State.withFbk_boot (f : Fbk → Fbk) : (s.withFbk f).boot = s.boot := rfl
@[simp] theorem State.withFbk_therm (f : Fbk → Fbk) : (s.withFbk f).therm = s.therm := rfl
@[simp] theorem State.withFbk_out (f : Fbk → Fbk) : (s.withFbk f).out = s.out := rfl
@[simp] theorem State.withFbk_freeCtr (f : Fbk → Fbk) : (s.withFbk f).freeCtr = s.freeCtr := rfl
@[simp] theorem State.withFbk_rd (f : Fbk → Fbk) (off : Nat) : (s.withFbk f).rd off = s.rd off := rfl

@[simp] theorem State.withPwm_pwm (f : Pwm → Pwm) : (s.withPwm f).pwm = f s.pwm := rfl
@[simp] theorem State.withPwm_pending (f : Pwm → Pwm) : (s.withPwm f).pending = s.pending := rfl
@[simp] theorem State.withPwm_frc (f : Pwm → Pwm) : (s.withPwm f).frc = s.frc := rfl
@[simp] theorem State.withPwm_regs (f : Pwm → Pwm) : (s.withPwm f).regs = s.regs := rfl
@[simp] theorem State.withPwm_latch (f : Pwm → Pwm) : (s.withPwm f).latch = s.latch := rfl
@[simp] theorem State.withPwm_upd (f : Pwm → Pwm) : (s.withPwm f).upd = s.upd := rfl
@[simp] theorem State.withPwm_mem (f : Pwm → Pwm) : (s.withPwm f).mem = s.mem := rfl
@[simp] theorem State.withPwm_poison (f : Pwm → Pwm) : (s.withPwm f).poison = s.poison := rfl
@[simp] theorem State.withPwm_scrub (f : Pwm → Pwm) : (s.withPwm f).scrub = s.scrub := rfl
@[simp] theorem State.withPwm_tabs (f : Pwm → Pwm) : (s.withPwm f).tabs = s.tabs := rfl
@[simp] theorem State.withPwm_tbs (f : Pwm → Pwm) : (s.withPwm f).tbs = s.tbs := rfl
@[simp] theorem State.withPwm_hst (f : Pwm → Pwm) : (s.withPwm f).hst = s.hst := rfl
@[simp] theorem State.withPwm_sch (f : Pwm → Pwm) : (s.withPwm f).sch = s.sch := rfl
@[simp] theorem State.withPwm_cen (f : Pwm → Pwm) : (s.withPwm f).cen = s.cen := rfl
@[simp] theorem State.withPwm_dp (f : Pwm → Pwm) : (s.withPwm f).dp = s.dp := rfl
@[simp] theorem State.withPwm_trj (f : Pwm → Pwm) : (s.withPwm f).trj = s.trj := rfl
@[simp] theorem State.withPwm_sep (f : Pwm → Pwm) : (s.withPwm f).sep = s.sep := rfl
@[simp] theorem State.withPwm_saf (f : Pwm → Pwm) : (s.withPwm f).saf = s.saf := rfl
@[simp] theorem State.withPwm_fbk (f : Pwm → Pwm) : (s.withPwm f).fbk = s.fbk := rfl
@[simp] theorem State.withPwm_adc (f : Pwm → Pwm) : (s.withPwm f).adc = s.adc := rfl
@[simp] theorem State.withPwm_twl (f : Pwm → Pwm) : (s.withPwm f).twl = s.twl := rfl
@[simp] theorem State.withPwm_links (f : Pwm → Pwm) : (s.withPwm f).links = s.links := rfl
@[simp] theorem State.withPwm_dmk (f : Pwm → Pwm) : (s.withPwm f).dmk = s.dmk := rfl
@[simp] theorem State.withPwm_lnd (f : Pwm → Pwm) : (s.withPwm f).lnd = s.lnd := rfl
@[simp] theorem State.withPwm_acq (f : Pwm → Pwm) : (s.withPwm f).acq = s.acq := rfl
@[simp] theorem State.withPwm_boot (f : Pwm → Pwm) : (s.withPwm f).boot = s.boot := rfl
@[simp] theorem State.withPwm_therm (f : Pwm → Pwm) : (s.withPwm f).therm = s.therm := rfl
@[simp] theorem State.withPwm_out (f : Pwm → Pwm) : (s.withPwm f).out = s.out := rfl
@[simp] theorem State.withPwm_freeCtr (f : Pwm → Pwm) : (s.withPwm f).freeCtr = s.freeCtr := rfl
@[simp] theorem State.withPwm_rd (f : Pwm → Pwm) (off : Nat) : (s.withPwm f).rd off = s.rd off := rfl

@[simp] theorem State.withTwl_twl (f : Twl → Twl) : (s.withTwl f).twl = f s.twl := rfl
@[simp] theorem State.withTwl_pending (f : Twl → Twl) : (s.withTwl f).pending = s.pending := rfl
@[simp] theorem State.withTwl_frc (f : Twl → Twl) : (s.withTwl f).frc = s.frc := rfl
@[simp] theorem State.withTwl_regs (f : Twl → Twl) : (s.withTwl f).regs = s.regs := rfl
@[simp] theorem State.withTwl_latch (f : Twl → Twl) : (s.withTwl f).latch = s.latch := rfl
@[simp] theorem State.withTwl_upd (f : Twl → Twl) : (s.withTwl f).upd = s.upd := rfl
@[simp] theorem State.withTwl_mem (f : Twl → Twl) : (s.withTwl f).mem = s.mem := rfl
@[simp] theorem State.withTwl_poison (f : Twl → Twl) : (s.withTwl f).poison = s.poison := rfl
@[simp] theorem State.withTwl_scrub (f : Twl → Twl) : (s.withTwl f).scrub = s.scrub := rfl
@[simp] theorem State.withTwl_tabs (f : Twl → Twl) : (s.withTwl f).tabs = s.tabs := rfl
@[simp] theorem State.withTwl_tbs (f : Twl → Twl) : (s.withTwl f).tbs = s.tbs := rfl
@[simp] theorem State.withTwl_hst (f : Twl → Twl) : (s.withTwl f).hst = s.hst := rfl
@[simp] theorem State.withTwl_sch (f : Twl → Twl) : (s.withTwl f).sch = s.sch := rfl
@[simp] theorem State.withTwl_cen (f : Twl → Twl) : (s.withTwl f).cen = s.cen := rfl
@[simp] theorem State.withTwl_dp (f : Twl → Twl) : (s.withTwl f).dp = s.dp := rfl
@[simp] theorem State.withTwl_trj (f : Twl → Twl) : (s.withTwl f).trj = s.trj := rfl
@[simp] theorem State.withTwl_sep (f : Twl → Twl) : (s.withTwl f).sep = s.sep := rfl
@[simp] theorem State.withTwl_saf (f : Twl → Twl) : (s.withTwl f).saf = s.saf := rfl
@[simp] theorem State.withTwl_fbk (f : Twl → Twl) : (s.withTwl f).fbk = s.fbk := rfl
@[simp] theorem State.withTwl_pwm (f : Twl → Twl) : (s.withTwl f).pwm = s.pwm := rfl
@[simp] theorem State.withTwl_adc (f : Twl → Twl) : (s.withTwl f).adc = s.adc := rfl
@[simp] theorem State.withTwl_links (f : Twl → Twl) : (s.withTwl f).links = s.links := rfl
@[simp] theorem State.withTwl_dmk (f : Twl → Twl) : (s.withTwl f).dmk = s.dmk := rfl
@[simp] theorem State.withTwl_lnd (f : Twl → Twl) : (s.withTwl f).lnd = s.lnd := rfl
@[simp] theorem State.withTwl_acq (f : Twl → Twl) : (s.withTwl f).acq = s.acq := rfl
@[simp] theorem State.withTwl_boot (f : Twl → Twl) : (s.withTwl f).boot = s.boot := rfl
@[simp] theorem State.withTwl_therm (f : Twl → Twl) : (s.withTwl f).therm = s.therm := rfl
@[simp] theorem State.withTwl_out (f : Twl → Twl) : (s.withTwl f).out = s.out := rfl
@[simp] theorem State.withTwl_freeCtr (f : Twl → Twl) : (s.withTwl f).freeCtr = s.freeCtr := rfl
@[simp] theorem State.withTwl_rd (f : Twl → Twl) (off : Nat) : (s.withTwl f).rd off = s.rd off := rfl

@[simp] theorem State.withDmk_dmk (f : Dmk → Dmk) : (s.withDmk f).dmk = f s.dmk := rfl
@[simp] theorem State.withDmk_pending (f : Dmk → Dmk) : (s.withDmk f).pending = s.pending := rfl
@[simp] theorem State.withDmk_frc (f : Dmk → Dmk) : (s.withDmk f).frc = s.frc := rfl
@[simp] theorem State.withDmk_regs (f : Dmk → Dmk) : (s.withDmk f).regs = s.regs := rfl
@[simp] theorem State.withDmk_latch (f : Dmk → Dmk) : (s.withDmk f).latch = s.latch := rfl
@[simp] theorem State.withDmk_upd (f : Dmk → Dmk) : (s.withDmk f).upd = s.upd := rfl
@[simp] theorem State.withDmk_mem (f : Dmk → Dmk) : (s.withDmk f).mem = s.mem := rfl
@[simp] theorem State.withDmk_poison (f : Dmk → Dmk) : (s.withDmk f).poison = s.poison := rfl
@[simp] theorem State.withDmk_scrub (f : Dmk → Dmk) : (s.withDmk f).scrub = s.scrub := rfl
@[simp] theorem State.withDmk_tabs (f : Dmk → Dmk) : (s.withDmk f).tabs = s.tabs := rfl
@[simp] theorem State.withDmk_tbs (f : Dmk → Dmk) : (s.withDmk f).tbs = s.tbs := rfl
@[simp] theorem State.withDmk_hst (f : Dmk → Dmk) : (s.withDmk f).hst = s.hst := rfl
@[simp] theorem State.withDmk_sch (f : Dmk → Dmk) : (s.withDmk f).sch = s.sch := rfl
@[simp] theorem State.withDmk_cen (f : Dmk → Dmk) : (s.withDmk f).cen = s.cen := rfl
@[simp] theorem State.withDmk_dp (f : Dmk → Dmk) : (s.withDmk f).dp = s.dp := rfl
@[simp] theorem State.withDmk_trj (f : Dmk → Dmk) : (s.withDmk f).trj = s.trj := rfl
@[simp] theorem State.withDmk_sep (f : Dmk → Dmk) : (s.withDmk f).sep = s.sep := rfl
@[simp] theorem State.withDmk_saf (f : Dmk → Dmk) : (s.withDmk f).saf = s.saf := rfl
@[simp] theorem State.withDmk_fbk (f : Dmk → Dmk) : (s.withDmk f).fbk = s.fbk := rfl
@[simp] theorem State.withDmk_pwm (f : Dmk → Dmk) : (s.withDmk f).pwm = s.pwm := rfl
@[simp] theorem State.withDmk_adc (f : Dmk → Dmk) : (s.withDmk f).adc = s.adc := rfl
@[simp] theorem State.withDmk_twl (f : Dmk → Dmk) : (s.withDmk f).twl = s.twl := rfl
@[simp] theorem State.withDmk_links (f : Dmk → Dmk) : (s.withDmk f).links = s.links := rfl
@[simp] theorem State.withDmk_lnd (f : Dmk → Dmk) : (s.withDmk f).lnd = s.lnd := rfl
@[simp] theorem State.withDmk_acq (f : Dmk → Dmk) : (s.withDmk f).acq = s.acq := rfl
@[simp] theorem State.withDmk_boot (f : Dmk → Dmk) : (s.withDmk f).boot = s.boot := rfl
@[simp] theorem State.withDmk_therm (f : Dmk → Dmk) : (s.withDmk f).therm = s.therm := rfl
@[simp] theorem State.withDmk_out (f : Dmk → Dmk) : (s.withDmk f).out = s.out := rfl
@[simp] theorem State.withDmk_freeCtr (f : Dmk → Dmk) : (s.withDmk f).freeCtr = s.freeCtr := rfl
@[simp] theorem State.withDmk_rd (f : Dmk → Dmk) (off : Nat) : (s.withDmk f).rd off = s.rd off := rfl

@[simp] theorem State.withLnd_lnd (f : Lnd → Lnd) : (s.withLnd f).lnd = f s.lnd := rfl
@[simp] theorem State.withLnd_pending (f : Lnd → Lnd) : (s.withLnd f).pending = s.pending := rfl
@[simp] theorem State.withLnd_frc (f : Lnd → Lnd) : (s.withLnd f).frc = s.frc := rfl
@[simp] theorem State.withLnd_regs (f : Lnd → Lnd) : (s.withLnd f).regs = s.regs := rfl
@[simp] theorem State.withLnd_latch (f : Lnd → Lnd) : (s.withLnd f).latch = s.latch := rfl
@[simp] theorem State.withLnd_upd (f : Lnd → Lnd) : (s.withLnd f).upd = s.upd := rfl
@[simp] theorem State.withLnd_mem (f : Lnd → Lnd) : (s.withLnd f).mem = s.mem := rfl
@[simp] theorem State.withLnd_poison (f : Lnd → Lnd) : (s.withLnd f).poison = s.poison := rfl
@[simp] theorem State.withLnd_scrub (f : Lnd → Lnd) : (s.withLnd f).scrub = s.scrub := rfl
@[simp] theorem State.withLnd_tabs (f : Lnd → Lnd) : (s.withLnd f).tabs = s.tabs := rfl
@[simp] theorem State.withLnd_tbs (f : Lnd → Lnd) : (s.withLnd f).tbs = s.tbs := rfl
@[simp] theorem State.withLnd_hst (f : Lnd → Lnd) : (s.withLnd f).hst = s.hst := rfl
@[simp] theorem State.withLnd_sch (f : Lnd → Lnd) : (s.withLnd f).sch = s.sch := rfl
@[simp] theorem State.withLnd_cen (f : Lnd → Lnd) : (s.withLnd f).cen = s.cen := rfl
@[simp] theorem State.withLnd_dp (f : Lnd → Lnd) : (s.withLnd f).dp = s.dp := rfl
@[simp] theorem State.withLnd_trj (f : Lnd → Lnd) : (s.withLnd f).trj = s.trj := rfl
@[simp] theorem State.withLnd_sep (f : Lnd → Lnd) : (s.withLnd f).sep = s.sep := rfl
@[simp] theorem State.withLnd_saf (f : Lnd → Lnd) : (s.withLnd f).saf = s.saf := rfl
@[simp] theorem State.withLnd_fbk (f : Lnd → Lnd) : (s.withLnd f).fbk = s.fbk := rfl
@[simp] theorem State.withLnd_pwm (f : Lnd → Lnd) : (s.withLnd f).pwm = s.pwm := rfl
@[simp] theorem State.withLnd_adc (f : Lnd → Lnd) : (s.withLnd f).adc = s.adc := rfl
@[simp] theorem State.withLnd_twl (f : Lnd → Lnd) : (s.withLnd f).twl = s.twl := rfl
@[simp] theorem State.withLnd_links (f : Lnd → Lnd) : (s.withLnd f).links = s.links := rfl
@[simp] theorem State.withLnd_dmk (f : Lnd → Lnd) : (s.withLnd f).dmk = s.dmk := rfl
@[simp] theorem State.withLnd_acq (f : Lnd → Lnd) : (s.withLnd f).acq = s.acq := rfl
@[simp] theorem State.withLnd_boot (f : Lnd → Lnd) : (s.withLnd f).boot = s.boot := rfl
@[simp] theorem State.withLnd_therm (f : Lnd → Lnd) : (s.withLnd f).therm = s.therm := rfl
@[simp] theorem State.withLnd_out (f : Lnd → Lnd) : (s.withLnd f).out = s.out := rfl
@[simp] theorem State.withLnd_freeCtr (f : Lnd → Lnd) : (s.withLnd f).freeCtr = s.freeCtr := rfl
@[simp] theorem State.withLnd_rd (f : Lnd → Lnd) (off : Nat) : (s.withLnd f).rd off = s.rd off := rfl

@[simp] theorem State.withAcq_acq (f : Acq → Acq) : (s.withAcq f).acq = f s.acq := rfl
@[simp] theorem State.withAcq_pending (f : Acq → Acq) : (s.withAcq f).pending = s.pending := rfl
@[simp] theorem State.withAcq_frc (f : Acq → Acq) : (s.withAcq f).frc = s.frc := rfl
@[simp] theorem State.withAcq_regs (f : Acq → Acq) : (s.withAcq f).regs = s.regs := rfl
@[simp] theorem State.withAcq_latch (f : Acq → Acq) : (s.withAcq f).latch = s.latch := rfl
@[simp] theorem State.withAcq_upd (f : Acq → Acq) : (s.withAcq f).upd = s.upd := rfl
@[simp] theorem State.withAcq_mem (f : Acq → Acq) : (s.withAcq f).mem = s.mem := rfl
@[simp] theorem State.withAcq_poison (f : Acq → Acq) : (s.withAcq f).poison = s.poison := rfl
@[simp] theorem State.withAcq_scrub (f : Acq → Acq) : (s.withAcq f).scrub = s.scrub := rfl
@[simp] theorem State.withAcq_tabs (f : Acq → Acq) : (s.withAcq f).tabs = s.tabs := rfl
@[simp] theorem State.withAcq_tbs (f : Acq → Acq) : (s.withAcq f).tbs = s.tbs := rfl
@[simp] theorem State.withAcq_hst (f : Acq → Acq) : (s.withAcq f).hst = s.hst := rfl
@[simp] theorem State.withAcq_sch (f : Acq → Acq) : (s.withAcq f).sch = s.sch := rfl
@[simp] theorem State.withAcq_cen (f : Acq → Acq) : (s.withAcq f).cen = s.cen := rfl
@[simp] theorem State.withAcq_dp (f : Acq → Acq) : (s.withAcq f).dp = s.dp := rfl
@[simp] theorem State.withAcq_trj (f : Acq → Acq) : (s.withAcq f).trj = s.trj := rfl
@[simp] theorem State.withAcq_sep (f : Acq → Acq) : (s.withAcq f).sep = s.sep := rfl
@[simp] theorem State.withAcq_saf (f : Acq → Acq) : (s.withAcq f).saf = s.saf := rfl
@[simp] theorem State.withAcq_fbk (f : Acq → Acq) : (s.withAcq f).fbk = s.fbk := rfl
@[simp] theorem State.withAcq_pwm (f : Acq → Acq) : (s.withAcq f).pwm = s.pwm := rfl
@[simp] theorem State.withAcq_adc (f : Acq → Acq) : (s.withAcq f).adc = s.adc := rfl
@[simp] theorem State.withAcq_twl (f : Acq → Acq) : (s.withAcq f).twl = s.twl := rfl
@[simp] theorem State.withAcq_links (f : Acq → Acq) : (s.withAcq f).links = s.links := rfl
@[simp] theorem State.withAcq_dmk (f : Acq → Acq) : (s.withAcq f).dmk = s.dmk := rfl
@[simp] theorem State.withAcq_lnd (f : Acq → Acq) : (s.withAcq f).lnd = s.lnd := rfl
@[simp] theorem State.withAcq_boot (f : Acq → Acq) : (s.withAcq f).boot = s.boot := rfl
@[simp] theorem State.withAcq_therm (f : Acq → Acq) : (s.withAcq f).therm = s.therm := rfl
@[simp] theorem State.withAcq_out (f : Acq → Acq) : (s.withAcq f).out = s.out := rfl
@[simp] theorem State.withAcq_freeCtr (f : Acq → Acq) : (s.withAcq f).freeCtr = s.freeCtr := rfl
@[simp] theorem State.withAcq_rd (f : Acq → Acq) (off : Nat) : (s.withAcq f).rd off = s.rd off := rfl

@[simp] theorem State.withBoot_boot (f : Boot → Boot) : (s.withBoot f).boot = f s.boot := rfl
@[simp] theorem State.withBoot_pending (f : Boot → Boot) : (s.withBoot f).pending = s.pending := rfl
@[simp] theorem State.withBoot_frc (f : Boot → Boot) : (s.withBoot f).frc = s.frc := rfl
@[simp] theorem State.withBoot_regs (f : Boot → Boot) : (s.withBoot f).regs = s.regs := rfl
@[simp] theorem State.withBoot_latch (f : Boot → Boot) : (s.withBoot f).latch = s.latch := rfl
@[simp] theorem State.withBoot_upd (f : Boot → Boot) : (s.withBoot f).upd = s.upd := rfl
@[simp] theorem State.withBoot_mem (f : Boot → Boot) : (s.withBoot f).mem = s.mem := rfl
@[simp] theorem State.withBoot_poison (f : Boot → Boot) : (s.withBoot f).poison = s.poison := rfl
@[simp] theorem State.withBoot_scrub (f : Boot → Boot) : (s.withBoot f).scrub = s.scrub := rfl
@[simp] theorem State.withBoot_tabs (f : Boot → Boot) : (s.withBoot f).tabs = s.tabs := rfl
@[simp] theorem State.withBoot_tbs (f : Boot → Boot) : (s.withBoot f).tbs = s.tbs := rfl
@[simp] theorem State.withBoot_hst (f : Boot → Boot) : (s.withBoot f).hst = s.hst := rfl
@[simp] theorem State.withBoot_sch (f : Boot → Boot) : (s.withBoot f).sch = s.sch := rfl
@[simp] theorem State.withBoot_cen (f : Boot → Boot) : (s.withBoot f).cen = s.cen := rfl
@[simp] theorem State.withBoot_dp (f : Boot → Boot) : (s.withBoot f).dp = s.dp := rfl
@[simp] theorem State.withBoot_trj (f : Boot → Boot) : (s.withBoot f).trj = s.trj := rfl
@[simp] theorem State.withBoot_sep (f : Boot → Boot) : (s.withBoot f).sep = s.sep := rfl
@[simp] theorem State.withBoot_saf (f : Boot → Boot) : (s.withBoot f).saf = s.saf := rfl
@[simp] theorem State.withBoot_fbk (f : Boot → Boot) : (s.withBoot f).fbk = s.fbk := rfl
@[simp] theorem State.withBoot_pwm (f : Boot → Boot) : (s.withBoot f).pwm = s.pwm := rfl
@[simp] theorem State.withBoot_adc (f : Boot → Boot) : (s.withBoot f).adc = s.adc := rfl
@[simp] theorem State.withBoot_twl (f : Boot → Boot) : (s.withBoot f).twl = s.twl := rfl
@[simp] theorem State.withBoot_links (f : Boot → Boot) : (s.withBoot f).links = s.links := rfl
@[simp] theorem State.withBoot_dmk (f : Boot → Boot) : (s.withBoot f).dmk = s.dmk := rfl
@[simp] theorem State.withBoot_lnd (f : Boot → Boot) : (s.withBoot f).lnd = s.lnd := rfl
@[simp] theorem State.withBoot_acq (f : Boot → Boot) : (s.withBoot f).acq = s.acq := rfl
@[simp] theorem State.withBoot_therm (f : Boot → Boot) : (s.withBoot f).therm = s.therm := rfl
@[simp] theorem State.withBoot_out (f : Boot → Boot) : (s.withBoot f).out = s.out := rfl
@[simp] theorem State.withBoot_freeCtr (f : Boot → Boot) : (s.withBoot f).freeCtr = s.freeCtr := rfl
@[simp] theorem State.withBoot_rd (f : Boot → Boot) (off : Nat) : (s.withBoot f).rd off = s.rd off := rfl

@[simp] theorem State.withPending_frc (l : List Instr) : (s.withPending l).frc = s.frc := rfl
@[simp] theorem State.withPending_regs (l : List Instr) : (s.withPending l).regs = s.regs := rfl
@[simp] theorem State.withPending_latch (l : List Instr) : (s.withPending l).latch = s.latch := rfl
@[simp] theorem State.withPending_upd (l : List Instr) : (s.withPending l).upd = s.upd := rfl
@[simp] theorem State.withPending_mem (l : List Instr) : (s.withPending l).mem = s.mem := rfl
@[simp] theorem State.withPending_poison (l : List Instr) : (s.withPending l).poison = s.poison := rfl
@[simp] theorem State.withPending_scrub (l : List Instr) : (s.withPending l).scrub = s.scrub := rfl
@[simp] theorem State.withPending_tabs (l : List Instr) : (s.withPending l).tabs = s.tabs := rfl
@[simp] theorem State.withPending_tbs (l : List Instr) : (s.withPending l).tbs = s.tbs := rfl
@[simp] theorem State.withPending_hst (l : List Instr) : (s.withPending l).hst = s.hst := rfl
@[simp] theorem State.withPending_sch (l : List Instr) : (s.withPending l).sch = s.sch := rfl
@[simp] theorem State.withPending_cen (l : List Instr) : (s.withPending l).cen = s.cen := rfl
@[simp] theorem State.withPending_dp (l : List Instr) : (s.withPending l).dp = s.dp := rfl
@[simp] theorem State.withPending_trj (l : List Instr) : (s.withPending l).trj = s.trj := rfl
@[simp] theorem State.withPending_sep (l : List Instr) : (s.withPending l).sep = s.sep := rfl
@[simp] theorem State.withPending_saf (l : List Instr) : (s.withPending l).saf = s.saf := rfl
@[simp] theorem State.withPending_fbk (l : List Instr) : (s.withPending l).fbk = s.fbk := rfl
@[simp] theorem State.withPending_pwm (l : List Instr) : (s.withPending l).pwm = s.pwm := rfl
@[simp] theorem State.withPending_adc (l : List Instr) : (s.withPending l).adc = s.adc := rfl
@[simp] theorem State.withPending_twl (l : List Instr) : (s.withPending l).twl = s.twl := rfl
@[simp] theorem State.withPending_links (l : List Instr) : (s.withPending l).links = s.links := rfl
@[simp] theorem State.withPending_dmk (l : List Instr) : (s.withPending l).dmk = s.dmk := rfl
@[simp] theorem State.withPending_lnd (l : List Instr) : (s.withPending l).lnd = s.lnd := rfl
@[simp] theorem State.withPending_acq (l : List Instr) : (s.withPending l).acq = s.acq := rfl
@[simp] theorem State.withPending_boot (l : List Instr) : (s.withPending l).boot = s.boot := rfl
@[simp] theorem State.withPending_therm (l : List Instr) : (s.withPending l).therm = s.therm := rfl
@[simp] theorem State.withPending_out (l : List Instr) : (s.withPending l).out = s.out := rfl
@[simp] theorem State.withPending_freeCtr (l : List Instr) : (s.withPending l).freeCtr = s.freeCtr := rfl
@[simp] theorem State.withPending_pending (l : List Instr) : (s.withPending l).pending = l := rfl

@[simp] theorem State.emit_pending (x : Output) : (s.emit x).pending = s.pending := rfl
@[simp] theorem State.emit_frc (x : Output) : (s.emit x).frc = s.frc := rfl
@[simp] theorem State.emit_regs (x : Output) : (s.emit x).regs = s.regs := rfl
@[simp] theorem State.emit_latch (x : Output) : (s.emit x).latch = s.latch := rfl
@[simp] theorem State.emit_upd (x : Output) : (s.emit x).upd = s.upd := rfl
@[simp] theorem State.emit_mem (x : Output) : (s.emit x).mem = s.mem := rfl
@[simp] theorem State.emit_poison (x : Output) : (s.emit x).poison = s.poison := rfl
@[simp] theorem State.emit_scrub (x : Output) : (s.emit x).scrub = s.scrub := rfl
@[simp] theorem State.emit_tabs (x : Output) : (s.emit x).tabs = s.tabs := rfl
@[simp] theorem State.emit_tbs (x : Output) : (s.emit x).tbs = s.tbs := rfl
@[simp] theorem State.emit_hst (x : Output) : (s.emit x).hst = s.hst := rfl
@[simp] theorem State.emit_sch (x : Output) : (s.emit x).sch = s.sch := rfl
@[simp] theorem State.emit_cen (x : Output) : (s.emit x).cen = s.cen := rfl
@[simp] theorem State.emit_dp (x : Output) : (s.emit x).dp = s.dp := rfl
@[simp] theorem State.emit_trj (x : Output) : (s.emit x).trj = s.trj := rfl
@[simp] theorem State.emit_sep (x : Output) : (s.emit x).sep = s.sep := rfl
@[simp] theorem State.emit_saf (x : Output) : (s.emit x).saf = s.saf := rfl
@[simp] theorem State.emit_fbk (x : Output) : (s.emit x).fbk = s.fbk := rfl
@[simp] theorem State.emit_pwm (x : Output) : (s.emit x).pwm = s.pwm := rfl
@[simp] theorem State.emit_adc (x : Output) : (s.emit x).adc = s.adc := rfl
@[simp] theorem State.emit_twl (x : Output) : (s.emit x).twl = s.twl := rfl
@[simp] theorem State.emit_links (x : Output) : (s.emit x).links = s.links := rfl
@[simp] theorem State.emit_dmk (x : Output) : (s.emit x).dmk = s.dmk := rfl
@[simp] theorem State.emit_lnd (x : Output) : (s.emit x).lnd = s.lnd := rfl
@[simp] theorem State.emit_acq (x : Output) : (s.emit x).acq = s.acq := rfl
@[simp] theorem State.emit_boot (x : Output) : (s.emit x).boot = s.boot := rfl
@[simp] theorem State.emit_therm (x : Output) : (s.emit x).therm = s.therm := rfl
@[simp] theorem State.emit_freeCtr (x : Output) : (s.emit x).freeCtr = s.freeCtr := rfl
@[simp] theorem State.emit_out (x : Output) : (s.emit x).out = s.out ++ [x] := rfl

@[simp] theorem State.put_pending (off : Nat) (v : Word) (m : Nat) : (s.put off v m).pending = s.pending := rfl
@[simp] theorem State.put_frc (off : Nat) (v : Word) (m : Nat) : (s.put off v m).frc = s.frc := rfl
@[simp] theorem State.put_latch (off : Nat) (v : Word) (m : Nat) : (s.put off v m).latch = s.latch := rfl
@[simp] theorem State.put_mem (off : Nat) (v : Word) (m : Nat) : (s.put off v m).mem = s.mem := rfl
@[simp] theorem State.put_poison (off : Nat) (v : Word) (m : Nat) : (s.put off v m).poison = s.poison := rfl
@[simp] theorem State.put_scrub (off : Nat) (v : Word) (m : Nat) : (s.put off v m).scrub = s.scrub := rfl
@[simp] theorem State.put_tabs (off : Nat) (v : Word) (m : Nat) : (s.put off v m).tabs = s.tabs := rfl
@[simp] theorem State.put_tbs (off : Nat) (v : Word) (m : Nat) : (s.put off v m).tbs = s.tbs := rfl
@[simp] theorem State.put_hst (off : Nat) (v : Word) (m : Nat) : (s.put off v m).hst = s.hst := rfl
@[simp] theorem State.put_sch (off : Nat) (v : Word) (m : Nat) : (s.put off v m).sch = s.sch := rfl
@[simp] theorem State.put_cen (off : Nat) (v : Word) (m : Nat) : (s.put off v m).cen = s.cen := rfl
@[simp] theorem State.put_dp (off : Nat) (v : Word) (m : Nat) : (s.put off v m).dp = s.dp := rfl
@[simp] theorem State.put_trj (off : Nat) (v : Word) (m : Nat) : (s.put off v m).trj = s.trj := rfl
@[simp] theorem State.put_sep (off : Nat) (v : Word) (m : Nat) : (s.put off v m).sep = s.sep := rfl
@[simp] theorem State.put_saf (off : Nat) (v : Word) (m : Nat) : (s.put off v m).saf = s.saf := rfl
@[simp] theorem State.put_fbk (off : Nat) (v : Word) (m : Nat) : (s.put off v m).fbk = s.fbk := rfl
@[simp] theorem State.put_pwm (off : Nat) (v : Word) (m : Nat) : (s.put off v m).pwm = s.pwm := rfl
@[simp] theorem State.put_adc (off : Nat) (v : Word) (m : Nat) : (s.put off v m).adc = s.adc := rfl
@[simp] theorem State.put_twl (off : Nat) (v : Word) (m : Nat) : (s.put off v m).twl = s.twl := rfl
@[simp] theorem State.put_links (off : Nat) (v : Word) (m : Nat) : (s.put off v m).links = s.links := rfl
@[simp] theorem State.put_dmk (off : Nat) (v : Word) (m : Nat) : (s.put off v m).dmk = s.dmk := rfl
@[simp] theorem State.put_lnd (off : Nat) (v : Word) (m : Nat) : (s.put off v m).lnd = s.lnd := rfl
@[simp] theorem State.put_acq (off : Nat) (v : Word) (m : Nat) : (s.put off v m).acq = s.acq := rfl
@[simp] theorem State.put_boot (off : Nat) (v : Word) (m : Nat) : (s.put off v m).boot = s.boot := rfl
@[simp] theorem State.put_therm (off : Nat) (v : Word) (m : Nat) : (s.put off v m).therm = s.therm := rfl
@[simp] theorem State.put_out (off : Nat) (v : Word) (m : Nat) : (s.put off v m).out = s.out := rfl
@[simp] theorem State.put_freeCtr (off : Nat) (v : Word) (m : Nat) : (s.put off v m).freeCtr = s.freeCtr := rfl

@[simp] theorem State.wr_pending (off : Nat) (v : Word) : (s.wr off v).pending = s.pending := rfl
@[simp] theorem State.wr_frc (off : Nat) (v : Word) : (s.wr off v).frc = s.frc := rfl
@[simp] theorem State.wr_latch (off : Nat) (v : Word) : (s.wr off v).latch = s.latch := rfl
@[simp] theorem State.wr_mem (off : Nat) (v : Word) : (s.wr off v).mem = s.mem := rfl
@[simp] theorem State.wr_poison (off : Nat) (v : Word) : (s.wr off v).poison = s.poison := rfl
@[simp] theorem State.wr_scrub (off : Nat) (v : Word) : (s.wr off v).scrub = s.scrub := rfl
@[simp] theorem State.wr_tabs (off : Nat) (v : Word) : (s.wr off v).tabs = s.tabs := rfl
@[simp] theorem State.wr_tbs (off : Nat) (v : Word) : (s.wr off v).tbs = s.tbs := rfl
@[simp] theorem State.wr_hst (off : Nat) (v : Word) : (s.wr off v).hst = s.hst := rfl
@[simp] theorem State.wr_sch (off : Nat) (v : Word) : (s.wr off v).sch = s.sch := rfl
@[simp] theorem State.wr_cen (off : Nat) (v : Word) : (s.wr off v).cen = s.cen := rfl
@[simp] theorem State.wr_dp (off : Nat) (v : Word) : (s.wr off v).dp = s.dp := rfl
@[simp] theorem State.wr_trj (off : Nat) (v : Word) : (s.wr off v).trj = s.trj := rfl
@[simp] theorem State.wr_sep (off : Nat) (v : Word) : (s.wr off v).sep = s.sep := rfl
@[simp] theorem State.wr_saf (off : Nat) (v : Word) : (s.wr off v).saf = s.saf := rfl
@[simp] theorem State.wr_fbk (off : Nat) (v : Word) : (s.wr off v).fbk = s.fbk := rfl
@[simp] theorem State.wr_pwm (off : Nat) (v : Word) : (s.wr off v).pwm = s.pwm := rfl
@[simp] theorem State.wr_adc (off : Nat) (v : Word) : (s.wr off v).adc = s.adc := rfl
@[simp] theorem State.wr_twl (off : Nat) (v : Word) : (s.wr off v).twl = s.twl := rfl
@[simp] theorem State.wr_links (off : Nat) (v : Word) : (s.wr off v).links = s.links := rfl
@[simp] theorem State.wr_dmk (off : Nat) (v : Word) : (s.wr off v).dmk = s.dmk := rfl
@[simp] theorem State.wr_lnd (off : Nat) (v : Word) : (s.wr off v).lnd = s.lnd := rfl
@[simp] theorem State.wr_acq (off : Nat) (v : Word) : (s.wr off v).acq = s.acq := rfl
@[simp] theorem State.wr_boot (off : Nat) (v : Word) : (s.wr off v).boot = s.boot := rfl
@[simp] theorem State.wr_therm (off : Nat) (v : Word) : (s.wr off v).therm = s.therm := rfl
@[simp] theorem State.wr_out (off : Nat) (v : Word) : (s.wr off v).out = s.out := rfl
@[simp] theorem State.wr_freeCtr (off : Nat) (v : Word) : (s.wr off v).freeCtr = s.freeCtr := rfl

@[simp] theorem State.writeWord_pending (w : Nat) (v : W72) : (s.writeWord w v).pending = s.pending := rfl
@[simp] theorem State.writeWord_frc (w : Nat) (v : W72) : (s.writeWord w v).frc = s.frc := rfl
@[simp] theorem State.writeWord_regs (w : Nat) (v : W72) : (s.writeWord w v).regs = s.regs := rfl
@[simp] theorem State.writeWord_latch (w : Nat) (v : W72) : (s.writeWord w v).latch = s.latch := rfl
@[simp] theorem State.writeWord_upd (w : Nat) (v : W72) : (s.writeWord w v).upd = s.upd := rfl
@[simp] theorem State.writeWord_scrub (w : Nat) (v : W72) : (s.writeWord w v).scrub = s.scrub := rfl
@[simp] theorem State.writeWord_tabs (w : Nat) (v : W72) : (s.writeWord w v).tabs = s.tabs := rfl
@[simp] theorem State.writeWord_tbs (w : Nat) (v : W72) : (s.writeWord w v).tbs = s.tbs := rfl
@[simp] theorem State.writeWord_hst (w : Nat) (v : W72) : (s.writeWord w v).hst = s.hst := rfl
@[simp] theorem State.writeWord_sch (w : Nat) (v : W72) : (s.writeWord w v).sch = s.sch := rfl
@[simp] theorem State.writeWord_cen (w : Nat) (v : W72) : (s.writeWord w v).cen = s.cen := rfl
@[simp] theorem State.writeWord_dp (w : Nat) (v : W72) : (s.writeWord w v).dp = s.dp := rfl
@[simp] theorem State.writeWord_trj (w : Nat) (v : W72) : (s.writeWord w v).trj = s.trj := rfl
@[simp] theorem State.writeWord_sep (w : Nat) (v : W72) : (s.writeWord w v).sep = s.sep := rfl
@[simp] theorem State.writeWord_saf (w : Nat) (v : W72) : (s.writeWord w v).saf = s.saf := rfl
@[simp] theorem State.writeWord_fbk (w : Nat) (v : W72) : (s.writeWord w v).fbk = s.fbk := rfl
@[simp] theorem State.writeWord_pwm (w : Nat) (v : W72) : (s.writeWord w v).pwm = s.pwm := rfl
@[simp] theorem State.writeWord_adc (w : Nat) (v : W72) : (s.writeWord w v).adc = s.adc := rfl
@[simp] theorem State.writeWord_twl (w : Nat) (v : W72) : (s.writeWord w v).twl = s.twl := rfl
@[simp] theorem State.writeWord_links (w : Nat) (v : W72) : (s.writeWord w v).links = s.links := rfl
@[simp] theorem State.writeWord_dmk (w : Nat) (v : W72) : (s.writeWord w v).dmk = s.dmk := rfl
@[simp] theorem State.writeWord_lnd (w : Nat) (v : W72) : (s.writeWord w v).lnd = s.lnd := rfl
@[simp] theorem State.writeWord_acq (w : Nat) (v : W72) : (s.writeWord w v).acq = s.acq := rfl
@[simp] theorem State.writeWord_boot (w : Nat) (v : W72) : (s.writeWord w v).boot = s.boot := rfl
@[simp] theorem State.writeWord_therm (w : Nat) (v : W72) : (s.writeWord w v).therm = s.therm := rfl
@[simp] theorem State.writeWord_out (w : Nat) (v : W72) : (s.writeWord w v).out = s.out := rfl
@[simp] theorem State.writeWord_freeCtr (w : Nat) (v : W72) : (s.writeWord w v).freeCtr = s.freeCtr := rfl

@[simp] theorem State.setTw_pending (t r w : Nat) (v : W72) : (s.setTw t r w v).pending = s.pending := by unfold State.setTw; rfl
@[simp] theorem State.setTw_frc (t r w : Nat) (v : W72) : (s.setTw t r w v).frc = s.frc := by unfold State.setTw; rfl
@[simp] theorem State.setTw_regs (t r w : Nat) (v : W72) : (s.setTw t r w v).regs = s.regs := by unfold State.setTw; rfl
@[simp] theorem State.setTw_latch (t r w : Nat) (v : W72) : (s.setTw t r w v).latch = s.latch := by unfold State.setTw; rfl
@[simp] theorem State.setTw_mem (t r w : Nat) (v : W72) : (s.setTw t r w v).mem = s.mem := by unfold State.setTw; rfl
@[simp] theorem State.setTw_poison (t r w : Nat) (v : W72) : (s.setTw t r w v).poison = s.poison := by unfold State.setTw; rfl
@[simp] theorem State.setTw_scrub (t r w : Nat) (v : W72) : (s.setTw t r w v).scrub = s.scrub := by unfold State.setTw; rfl
@[simp] theorem State.setTw_tbs (t r w : Nat) (v : W72) : (s.setTw t r w v).tbs = s.tbs := by unfold State.setTw; rfl
@[simp] theorem State.setTw_hst (t r w : Nat) (v : W72) : (s.setTw t r w v).hst = s.hst := by unfold State.setTw; rfl
@[simp] theorem State.setTw_sch (t r w : Nat) (v : W72) : (s.setTw t r w v).sch = s.sch := by unfold State.setTw; rfl
@[simp] theorem State.setTw_cen (t r w : Nat) (v : W72) : (s.setTw t r w v).cen = s.cen := by unfold State.setTw; rfl
@[simp] theorem State.setTw_dp (t r w : Nat) (v : W72) : (s.setTw t r w v).dp = s.dp := by unfold State.setTw; rfl
@[simp] theorem State.setTw_trj (t r w : Nat) (v : W72) : (s.setTw t r w v).trj = s.trj := by unfold State.setTw; rfl
@[simp] theorem State.setTw_sep (t r w : Nat) (v : W72) : (s.setTw t r w v).sep = s.sep := by unfold State.setTw; rfl
@[simp] theorem State.setTw_saf (t r w : Nat) (v : W72) : (s.setTw t r w v).saf = s.saf := by unfold State.setTw; rfl
@[simp] theorem State.setTw_fbk (t r w : Nat) (v : W72) : (s.setTw t r w v).fbk = s.fbk := by unfold State.setTw; rfl
@[simp] theorem State.setTw_pwm (t r w : Nat) (v : W72) : (s.setTw t r w v).pwm = s.pwm := by unfold State.setTw; rfl
@[simp] theorem State.setTw_adc (t r w : Nat) (v : W72) : (s.setTw t r w v).adc = s.adc := by unfold State.setTw; rfl
@[simp] theorem State.setTw_twl (t r w : Nat) (v : W72) : (s.setTw t r w v).twl = s.twl := by unfold State.setTw; rfl
@[simp] theorem State.setTw_links (t r w : Nat) (v : W72) : (s.setTw t r w v).links = s.links := by unfold State.setTw; rfl
@[simp] theorem State.setTw_dmk (t r w : Nat) (v : W72) : (s.setTw t r w v).dmk = s.dmk := by unfold State.setTw; rfl
@[simp] theorem State.setTw_lnd (t r w : Nat) (v : W72) : (s.setTw t r w v).lnd = s.lnd := by unfold State.setTw; rfl
@[simp] theorem State.setTw_acq (t r w : Nat) (v : W72) : (s.setTw t r w v).acq = s.acq := by unfold State.setTw; rfl
@[simp] theorem State.setTw_boot (t r w : Nat) (v : W72) : (s.setTw t r w v).boot = s.boot := by unfold State.setTw; rfl
@[simp] theorem State.setTw_therm (t r w : Nat) (v : W72) : (s.setTw t r w v).therm = s.therm := by unfold State.setTw; rfl
@[simp] theorem State.setTw_out (t r w : Nat) (v : W72) : (s.setTw t r w v).out = s.out := by unfold State.setTw; rfl
@[simp] theorem State.setTw_freeCtr (t r w : Nat) (v : W72) : (s.setTw t r w v).freeCtr = s.freeCtr := by unfold State.setTw; rfl

@[simp] theorem State.note_pending (n : Nat) : (s.note n).pending = s.pending := rfl
@[simp] theorem State.note_frc (n : Nat) : (s.note n).frc = s.frc := rfl
@[simp] theorem State.note_regs (n : Nat) : (s.note n).regs = s.regs := rfl
@[simp] theorem State.note_latch (n : Nat) : (s.note n).latch = s.latch := rfl
@[simp] theorem State.note_upd (n : Nat) : (s.note n).upd = s.upd := rfl
@[simp] theorem State.note_mem (n : Nat) : (s.note n).mem = s.mem := rfl
@[simp] theorem State.note_poison (n : Nat) : (s.note n).poison = s.poison := rfl
@[simp] theorem State.note_scrub (n : Nat) : (s.note n).scrub = s.scrub := rfl
@[simp] theorem State.note_tabs (n : Nat) : (s.note n).tabs = s.tabs := rfl
@[simp] theorem State.note_tbs (n : Nat) : (s.note n).tbs = s.tbs := rfl
@[simp] theorem State.note_hst (n : Nat) : (s.note n).hst = s.hst := rfl
@[simp] theorem State.note_sch (n : Nat) : (s.note n).sch = s.sch := rfl
@[simp] theorem State.note_cen (n : Nat) : (s.note n).cen = s.cen := rfl
@[simp] theorem State.note_dp (n : Nat) : (s.note n).dp = s.dp := rfl
@[simp] theorem State.note_trj (n : Nat) : (s.note n).trj = s.trj := rfl
@[simp] theorem State.note_sep (n : Nat) : (s.note n).sep = s.sep := rfl
@[simp] theorem State.note_saf (n : Nat) : (s.note n).saf = s.saf := rfl
@[simp] theorem State.note_fbk (n : Nat) : (s.note n).fbk = s.fbk := rfl
@[simp] theorem State.note_pwm (n : Nat) : (s.note n).pwm = s.pwm := rfl
@[simp] theorem State.note_adc (n : Nat) : (s.note n).adc = s.adc := rfl
@[simp] theorem State.note_twl (n : Nat) : (s.note n).twl = s.twl := rfl
@[simp] theorem State.note_links (n : Nat) : (s.note n).links = s.links := rfl
@[simp] theorem State.note_dmk (n : Nat) : (s.note n).dmk = s.dmk := rfl
@[simp] theorem State.note_acq (n : Nat) : (s.note n).acq = s.acq := rfl
@[simp] theorem State.note_boot (n : Nat) : (s.note n).boot = s.boot := rfl
@[simp] theorem State.note_therm (n : Nat) : (s.note n).therm = s.therm := rfl
@[simp] theorem State.note_out (n : Nat) : (s.note n).out = s.out := rfl
@[simp] theorem State.note_freeCtr (n : Nat) : (s.note n).freeCtr = s.freeCtr := rfl

@[simp] theorem State.wrN_pending (off v m n : Nat) : (s.wrN off v m n).pending = s.pending := by
  induction n generalizing s off v m with
  | zero => rfl
  | succ n ih => exact ih _ _ _ _
@[simp] theorem State.wrN_frc (off v m n : Nat) : (s.wrN off v m n).frc = s.frc := by
  induction n generalizing s off v m with
  | zero => rfl
  | succ n ih => exact ih _ _ _ _
@[simp] theorem State.wrN_latch (off v m n : Nat) : (s.wrN off v m n).latch = s.latch := by
  induction n generalizing s off v m with
  | zero => rfl
  | succ n ih => exact ih _ _ _ _
@[simp] theorem State.wrN_mem (off v m n : Nat) : (s.wrN off v m n).mem = s.mem := by
  induction n generalizing s off v m with
  | zero => rfl
  | succ n ih => exact ih _ _ _ _
@[simp] theorem State.wrN_poison (off v m n : Nat) : (s.wrN off v m n).poison = s.poison := by
  induction n generalizing s off v m with
  | zero => rfl
  | succ n ih => exact ih _ _ _ _
@[simp] theorem State.wrN_scrub (off v m n : Nat) : (s.wrN off v m n).scrub = s.scrub := by
  induction n generalizing s off v m with
  | zero => rfl
  | succ n ih => exact ih _ _ _ _
@[simp] theorem State.wrN_tabs (off v m n : Nat) : (s.wrN off v m n).tabs = s.tabs := by
  induction n generalizing s off v m with
  | zero => rfl
  | succ n ih => exact ih _ _ _ _
@[simp] theorem State.wrN_tbs (off v m n : Nat) : (s.wrN off v m n).tbs = s.tbs := by
  induction n generalizing s off v m with
  | zero => rfl
  | succ n ih => exact ih _ _ _ _
@[simp] theorem State.wrN_hst (off v m n : Nat) : (s.wrN off v m n).hst = s.hst := by
  induction n generalizing s off v m with
  | zero => rfl
  | succ n ih => exact ih _ _ _ _
@[simp] theorem State.wrN_sch (off v m n : Nat) : (s.wrN off v m n).sch = s.sch := by
  induction n generalizing s off v m with
  | zero => rfl
  | succ n ih => exact ih _ _ _ _
@[simp] theorem State.wrN_cen (off v m n : Nat) : (s.wrN off v m n).cen = s.cen := by
  induction n generalizing s off v m with
  | zero => rfl
  | succ n ih => exact ih _ _ _ _
@[simp] theorem State.wrN_dp (off v m n : Nat) : (s.wrN off v m n).dp = s.dp := by
  induction n generalizing s off v m with
  | zero => rfl
  | succ n ih => exact ih _ _ _ _
@[simp] theorem State.wrN_trj (off v m n : Nat) : (s.wrN off v m n).trj = s.trj := by
  induction n generalizing s off v m with
  | zero => rfl
  | succ n ih => exact ih _ _ _ _
@[simp] theorem State.wrN_sep (off v m n : Nat) : (s.wrN off v m n).sep = s.sep := by
  induction n generalizing s off v m with
  | zero => rfl
  | succ n ih => exact ih _ _ _ _
@[simp] theorem State.wrN_saf (off v m n : Nat) : (s.wrN off v m n).saf = s.saf := by
  induction n generalizing s off v m with
  | zero => rfl
  | succ n ih => exact ih _ _ _ _
@[simp] theorem State.wrN_fbk (off v m n : Nat) : (s.wrN off v m n).fbk = s.fbk := by
  induction n generalizing s off v m with
  | zero => rfl
  | succ n ih => exact ih _ _ _ _
@[simp] theorem State.wrN_pwm (off v m n : Nat) : (s.wrN off v m n).pwm = s.pwm := by
  induction n generalizing s off v m with
  | zero => rfl
  | succ n ih => exact ih _ _ _ _
@[simp] theorem State.wrN_adc (off v m n : Nat) : (s.wrN off v m n).adc = s.adc := by
  induction n generalizing s off v m with
  | zero => rfl
  | succ n ih => exact ih _ _ _ _
@[simp] theorem State.wrN_twl (off v m n : Nat) : (s.wrN off v m n).twl = s.twl := by
  induction n generalizing s off v m with
  | zero => rfl
  | succ n ih => exact ih _ _ _ _
@[simp] theorem State.wrN_links (off v m n : Nat) : (s.wrN off v m n).links = s.links := by
  induction n generalizing s off v m with
  | zero => rfl
  | succ n ih => exact ih _ _ _ _
@[simp] theorem State.wrN_dmk (off v m n : Nat) : (s.wrN off v m n).dmk = s.dmk := by
  induction n generalizing s off v m with
  | zero => rfl
  | succ n ih => exact ih _ _ _ _
@[simp] theorem State.wrN_lnd (off v m n : Nat) : (s.wrN off v m n).lnd = s.lnd := by
  induction n generalizing s off v m with
  | zero => rfl
  | succ n ih => exact ih _ _ _ _
@[simp] theorem State.wrN_acq (off v m n : Nat) : (s.wrN off v m n).acq = s.acq := by
  induction n generalizing s off v m with
  | zero => rfl
  | succ n ih => exact ih _ _ _ _
@[simp] theorem State.wrN_boot (off v m n : Nat) : (s.wrN off v m n).boot = s.boot := by
  induction n generalizing s off v m with
  | zero => rfl
  | succ n ih => exact ih _ _ _ _
@[simp] theorem State.wrN_therm (off v m n : Nat) : (s.wrN off v m n).therm = s.therm := by
  induction n generalizing s off v m with
  | zero => rfl
  | succ n ih => exact ih _ _ _ _
@[simp] theorem State.wrN_out (off v m n : Nat) : (s.wrN off v m n).out = s.out := by
  induction n generalizing s off v m with
  | zero => rfl
  | succ n ih => exact ih _ _ _ _
@[simp] theorem State.wrN_freeCtr (off v m n : Nat) : (s.wrN off v m n).freeCtr = s.freeCtr := by
  induction n generalizing s off v m with
  | zero => rfl
  | succ n ih => exact ih _ _ _ _

@[simp] theorem State.setF_pending (f : Fld) (v i j : Nat) : (s.setF f v i j).pending = s.pending := State.wrN_pending ..
@[simp] theorem State.setF_frc (f : Fld) (v i j : Nat) : (s.setF f v i j).frc = s.frc := State.wrN_frc ..
@[simp] theorem State.setF_latch (f : Fld) (v i j : Nat) : (s.setF f v i j).latch = s.latch := State.wrN_latch ..
@[simp] theorem State.setF_mem (f : Fld) (v i j : Nat) : (s.setF f v i j).mem = s.mem := State.wrN_mem ..
@[simp] theorem State.setF_poison (f : Fld) (v i j : Nat) : (s.setF f v i j).poison = s.poison := State.wrN_poison ..
@[simp] theorem State.setF_scrub (f : Fld) (v i j : Nat) : (s.setF f v i j).scrub = s.scrub := State.wrN_scrub ..
@[simp] theorem State.setF_tabs (f : Fld) (v i j : Nat) : (s.setF f v i j).tabs = s.tabs := State.wrN_tabs ..
@[simp] theorem State.setF_tbs (f : Fld) (v i j : Nat) : (s.setF f v i j).tbs = s.tbs := State.wrN_tbs ..
@[simp] theorem State.setF_hst (f : Fld) (v i j : Nat) : (s.setF f v i j).hst = s.hst := State.wrN_hst ..
@[simp] theorem State.setF_sch (f : Fld) (v i j : Nat) : (s.setF f v i j).sch = s.sch := State.wrN_sch ..
@[simp] theorem State.setF_cen (f : Fld) (v i j : Nat) : (s.setF f v i j).cen = s.cen := State.wrN_cen ..
@[simp] theorem State.setF_dp (f : Fld) (v i j : Nat) : (s.setF f v i j).dp = s.dp := State.wrN_dp ..
@[simp] theorem State.setF_trj (f : Fld) (v i j : Nat) : (s.setF f v i j).trj = s.trj := State.wrN_trj ..
@[simp] theorem State.setF_sep (f : Fld) (v i j : Nat) : (s.setF f v i j).sep = s.sep := State.wrN_sep ..
@[simp] theorem State.setF_saf (f : Fld) (v i j : Nat) : (s.setF f v i j).saf = s.saf := State.wrN_saf ..
@[simp] theorem State.setF_fbk (f : Fld) (v i j : Nat) : (s.setF f v i j).fbk = s.fbk := State.wrN_fbk ..
@[simp] theorem State.setF_pwm (f : Fld) (v i j : Nat) : (s.setF f v i j).pwm = s.pwm := State.wrN_pwm ..
@[simp] theorem State.setF_adc (f : Fld) (v i j : Nat) : (s.setF f v i j).adc = s.adc := State.wrN_adc ..
@[simp] theorem State.setF_twl (f : Fld) (v i j : Nat) : (s.setF f v i j).twl = s.twl := State.wrN_twl ..
@[simp] theorem State.setF_links (f : Fld) (v i j : Nat) : (s.setF f v i j).links = s.links := State.wrN_links ..
@[simp] theorem State.setF_dmk (f : Fld) (v i j : Nat) : (s.setF f v i j).dmk = s.dmk := State.wrN_dmk ..
@[simp] theorem State.setF_lnd (f : Fld) (v i j : Nat) : (s.setF f v i j).lnd = s.lnd := State.wrN_lnd ..
@[simp] theorem State.setF_acq (f : Fld) (v i j : Nat) : (s.setF f v i j).acq = s.acq := State.wrN_acq ..
@[simp] theorem State.setF_boot (f : Fld) (v i j : Nat) : (s.setF f v i j).boot = s.boot := State.wrN_boot ..
@[simp] theorem State.setF_therm (f : Fld) (v i j : Nat) : (s.setF f v i j).therm = s.therm := State.wrN_therm ..
@[simp] theorem State.setF_out (f : Fld) (v i j : Nat) : (s.setF f v i j).out = s.out := State.wrN_out ..
@[simp] theorem State.setF_freeCtr (f : Fld) (v i j : Nat) : (s.setF f v i j).freeCtr = s.freeCtr := State.wrN_freeCtr ..

@[simp] theorem State.post_pending (a b c d e : Nat) : (s.post a b c d e).pending = s.pending := rfl
@[simp] theorem State.post_frc (a b c d e : Nat) : (s.post a b c d e).frc = s.frc := rfl
@[simp] theorem State.post_regs (a b c d e : Nat) : (s.post a b c d e).regs = s.regs := rfl
@[simp] theorem State.post_latch (a b c d e : Nat) : (s.post a b c d e).latch = s.latch := rfl
@[simp] theorem State.post_upd (a b c d e : Nat) : (s.post a b c d e).upd = s.upd := rfl
@[simp] theorem State.post_mem (a b c d e : Nat) : (s.post a b c d e).mem = s.mem := rfl
@[simp] theorem State.post_poison (a b c d e : Nat) : (s.post a b c d e).poison = s.poison := rfl
@[simp] theorem State.post_scrub (a b c d e : Nat) : (s.post a b c d e).scrub = s.scrub := rfl
@[simp] theorem State.post_tabs (a b c d e : Nat) : (s.post a b c d e).tabs = s.tabs := rfl
@[simp] theorem State.post_tbs (a b c d e : Nat) : (s.post a b c d e).tbs = s.tbs := rfl
@[simp] theorem State.post_sch (a b c d e : Nat) : (s.post a b c d e).sch = s.sch := rfl
@[simp] theorem State.post_cen (a b c d e : Nat) : (s.post a b c d e).cen = s.cen := rfl
@[simp] theorem State.post_dp (a b c d e : Nat) : (s.post a b c d e).dp = s.dp := rfl
@[simp] theorem State.post_trj (a b c d e : Nat) : (s.post a b c d e).trj = s.trj := rfl
@[simp] theorem State.post_sep (a b c d e : Nat) : (s.post a b c d e).sep = s.sep := rfl
@[simp] theorem State.post_saf (a b c d e : Nat) : (s.post a b c d e).saf = s.saf := rfl
@[simp] theorem State.post_fbk (a b c d e : Nat) : (s.post a b c d e).fbk = s.fbk := rfl
@[simp] theorem State.post_pwm (a b c d e : Nat) : (s.post a b c d e).pwm = s.pwm := rfl
@[simp] theorem State.post_adc (a b c d e : Nat) : (s.post a b c d e).adc = s.adc := rfl
@[simp] theorem State.post_twl (a b c d e : Nat) : (s.post a b c d e).twl = s.twl := rfl
@[simp] theorem State.post_links (a b c d e : Nat) : (s.post a b c d e).links = s.links := rfl
@[simp] theorem State.post_dmk (a b c d e : Nat) : (s.post a b c d e).dmk = s.dmk := rfl
@[simp] theorem State.post_lnd (a b c d e : Nat) : (s.post a b c d e).lnd = s.lnd := rfl
@[simp] theorem State.post_acq (a b c d e : Nat) : (s.post a b c d e).acq = s.acq := rfl
@[simp] theorem State.post_boot (a b c d e : Nat) : (s.post a b c d e).boot = s.boot := rfl
@[simp] theorem State.post_therm (a b c d e : Nat) : (s.post a b c d e).therm = s.therm := rfl
@[simp] theorem State.post_out (a b c d e : Nat) : (s.post a b c d e).out = s.out := rfl
@[simp] theorem State.post_freeCtr (a b c d e : Nat) : (s.post a b c d e).freeCtr = s.freeCtr := rfl

end Sys2Proof.Machine
end

