-- ==== Sys2Proof/Laws/Touch.lean ====
section
/-! SUPPORT. What an operation on the state can do, said once for each: the parts outside a list stay as they are, the queue of waiting commands stays, and the stores keep their canonical form. -/

namespace Sys2Proof.Machine

/-- From s to t at most the parts of a list change; the queue stays, and the stores keep their form. -/
structure Touch (W : List Part) (s t : State) : Prop where
  pending : t.pending = s.pending
  stored : Stored s → Stored t
  frame : ∀ p, p ∉ W → p.same s t

variable {W V : List Part} {r s t : State}

theorem Part.same_refl (p : Part) (s : State) : p.same s s := by cases p <;> rfl

theorem Part.same_trans {p : Part} {r s t : State} (h : p.same r s) (g : p.same s t) : p.same r t := by
  cases p <;> exact Eq.trans g h

theorem Touch.refl : Touch W s s := ⟨rfl, id, fun p _ => Part.same_refl p s⟩

/-- One more operation, with a footprint inside the list. -/
theorem Touch.via (g : Touch V s t) (hv : V ⊆ W) (h : Touch W r s) : Touch W r t :=
  ⟨g.pending.trans h.pending, fun x => g.stored (h.stored x),
   fun p hp => Part.same_trans (h.frame p hp) (g.frame p fun x => hp (hv x))⟩

theorem Touch.mono (h : Touch V s t) (hv : V ⊆ W) : Touch W s t := h.via hv .refl

/-- A new state that differs from the old one in listed parts only, none of them a store. -/
theorem Touch.upd (hp : t.pending = s.pending) (hm : t.mem = s.mem) (hr : t.regs = s.regs) (ht : t.tabs = s.tabs)
    (hf : ∀ p, p ∉ W → p.same s t) : Touch W s t :=
  ⟨hp, fun x => ⟨hm ▸ x.1, hr ▸ x.2.1, ht ▸ x.2.2⟩, hf⟩

theorem Touch.ite {c : Prop} [Decidable c] {a b : State} (ha : c → Touch W r a) (hb : ¬c → Touch W r b) :
    Touch W r (if c then a else b) := by split <;> simp_all

theorem Touch.ite_fst {β : Type} {c : Prop} [Decidable c] {a b : State × β} (ha : c → Touch W r a.1) (hb : ¬c → Touch W r b.1) :
    Touch W r (if c then a else b).1 := by split <;> simp_all

theorem State.each_touch {α : Type} {l : List α} {f : α → State → State} (h : Touch W r s)
    (hf : ∀ a t, Touch W r t → Touch W r (f a t)) : Touch W r (s.each l f) := by
  unfold State.each
  induction l generalizing s with
  | nil => exact h
  | cons a l ih => exact ih (hf a s h)

theorem foldl_touch {α : Type} {l : List α} {f : State → α → State} (h : Touch W r s)
    (hf : ∀ a t, Touch W r t → Touch W r (f t a)) : Touch W r (l.foldl f s) := by
  induction l generalizing s with
  | nil => exact h
  | cons a l ih => exact ih (hf a s h)

theorem foldl_snd_touch {α β : Type} {l : List α} {f : β × State → α → β × State} {b : β} (h : Touch W r s)
    (hf : ∀ p a, Touch W r p.2 → Touch W r (f p a).2) : Touch W r (l.foldl f (b, s)).2 := by
  induction l generalizing b s with
  | nil => exact h
  | cons a l ih => exact ih (b := (f (b, s) a).1) (hf (b, s) a h)

theorem foldl_fst_touch {α β : Type} {l : List α} {f : State × β → α → State × β} {b : β} (h : Touch W r s)
    (hf : ∀ p a, Touch W r p.1 → Touch W r (f p a).1) : Touch W r (l.foldl f (s, b)).1 := by
  induction l generalizing b s with
  | nil => exact h
  | cons a l ih => exact ih (b := (f (s, b) a).2) (hf (s, b) a h)

/-! ### One part replaced -/

theorem Touch.frc {x} (hw : .frc ∈ W) (h : Touch W r s) : Touch W r { s with frc := x } :=
  .via (V := [.frc]) (s := s) (.upd rfl rfl rfl rfl fun p hp => by cases p <;> first | rfl | exact absurd (by decide) hp) (by simpa using hw) h
theorem Touch.updBits {x} (hw : .regs ∈ W) (h : Touch W r s) : Touch W r { s with upd := x } :=
  .via (V := [.regs]) (s := s) (.upd rfl rfl rfl rfl fun p hp => by cases p <;> first | rfl | exact absurd (by decide) hp) (by simpa using hw) h
theorem Touch.latch {x} (hw : .latch ∈ W) (h : Touch W r s) : Touch W r { s with latch := x } :=
  .via (V := [.latch]) (s := s) (.upd rfl rfl rfl rfl fun p hp => by cases p <;> first | rfl | exact absurd (by decide) hp) (by simpa using hw) h
theorem Touch.poison {x} (hw : .poison ∈ W) (h : Touch W r s) : Touch W r { s with poison := x } :=
  .via (V := [.poison]) (s := s) (.upd rfl rfl rfl rfl fun p hp => by cases p <;> first | rfl | exact absurd (by decide) hp) (by simpa using hw) h
theorem Touch.scrub {x} (hw : .scrub ∈ W) (h : Touch W r s) : Touch W r { s with scrub := x } :=
  .via (V := [.scrub]) (s := s) (.upd rfl rfl rfl rfl fun p hp => by cases p <;> first | rfl | exact absurd (by decide) hp) (by simpa using hw) h
theorem Touch.tbs {x} (hw : .tbs ∈ W) (h : Touch W r s) : Touch W r { s with tbs := x } :=
  .via (V := [.tbs]) (s := s) (.upd rfl rfl rfl rfl fun p hp => by cases p <;> first | rfl | exact absurd (by decide) hp) (by simpa using hw) h
theorem Touch.hst {x} (hw : .hst ∈ W) (h : Touch W r s) : Touch W r { s with hst := x } :=
  .via (V := [.hst]) (s := s) (.upd rfl rfl rfl rfl fun p hp => by cases p <;> first | rfl | exact absurd (by decide) hp) (by simpa using hw) h
theorem Touch.sch {x} (hw : .sch ∈ W) (h : Touch W r s) : Touch W r { s with sch := x } :=
  .via (V := [.sch]) (s := s) (.upd rfl rfl rfl rfl fun p hp => by cases p <;> first | rfl | exact absurd (by decide) hp) (by simpa using hw) h
theorem Touch.cen {x} (hw : .cen ∈ W) (h : Touch W r s) : Touch W r { s with cen := x } :=
  .via (V := [.cen]) (s := s) (.upd rfl rfl rfl rfl fun p hp => by cases p <;> first | rfl | exact absurd (by decide) hp) (by simpa using hw) h
theorem Touch.dp {x} (hw : .dp ∈ W) (h : Touch W r s) : Touch W r { s with dp := x } :=
  .via (V := [.dp]) (s := s) (.upd rfl rfl rfl rfl fun p hp => by cases p <;> first | rfl | exact absurd (by decide) hp) (by simpa using hw) h
theorem Touch.trj {x} (hw : .trj ∈ W) (h : Touch W r s) : Touch W r { s with trj := x } :=
  .via (V := [.trj]) (s := s) (.upd rfl rfl rfl rfl fun p hp => by cases p <;> first | rfl | exact absurd (by decide) hp) (by simpa using hw) h
theorem Touch.sep {x} (hw : .sep ∈ W) (h : Touch W r s) : Touch W r { s with sep := x } :=
  .via (V := [.sep]) (s := s) (.upd rfl rfl rfl rfl fun p hp => by cases p <;> first | rfl | exact absurd (by decide) hp) (by simpa using hw) h
theorem Touch.saf {x} (hw : .saf ∈ W) (h : Touch W r s) : Touch W r { s with saf := x } :=
  .via (V := [.saf]) (s := s) (.upd rfl rfl rfl rfl fun p hp => by cases p <;> first | rfl | exact absurd (by decide) hp) (by simpa using hw) h
theorem Touch.fbk {x} (hw : .fbk ∈ W) (h : Touch W r s) : Touch W r { s with fbk := x } :=
  .via (V := [.fbk]) (s := s) (.upd rfl rfl rfl rfl fun p hp => by cases p <;> first | rfl | exact absurd (by decide) hp) (by simpa using hw) h
theorem Touch.pwm {x} (hw : .pwm ∈ W) (h : Touch W r s) : Touch W r { s with pwm := x } :=
  .via (V := [.pwm]) (s := s) (.upd rfl rfl rfl rfl fun p hp => by cases p <;> first | rfl | exact absurd (by decide) hp) (by simpa using hw) h
theorem Touch.adc {x} (hw : .adc ∈ W) (h : Touch W r s) : Touch W r { s with adc := x } :=
  .via (V := [.adc]) (s := s) (.upd rfl rfl rfl rfl fun p hp => by cases p <;> first | rfl | exact absurd (by decide) hp) (by simpa using hw) h
theorem Touch.twl {x} (hw : .twl ∈ W) (h : Touch W r s) : Touch W r { s with twl := x } :=
  .via (V := [.twl]) (s := s) (.upd rfl rfl rfl rfl fun p hp => by cases p <;> first | rfl | exact absurd (by decide) hp) (by simpa using hw) h
theorem Touch.links {x} (hw : .links ∈ W) (h : Touch W r s) : Touch W r { s with links := x } :=
  .via (V := [.links]) (s := s) (.upd rfl rfl rfl rfl fun p hp => by cases p <;> first | rfl | exact absurd (by decide) hp) (by simpa using hw) h
theorem Touch.dmk {x} (hw : .dmk ∈ W) (h : Touch W r s) : Touch W r { s with dmk := x } :=
  .via (V := [.dmk]) (s := s) (.upd rfl rfl rfl rfl fun p hp => by cases p <;> first | rfl | exact absurd (by decide) hp) (by simpa using hw) h
theorem Touch.lnd {x} (hw : .lnd ∈ W) (h : Touch W r s) : Touch W r { s with lnd := x } :=
  .via (V := [.lnd]) (s := s) (.upd rfl rfl rfl rfl fun p hp => by cases p <;> first | rfl | exact absurd (by decide) hp) (by simpa using hw) h
theorem Touch.acq {x} (hw : .acq ∈ W) (h : Touch W r s) : Touch W r { s with acq := x } :=
  .via (V := [.acq]) (s := s) (.upd rfl rfl rfl rfl fun p hp => by cases p <;> first | rfl | exact absurd (by decide) hp) (by simpa using hw) h
theorem Touch.boot {x} (hw : .boot ∈ W) (h : Touch W r s) : Touch W r { s with boot := x } :=
  .via (V := [.boot]) (s := s) (.upd rfl rfl rfl rfl fun p hp => by cases p <;> first | rfl | exact absurd (by decide) hp) (by simpa using hw) h
theorem Touch.therm {x} (hw : .therm ∈ W) (h : Touch W r s) : Touch W r { s with therm := x } :=
  .via (V := [.therm]) (s := s) (.upd rfl rfl rfl rfl fun p hp => by cases p <;> first | rfl | exact absurd (by decide) hp) (by simpa using hw) h
theorem Touch.out {x} (hw : .out ∈ W) (h : Touch W r s) : Touch W r { s with out := x } :=
  .via (V := [.out]) (s := s) (.upd rfl rfl rfl rfl fun p hp => by cases p <;> first | rfl | exact absurd (by decide) hp) (by simpa using hw) h
theorem Touch.freeCtr {x} (hw : .freeCtr ∈ W) (h : Touch W r s) : Touch W r { s with freeCtr := x } :=
  .via (V := [.freeCtr]) (s := s) (.upd rfl rfl rfl rfl fun p hp => by cases p <;> first | rfl | exact absurd (by decide) hp) (by simpa using hw) h

end Sys2Proof.Machine
end

