-- ==== Sys2Proof/Laws/TouchOps.lean ====
section
/-! SUPPORT. The footprint of each operation of Machine/Ops.lean: the parts of the state it may change. -/

namespace Sys2Proof.Machine

theorem State.withTbs_touch {s f} : Touch [.tbs] s (State.withTbs s f) := by
  unfold State.withTbs
  repeat first
    | with_reducible apply Touch.refl
    | with_reducible assumption
    | with_reducible apply Touch.ite
    | (with_reducible apply Touch.tbs; · decide)
    | intro _ _ _
    | intro _
    | extract_lets
    | split
    | (dsimp +zetaDelta only; split)

theorem State.note_touch {s n} : Touch [.lnd] s (State.note s n) := by
  unfold State.note
  repeat first
    | with_reducible apply Touch.refl
    | with_reducible assumption
    | with_reducible apply Touch.ite
    | (with_reducible apply Touch.lnd; · decide)
    | intro _ _ _
    | intro _
    | extract_lets
    | split
    | (dsimp +zetaDelta only; split)

theorem State.withHst_touch {s f} : Touch [.hst] s (State.withHst s f) := by
  unfold State.withHst
  repeat first
    | with_reducible apply Touch.refl
    | with_reducible assumption
    | with_reducible apply Touch.ite
    | (with_reducible apply Touch.hst; · decide)
    | intro _ _ _
    | intro _
    | extract_lets
    | split
    | (dsimp +zetaDelta only; split)

theorem State.writeWord_touch {s w v} : Touch [.mem, .poison] s (State.writeWord s w v) := by
  unfold State.writeWord
  exact ⟨rfl, fun h => ⟨writeBytes_wf _ _ _ h.1, h.2⟩, fun p hp => by cases p <;> first | rfl | exact absurd (by decide) hp⟩

theorem State.writeWords_touch {s w l} : Touch [.mem, .poison] s (State.writeWords s w l) := by
  induction l generalizing s w with
  | nil => exact .refl
  | cons v l ih => exact ih.via (by decide) (.via State.writeWord_touch (by decide) .refl)

theorem State.put_touch {s off v m} : Touch [.regs] s (State.put s off v m) := by
  unfold State.put
  exact ⟨rfl, fun h => ⟨h.1, mapWf_mapSet regReset off v h.2.1, h.2.2⟩, fun p hp => by cases p <;> first | rfl | exact absurd (by decide) hp⟩

theorem State.wr_touch {s off v} : Touch [.regs] s (State.wr s off v) := State.put_touch

theorem State.wrN_touch {s off v m n} : Touch [.regs] s (State.wrN s off v m n) := by
  induction n generalizing s off v m with
  | zero => exact .refl
  | succ n ih => exact ih.via (by decide) (.via State.put_touch (by decide) .refl)

theorem State.setF_touch {s f v i j} : Touch [.regs] s (State.setF s f v i j) := by
  unfold State.setF
  repeat first
    | with_reducible apply Touch.refl
    | with_reducible assumption
    | (with_reducible apply Touch.via State.wrN_touch; · decide)
    | with_reducible apply Touch.ite
    | intro _ _ _
    | intro _
    | extract_lets
    | split
    | (dsimp +zetaDelta only; split)

theorem State.setS_touch {s f z i j} : Touch [.regs] s (State.setS s f z i j) := by
  unfold State.setS
  repeat first
    | with_reducible apply Touch.refl
    | with_reducible assumption
    | (with_reducible apply Touch.via State.setF_touch; · decide)
    | with_reducible apply Touch.ite
    | intro _ _ _
    | intro _
    | extract_lets
    | split
    | (dsimp +zetaDelta only; split)

theorem State.flag_touch {s f i j} : Touch [.regs] s (State.flag s f i j) := by
  unfold State.flag
  repeat first
    | with_reducible apply Touch.refl
    | with_reducible assumption
    | (with_reducible apply Touch.via State.setF_touch; · decide)
    | with_reducible apply Touch.ite
    | intro _ _ _
    | intro _
    | extract_lets
    | split
    | (dsimp +zetaDelta only; split)

theorem State.flagIf_touch {s c f i j} : Touch [.regs] s (State.flagIf s c f i j) := by
  unfold State.flagIf
  repeat first
    | with_reducible apply Touch.refl
    | with_reducible assumption
    | (with_reducible apply Touch.via State.flag_touch; · decide)
    | with_reducible apply Touch.ite
    | intro _ _ _
    | intro _
    | extract_lets
    | split
    | (dsimp +zetaDelta only; split)

theorem State.incF_touch {s f i j} : Touch [.regs] s (State.incF s f i j) := by
  unfold State.incF
  repeat first
    | with_reducible apply Touch.refl
    | with_reducible assumption
    | (with_reducible apply Touch.via State.setF_touch; · decide)
    | with_reducible apply Touch.ite
    | intro _ _ _
    | intro _
    | extract_lets
    | split
    | (dsimp +zetaDelta only; split)

theorem State.addF_touch {s f n i j} : Touch [.regs] s (State.addF s f n i j) := by
  unfold State.addF
  repeat first
    | with_reducible apply Touch.refl
    | with_reducible assumption
    | (with_reducible apply Touch.via State.setF_touch; · decide)
    | with_reducible apply Touch.ite
    | intro _ _ _
    | intro _
    | extract_lets
    | split
    | (dsimp +zetaDelta only; split)

theorem State.setTw_touch {s table rec word v} : Touch [.tabs] s (State.setTw s table rec word v) := by
  unfold State.setTw
  exact ⟨rfl, fun h => ⟨h.1, h.2.1, mapWf_mapSet tabDefault (tabKey table rec word) v h.2.2⟩, fun p hp => by cases p <;> first | rfl | exact absurd (by decide) hp⟩

theorem State.emit_touch {s o} : Touch [.out] s (State.emit s o) := by
  unfold State.emit
  repeat first
    | with_reducible apply Touch.refl
    | with_reducible assumption
    | with_reducible apply Touch.ite
    | (with_reducible apply Touch.out; · decide)
    | intro _ _ _
    | intro _
    | extract_lets
    | split
    | (dsimp +zetaDelta only; split)

theorem State.vecDue_touch {s v} : Touch [.hst] s (State.vecDue s v) := by
  unfold State.vecDue
  repeat first
    | with_reducible apply Touch.refl
    | with_reducible assumption
    | with_reducible apply Touch.ite
    | (with_reducible apply Touch.hst; · decide)
    | intro _ _ _
    | intro _
    | extract_lets
    | split
    | (dsimp +zetaDelta only; split)

theorem State.eqWrite_touch {s n e} : Touch [.regs, .hst, .out] s (State.eqWrite s n e) := by
  unfold State.eqWrite
  repeat first
    | with_reducible apply Touch.refl
    | with_reducible assumption
    | (with_reducible apply Touch.via State.vecDue_touch; · decide)
    | (with_reducible apply Touch.via State.setF_touch; · decide)
    | (with_reducible apply Touch.via State.emit_touch; · decide)
    | with_reducible apply Touch.ite
    | intro _ _ _
    | intro _
    | extract_lets
    | split
    | (dsimp +zetaDelta only; split)

theorem State.eqDrop_touch {s n} : Touch [.regs, .hst] s (State.eqDrop s n) := by
  unfold State.eqDrop
  repeat first
    | with_reducible apply Touch.refl
    | with_reducible assumption
    | (with_reducible apply Touch.via State.incF_touch; · decide)
    | (with_reducible apply Touch.via State.withHst_touch; · decide)
    | with_reducible apply Touch.ite
    | intro _ _ _
    | intro _
    | extract_lets
    | split
    | (dsimp +zetaDelta only; split)

theorem State.post_touch {s type source inst code detail} : Touch [.hst] s (State.post s type source inst code detail) := by
  unfold State.post
  repeat first
    | with_reducible apply Touch.refl
    | with_reducible assumption
    | (with_reducible apply Touch.via State.withHst_touch; · decide)
    | with_reducible apply Touch.ite
    | intro _ _ _
    | intro _
    | extract_lets
    | split
    | (dsimp +zetaDelta only; split)

theorem State.writeEvent_touch {s e} : Touch [.regs, .hst, .out] s (State.writeEvent s e) := by
  unfold State.writeEvent
  repeat first
    | with_reducible apply Touch.refl
    | with_reducible assumption
    | (with_reducible apply Touch.via State.eqDrop_touch; · decide)
    | (with_reducible apply Touch.via State.eqWrite_touch; · decide)
    | with_reducible apply Touch.ite
    | intro _ _ _
    | intro _
    | extract_lets
    | split
    | (dsimp +zetaDelta only; split)

theorem State.flushEvents_touch {s} : Touch [.regs, .hst, .out] s (State.flushEvents s) := by
  unfold State.flushEvents
  repeat first
    | with_reducible apply Touch.refl
    | with_reducible assumption
    | (with_reducible apply Touch.via State.withHst_touch; · decide)
    | (with_reducible apply Touch.via State.writeEvent_touch; · decide)
    | with_reducible apply Touch.ite
    | with_reducible apply foldl_touch
    | intro _ _ _
    | intro _
    | extract_lets
    | split
    | (dsimp +zetaDelta only; split)

theorem State.postG_touch {s type code detail} : Touch [.hst] s (State.postG s type code detail) := by
  unfold State.postG
  repeat first
    | with_reducible apply Touch.refl
    | with_reducible assumption
    | (with_reducible apply Touch.via State.post_touch; · decide)
    | with_reducible apply Touch.ite
    | intro _ _ _
    | intro _
    | extract_lets
    | split
    | (dsimp +zetaDelta only; split)

theorem State.fault_touch {s code block value inst} : Touch [.regs, .hst, .lnd] s (State.fault s code block value inst) := by
  unfold State.fault
  repeat first
    | with_reducible apply Touch.refl
    | with_reducible assumption
    | (with_reducible apply Touch.via State.note_touch; · decide)
    | (with_reducible apply Touch.via State.postG_touch; · decide)
    | (with_reducible apply Touch.via State.incF_touch; · decide)
    | (with_reducible apply Touch.via State.flag_touch; · decide)
    | (with_reducible apply Touch.via State.setF_touch; · decide)
    | with_reducible apply Touch.ite
    | intro _ _ _
    | intro _
    | extract_lets
    | split
    | (dsimp +zetaDelta only; split)

theorem State.reject_touch {s off code} : Touch [.regs, .hst] s (State.reject s off code) := by
  unfold State.reject
  repeat first
    | with_reducible apply Touch.refl
    | with_reducible assumption
    | (with_reducible apply Touch.via State.postG_touch; · decide)
    | (with_reducible apply Touch.via State.flag_touch; · decide)
    | (with_reducible apply Touch.via State.withHst_touch; · decide)
    | (with_reducible apply Touch.via State.setF_touch; · decide)
    | (with_reducible apply Touch.via State.incF_touch; · decide)
    | with_reducible apply Touch.ite
    | intro _ _ _
    | intro _
    | extract_lets
    | split
    | (dsimp +zetaDelta only; split)

theorem State.completeHeld_touch {s key code d0 d1} : Touch [.hst] s (State.completeHeld s key code d0 d1) := by
  unfold State.completeHeld
  repeat first
    | with_reducible apply Touch.refl
    | with_reducible assumption
    | (with_reducible apply Touch.via State.withHst_touch; · decide)
    | with_reducible apply Touch.ite
    | intro _ _ _
    | intro _
    | extract_lets
    | split
    | (dsimp +zetaDelta only; split)

theorem State.tick1_touch {s} : Touch [.freeCtr] s (State.tick1 s) := by
  unfold State.tick1
  repeat first
    | with_reducible apply Touch.refl
    | with_reducible assumption
    | with_reducible apply Touch.ite
    | (with_reducible apply Touch.freeCtr; · decide)
    | intro _ _ _
    | intro _
    | extract_lets
    | split
    | (dsimp +zetaDelta only; split)


end Sys2Proof.Machine
end

