-- ==== Sys2Proof/Laws/TouchTbs.lean ====
section
/-! SUPPORT. The footprint of each operation of Machine/Tbs.lean: the parts of the state it may change. -/

namespace Sys2Proof.Machine

theorem armChange_touch {c s} : Touch [.regs, .tbs] s (armChange c s) := by
  unfold armChange
  repeat first
    | with_reducible apply Touch.refl
    | with_reducible assumption
    | (with_reducible apply Touch.via State.withTbs_touch; · decide)
    | (with_reducible apply Touch.via State.setF_touch; · decide)
    | with_reducible apply Touch.ite
    | intro _ _ _
    | intro _
    | extract_lets
    | split
    | (dsimp +zetaDelta only; split)

theorem cancelChange_touch {s} : Touch [.regs, .tbs] s (cancelChange s) := by
  unfold cancelChange
  repeat first
    | with_reducible apply Touch.refl
    | with_reducible assumption
    | (with_reducible apply Touch.via State.withTbs_touch; · decide)
    | (with_reducible apply Touch.via State.setF_touch; · decide)
    | with_reducible apply Touch.ite
    | intro _ _ _
    | intro _
    | extract_lets
    | split
    | (dsimp +zetaDelta only; split)

theorem applyChange_touch {c s} : Touch [.regs, .tbs] s (applyChange c s) := by
  unfold applyChange
  repeat first
    | with_reducible apply Touch.refl
    | with_reducible assumption
    | (with_reducible apply Touch.via State.flag_touch; · decide)
    | (with_reducible apply Touch.via State.setF_touch; · decide)
    | (with_reducible apply Touch.via State.withTbs_touch; · decide)
    | with_reducible apply Touch.ite
    | intro _ _ _
    | intro _
    | extract_lets
    | split
    | (dsimp +zetaDelta only; split)

theorem endSlew_touch {s} : Touch [.regs, .tbs] s (endSlew s) := by
  unfold endSlew
  repeat first
    | with_reducible apply Touch.refl
    | with_reducible assumption
    | (with_reducible apply Touch.via State.setF_touch; · decide)
    | (with_reducible apply Touch.via State.flag_touch; · decide)
    | (with_reducible apply Touch.via State.withTbs_touch; · decide)
    | with_reducible apply Touch.ite
    | intro _ _ _
    | intro _
    | extract_lets
    | split
    | (dsimp +zetaDelta only; split)

theorem startCycle_touch {s} : Touch [.regs, .tbs] s (startCycle s) := by
  unfold startCycle
  repeat first
    | with_reducible apply Touch.refl
    | with_reducible assumption
    | (with_reducible apply Touch.via State.withTbs_touch; · decide)
    | (with_reducible apply Touch.via State.setF_touch; · decide)
    | with_reducible apply Touch.ite
    | intro _ _ _
    | intro _
    | extract_lets
    | split
    | (dsimp +zetaDelta only; split)

theorem periodFollow_touch {s} : Touch [.regs] s (periodFollow s) := by
  unfold periodFollow
  repeat first
    | with_reducible apply Touch.refl
    | with_reducible assumption
    | (with_reducible apply Touch.via State.setF_touch; · decide)
    | with_reducible apply Touch.ite
    | intro _ _ _
    | intro _
    | extract_lets
    | split
    | (dsimp +zetaDelta only; split)

theorem latchAt_touch {off v s} : Touch [.latch] s (latchAt off v s) := by
  unfold latchAt
  repeat first
    | with_reducible apply Touch.refl
    | with_reducible assumption
    | with_reducible apply Touch.ite
    | (with_reducible apply Touch.latch; · decide)
    | intro _ _ _
    | intro _
    | extract_lets
    | split
    | (dsimp +zetaDelta only; split)

theorem tbsFollow_touch {base u v old s} : Touch [.regs, .tbs] s (tbsFollow base u v old s) := by
  unfold tbsFollow
  repeat first
    | with_reducible apply Touch.refl
    | with_reducible assumption
    | (with_reducible apply Touch.via State.withTbs_touch; · decide)
    | (with_reducible apply Touch.via startCycle_touch; · decide)
    | (with_reducible apply Touch.via periodFollow_touch; · decide)
    | (with_reducible apply Touch.via cancelChange_touch; · decide)
    | (with_reducible apply Touch.via armChange_touch; · decide)
    | with_reducible apply Touch.ite
    | intro _ _ _
    | intro _
    | extract_lets
    | split
    | (dsimp +zetaDelta only; split)

end Sys2Proof.Machine
end

