-- ==== Sys2Proof/Laws/TouchSch.lean ====
section
/-! SUPPORT. The footprint of each operation of Machine/Sch.lean: the parts of the state it may change. -/

namespace Sys2Proof.Machine

theorem State.withSch_touch {s f} : Touch [.sch] s (State.withSch s f) := by
  unfold State.withSch
  repeat first
    | with_reducible apply Touch.refl
    | with_reducible assumption
    | with_reducible apply Touch.ite
    | (with_reducible apply Touch.sch; · decide)
    | intro _ _ _
    | intro _
    | extract_lets
    | split
    | (dsimp +zetaDelta only; split)

theorem State.setCtxSt_touch {s n st} : Touch [.regs] s (State.setCtxSt s n st) := by
  unfold State.setCtxSt
  repeat first
    | with_reducible apply Touch.refl
    | with_reducible assumption
    | (with_reducible apply Touch.via State.setF_touch; · decide)
    | with_reducible apply Touch.ite
    | intro _ _ _
    | intro _
    | extract_lets
    | split
    | (dsimp +zetaDelta only; split)

theorem State.setReady_touch {s key l} : Touch [.sch] s (State.setReady s key l) := by
  unfold State.setReady
  repeat first
    | with_reducible apply Touch.refl
    | with_reducible assumption
    | (with_reducible apply Touch.via State.withSch_touch; · decide)
    | with_reducible apply Touch.ite
    | intro _ _ _
    | intro _
    | extract_lets
    | split
    | (dsimp +zetaDelta only; split)

theorem State.setDelay_touch {s key l} : Touch [.sch] s (State.setDelay s key l) := by
  unfold State.setDelay
  repeat first
    | with_reducible apply Touch.refl
    | with_reducible assumption
    | (with_reducible apply Touch.via State.withSch_touch; · decide)
    | with_reducible apply Touch.ite
    | intro _ _ _
    | intro _
    | extract_lets
    | split
    | (dsimp +zetaDelta only; split)

theorem unlist_touch {n s} : Touch [.sch] s (unlist n s) := by
  unfold unlist
  repeat first
    | with_reducible apply Touch.refl
    | with_reducible assumption
    | (with_reducible apply Touch.via State.withSch_touch; · decide)
    | with_reducible apply Touch.ite
    | intro _ _ _
    | intro _
    | extract_lets
    | split
    | (dsimp +zetaDelta only; split)

theorem makeReady_touch {n head s} : Touch [.regs, .sch] s (makeReady n head s) := by
  unfold makeReady
  repeat first
    | with_reducible apply Touch.refl
    | with_reducible assumption
    | (with_reducible apply Touch.via State.withSch_touch; · decide)
    | (with_reducible apply Touch.via State.setReady_touch; · decide)
    | (with_reducible apply Touch.via State.setCtxSt_touch; · decide)
    | with_reducible apply Touch.ite
    | intro _ _ _
    | intro _
    | extract_lets
    | split
    | (dsimp +zetaDelta only; split)

theorem updateReserv_touch {s} : Touch [.sch] s (updateReserv s) := by
  unfold updateReserv
  repeat first
    | with_reducible apply Touch.refl
    | with_reducible assumption
    | (with_reducible apply Touch.via State.withSch_touch; · decide)
    | with_reducible apply Touch.ite
    | intro _ _ _
    | intro _
    | extract_lets
    | split
    | (dsimp +zetaDelta only; split)

theorem delayCtx_touch {n wake s} : Touch [.regs, .sch] s (delayCtx n wake s) := by
  unfold delayCtx
  repeat first
    | with_reducible apply Touch.refl
    | with_reducible assumption
    | (with_reducible apply Touch.via State.setDelay_touch; · decide)
    | (with_reducible apply Touch.via State.setCtxSt_touch; · decide)
    | (with_reducible apply Touch.via State.withSch_touch; · decide)
    | with_reducible apply Touch.ite
    | intro _ _ _
    | intro _
    | extract_lets
    | split
    | (dsimp +zetaDelta only; split)

theorem markReleased_touch {n s} : Touch [.sch] s (markReleased n s) := by
  unfold markReleased
  repeat first
    | with_reducible apply Touch.refl
    | with_reducible assumption
    | (with_reducible apply Touch.via State.withSch_touch; · decide)
    | with_reducible apply Touch.ite
    | intro _ _ _
    | intro _
    | extract_lets
    | split
    | (dsimp +zetaDelta only; split)

theorem releaseCtx_touch {n s} : Touch [.regs, .sch] s (releaseCtx n s) := by
  unfold releaseCtx
  repeat first
    | with_reducible apply Touch.refl
    | with_reducible assumption
    | (with_reducible apply Touch.via delayCtx_touch; · decide)
    | (with_reducible apply Touch.via makeReady_touch; · decide)
    | (with_reducible apply Touch.via markReleased_touch; · decide)
    | with_reducible apply Touch.ite
    | intro _ _ _
    | intro _
    | extract_lets
    | split
    | (dsimp +zetaDelta only; split)

theorem discardDec_touch {n count s} : Touch [.regs, .sch] s (discardDec n count s) := by
  unfold discardDec
  repeat first
    | with_reducible apply Touch.refl
    | with_reducible assumption
    | (with_reducible apply Touch.via State.withSch_touch; · decide)
    | (with_reducible apply Touch.via State.setF_touch; · decide)
    | (with_reducible apply Touch.via State.flag_touch; · decide)
    | with_reducible apply Touch.ite
    | intro _ _ _
    | intro _
    | extract_lets
    | split
    | (dsimp +zetaDelta only; split)

theorem postUnder_touch {s} : Touch [.hst, .sch] s (postUnder s) := by
  unfold postUnder
  repeat first
    | with_reducible apply Touch.refl
    | with_reducible assumption
    | (with_reducible apply Touch.via State.post_touch; · decide)
    | with_reducible apply State.each_touch
    | (with_reducible apply Touch.via State.withSch_touch; · decide)
    | with_reducible apply Touch.ite
    | intro _ _ _
    | intro _
    | extract_lets
    | split
    | (dsimp +zetaDelta only; split)

theorem decOne_touch {n count s} : Touch [.regs, .sch] s (decOne n count s).2 := by
  unfold decOne
  repeat first
    | with_reducible apply Touch.refl
    | with_reducible assumption
    | (with_reducible apply Touch.via State.setF_touch; · decide)
    | (with_reducible apply Touch.via discardDec_touch; · decide)
    | with_reducible apply Touch.ite
    | intro _ _ _
    | intro _
    | extract_lets
    | split
    | (dsimp +zetaDelta only; split)

theorem applyDecs_touch {dec s} : Touch [.regs, .sch] s (applyDecs dec s) := by
  unfold applyDecs
  exact .via updateReserv_touch (by decide) (State.each_touch
    (foldl_snd_touch .refl fun p a h => .via (W := [.regs, .sch]) decOne_touch (by decide) h) fun a t h => .via releaseCtx_touch (by decide) h)

theorem raiseNow_touch {mask s} : Touch [.regs, .sch] s (raiseNow mask s) := by
  unfold raiseNow
  repeat first
    | with_reducible apply Touch.refl
    | with_reducible assumption
    | (with_reducible apply Touch.via applyDecs_touch; · decide)
    | with_reducible apply Touch.ite
    | intro _ _ _
    | intro _
    | extract_lets
    | split
    | (dsimp +zetaDelta only; split)

theorem raiseSignals_touch {mask s} : Touch [.regs, .sch, .lnd] s (raiseSignals mask s) := by
  unfold raiseSignals
  repeat first
    | with_reducible apply Touch.refl
    | with_reducible assumption
    | (with_reducible apply Touch.via raiseNow_touch; · decide)
    | with_reducible apply Touch.ite
    | (with_reducible apply Touch.lnd; · decide)
    | intro _ _ _
    | intro _
    | extract_lets
    | split
    | (dsimp +zetaDelta only; split)

theorem enableCtx_touch {n s} : Touch [.regs, .sch] s (enableCtx n s) := by
  unfold enableCtx
  repeat first
    | with_reducible apply Touch.refl
    | with_reducible assumption
    | (with_reducible apply Touch.via delayCtx_touch; · decide)
    | (with_reducible apply Touch.via State.setCtxSt_touch; · decide)
    | (with_reducible apply Touch.via State.withSch_touch; · decide)
    | (with_reducible apply Touch.via State.setF_touch; · decide)
    | with_reducible apply Touch.ite
    | intro _ _ _
    | intro _
    | extract_lets
    | split
    | (dsimp +zetaDelta only; split)

theorem disableCtx_touch {n s} : Touch [.regs, .sch] s (disableCtx n s) := by
  unfold disableCtx
  repeat first
    | with_reducible apply Touch.refl
    | with_reducible assumption
    | (with_reducible apply Touch.via unlist_touch; · decide)
    | (with_reducible apply Touch.via State.setCtxSt_touch; · decide)
    | (with_reducible apply Touch.via updateReserv_touch; · decide)
    | (with_reducible apply Touch.via State.setF_touch; · decide)
    | with_reducible apply Touch.ite
    | intro _ _ _
    | intro _
    | extract_lets
    | split
    | (dsimp +zetaDelta only; split)

theorem releaseMask_touch {mask s} : Touch [.regs, .sch] s (releaseMask mask s) := by
  unfold releaseMask
  repeat first
    | with_reducible apply Touch.refl
    | with_reducible assumption
    | (with_reducible apply Touch.via applyDecs_touch; · decide)
    | with_reducible apply Touch.ite
    | intro _ _ _
    | intro _
    | extract_lets
    | split
    | (dsimp +zetaDelta only; split)

theorem enableAll_touch {progOk l s} : Touch [.regs, .sch] s (enableAll progOk l s).2 := by
  induction l generalizing s with
  | nil => exact .refl
  | cons n l ih => exact ih.via (by decide) (.via enableCtx_touch (by decide) .refl)

theorem schFollow_touch {base n v old s} : Touch [.regs, .sch] s (schFollow base n v old s) := by
  unfold schFollow
  repeat first
    | with_reducible apply Touch.refl
    | with_reducible assumption
    | (with_reducible apply Touch.via State.setF_touch; · decide)
    | (with_reducible apply Touch.via disableCtx_touch; · decide)
    | (with_reducible apply Touch.via enableCtx_touch; · decide)
    | with_reducible apply Touch.ite
    | intro _ _ _
    | intro _
    | extract_lets
    | split
    | (dsimp +zetaDelta only; split)

theorem startRun_touch {n lane s} : Touch [.regs, .sch] s (startRun n lane s) := by
  unfold startRun
  repeat first
    | with_reducible apply Touch.refl
    | with_reducible assumption
    | (with_reducible apply Touch.via State.withSch_touch; · decide)
    | (with_reducible apply Touch.via State.incF_touch; · decide)
    | (with_reducible apply Touch.via unlist_touch; · decide)
    | (with_reducible apply Touch.via State.setCtxSt_touch; · decide)
    | (with_reducible apply Touch.via State.setF_touch; · decide)
    | with_reducible apply Touch.ite
    | intro _ _ _
    | intro _
    | extract_lets
    | split
    | (dsimp +zetaDelta only; split)

theorem completeCtx_touch {n s} : Touch [.regs, .hst, .sch] s (completeCtx n s) := by
  unfold completeCtx
  repeat first
    | with_reducible apply Touch.refl
    | with_reducible assumption
    | (with_reducible apply Touch.via State.flag_touch; · decide)
    | (with_reducible apply Touch.via State.post_touch; · decide)
    | (with_reducible apply Touch.via delayCtx_touch; · decide)
    | (with_reducible apply Touch.via State.setF_touch; · decide)
    | (with_reducible apply Touch.via State.setCtxSt_touch; · decide)
    | (with_reducible apply Touch.via State.withSch_touch; · decide)
    | (with_reducible apply Touch.via applyDecs_touch; · decide)
    | with_reducible apply Touch.ite
    | intro _ _ _
    | intro _
    | extract_lets
    | split
    | (dsimp +zetaDelta only; split)

theorem haltCtx_touch {n number s0} : Touch [.regs, .hst, .sch, .lnd] s0 (haltCtx n number s0) := by
  unfold haltCtx
  repeat first
    | with_reducible apply Touch.refl
    | with_reducible assumption
    | (with_reducible apply Touch.via State.flag_touch; · decide)
    | (with_reducible apply Touch.via State.post_touch; · decide)
    | (with_reducible apply Touch.via State.setCtxSt_touch; · decide)
    | (with_reducible apply Touch.via State.setF_touch; · decide)
    | (with_reducible apply Touch.via updateReserv_touch; · decide)
    | (with_reducible apply Touch.via State.note_touch; · decide)
    | with_reducible apply Touch.ite
    | intro _ _ _
    | intro _
    | extract_lets
    | split
    | (dsimp +zetaDelta only; split)

theorem ageCtx_touch {n s} : Touch [.regs, .sch] s (ageCtx n s) := by
  unfold ageCtx
  repeat first
    | with_reducible apply Touch.refl
    | with_reducible assumption
    | (with_reducible apply Touch.via State.setF_touch; · decide)
    | (with_reducible apply Touch.via State.flag_touch; · decide)
    | (with_reducible apply Touch.via State.setReady_touch; · decide)
    | (with_reducible apply Touch.via unlist_touch; · decide)
    | (with_reducible apply Touch.via State.withSch_touch; · decide)
    | with_reducible apply Touch.ite
    | intro _ _ _
    | intro _
    | extract_lets
    | split
    | (dsimp +zetaDelta only; split)

theorem ageStep_touch {s} : Touch [.regs, .sch] s (ageStep s) := by
  unfold ageStep
  repeat first
    | with_reducible apply Touch.refl
    | with_reducible assumption
    | (with_reducible apply Touch.via ageCtx_touch; · decide)
    | with_reducible apply State.each_touch
    | (with_reducible apply Touch.via State.withSch_touch; · decide)
    | (with_reducible apply Touch.via updateReserv_touch; · decide)
    | with_reducible apply Touch.ite
    | intro _ _ _
    | intro _
    | extract_lets
    | split
    | (dsimp +zetaDelta only; split)

theorem wakeList_touch {key w s} : Touch [.regs, .sch] s (wakeList key w s) := by
  unfold wakeList
  repeat first
    | with_reducible apply Touch.refl
    | with_reducible assumption
    | (with_reducible apply Touch.via markReleased_touch; · decide)
    | (with_reducible apply Touch.via makeReady_touch; · decide)
    | with_reducible apply State.each_touch
    | (with_reducible apply Touch.via State.setDelay_touch; · decide)
    | with_reducible apply Touch.ite
    | intro _ _ _
    | intro _
    | extract_lets
    | split
    | (dsimp +zetaDelta only; split)

theorem tickStep_touch {s} : Touch [.regs, .sch] s (tickStep s) := by
  unfold tickStep
  repeat first
    | with_reducible apply Touch.refl
    | with_reducible assumption
    | (with_reducible apply Touch.via wakeList_touch; · decide)
    | (with_reducible apply Touch.via ageStep_touch; · decide)
    | with_reducible apply State.each_touch
    | (with_reducible apply Touch.via updateReserv_touch; · decide)
    | (with_reducible apply Touch.via State.withSch_touch; · decide)
    | with_reducible apply Touch.ite
    | intro _ _ _
    | intro _
    | extract_lets
    | split
    | (dsimp +zetaDelta only; split)

theorem lateContexts_touch {s} : Touch [.regs, .hst] s (lateContexts s) := by
  unfold lateContexts
  repeat first
    | with_reducible apply Touch.refl
    | with_reducible assumption
    | (with_reducible apply Touch.via State.flag_touch; · decide)
    | (with_reducible apply Touch.via State.post_touch; · decide)
    | with_reducible apply State.each_touch
    | with_reducible apply Touch.ite
    | intro _ _ _
    | intro _
    | extract_lets
    | split
    | (dsimp +zetaDelta only; split)

end Sys2Proof.Machine
end

