-- ==== Sys2Proof/Laws/TouchTrj.lean ====
section
/-! SUPPORT. The footprint of each operation of Machine/Trj.lean: the parts of the state it may change. -/

namespace Sys2Proof.Machine

theorem State.withTrj_touch {s f} : Touch [.trj] s (State.withTrj s f) := by
  unfold State.withTrj
  repeat first
    | with_reducible apply Touch.refl
    | with_reducible assumption
    | with_reducible apply Touch.ite
    | (with_reducible apply Touch.trj; · decide)
    | intro _ _ _
    | intro _
    | extract_lets
    | split
    | (dsimp +zetaDelta only; split)

theorem State.setAx_touch {s a x} : Touch [.trj] s (State.setAx s a x) := by
  unfold State.setAx
  repeat first
    | with_reducible apply Touch.refl
    | with_reducible assumption
    | (with_reducible apply Touch.via State.withTrj_touch; · decide)
    | with_reducible apply Touch.ite
    | intro _ _ _
    | intro _
    | extract_lets
    | split
    | (dsimp +zetaDelta only; split)

theorem State.modAx_touch {s a f} : Touch [.trj] s (State.modAx s a f) := by
  unfold State.modAx
  repeat first
    | with_reducible apply Touch.refl
    | with_reducible assumption
    | (with_reducible apply Touch.via State.setAx_touch; · decide)
    | with_reducible apply Touch.ite
    | intro _ _ _
    | intro _
    | extract_lets
    | split
    | (dsimp +zetaDelta only; split)

theorem State.modGrp_touch {s g f} : Touch [.trj] s (State.modGrp s g f) := by
  unfold State.modGrp
  repeat first
    | with_reducible apply Touch.refl
    | with_reducible assumption
    | (with_reducible apply Touch.via State.withTrj_touch; · decide)
    | with_reducible apply Touch.ite
    | intro _ _ _
    | intro _
    | extract_lets
    | split
    | (dsimp +zetaDelta only; split)

theorem State.setCmp_touch {s c x} : Touch [.trj] s (State.setCmp s c x) := by
  unfold State.setCmp
  repeat first
    | with_reducible apply Touch.refl
    | with_reducible assumption
    | (with_reducible apply Touch.via State.withTrj_touch; · decide)
    | with_reducible apply Touch.ite
    | intro _ _ _
    | intro _
    | extract_lets
    | split
    | (dsimp +zetaDelta only; split)

theorem State.setAux_touch {s n x} : Touch [.trj] s (State.setAux s n x) := by
  unfold State.setAux
  repeat first
    | with_reducible apply Touch.refl
    | with_reducible assumption
    | (with_reducible apply Touch.via State.withTrj_touch; · decide)
    | with_reducible apply Touch.ite
    | intro _ _ _
    | intro _
    | extract_lets
    | split
    | (dsimp +zetaDelta only; split)

theorem State.setPlan_touch {s a p} : Touch [.regs, .trj] s (State.setPlan s a p) := by
  unfold State.setPlan
  repeat first
    | with_reducible apply Touch.refl
    | with_reducible assumption
    | (with_reducible apply Touch.via State.modAx_touch; · decide)
    | (with_reducible apply Touch.via State.setF_touch; · decide)
    | with_reducible apply Touch.ite
    | intro _ _ _
    | intro _
    | extract_lets
    | split
    | (dsimp +zetaDelta only; split)

theorem State.setGst_touch {s g st} : Touch [.regs] s (State.setGst s g st) := by
  unfold State.setGst
  repeat first
    | with_reducible apply Touch.refl
    | with_reducible assumption
    | (with_reducible apply Touch.via State.setF_touch; · decide)
    | with_reducible apply Touch.ite
    | intro _ _ _
    | intro _
    | extract_lets
    | split
    | (dsimp +zetaDelta only; split)

theorem State.setScale_touch {s g v} : Touch [.regs] s (State.setScale s g v) := by
  unfold State.setScale
  repeat first
    | with_reducible apply Touch.refl
    | with_reducible assumption
    | (with_reducible apply Touch.via State.setF_touch; · decide)
    | with_reducible apply Touch.ite
    | intro _ _ _
    | intro _
    | extract_lets
    | split
    | (dsimp +zetaDelta only; split)

theorem dropPlans_touch {g s} : Touch [.regs, .trj] s (dropPlans g s) := by
  unfold dropPlans
  repeat first
    | with_reducible apply Touch.refl
    | with_reducible assumption
    | (with_reducible apply Touch.via State.setAux_touch; · decide)
    | (with_reducible apply Touch.via State.setF_touch; · decide)
    | (with_reducible apply Touch.via State.setPlan_touch; · decide)
    | with_reducible apply State.each_touch
    | with_reducible apply Touch.ite
    | intro _ _ _
    | intro _
    | extract_lets
    | split
    | (dsimp +zetaDelta only; split)

theorem clearCauses_touch {g s} : Touch [.regs] s (clearCauses g s) := by
  unfold clearCauses
  repeat first
    | with_reducible apply Touch.refl
    | with_reducible assumption
    | (with_reducible apply Touch.via State.setF_touch; · decide)
    | with_reducible apply Touch.ite
    | intro _ _ _
    | intro _
    | extract_lets
    | split
    | (dsimp +zetaDelta only; split)

theorem homeFail_touch {a reason s} : Touch [.regs, .hst, .trj] s (homeFail a reason s) := by
  unfold homeFail
  repeat first
    | with_reducible apply Touch.refl
    | with_reducible assumption
    | (with_reducible apply Touch.via State.flag_touch; · decide)
    | (with_reducible apply Touch.via State.setF_touch; · decide)
    | (with_reducible apply Touch.via State.post_touch; · decide)
    | (with_reducible apply Touch.via State.setPlan_touch; · decide)
    | with_reducible apply Touch.ite
    | intro _ _ _
    | intro _
    | extract_lets
    | split
    | (dsimp +zetaDelta only; split)

theorem failHomings_touch {g s} : Touch [.regs, .hst, .trj] s (failHomings g s) := by
  unfold failHomings
  repeat first
    | with_reducible apply Touch.refl
    | with_reducible assumption
    | (with_reducible apply Touch.via homeFail_touch; · decide)
    | with_reducible apply State.each_touch
    | with_reducible apply Touch.ite
    | intro _ _ _
    | intro _
    | extract_lets
    | split
    | (dsimp +zetaDelta only; split)

theorem groupTrack_touch {g s} : Touch [.regs, .hst, .trj] s (groupTrack g s) := by
  unfold groupTrack
  repeat first
    | with_reducible apply Touch.refl
    | with_reducible assumption
    | (with_reducible apply Touch.via State.setGst_touch; · decide)
    | (with_reducible apply Touch.via State.setScale_touch; · decide)
    | (with_reducible apply Touch.via State.modGrp_touch; · decide)
    | (with_reducible apply Touch.via failHomings_touch; · decide)
    | (with_reducible apply Touch.via dropPlans_touch; · decide)
    | (with_reducible apply Touch.via clearCauses_touch; · decide)
    | with_reducible apply Touch.ite
    | intro _ _ _
    | intro _
    | extract_lets
    | split
    | (dsimp +zetaDelta only; split)

theorem groupStop_touch {g s} : Touch [.regs, .hst, .trj] s (groupStop g s) := by
  unfold groupStop
  repeat first
    | with_reducible apply Touch.refl
    | with_reducible assumption
    | (with_reducible apply Touch.via failHomings_touch; · decide)
    | (with_reducible apply Touch.via State.setGst_touch; · decide)
    | with_reducible apply Touch.ite
    | intro _ _ _
    | intro _
    | extract_lets
    | split
    | (dsimp +zetaDelta only; split)

theorem groupFollow_touch {g s} : Touch [.regs, .hst, .trj] s (groupFollow g s) := by
  unfold groupFollow
  repeat first
    | with_reducible apply Touch.refl
    | with_reducible assumption
    | (with_reducible apply Touch.via clearCauses_touch; · decide)
    | (with_reducible apply Touch.via State.setF_touch; · decide)
    | (with_reducible apply Touch.via State.setGst_touch; · decide)
    | (with_reducible apply Touch.via groupStop_touch; · decide)
    | (with_reducible apply Touch.via groupTrack_touch; · decide)
    | with_reducible apply Touch.ite
    | intro _ _ _
    | intro _
    | extract_lets
    | split
    | (dsimp +zetaDelta only; split)

theorem groupHold_touch {g cause s} : Touch [.regs] s (groupHold g cause s) := by
  unfold groupHold
  repeat first
    | with_reducible apply Touch.refl
    | with_reducible assumption
    | (with_reducible apply Touch.via State.setGst_touch; · decide)
    | (with_reducible apply Touch.via State.setF_touch; · decide)
    | with_reducible apply Touch.ite
    | intro _ _ _
    | intro _
    | extract_lets
    | split
    | (dsimp +zetaDelta only; split)

theorem groupMembers_touch {g s} : Touch [.regs, .hst, .trj] s (groupMembers g s) := by
  unfold groupMembers
  repeat first
    | with_reducible apply Touch.refl
    | with_reducible assumption
    | (with_reducible apply Touch.via State.setGst_touch; · decide)
    | (with_reducible apply Touch.via groupFollow_touch; · decide)
    | with_reducible apply Touch.ite
    | intro _ _ _
    | intro _
    | extract_lets
    | split
    | (dsimp +zetaDelta only; split)

theorem limitFault_touch {g inst s} : Touch [.regs, .hst, .lnd] s (limitFault g inst s) := by
  unfold limitFault
  repeat first
    | with_reducible apply Touch.refl
    | with_reducible assumption
    | (with_reducible apply Touch.via State.fault_touch; · decide)
    | (with_reducible apply Touch.via State.flag_touch; · decide)
    | (with_reducible apply Touch.via groupHold_touch; · decide)
    | with_reducible apply Touch.ite
    | intro _ _ _
    | intro _
    | extract_lets
    | split
    | (dsimp +zetaDelta only; split)

theorem checkRsafe_touch {g s} : Touch [.regs, .hst, .trj, .lnd] s (checkRsafe g s) := by
  unfold checkRsafe
  repeat first
    | with_reducible apply Touch.refl
    | with_reducible assumption
    | (with_reducible apply Touch.via State.modGrp_touch; · decide)
    | (with_reducible apply Touch.via limitFault_touch; · decide)
    | with_reducible apply Touch.ite
    | intro _ _ _
    | intro _
    | extract_lets
    | split
    | (dsimp +zetaDelta only; split)

theorem takeFactor_touch {g s} : Touch [.regs, .hst, .trj, .lnd] s (takeFactor g s) := by
  unfold takeFactor
  repeat first
    | with_reducible apply Touch.refl
    | with_reducible assumption
    | (with_reducible apply Touch.via State.setF_touch; · decide)
    | (with_reducible apply Touch.via State.flagIf_touch; · decide)
    | (with_reducible apply Touch.via State.modGrp_touch; · decide)
    | (with_reducible apply Touch.via State.fault_touch; · decide)
    | with_reducible apply Touch.ite
    | intro _ _ _
    | intro _
    | extract_lets
    | split
    | (dsimp +zetaDelta only; split)

theorem evalScale_touch {g s} : Touch [.regs, .trj] s (evalScale g s) := by
  unfold evalScale
  repeat first
    | with_reducible apply Touch.refl
    | with_reducible assumption
    | (with_reducible apply Touch.via State.setF_touch; · decide)
    | (with_reducible apply Touch.via State.flagIf_touch; · decide)
    | (with_reducible apply Touch.via State.setScale_touch; · decide)
    | (with_reducible apply Touch.via State.modGrp_touch; · decide)
    | with_reducible apply Touch.ite
    | intro _ _ _
    | intro _
    | extract_lets
    | split
    | (dsimp +zetaDelta only; split)

theorem State.putSp_touch {s a p spd acc ff} : Touch [.regs, .trj] s (State.putSp s a p spd acc ff) := by
  unfold State.putSp
  repeat first
    | with_reducible apply Touch.refl
    | with_reducible assumption
    | (with_reducible apply Touch.via State.setS_touch; · decide)
    | (with_reducible apply Touch.via State.modAx_touch; · decide)
    | with_reducible apply Touch.ite
    | intro _ _ _
    | intro _
    | extract_lets
    | split
    | (dsimp +zetaDelta only; split)

theorem State.setKnots_touch {s a ks} : Touch [.regs, .trj] s (State.setKnots s a ks) := by
  unfold State.setKnots
  repeat first
    | with_reducible apply Touch.refl
    | with_reducible assumption
    | (with_reducible apply Touch.via State.setF_touch; · decide)
    | (with_reducible apply Touch.via State.modAx_touch; · decide)
    | with_reducible apply Touch.ite
    | intro _ _ _
    | intro _
    | extract_lets
    | split
    | (dsimp +zetaDelta only; split)

theorem checkCoverage_touch {g s} : Touch [.regs, .hst] s (checkCoverage g s) := by
  unfold checkCoverage
  repeat first
    | with_reducible apply Touch.refl
    | with_reducible assumption
    | (with_reducible apply Touch.via State.post_touch; · decide)
    | (with_reducible apply Touch.via State.flag_touch; · decide)
    | (with_reducible apply Touch.via groupHold_touch; · decide)
    | (with_reducible apply Touch.via State.setF_touch; · decide)
    | with_reducible apply Touch.ite
    | with_reducible apply foldl_touch
    | intro _ _ _
    | intro _
    | extract_lets
    | split
    | (dsimp +zetaDelta only; split)

theorem cmpTake_touch {c x v stepping s} : Touch [.regs, .hst, .trj] s (cmpTake c x v stepping s) := by
  unfold cmpTake
  repeat first
    | with_reducible apply Touch.refl
    | with_reducible assumption
    | (with_reducible apply Touch.via State.flag_touch; · decide)
    | (with_reducible apply Touch.via State.post_touch; · decide)
    | (with_reducible apply Touch.via State.setCmp_touch; · decide)
    | with_reducible apply Touch.ite
    | intro _ _ _
    | intro _
    | extract_lets
    | split
    | (dsimp +zetaDelta only; split)

theorem showC_touch {c s} : Touch [.regs] s (showC c s) := by
  unfold showC
  repeat first
    | with_reducible apply Touch.refl
    | with_reducible assumption
    | (with_reducible apply Touch.via State.wrN_touch; · decide)
    | with_reducible apply Touch.ite
    | intro _ _ _
    | intro _
    | extract_lets
    | split
    | (dsimp +zetaDelta only; split)

theorem cmpArm_touch {c x v s} : Touch [.regs, .hst, .trj] s (cmpArm c x v s) := by
  unfold cmpArm
  repeat first
    | with_reducible apply Touch.refl
    | with_reducible assumption
    | (with_reducible apply Touch.via cmpTake_touch; · decide)
    | (with_reducible apply Touch.via State.setF_touch; · decide)
    | (with_reducible apply Touch.via State.setCmp_touch; · decide)
    | with_reducible apply Touch.ite
    | intro _ _ _
    | intro _
    | extract_lets
    | split
    | (dsimp +zetaDelta only; split)

theorem cmpUndo_touch {c s} : Touch [.regs, .trj] s (cmpUndo c s) := by
  unfold cmpUndo
  repeat first
    | with_reducible apply Touch.refl
    | with_reducible assumption
    | (with_reducible apply Touch.via State.withTrj_touch; · decide)
    | (with_reducible apply Touch.via State.put_touch; · decide)
    | (with_reducible apply Touch.via State.wrN_touch; · decide)
    | (with_reducible apply Touch.via State.setCmp_touch; · decide)
    | with_reducible apply Touch.ite
    | intro _ _ _
    | intro _
    | extract_lets
    | split
    | (dsimp +zetaDelta only; split)

theorem cmpFire_touch {c x v time from_ late s} : Touch [.regs, .hst, .trj] s (cmpFire c x v time from_ late s) := by
  unfold cmpFire
  repeat first
    | with_reducible apply Touch.refl
    | with_reducible assumption
    | (with_reducible apply Touch.via cmpTake_touch; · decide)
    | (with_reducible apply Touch.via State.setCmp_touch; · decide)
    | (with_reducible apply Touch.via showC_touch; · decide)
    | (with_reducible apply Touch.via State.flagIf_touch; · decide)
    | (with_reducible apply Touch.via State.withTrj_touch; · decide)
    | (with_reducible apply Touch.via State.setF_touch; · decide)
    | (with_reducible apply Touch.via State.flag_touch; · decide)
    | (with_reducible apply Touch.via State.incF_touch; · decide)
    | with_reducible apply Touch.ite
    | intro _ _ _
    | intro _
    | extract_lets
    | split
    | (dsimp +zetaDelta only; split)

theorem cmpCompare_touch {c x v time from_ s} : Touch [.regs, .hst, .trj] s (cmpCompare c x v time from_ s) := by
  unfold cmpCompare
  repeat first
    | with_reducible apply Touch.refl
    | with_reducible assumption
    | (with_reducible apply Touch.via State.setCmp_touch; · decide)
    | (with_reducible apply Touch.via cmpTake_touch; · decide)
    | (with_reducible apply Touch.via cmpFire_touch; · decide)
    | with_reducible apply Touch.ite
    | intro _ _ _
    | intro _
    | extract_lets
    | split
    | (dsimp +zetaDelta only; split)

theorem compareAxis_touch {a s} : Touch [.regs, .hst, .trj] s (compareAxis a s) := by
  unfold compareAxis
  repeat first
    | with_reducible apply Touch.refl
    | with_reducible assumption
    | (with_reducible apply Touch.via cmpCompare_touch; · decide)
    | with_reducible apply State.each_touch
    | with_reducible apply Touch.ite
    | intro _ _ _
    | intro _
    | extract_lets
    | split
    | (dsimp +zetaDelta only; split)

theorem State.setHome_touch {s a ph v} : Touch [.regs, .trj] s (State.setHome s a ph v) := by
  unfold State.setHome
  repeat first
    | with_reducible apply Touch.refl
    | with_reducible assumption
    | (with_reducible apply Touch.via State.setPlan_touch; · decide)
    | with_reducible apply Touch.ite
    | intro _ _ _
    | intro _
    | extract_lets
    | split
    | (dsimp +zetaDelta only; split)

theorem axMove_touch {a d s} : Touch [.regs, .trj] s (axMove a d s) := by
  unfold axMove
  repeat first
    | with_reducible apply Touch.refl
    | with_reducible assumption
    | (with_reducible apply Touch.via State.setS_touch; · decide)
    | (with_reducible apply Touch.via State.modAx_touch; · decide)
    | with_reducible apply Touch.ite
    | intro _ _ _
    | intro _
    | extract_lets
    | split
    | (dsimp +zetaDelta only; split)

theorem setOffset_touch {a meas pos s} : Touch [.regs, .trj] s (setOffset a meas pos s) := by
  unfold setOffset
  repeat first
    | with_reducible apply Touch.refl
    | with_reducible assumption
    | (with_reducible apply Touch.via axMove_touch; · decide)
    | with_reducible apply Touch.ite
    | intro _ _ _
    | intro _
    | extract_lets
    | split
    | (dsimp +zetaDelta only; split)

theorem homeSet_touch {a latched s} : Touch [.regs, .trj] s (homeSet a latched s) := by
  unfold homeSet
  repeat first
    | with_reducible apply Touch.refl
    | with_reducible assumption
    | (with_reducible apply Touch.via State.setHome_touch; · decide)
    | (with_reducible apply Touch.via State.modAx_touch; · decide)
    | (with_reducible apply Touch.via setOffset_touch; · decide)
    | with_reducible apply Touch.ite
    | intro _ _ _
    | intro _
    | extract_lets
    | split
    | (dsimp +zetaDelta only; split)

theorem limitTrip_touch {a positive s} : Touch [.regs, .hst] s (limitTrip a positive s) := by
  unfold limitTrip
  repeat first
    | with_reducible apply Touch.refl
    | with_reducible assumption
    | (with_reducible apply Touch.via groupHold_touch; · decide)
    | (with_reducible apply Touch.via State.flag_touch; · decide)
    | (with_reducible apply Touch.via State.post_touch; · decide)
    | with_reducible apply Touch.ite
    | intro _ _ _
    | intro _
    | extract_lets
    | split
    | (dsimp +zetaDelta only; split)

theorem limitTrips_touch {a s} : Touch [.regs, .hst, .trj] s (limitTrips a s) := by
  unfold limitTrips
  repeat first
    | with_reducible apply Touch.refl
    | with_reducible assumption
    | (with_reducible apply Touch.via limitTrip_touch; · decide)
    | (with_reducible apply Touch.via State.modAx_touch; · decide)
    | with_reducible apply State.each_touch
    | with_reducible apply Touch.ite
    | intro _ _ _
    | intro _
    | extract_lets
    | split
    | (dsimp +zetaDelta only; split)

theorem limitLatch_touch {a positive pos s} : Touch [.regs, .hst, .trj] s (limitLatch a positive pos s) := by
  unfold limitLatch
  repeat first
    | with_reducible apply Touch.refl
    | with_reducible assumption
    | (with_reducible apply Touch.via limitTrip_touch; · decide)
    | (with_reducible apply Touch.via homeFail_touch; · decide)
    | (with_reducible apply Touch.via State.setHome_touch; · decide)
    | (with_reducible apply Touch.via State.flag_touch; · decide)
    | (with_reducible apply Touch.via State.post_touch; · decide)
    | (with_reducible apply Touch.via State.setF_touch; · decide)
    | (with_reducible apply Touch.via State.modAx_touch; · decide)
    | with_reducible apply Touch.ite
    | intro _ _ _
    | intro _
    | extract_lets
    | split
    | (dsimp +zetaDelta only; split)

theorem limitFree_touch {a s} : Touch [.regs] s (limitFree a s) := by
  unfold limitFree
  repeat first
    | with_reducible apply Touch.refl
    | with_reducible assumption
    | (with_reducible apply Touch.via State.setF_touch; · decide)
    | with_reducible apply Touch.ite
    | intro _ _ _
    | intro _
    | extract_lets
    | split
    | (dsimp +zetaDelta only; split)

theorem limitRelease_touch {a s} : Touch [.regs] s (limitRelease a s) := by
  unfold limitRelease
  repeat first
    | with_reducible apply Touch.refl
    | with_reducible assumption
    | (with_reducible apply Touch.via limitFree_touch; · decide)
    | (with_reducible apply Touch.via State.setF_touch; · decide)
    | with_reducible apply Touch.ite
    | intro _ _ _
    | intro _
    | extract_lets
    | split
    | (dsimp +zetaDelta only; split)

theorem limitsRelease_touch {s} : Touch [.regs] s (limitsRelease s) := by
  unfold limitsRelease
  repeat first
    | with_reducible apply Touch.refl
    | with_reducible assumption
    | (with_reducible apply Touch.via limitRelease_touch; · decide)
    | with_reducible apply State.each_touch
    | with_reducible apply Touch.ite
    | intro _ _ _
    | intro _
    | extract_lets
    | split
    | (dsimp +zetaDelta only; split)

theorem homeInput_touch {a j active pos s} : Touch [.regs, .trj] s (homeInput a j active pos s) := by
  unfold homeInput
  repeat first
    | with_reducible apply Touch.refl
    | with_reducible assumption
    | (with_reducible apply Touch.via homeSet_touch; · decide)
    | (with_reducible apply Touch.via State.modAx_touch; · decide)
    | (with_reducible apply Touch.via State.setHome_touch; · decide)
    | with_reducible apply Touch.ite
    | intro _ _ _
    | intro _
    | extract_lets
    | split
    | (dsimp +zetaDelta only; split)

theorem inputConfirm_touch {a j active pos s} : Touch [.regs, .hst, .trj] s (inputConfirm a j active pos s) := by
  unfold inputConfirm
  repeat first
    | with_reducible apply Touch.refl
    | with_reducible assumption
    | (with_reducible apply Touch.via homeInput_touch; · decide)
    | (with_reducible apply Touch.via limitRelease_touch; · decide)
    | (with_reducible apply Touch.via limitLatch_touch; · decide)
    | (with_reducible apply Touch.via State.setF_touch; · decide)
    | (with_reducible apply Touch.via State.modAx_touch; · decide)
    | with_reducible apply Touch.ite
    | intro _ _ _
    | intro _
    | extract_lets
    | split
    | (dsimp +zetaDelta only; split)

theorem rejudgeInputs_touch {a s} : Touch [.regs, .hst, .trj] s (rejudgeInputs a s) := by
  unfold rejudgeInputs
  repeat first
    | with_reducible apply Touch.refl
    | with_reducible assumption
    | (with_reducible apply Touch.via limitFree_touch; · decide)
    | (with_reducible apply Touch.via limitLatch_touch; · decide)
    | (with_reducible apply Touch.via State.setF_touch; · decide)
    | (with_reducible apply Touch.via State.modAx_touch; · decide)
    | with_reducible apply Touch.ite
    | intro _ _ _
    | intro _
    | extract_lets
    | split
    | (dsimp +zetaDelta only; split)

theorem inputSample_touch {a j at_ active pos s} : Touch [.regs, .hst, .trj] s (inputSample a j at_ active pos s) := by
  unfold inputSample
  repeat first
    | with_reducible apply Touch.refl
    | with_reducible assumption
    | (with_reducible apply Touch.via inputConfirm_touch; · decide)
    | (with_reducible apply Touch.via State.modAx_touch; · decide)
    | with_reducible apply Touch.ite
    | intro _ _ _
    | intro _
    | extract_lets
    | split
    | (dsimp +zetaDelta only; split)

theorem driveInputs_touch {a s} : Touch [.regs, .hst, .trj] s (driveInputs a s) := by
  unfold driveInputs
  repeat first
    | with_reducible apply Touch.refl
    | with_reducible assumption
    | (with_reducible apply Touch.via inputSample_touch; · decide)
    | with_reducible apply State.each_touch
    | with_reducible apply Touch.ite
    | intro _ _ _
    | intro _
    | extract_lets
    | split
    | (dsimp +zetaDelta only; split)

theorem homeIndex_touch {chan count s} : Touch [.regs, .trj] s (homeIndex chan count s) := by
  unfold homeIndex
  repeat first
    | with_reducible apply Touch.refl
    | with_reducible assumption
    | (with_reducible apply Touch.via homeSet_touch; · decide)
    | with_reducible apply State.each_touch
    | with_reducible apply Touch.ite
    | intro _ _ _
    | intro _
    | extract_lets
    | split
    | (dsimp +zetaDelta only; split)

theorem homeEnd_touch {g s} : Touch [.regs] s (homeEnd g s) := by
  unfold homeEnd
  repeat first
    | with_reducible apply Touch.refl
    | with_reducible assumption
    | (with_reducible apply Touch.via State.setGst_touch; · decide)
    | with_reducible apply Touch.ite
    | intro _ _ _
    | intro _
    | extract_lets
    | split
    | (dsimp +zetaDelta only; split)

theorem homeStep_touch {a g s} : Touch [.regs, .hst, .trj] s (homeStep a g s) := by
  unfold homeStep
  repeat first
    | with_reducible apply Touch.refl
    | with_reducible assumption
    | (with_reducible apply Touch.via State.post_touch; · decide)
    | (with_reducible apply Touch.via homeEnd_touch; · decide)
    | (with_reducible apply Touch.via State.setPlan_touch; · decide)
    | (with_reducible apply Touch.via State.setF_touch; · decide)
    | (with_reducible apply Touch.via State.setHome_touch; · decide)
    | (with_reducible apply Touch.via homeFail_touch; · decide)
    | with_reducible apply Touch.ite
    | intro _ _ _
    | intro _
    | extract_lets
    | split
    | (dsimp +zetaDelta only; split)

theorem frameShift_touch {a g s} : Touch [.regs, .hst, .trj] s (frameShift a g s) := by
  unfold frameShift
  repeat first
    | with_reducible apply Touch.refl
    | with_reducible assumption
    | (with_reducible apply Touch.via State.post_touch; · decide)
    | (with_reducible apply Touch.via State.setCmp_touch; · decide)
    | (with_reducible apply Touch.via showC_touch; · decide)
    | with_reducible apply State.each_touch
    | (with_reducible apply Touch.via State.setF_touch; · decide)
    | (with_reducible apply Touch.via State.flag_touch; · decide)
    | (with_reducible apply Touch.via axMove_touch; · decide)
    | with_reducible apply Touch.ite
    | intro _ _ _
    | intro _
    | extract_lets
    | split
    | (dsimp +zetaDelta only; split)

theorem checkLimits_touch {a g s} : Touch [.regs, .hst, .trj, .lnd] s (checkLimits a g s) := by
  unfold checkLimits
  repeat first
    | with_reducible apply Touch.refl
    | with_reducible assumption
    | (with_reducible apply Touch.via limitFault_touch; · decide)
    | (with_reducible apply Touch.via State.modAx_touch; · decide)
    | with_reducible apply Touch.ite
    | intro _ _ _
    | intro _
    | extract_lets
    | split
    | (dsimp +zetaDelta only; split)

theorem softClamp_touch {a g p s} : Touch [.regs, .hst] s (softClamp a g p s).2 := by
  unfold softClamp
  repeat first
    | with_reducible apply Touch.refl
    | with_reducible assumption
    | (with_reducible apply Touch.via State.flag_touch; · decide)
    | (with_reducible apply Touch.via groupHold_touch; · decide)
    | (with_reducible apply Touch.via State.post_touch; · decide)
    | with_reducible apply Touch.ite
    | intro _ _ _
    | intro _
    | extract_lets
    | split
    | (dsimp +zetaDelta only; split)

theorem lateShow_touch {a g s} : Touch [.regs, .trj] s (lateShow a g s) := by
  unfold lateShow
  repeat first
    | with_reducible apply Touch.refl
    | with_reducible assumption
    | (with_reducible apply Touch.via State.flag_touch; · decide)
    | (with_reducible apply Touch.via State.modAx_touch; · decide)
    | with_reducible apply Touch.ite
    | intro _ _ _
    | intro _
    | extract_lets
    | split
    | (dsimp +zetaDelta only; split)

theorem evalPlan_touch {g a s} : Touch [.regs, .hst, .trj] s (evalPlan g a s) := by
  unfold evalPlan
  repeat first
    | with_reducible apply Touch.refl
    | with_reducible assumption
    | (with_reducible apply Touch.via homeStep_touch; · decide)
    | (with_reducible apply Touch.via State.flagIf_touch; · decide)
    | (with_reducible apply Touch.via State.flag_touch; · decide)
    | (with_reducible apply Touch.via State.setPlan_touch; · decide)
    | (with_reducible apply Touch.via softClamp_touch; · decide)
    | (with_reducible apply Touch.via State.setKnots_touch; · decide)
    | (with_reducible apply Touch.via State.putSp_touch; · decide)
    | (with_reducible apply Touch.via compareAxis_touch; · decide)
    | with_reducible apply Touch.ite
    | intro _ _ _
    | intro _
    | extract_lets
    | split
    | (dsimp +zetaDelta only; split)

theorem evalAxis_touch {g a s} : Touch [.regs, .hst, .trj, .lnd] s (evalAxis g a s) := by
  unfold evalAxis
  repeat first
    | with_reducible apply Touch.refl
    | with_reducible assumption
    | (with_reducible apply Touch.via frameShift_touch; · decide)
    | (with_reducible apply Touch.via checkLimits_touch; · decide)
    | (with_reducible apply Touch.via lateShow_touch; · decide)
    | (with_reducible apply Touch.via evalPlan_touch; · decide)
    | (with_reducible apply Touch.via limitTrips_touch; · decide)
    | (with_reducible apply Touch.via limitRelease_touch; · decide)
    | with_reducible apply Touch.ite
    | intro _ _ _
    | intro _
    | extract_lets
    | split
    | (dsimp +zetaDelta only; split)

theorem moveDone_touch {arm was s} : Touch [.regs, .hst] s (moveDone arm was s) := by
  unfold moveDone
  repeat first
    | with_reducible apply Touch.refl
    | with_reducible assumption
    | (with_reducible apply Touch.via State.post_touch; · decide)
    | (with_reducible apply Touch.via State.setF_touch; · decide)
    | with_reducible apply Touch.ite
    | intro _ _ _
    | intro _
    | extract_lets
    | split
    | (dsimp +zetaDelta only; split)

theorem groupEnded_touch {g s} : Touch [.regs] s (groupEnded g s) := by
  unfold groupEnded
  repeat first
    | with_reducible apply Touch.refl
    | with_reducible assumption
    | (with_reducible apply Touch.via State.setGst_touch; · decide)
    | with_reducible apply Touch.ite
    | intro _ _ _
    | intro _
    | extract_lets
    | split
    | (dsimp +zetaDelta only; split)

theorem groupRun_touch {g s} : Touch [.regs] s (groupRun g s) := by
  unfold groupRun
  repeat first
    | with_reducible apply Touch.refl
    | with_reducible assumption
    | (with_reducible apply Touch.via State.setGst_touch; · decide)
    | with_reducible apply Touch.ite
    | intro _ _ _
    | intro _
    | extract_lets
    | split
    | (dsimp +zetaDelta only; split)

theorem applyMove_touch {arm targets tau s} : Touch [.regs, .trj] s (applyMove arm targets tau s) := by
  unfold applyMove
  repeat first
    | with_reducible apply Touch.refl
    | with_reducible assumption
    | (with_reducible apply Touch.via State.flagIf_touch; · decide)
    | (with_reducible apply Touch.via State.setPlan_touch; · decide)
    | (with_reducible apply Touch.via State.setF_touch; · decide)
    | (with_reducible apply Touch.via groupRun_touch; · decide)
    | with_reducible apply Touch.ite
    | with_reducible apply foldl_touch
    | intro _ _ _
    | intro _
    | extract_lets
    | split
    | (dsimp +zetaDelta only; split)

theorem applyVel_touch {a v g tau s} : Touch [.regs, .hst, .trj] s (applyVel a v g tau s) := by
  unfold applyVel
  repeat first
    | with_reducible apply Touch.refl
    | with_reducible assumption
    | (with_reducible apply Touch.via moveDone_touch; · decide)
    | (with_reducible apply Touch.via groupRun_touch; · decide)
    | (with_reducible apply Touch.via State.setPlan_touch; · decide)
    | (with_reducible apply Touch.via State.flagIf_touch; · decide)
    | with_reducible apply Touch.ite
    | intro _ _ _
    | intro _
    | extract_lets
    | split
    | (dsimp +zetaDelta only; split)

theorem applyStart_touch {g tau s} : Touch [.regs, .trj] s (applyStart g tau s) := by
  unfold applyStart
  repeat first
    | with_reducible apply Touch.refl
    | with_reducible assumption
    | (with_reducible apply Touch.via State.setF_touch; · decide)
    | (with_reducible apply Touch.via State.setPlan_touch; · decide)
    | (with_reducible apply Touch.via groupRun_touch; · decide)
    | with_reducible apply Touch.ite
    | with_reducible apply foldl_touch
    | intro _ _ _
    | intro _
    | extract_lets
    | split
    | (dsimp +zetaDelta only; split)

theorem applyHome_touch {a g s} : Touch [.regs, .trj] s (applyHome a g s) := by
  unfold applyHome
  repeat first
    | with_reducible apply Touch.refl
    | with_reducible assumption
    | (with_reducible apply Touch.via State.setHome_touch; · decide)
    | (with_reducible apply Touch.via homeSet_touch; · decide)
    | (with_reducible apply Touch.via State.setGst_touch; · decide)
    | (with_reducible apply Touch.via State.modAx_touch; · decide)
    | with_reducible apply Touch.ite
    | intro _ _ _
    | intro _
    | extract_lets
    | split
    | (dsimp +zetaDelta only; split)

theorem applyAux_touch {n tau c s} : Touch [.regs, .trj] s (applyAux n tau c s) := by
  unfold applyAux
  repeat first
    | with_reducible apply Touch.refl
    | with_reducible assumption
    | (with_reducible apply Touch.via State.setAux_touch; · decide)
    | (with_reducible apply Touch.via State.setF_touch; · decide)
    | (with_reducible apply Touch.via State.flagIf_touch; · decide)
    | with_reducible apply Touch.ite
    | intro _ _ _
    | intro _
    | extract_lets
    | split
    | (dsimp +zetaDelta only; split)

theorem applyResume_touch {g s} : Touch [.regs] s (applyResume g s) := by
  unfold applyResume
  repeat first
    | with_reducible apply Touch.refl
    | with_reducible assumption
    | (with_reducible apply Touch.via State.setF_touch; · decide)
    | (with_reducible apply Touch.via State.setGst_touch; · decide)
    | (with_reducible apply Touch.via groupEnded_touch; · decide)
    | with_reducible apply Touch.ite
    | intro _ _ _
    | intro _
    | extract_lets
    | split
    | (dsimp +zetaDelta only; split)

theorem applyAbort_touch {g s} : Touch [.regs, .trj] s (applyAbort g s) := by
  unfold applyAbort
  repeat first
    | with_reducible apply Touch.refl
    | with_reducible assumption
    | (with_reducible apply Touch.via dropPlans_touch; · decide)
    | (with_reducible apply Touch.via State.setGst_touch; · decide)
    | (with_reducible apply Touch.via clearCauses_touch; · decide)
    | with_reducible apply Touch.ite
    | intro _ _ _
    | intro _
    | extract_lets
    | split
    | (dsimp +zetaDelta only; split)

theorem applyCmd_touch {g c s} : Touch [.regs, .hst, .trj] s (applyCmd g c s) := by
  unfold applyCmd
  repeat first
    | with_reducible apply Touch.refl
    | with_reducible assumption
    | (with_reducible apply Touch.via applyAux_touch; · decide)
    | (with_reducible apply Touch.via groupRun_touch; · decide)
    | (with_reducible apply Touch.via setOffset_touch; · decide)
    | (with_reducible apply Touch.via State.setF_touch; · decide)
    | (with_reducible apply Touch.via State.setKnots_touch; · decide)
    | (with_reducible apply Touch.via applyHome_touch; · decide)
    | (with_reducible apply Touch.via applyAbort_touch; · decide)
    | (with_reducible apply Touch.via applyResume_touch; · decide)
    | (with_reducible apply Touch.via groupHold_touch; · decide)
    | (with_reducible apply Touch.via applyStart_touch; · decide)
    | (with_reducible apply Touch.via applyVel_touch; · decide)
    | (with_reducible apply Touch.via applyMove_touch; · decide)
    | with_reducible apply Touch.ite
    | intro _ _ _
    | intro _
    | extract_lets
    | split
    | (dsimp +zetaDelta only; split)

theorem applyCmds_touch {g s} : Touch [.regs, .hst, .trj] s (applyCmds g s) := by
  unfold applyCmds
  repeat first
    | with_reducible apply Touch.refl
    | with_reducible assumption
    | (with_reducible apply Touch.via applyCmd_touch; · decide)
    | (with_reducible apply Touch.via State.modGrp_touch; · decide)
    | with_reducible apply State.each_touch
    | with_reducible apply Touch.ite
    | intro _ _ _
    | intro _
    | extract_lets
    | split
    | (dsimp +zetaDelta only; split)

theorem cmdLost_touch {s} : Touch [.regs, .trj] s (cmdLost s) := by
  unfold cmdLost
  repeat first
    | with_reducible apply Touch.refl
    | with_reducible assumption
    | (with_reducible apply Touch.via State.setAux_touch; · decide)
    | (with_reducible apply Touch.via State.modGrp_touch; · decide)
    | (with_reducible apply Touch.via State.flag_touch; · decide)
    | with_reducible apply State.each_touch
    | with_reducible apply Touch.ite
    | intro _ _ _
    | intro _
    | extract_lets
    | split
    | (dsimp +zetaDelta only; split)

theorem advanceClocks_touch {s} : Touch [.regs, .trj] s (advanceClocks s) := by
  unfold advanceClocks
  repeat first
    | with_reducible apply Touch.refl
    | with_reducible assumption
    | (with_reducible apply Touch.via State.setF_touch; · decide)
    | (with_reducible apply Touch.via State.modGrp_touch; · decide)
    | with_reducible apply State.each_touch
    | with_reducible apply Touch.ite
    | intro _ _ _
    | intro _
    | extract_lets
    | split
    | (dsimp +zetaDelta only; split)

theorem evalGroup_touch {late g s} : Touch [.regs, .hst, .sch, .trj, .lnd] s (evalGroup late g s) := by
  unfold evalGroup
  repeat first
    | with_reducible apply Touch.refl
    | with_reducible assumption
    | (with_reducible apply Touch.via groupEnded_touch; · decide)
    | (with_reducible apply Touch.via raiseSignals_touch; · decide)
    | (with_reducible apply Touch.via moveDone_touch; · decide)
    | (with_reducible apply Touch.via checkCoverage_touch; · decide)
    | (with_reducible apply Touch.via evalAxis_touch; · decide)
    | (with_reducible apply Touch.via State.modAx_touch; · decide)
    | with_reducible apply State.each_touch
    | (with_reducible apply Touch.via evalScale_touch; · decide)
    | (with_reducible apply Touch.via applyCmds_touch; · decide)
    | (with_reducible apply Touch.via groupFollow_touch; · decide)
    | (with_reducible apply Touch.via checkRsafe_touch; · decide)
    | (with_reducible apply Touch.via takeFactor_touch; · decide)
    | with_reducible apply Touch.ite
    | with_reducible apply foldl_touch
    | intro _ _ _
    | intro _
    | extract_lets
    | split
    | (dsimp +zetaDelta only; split)

theorem evalGroups_touch {late s} : Touch [.regs, .hst, .sch, .trj, .lnd] s (evalGroups late s) := by
  unfold evalGroups
  repeat first
    | with_reducible apply Touch.refl
    | with_reducible assumption
    | (with_reducible apply Touch.via evalGroup_touch; · decide)
    | with_reducible apply State.each_touch
    | with_reducible apply Touch.ite
    | intro _ _ _
    | intro _
    | extract_lets
    | split
    | (dsimp +zetaDelta only; split)

theorem sepClear_touch {s} : Touch [.sep] s (sepClear s) := by
  unfold sepClear
  repeat first
    | with_reducible apply Touch.refl
    | with_reducible assumption
    | with_reducible apply Touch.ite
    | (with_reducible apply Touch.sep; · decide)
    | intro _ _ _
    | intro _
    | extract_lets
    | split
    | (dsimp +zetaDelta only; split)

theorem trjCycleStart_touch {s} : Touch [.regs, .trj, .sep] s (trjCycleStart s) := by
  unfold trjCycleStart
  repeat first
    | with_reducible apply Touch.refl
    | with_reducible assumption
    | (with_reducible apply Touch.via State.setScale_touch; · decide)
    | (with_reducible apply Touch.via State.setF_touch; · decide)
    | (with_reducible apply Touch.via State.modGrp_touch; · decide)
    | with_reducible apply State.each_touch
    | (with_reducible apply Touch.via sepClear_touch; · decide)
    | with_reducible apply Touch.ite
    | intro _ _ _
    | intro _
    | extract_lets
    | split
    | (dsimp +zetaDelta only; split)

end Sys2Proof.Machine
end

