-- ==== Sys2Proof/Laws/TouchSaf.lean ====
section
/-! SUPPORT. The footprint of each operation of Machine/Saf.lean: the parts of the state it may change. -/

namespace Sys2Proof.Machine

theorem State.withSaf_touch {s f} : Touch [.saf] s (State.withSaf s f) := by
  unfold State.withSaf
  repeat first
    | with_reducible apply Touch.refl
    | with_reducible assumption
    | with_reducible apply Touch.ite
    | (with_reducible apply Touch.saf; · decide)
    | intro _ _ _
    | intro _
    | extract_lets
    | split
    | (dsimp +zetaDelta only; split)

theorem State.modSgrp_touch {s g f} : Touch [.saf] s (State.modSgrp s g f) := by
  unfold State.modSgrp
  repeat first
    | with_reducible apply Touch.refl
    | with_reducible assumption
    | (with_reducible apply Touch.via State.withSaf_touch; · decide)
    | with_reducible apply Touch.ite
    | intro _ _ _
    | intro _
    | extract_lets
    | split
    | (dsimp +zetaDelta only; split)

theorem State.modSchan_touch {s ch g f} : Touch [.saf] s (State.modSchan s ch g f) := by
  unfold State.modSchan
  repeat first
    | with_reducible apply Touch.refl
    | with_reducible assumption
    | (with_reducible apply Touch.via State.withSaf_touch; · decide)
    | with_reducible apply Touch.ite
    | intro _ _ _
    | intro _
    | extract_lets
    | split
    | (dsimp +zetaDelta only; split)

theorem State.setMaskBit_touch {s f n v} : Touch [.regs] s (State.setMaskBit s f n v) := by
  unfold State.setMaskBit
  repeat first
    | with_reducible apply Touch.refl
    | with_reducible assumption
    | (with_reducible apply Touch.via State.setF_touch; · decide)
    | with_reducible apply Touch.ite
    | intro _ _ _
    | intro _
    | extract_lets
    | split
    | (dsimp +zetaDelta only; split)

theorem outFollow_touch {o s} : Touch [.regs, .saf] s (outFollow o s) := by
  unfold outFollow
  repeat first
    | with_reducible apply Touch.refl
    | with_reducible assumption
    | (with_reducible apply Touch.via State.withSaf_touch; · decide)
    | (with_reducible apply Touch.via State.setMaskBit_touch; · decide)
    | with_reducible apply Touch.ite
    | intro _ _ _
    | intro _
    | extract_lets
    | split
    | (dsimp +zetaDelta only; split)

theorem edmFollow_touch {o s} : Touch [.regs, .saf] s (edmFollow o s) := by
  unfold edmFollow
  repeat first
    | with_reducible apply Touch.refl
    | with_reducible assumption
    | (with_reducible apply Touch.via State.withSaf_touch; · decide)
    | (with_reducible apply Touch.via State.setMaskBit_touch; · decide)
    | with_reducible apply Touch.ite
    | intro _ _ _
    | intro _
    | extract_lets
    | split
    | (dsimp +zetaDelta only; split)

theorem outsFollow_touch {s} : Touch [.regs, .saf] s (outsFollow s) := by
  unfold outsFollow
  repeat first
    | with_reducible apply Touch.refl
    | with_reducible assumption
    | (with_reducible apply Touch.via outFollow_touch; · decide)
    | (with_reducible apply Touch.via edmFollow_touch; · decide)
    | with_reducible apply State.each_touch
    | with_reducible apply Touch.ite
    | intro _ _ _
    | intro _
    | extract_lets
    | split
    | (dsimp +zetaDelta only; split)

theorem axisFollow_touch {g s} : Touch [.regs] s (axisFollow g s) := by
  unfold axisFollow
  repeat first
    | with_reducible apply Touch.refl
    | with_reducible assumption
    | (with_reducible apply Touch.via State.setF_touch; · decide)
    | with_reducible apply State.each_touch
    | with_reducible apply Touch.ite
    | intro _ _ _
    | intro _
    | extract_lets
    | split
    | (dsimp +zetaDelta only; split)

theorem enterGs_touch {g st s} : Touch [.regs, .hst, .trj, .saf] s (enterGs g st s) := by
  unfold enterGs
  repeat first
    | with_reducible apply Touch.refl
    | with_reducible assumption
    | (with_reducible apply Touch.via groupFollow_touch; · decide)
    | (with_reducible apply Touch.via groupTrack_touch; · decide)
    | (with_reducible apply Touch.via axisFollow_touch; · decide)
    | (with_reducible apply Touch.via outsFollow_touch; · decide)
    | (with_reducible apply Touch.via State.flagIf_touch; · decide)
    | (with_reducible apply Touch.via State.post_touch; · decide)
    | (with_reducible apply Touch.via State.modSgrp_touch; · decide)
    | (with_reducible apply Touch.via State.modSchan_touch; · decide)
    | (with_reducible apply Touch.via State.setF_touch; · decide)
    | with_reducible apply Touch.ite
    | intro _ _ _
    | intro _
    | extract_lets
    | split
    | (dsimp +zetaDelta only; split)

theorem demand_touch {cause kind g s} : Touch [.regs, .hst, .trj, .saf] s (demand cause kind g s) := by
  unfold demand
  repeat first
    | with_reducible apply Touch.refl
    | with_reducible assumption
    | (with_reducible apply Touch.via State.flag_touch; · decide)
    | (with_reducible apply Touch.via enterGs_touch; · decide)
    | with_reducible apply Touch.ite
    | intro _ _ _
    | intro _
    | extract_lets
    | split
    | (dsimp +zetaDelta only; split)

theorem demandMask_touch {cause kind mask s} : Touch [.regs, .hst, .trj, .saf] s (demandMask cause kind mask s) := by
  unfold demandMask
  repeat first
    | with_reducible apply Touch.refl
    | with_reducible assumption
    | (with_reducible apply Touch.via demand_touch; · decide)
    | with_reducible apply State.each_touch
    | with_reducible apply Touch.ite
    | intro _ _ _
    | intro _
    | extract_lets
    | split
    | (dsimp +zetaDelta only; split)

theorem demandAxis_touch {cause kind a s} : Touch [.regs, .hst, .trj, .saf] s (demandAxis cause kind a s) := by
  unfold demandAxis
  repeat first
    | with_reducible apply Touch.refl
    | with_reducible assumption
    | (with_reducible apply Touch.via demand_touch; · decide)
    | with_reducible apply Touch.ite
    | intro _ _ _
    | intro _
    | extract_lets
    | split
    | (dsimp +zetaDelta only; split)

theorem requestStop_touch {key mask s} : Touch [.regs, .hst, .trj, .saf] s (requestStop key mask s) := by
  unfold requestStop
  repeat first
    | with_reducible apply Touch.refl
    | with_reducible assumption
    | (with_reducible apply Touch.via State.withSaf_touch; · decide)
    | (with_reducible apply Touch.via demandMask_touch; · decide)
    | with_reducible apply Touch.ite
    | intro _ _ _
    | intro _
    | extract_lets
    | split
    | (dsimp +zetaDelta only; split)

theorem releaseStop_touch {key s} : Touch [.saf] s (releaseStop key s) := by
  unfold releaseStop
  repeat first
    | with_reducible apply Touch.refl
    | with_reducible assumption
    | (with_reducible apply Touch.via State.withSaf_touch; · decide)
    | with_reducible apply Touch.ite
    | intro _ _ _
    | intro _
    | extract_lets
    | split
    | (dsimp +zetaDelta only; split)

theorem State.setCauses_touch {s g m} : Touch [.regs] s (State.setCauses s g m) := by
  unfold State.setCauses
  repeat first
    | with_reducible apply Touch.refl
    | with_reducible assumption
    | (with_reducible apply Touch.via State.wr_touch; · decide)
    | with_reducible apply Touch.ite
    | intro _ _ _
    | intro _
    | extract_lets
    | split
    | (dsimp +zetaDelta only; split)

theorem resetGroup_touch {g s} : Touch [.regs, .hst, .trj, .saf] s (resetGroup g s) := by
  unfold resetGroup
  repeat first
    | with_reducible apply Touch.refl
    | with_reducible assumption
    | (with_reducible apply Touch.via enterGs_touch; · decide)
    | (with_reducible apply Touch.via State.setCauses_touch; · decide)
    | with_reducible apply Touch.ite
    | intro _ _ _
    | intro _
    | extract_lets
    | split
    | (dsimp +zetaDelta only; split)

theorem releaseHost_touch {g s} : Touch [.regs, .hst, .trj, .saf] s (releaseHost g s) := by
  unfold releaseHost
  repeat first
    | with_reducible apply Touch.refl
    | with_reducible assumption
    | (with_reducible apply Touch.via enterGs_touch; · decide)
    | (with_reducible apply Touch.via State.setF_touch; · decide)
    | with_reducible apply Touch.ite
    | intro _ _ _
    | intro _
    | extract_lets
    | split
    | (dsimp +zetaDelta only; split)

theorem demandInput_touch {i s} : Touch [.regs, .hst, .trj, .saf] s (demandInput i s) := by
  unfold demandInput
  repeat first
    | with_reducible apply Touch.refl
    | with_reducible assumption
    | (with_reducible apply Touch.via demandMask_touch; · decide)
    | with_reducible apply Touch.ite
    | intro _ _ _
    | intro _
    | extract_lets
    | split
    | (dsimp +zetaDelta only; split)

theorem enterSafSt_touch {st s} : Touch [.regs, .hst, .trj, .saf] s (enterSafSt st s) := by
  unfold enterSafSt
  repeat first
    | with_reducible apply Touch.refl
    | with_reducible assumption
    | (with_reducible apply Touch.via outsFollow_touch; · decide)
    | (with_reducible apply Touch.via demand_touch; · decide)
    | (with_reducible apply Touch.via demandInput_touch; · decide)
    | (with_reducible apply Touch.via State.setCauses_touch; · decide)
    | (with_reducible apply Touch.via demandMask_touch; · decide)
    | (with_reducible apply Touch.via enterGs_touch; · decide)
    | with_reducible apply State.each_touch
    | (with_reducible apply Touch.via State.setF_touch; · decide)
    | (with_reducible apply Touch.via State.post_touch; · decide)
    | with_reducible apply Touch.ite
    | intro _ _ _
    | intro _
    | extract_lets
    | split
    | (dsimp +zetaDelta only; split)

theorem safeFault_touch {reason ch s} : Touch [.regs, .hst, .trj, .saf] s (safeFault reason ch s) := by
  unfold safeFault
  repeat first
    | with_reducible apply Touch.refl
    | with_reducible assumption
    | (with_reducible apply Touch.via State.post_touch; · decide)
    | (with_reducible apply Touch.via enterSafSt_touch; · decide)
    | (with_reducible apply Touch.via State.setF_touch; · decide)
    | with_reducible apply Touch.ite
    | intro _ _ _
    | intro _
    | extract_lets
    | split
    | (dsimp +zetaDelta only; split)

theorem startTestDone_touch {s} : Touch [.regs, .hst, .trj, .saf] s (startTestDone s) := by
  unfold startTestDone
  repeat first
    | with_reducible apply Touch.refl
    | with_reducible assumption
    | (with_reducible apply Touch.via enterSafSt_touch; · decide)
    | with_reducible apply Touch.ite
    | intro _ _ _
    | intro _
    | extract_lets
    | split
    | (dsimp +zetaDelta only; split)

theorem enterStartTest_touch {pend s} : Touch [.regs, .hst, .trj, .saf] s (enterStartTest pend s) := by
  unfold enterStartTest
  repeat first
    | with_reducible apply Touch.refl
    | with_reducible assumption
    | (with_reducible apply Touch.via State.withSaf_touch; · decide)
    | (with_reducible apply Touch.via startTestDone_touch; · decide)
    | (with_reducible apply Touch.via enterSafSt_touch; · decide)
    | (with_reducible apply Touch.via State.setF_touch; · decide)
    | with_reducible apply Touch.ite
    | with_reducible apply foldl_touch
    | intro _ _ _
    | intro _
    | extract_lets
    | split
    | (dsimp +zetaDelta only; split)

theorem discLatch_touch {i s} : Touch [.regs, .hst, .trj, .saf] s (discLatch i s) := by
  unfold discLatch
  repeat first
    | with_reducible apply Touch.refl
    | with_reducible assumption
    | (with_reducible apply Touch.via State.post_touch; · decide)
    | (with_reducible apply Touch.via demandInput_touch; · decide)
    | (with_reducible apply Touch.via State.withSaf_touch; · decide)
    | (with_reducible apply Touch.via State.setMaskBit_touch; · decide)
    | (with_reducible apply Touch.via State.flag_touch; · decide)
    | with_reducible apply Touch.ite
    | intro _ _ _
    | intro _
    | extract_lets
    | split
    | (dsimp +zetaDelta only; split)

theorem inputFollow_touch {i s} : Touch [.regs, .hst, .trj, .saf] s (inputFollow i s) := by
  unfold inputFollow
  repeat first
    | with_reducible apply Touch.refl
    | with_reducible assumption
    | (with_reducible apply Touch.via startTestDone_touch; · decide)
    | (with_reducible apply Touch.via State.setMaskBit_touch; · decide)
    | (with_reducible apply Touch.via State.withSaf_touch; · decide)
    | with_reducible apply Touch.ite
    | intro _ _ _
    | intro _
    | extract_lets
    | split
    | (dsimp +zetaDelta only; split)

theorem confirmDone_touch {s} : Touch [.regs, .saf] s (confirmDone s) := by
  unfold confirmDone
  repeat first
    | with_reducible apply Touch.refl
    | with_reducible assumption
    | (with_reducible apply Touch.via State.setF_touch; · decide)
    | (with_reducible apply Touch.via State.withSaf_touch; · decide)
    | with_reducible apply Touch.ite
    | intro _ _ _
    | intro _
    | extract_lets
    | split
    | (dsimp +zetaDelta only; split)

theorem edmReset_touch {i o s} : Touch [.regs, .saf] s (edmReset i o s) := by
  unfold edmReset
  repeat first
    | with_reducible apply Touch.refl
    | with_reducible assumption
    | (with_reducible apply Touch.via State.setMaskBit_touch; · decide)
    | (with_reducible apply Touch.via outFollow_touch; · decide)
    | with_reducible apply Touch.ite
    | intro _ _ _
    | intro _
    | extract_lets
    | split
    | (dsimp +zetaDelta only; split)

theorem confirmTimeout_touch {s} : Touch [.regs, .hst, .saf] s (confirmTimeout s) := by
  unfold confirmTimeout
  repeat first
    | with_reducible apply Touch.refl
    | with_reducible assumption
    | (with_reducible apply Touch.via State.setF_touch; · decide)
    | (with_reducible apply Touch.via State.flag_touch; · decide)
    | (with_reducible apply Touch.via State.withSaf_touch; · decide)
    | (with_reducible apply Touch.via State.post_touch; · decide)
    | with_reducible apply Touch.ite
    | intro _ _ _
    | intro _
    | extract_lets
    | split
    | (dsimp +zetaDelta only; split)

theorem resetEdge_touch {pend i s0} : Touch [.regs, .hst, .trj, .saf] s0 (resetEdge pend i s0) := by
  unfold resetEdge
  repeat first
    | with_reducible apply Touch.refl
    | with_reducible assumption
    | (with_reducible apply Touch.via edmReset_touch; · decide)
    | (with_reducible apply Touch.via resetGroup_touch; · decide)
    | with_reducible apply State.each_touch
    | (with_reducible apply Touch.via enterStartTest_touch; · decide)
    | (with_reducible apply Touch.via confirmDone_touch; · decide)
    | (with_reducible apply Touch.via confirmTimeout_touch; · decide)
    | with_reducible apply Touch.ite
    | intro _ _ _
    | intro _
    | extract_lets
    | split
    | (dsimp +zetaDelta only; split)

theorem pressFollow_touch {pend i s} : Touch [.regs, .hst, .trj, .saf] s (pressFollow pend i s) := by
  unfold pressFollow
  repeat first
    | with_reducible apply Touch.refl
    | with_reducible assumption
    | (with_reducible apply Touch.via resetEdge_touch; · decide)
    | (with_reducible apply Touch.via State.withSaf_touch; · decide)
    | with_reducible apply Touch.ite
    | intro _ _ _
    | intro _
    | extract_lets
    | split
    | (dsimp +zetaDelta only; split)

theorem State.setTerminal_touch {s ch n v} : Touch [.saf] s (State.setTerminal s ch n v) := by
  unfold State.setTerminal
  repeat first
    | with_reducible apply Touch.refl
    | with_reducible assumption
    | (with_reducible apply Touch.via State.withSaf_touch; · decide)
    | with_reducible apply Touch.ite
    | intro _ _ _
    | intro _
    | extract_lets
    | split
    | (dsimp +zetaDelta only; split)

theorem inputChange_touch {pend ch i b v s} : Touch [.regs, .hst, .trj, .saf] s (inputChange pend ch i b v s) := by
  unfold inputChange
  repeat first
    | with_reducible apply Touch.refl
    | with_reducible assumption
    | (with_reducible apply Touch.via edmFollow_touch; · decide)
    | (with_reducible apply Touch.via axisFollow_touch; · decide)
    | with_reducible apply State.each_touch
    | (with_reducible apply Touch.via pressFollow_touch; · decide)
    | (with_reducible apply Touch.via demandInput_touch; · decide)
    | (with_reducible apply Touch.via State.setTerminal_touch; · decide)
    | (with_reducible apply Touch.via inputFollow_touch; · decide)
    | with_reducible apply Touch.ite
    | intro _ _ _
    | intro _
    | extract_lets
    | split
    | (dsimp +zetaDelta only; split)

theorem standstill_touch {ch g s} : Touch [.regs, .hst, .trj, .saf] s (standstill ch g s) := by
  unfold standstill
  repeat first
    | with_reducible apply Touch.refl
    | with_reducible assumption
    | (with_reducible apply Touch.via enterGs_touch; · decide)
    | (with_reducible apply Touch.via State.modSchan_touch; · decide)
    | with_reducible apply Touch.ite
    | intro _ _ _
    | intro _
    | extract_lets
    | split
    | (dsimp +zetaDelta only; split)

theorem sosCheck_touch {ch g s} : Touch [.regs, .hst, .trj, .saf] s (sosCheck ch g s) := by
  unfold sosCheck
  repeat first
    | with_reducible apply Touch.refl
    | with_reducible assumption
    | (with_reducible apply Touch.via demand_touch; · decide)
    | with_reducible apply Touch.ite
    | intro _ _ _
    | intro _
    | extract_lets
    | split
    | (dsimp +zetaDelta only; split)

theorem slsCheck_touch {ch g s} : Touch [.regs, .hst, .trj, .saf] s (slsCheck ch g s) := by
  unfold slsCheck
  repeat first
    | with_reducible apply Touch.refl
    | with_reducible assumption
    | (with_reducible apply Touch.via demand_touch; · decide)
    | with_reducible apply State.each_touch
    | (with_reducible apply Touch.via State.modSchan_touch; · decide)
    | (with_reducible apply Touch.via State.modSgrp_touch; · decide)
    | with_reducible apply Touch.ite
    | intro _ _ _
    | intro _
    | extract_lets
    | split
    | (dsimp +zetaDelta only; split)

theorem slpCheck_touch {ch g s} : Touch [.regs, .hst, .trj, .saf] s (slpCheck ch g s) := by
  unfold slpCheck
  repeat first
    | with_reducible apply Touch.refl
    | with_reducible assumption
    | (with_reducible apply Touch.via demand_touch; · decide)
    | (with_reducible apply Touch.via State.modSchan_touch; · decide)
    | with_reducible apply State.each_touch
    | with_reducible apply Touch.ite
    | intro _ _ _
    | intro _
    | extract_lets
    | split
    | (dsimp +zetaDelta only; split)

theorem envCheck_touch {ch g v k period s} : Touch [.regs, .hst, .trj, .saf, .lnd] s (envCheck ch g v k period s) := by
  unfold envCheck
  repeat first
    | with_reducible apply Touch.refl
    | with_reducible assumption
    | (with_reducible apply Touch.via State.note_touch; · decide)
    | (with_reducible apply Touch.via demand_touch; · decide)
    | (with_reducible apply Touch.via State.modSchan_touch; · decide)
    | with_reducible apply Touch.ite
    | intro _ _ _
    | intro _
    | extract_lets
    | split
    | (dsimp +zetaDelta only; split)

theorem envStart_touch {s} : Touch [.saf] s (envStart s) := by
  unfold envStart
  repeat first
    | with_reducible apply Touch.refl
    | with_reducible assumption
    | (with_reducible apply Touch.via State.modSchan_touch; · decide)
    | (with_reducible apply Touch.via State.withSaf_touch; · decide)
    | with_reducible apply State.each_touch
    | with_reducible apply Touch.ite
    | intro _ _ _
    | intro _
    | extract_lets
    | split
    | (dsimp +zetaDelta only; split)

theorem recordPairBad_touch {mask inst s} : Touch [.regs, .hst, .trj, .saf, .lnd] s (recordPairBad mask inst s) := by
  unfold recordPairBad
  repeat first
    | with_reducible apply Touch.refl
    | with_reducible assumption
    | (with_reducible apply Touch.via State.note_touch; · decide)
    | (with_reducible apply Touch.via State.fault_touch; · decide)
    | (with_reducible apply Touch.via demandMask_touch; · decide)
    | with_reducible apply Touch.ite
    | intro _ _ _
    | intro _
    | extract_lets
    | split
    | (dsimp +zetaDelta only; split)

theorem paramPairs_touch {lo hi ch s} : Touch [.regs, .hst, .trj, .saf, .lnd] s (paramPairs lo hi ch s) := by
  unfold paramPairs
  repeat first
    | with_reducible apply Touch.refl
    | with_reducible assumption
    | (with_reducible apply Touch.via State.note_touch; · decide)
    | (with_reducible apply Touch.via State.fault_touch; · decide)
    | (with_reducible apply Touch.via safeFault_touch; · decide)
    | with_reducible apply Touch.ite
    | intro _ _ _
    | intro _
    | extract_lets
    | split
    | (dsimp +zetaDelta only; split)

theorem groupChecks_touch {ch flips k g s} : Touch [.regs, .hst, .trj, .saf, .lnd] s (groupChecks ch flips k g s) := by
  unfold groupChecks
  repeat first
    | with_reducible apply Touch.refl
    | with_reducible assumption
    | (with_reducible apply Touch.via standstill_touch; · decide)
    | (with_reducible apply Touch.via sosCheck_touch; · decide)
    | (with_reducible apply Touch.via slsCheck_touch; · decide)
    | (with_reducible apply Touch.via slpCheck_touch; · decide)
    | (with_reducible apply Touch.via recordPairBad_touch; · decide)
    | (with_reducible apply Touch.via envCheck_touch; · decide)
    | with_reducible apply Touch.ite
    | intro _ _ _
    | intro _
    | extract_lets
    | split
    | (dsimp +zetaDelta only; split)

theorem positionRecord_touch {ch flips s} : Touch [.regs, .hst, .trj, .saf, .lnd] s (positionRecord ch flips s) := by
  unfold positionRecord
  repeat first
    | with_reducible apply Touch.refl
    | with_reducible assumption
    | (with_reducible apply Touch.via groupChecks_touch; · decide)
    | (with_reducible apply Touch.via recordPairBad_touch; · decide)
    | (with_reducible apply Touch.via State.withSaf_touch; · decide)
    | (with_reducible apply Touch.via paramPairs_touch; · decide)
    | (with_reducible apply Touch.via State.modSchan_touch; · decide)
    | with_reducible apply State.each_touch
    | with_reducible apply Touch.ite
    | intro _ _ _
    | intro _
    | extract_lets
    | split
    | (dsimp +zetaDelta only; split)

theorem posCheck_touch {a posOk s} : Touch [.regs, .hst, .trj, .saf] s (posCheck a posOk s) := by
  unfold posCheck
  repeat first
    | with_reducible apply Touch.refl
    | with_reducible assumption
    | (with_reducible apply Touch.via State.flag_touch; · decide)
    | (with_reducible apply Touch.via demandAxis_touch; · decide)
    | (with_reducible apply Touch.via State.post_touch; · decide)
    | (with_reducible apply Touch.via State.incF_touch; · decide)
    | (with_reducible apply Touch.via State.withSaf_touch; · decide)
    | with_reducible apply Touch.ite
    | intro _ _ _
    | intro _
    | extract_lets
    | split
    | (dsimp +zetaDelta only; split)

theorem pduCheck_touch {a invalid stoActive posOk s} : Touch [.regs, .hst, .trj, .saf] s (pduCheck a invalid stoActive posOk s) := by
  unfold pduCheck
  repeat first
    | with_reducible apply Touch.refl
    | with_reducible assumption
    | (with_reducible apply Touch.via posCheck_touch; · decide)
    | (with_reducible apply Touch.via State.flag_touch; · decide)
    | (with_reducible apply Touch.via demandAxis_touch; · decide)
    | (with_reducible apply Touch.via State.post_touch; · decide)
    | (with_reducible apply Touch.via State.addF_touch; · decide)
    | (with_reducible apply Touch.via State.withSaf_touch; · decide)
    | (with_reducible apply Touch.via State.setF_touch; · decide)
    | with_reducible apply Touch.ite
    | intro _ _ _
    | intro _
    | extract_lets
    | split
    | (dsimp +zetaDelta only; split)

theorem bchTimeout_touch {a s} : Touch [.regs, .hst, .trj, .saf] s (bchTimeout a s) := by
  unfold bchTimeout
  repeat first
    | with_reducible apply Touch.refl
    | with_reducible assumption
    | (with_reducible apply Touch.via State.flag_touch; · decide)
    | (with_reducible apply Touch.via demandAxis_touch; · decide)
    | (with_reducible apply Touch.via State.post_touch; · decide)
    | with_reducible apply Touch.ite
    | intro _ _ _
    | intro _
    | extract_lets
    | split
    | (dsimp +zetaDelta only; split)

end Sys2Proof.Machine
end

