-- ==== Sys2Proof/Laws/TouchTrjCmd.lean ====
section
/-! SUPPORT. The footprint of each operation of Machine/TrjCmd.lean: the parts of the state it may change. -/

namespace Sys2Proof.Machine

theorem queueTrj_touch {g c s} : Touch [.trj] s (queueTrj g c s) := by
  unfold queueTrj
  repeat first
    | with_reducible apply Touch.refl
    | with_reducible assumption
    | (with_reducible apply Touch.via State.modGrp_touch; · decide)
    | with_reducible apply Touch.ite
    | intro _ _ _
    | intro _
    | extract_lets
    | split
    | (dsimp +zetaDelta only; split)

theorem queueAux_touch {n c s} : Touch [.trj] s (queueAux n c s) := by
  unfold queueAux
  repeat first
    | with_reducible apply Touch.refl
    | with_reducible assumption
    | (with_reducible apply Touch.via State.setAux_touch; · decide)
    | (with_reducible apply Touch.via queueTrj_touch; · decide)
    | with_reducible apply Touch.ite
    | intro _ _ _
    | intro _
    | extract_lets
    | split
    | (dsimp +zetaDelta only; split)

theorem trjCmdRun_touch {cmd b s} : Touch [.regs, .hst, .trj] s (trjCmdRun cmd b s) := by
  unfold trjCmdRun
  repeat first
    | with_reducible apply Touch.refl
    | with_reducible assumption
    | (with_reducible apply Touch.via queueAux_touch; · decide)
    | with_reducible apply State.each_touch
    | (with_reducible apply Touch.via applyCmd_touch; · decide)
    | (with_reducible apply Touch.via queueTrj_touch; · decide)
    | with_reducible apply Touch.ite
    | intro _ _ _
    | intro _
    | extract_lets
    | split
    | (dsimp +zetaDelta only; split)

theorem evalAux_touch {n tau s} : Touch [.regs, .hst, .trj] s (evalAux n tau s) := by
  unfold evalAux
  repeat first
    | with_reducible apply Touch.refl
    | with_reducible assumption
    | (with_reducible apply Touch.via State.flag_touch; · decide)
    | (with_reducible apply Touch.via State.post_touch; · decide)
    | (with_reducible apply Touch.via State.setF_touch; · decide)
    | (with_reducible apply Touch.via State.setS_touch; · decide)
    | (with_reducible apply Touch.via State.setAux_touch; · decide)
    | with_reducible apply Touch.ite
    | intro _ _ _
    | intro _
    | extract_lets
    | split
    | (dsimp +zetaDelta only; split)

theorem auxBrake_touch {n tau s} : Touch [.regs, .trj] s (auxBrake n tau s) := by
  unfold auxBrake
  repeat first
    | with_reducible apply Touch.refl
    | with_reducible assumption
    | (with_reducible apply Touch.via applyAux_touch; · decide)
    | with_reducible apply Touch.ite
    | intro _ _ _
    | intro _
    | extract_lets
    | split
    | (dsimp +zetaDelta only; split)

theorem auxOut_touch {n vbus s} : Touch [.regs, .trj] s (auxOut n vbus s) := by
  unfold auxOut
  repeat first
    | with_reducible apply Touch.refl
    | with_reducible assumption
    | (with_reducible apply Touch.via State.setF_touch; · decide)
    | (with_reducible apply Touch.via State.flagIf_touch; · decide)
    | (with_reducible apply Touch.via State.setAux_touch; · decide)
    | with_reducible apply Touch.ite
    | intro _ _ _
    | intro _
    | extract_lets
    | split
    | (dsimp +zetaDelta only; split)

theorem auxApply_touch {n s} : Touch [.regs, .trj] s (auxApply n s) := by
  unfold auxApply
  repeat first
    | with_reducible apply Touch.refl
    | with_reducible assumption
    | (with_reducible apply Touch.via State.setS_touch; · decide)
    | (with_reducible apply Touch.via State.setAux_touch; · decide)
    | with_reducible apply Touch.ite
    | intro _ _ _
    | intro _
    | extract_lets
    | split
    | (dsimp +zetaDelta only; split)

theorem auxMeasured_touch {s} : Touch [.regs, .trj] s (auxMeasured s) := by
  unfold auxMeasured
  repeat first
    | with_reducible apply Touch.refl
    | with_reducible assumption
    | (with_reducible apply Touch.via auxOut_touch; · decide)
    | with_reducible apply State.each_touch
    | with_reducible apply Touch.ite
    | intro _ _ _
    | intro _
    | extract_lets
    | split
    | (dsimp +zetaDelta only; split)

theorem auxHold_touch {n s} : Touch [.regs] s (auxHold n s) := by
  unfold auxHold
  repeat first
    | with_reducible apply Touch.refl
    | with_reducible assumption
    | (with_reducible apply Touch.via State.setF_touch; · decide)
    | (with_reducible apply Touch.via State.flagIf_touch; · decide)
    | with_reducible apply Touch.ite
    | intro _ _ _
    | intro _
    | extract_lets
    | split
    | (dsimp +zetaDelta only; split)

theorem checkAux_touch {n s} : Touch [.regs, .hst, .trj, .lnd] s (checkAux n s) := by
  unfold checkAux
  repeat first
    | with_reducible apply Touch.refl
    | with_reducible assumption
    | (with_reducible apply Touch.via State.setAux_touch; · decide)
    | (with_reducible apply Touch.via State.fault_touch; · decide)
    | (with_reducible apply Touch.via limitFault_touch; · decide)
    | with_reducible apply Touch.ite
    | intro _ _ _
    | intro _
    | extract_lets
    | split
    | (dsimp +zetaDelta only; split)

theorem auxCycle_touch {n vbus s00} : Touch [.regs, .hst, .trj, .lnd] s00 (auxCycle n vbus s00) := by
  unfold auxCycle
  repeat first
    | with_reducible apply Touch.refl
    | with_reducible assumption
    | (with_reducible apply Touch.via auxHold_touch; · decide)
    | (with_reducible apply Touch.via auxOut_touch; · decide)
    | (with_reducible apply Touch.via evalAux_touch; · decide)
    | (with_reducible apply Touch.via auxBrake_touch; · decide)
    | (with_reducible apply Touch.via applyAux_touch; · decide)
    | with_reducible apply State.each_touch
    | (with_reducible apply Touch.via State.setAux_touch; · decide)
    | (with_reducible apply Touch.via State.setF_touch; · decide)
    | (with_reducible apply Touch.via auxApply_touch; · decide)
    | (with_reducible apply Touch.via checkAux_touch; · decide)
    | with_reducible apply Touch.ite
    | intro _ _ _
    | intro _
    | extract_lets
    | split
    | (dsimp +zetaDelta only; split)

theorem trjFollow_touch {live base i v old s} : Touch [.regs, .hst, .trj] s (trjFollow live base i v old s) := by
  unfold trjFollow
  repeat first
    | with_reducible apply Touch.refl
    | with_reducible assumption
    | (with_reducible apply Touch.via State.wrN_touch; · decide)
    | (with_reducible apply Touch.via showC_touch; · decide)
    | (with_reducible apply Touch.via cmpUndo_touch; · decide)
    | (with_reducible apply Touch.via State.setCmp_touch; · decide)
    | (with_reducible apply Touch.via State.put_touch; · decide)
    | (with_reducible apply Touch.via State.setF_touch; · decide)
    | (with_reducible apply Touch.via groupMembers_touch; · decide)
    | with_reducible apply State.each_touch
    | (with_reducible apply Touch.via cmpArm_touch; · decide)
    | with_reducible apply Touch.ite
    | intro _ _ _
    | intro _
    | extract_lets
    | split
    | (dsimp +zetaDelta only; split)

theorem axFollow_touch {base a v old s} : Touch [.regs, .hst, .trj] s (axFollow base a v old s) := by
  unfold axFollow
  repeat first
    | with_reducible apply Touch.refl
    | with_reducible assumption
    | (with_reducible apply Touch.via rejudgeInputs_touch; · decide)
    | with_reducible apply Touch.ite
    | intro _ _ _
    | intro _
    | extract_lets
    | split
    | (dsimp +zetaDelta only; split)

theorem auxFollow_touch {base n v old s} : Touch [.regs, .hst, .trj] s (auxFollow base n v old s) := by
  unfold auxFollow
  repeat first
    | with_reducible apply Touch.refl
    | with_reducible assumption
    | (with_reducible apply Touch.via groupMembers_touch; · decide)
    | with_reducible apply State.each_touch
    | with_reducible apply Touch.ite
    | intro _ _ _
    | intro _
    | extract_lets
    | split
    | (dsimp +zetaDelta only; split)

theorem axRecFollow_touch {a s} : Touch [.regs] s (axRecFollow a s) := by
  unfold axRecFollow
  repeat first
    | with_reducible apply Touch.refl
    | with_reducible assumption
    | (with_reducible apply Touch.via State.setF_touch; · decide)
    | with_reducible apply Touch.ite
    | intro _ _ _
    | intro _
    | extract_lets
    | split
    | (dsimp +zetaDelta only; split)

end Sys2Proof.Machine
end

