-- ==== Sys2Proof/Laws/TouchSep.lean ====
section
/-! SUPPORT. The footprint of each operation of Machine/Sep.lean: the parts of the state it may change. -/

namespace Sys2Proof.Machine

theorem State.withSep_touch {s f} : Touch [.sep] s (State.withSep s f) := by
  unfold State.withSep
  repeat first
    | with_reducible apply Touch.refl
    | with_reducible assumption
    | with_reducible apply Touch.ite
    | (with_reducible apply Touch.sep; · decide)
    | intro _ _ _
    | intro _
    | extract_lets
    | split
    | (dsimp +zetaDelta only; split)

theorem sensorEnable_touch {i s} : Touch [.regs, .sep] s (sensorEnable i s) := by
  unfold sensorEnable
  repeat first
    | with_reducible apply Touch.refl
    | with_reducible assumption
    | (with_reducible apply Touch.via State.setF_touch; · decide)
    | (with_reducible apply Touch.via State.withSep_touch; · decide)
    | with_reducible apply Touch.ite
    | intro _ _ _
    | intro _
    | extract_lets
    | split
    | (dsimp +zetaDelta only; split)

theorem sepFollow_touch {base v old s} : Touch [.regs, .sep] s (sepFollow base v old s) := by
  unfold sepFollow
  repeat first
    | with_reducible apply Touch.refl
    | with_reducible assumption
    | (with_reducible apply Touch.via State.withSep_touch; · decide)
    | (with_reducible apply Touch.via sensorEnable_touch; · decide)
    | with_reducible apply State.each_touch
    | (with_reducible apply Touch.via State.setF_touch; · decide)
    | with_reducible apply Touch.ite
    | intro _ _ _
    | intro _
    | extract_lets
    | split
    | (dsimp +zetaDelta only; split)

theorem sepRecFollow_touch {table r1 oldEn s} : Touch [.regs, .sep] s (sepRecFollow table r1 oldEn s) := by
  unfold sepRecFollow
  repeat first
    | with_reducible apply Touch.refl
    | with_reducible assumption
    | (with_reducible apply Touch.via State.setF_touch; · decide)
    | (with_reducible apply Touch.via sensorEnable_touch; · decide)
    | with_reducible apply Touch.ite
    | intro _ _ _
    | intro _
    | extract_lets
    | split
    | (dsimp +zetaDelta only; split)

theorem State.orSFlag_touch {s i m} : Touch [.regs] s (State.orSFlag s i m) := by
  unfold State.orSFlag
  repeat first
    | with_reducible apply Touch.refl
    | with_reducible assumption
    | (with_reducible apply Touch.via State.wr_touch; · decide)
    | with_reducible apply Touch.ite
    | intro _ _ _
    | intro _
    | extract_lets
    | split
    | (dsimp +zetaDelta only; split)

theorem frameAccept_touch {i data s} : Touch [.regs, .sep] s (frameAccept i data s) := by
  unfold frameAccept
  repeat first
    | with_reducible apply Touch.refl
    | with_reducible assumption
    | (with_reducible apply Touch.via State.flag_touch; · decide)
    | (with_reducible apply Touch.via State.orSFlag_touch; · decide)
    | (with_reducible apply Touch.via State.withSep_touch; · decide)
    | (with_reducible apply Touch.via State.incF_touch; · decide)
    | with_reducible apply Touch.ite
    | intro _ _ _
    | intro _
    | extract_lets
    | split
    | (dsimp +zetaDelta only; split)

theorem damaskFrame_touch {i data s} : Touch [.regs, .hst, .sep] s (damaskFrame i data s) := by
  unfold damaskFrame
  repeat first
    | with_reducible apply Touch.refl
    | with_reducible assumption
    | (with_reducible apply Touch.via State.withSep_touch; · decide)
    | (with_reducible apply Touch.via State.post_touch; · decide)
    | (with_reducible apply Touch.via State.orSFlag_touch; · decide)
    | (with_reducible apply Touch.via State.incF_touch; · decide)
    | (with_reducible apply Touch.via State.flag_touch; · decide)
    | (with_reducible apply Touch.via frameAccept_touch; · decide)
    | with_reducible apply Touch.ite
    | intro _ _ _
    | intro _
    | extract_lets
    | split
    | (dsimp +zetaDelta only; split)

theorem sepCmdRejected_touch {b s} : Touch [.regs] s (sepCmdRejected b s) := by
  unfold sepCmdRejected
  repeat first
    | with_reducible apply Touch.refl
    | with_reducible assumption
    | (with_reducible apply Touch.via State.orSFlag_touch; · decide)
    | with_reducible apply Touch.ite
    | intro _ _ _
    | intro _
    | extract_lets
    | split
    | (dsimp +zetaDelta only; split)

theorem sepCmdRun_touch {b s} : Touch [.regs, .sep] s (sepCmdRun b s) := by
  unfold sepCmdRun
  repeat first
    | with_reducible apply Touch.refl
    | with_reducible assumption
    | (with_reducible apply Touch.via frameAccept_touch; · decide)
    | with_reducible apply Touch.ite
    | intro _ _ _
    | intro _
    | extract_lets
    | split
    | (dsimp +zetaDelta only; split)

theorem sensorSnap_touch {i s} : Touch [.regs, .hst, .sep] s (sensorSnap i s) := by
  unfold sensorSnap
  repeat first
    | with_reducible apply Touch.refl
    | with_reducible assumption
    | (with_reducible apply Touch.via State.post_touch; · decide)
    | (with_reducible apply Touch.via State.flagIf_touch; · decide)
    | (with_reducible apply Touch.via State.setF_touch; · decide)
    | (with_reducible apply Touch.via State.withSep_touch; · decide)
    | with_reducible apply Touch.ite
    | intro _ _ _
    | intro _
    | extract_lets
    | split
    | (dsimp +zetaDelta only; split)

theorem sepPairs_touch {s} : Touch [.regs, .hst, .trj, .saf, .lnd] s (sepPairs s) := by
  unfold sepPairs
  repeat first
    | with_reducible apply Touch.refl
    | with_reducible assumption
    | with_reducible apply State.each_touch
    | (with_reducible apply Touch.via State.note_touch; · decide)
    | (with_reducible apply Touch.via State.fault_touch; · decide)
    | (with_reducible apply Touch.via safeFault_touch; · decide)
    | with_reducible apply Touch.ite
    | intro _ _ _
    | intro _
    | extract_lets
    | split
    | (dsimp +zetaDelta only; split)

theorem sepSnapshot_touch {s} : Touch [.regs, .hst, .trj, .sep, .saf, .lnd] s (sepSnapshot s) := by
  unfold sepSnapshot
  repeat first
    | with_reducible apply Touch.refl
    | with_reducible assumption
    | (with_reducible apply Touch.via sensorSnap_touch; · decide)
    | (with_reducible apply Touch.via State.setF_touch; · decide)
    | with_reducible apply State.each_touch
    | (with_reducible apply Touch.via sepPairs_touch; · decide)
    | (with_reducible apply Touch.via State.withSep_touch; · decide)
    | with_reducible apply Touch.ite
    | intro _ _ _
    | intro _
    | extract_lets
    | split
    | (dsimp +zetaDelta only; split)

theorem sepSample_touch {s} : Touch [.sep] s (sepSample s) := by
  unfold sepSample
  repeat first
    | with_reducible apply Touch.refl
    | with_reducible assumption
    | (with_reducible apply Touch.via State.withSep_touch; · decide)
    | with_reducible apply Touch.ite
    | intro _ _ _
    | intro _
    | extract_lets
    | split
    | (dsimp +zetaDelta only; split)

theorem putArm_touch {arm r1 s} : Touch [.regs, .hst] s (putArm arm r1 s) := by
  unfold putArm
  repeat first
    | with_reducible apply Touch.refl
    | with_reducible assumption
    | (with_reducible apply Touch.via State.flagIf_touch; · decide)
    | (with_reducible apply Touch.via State.flag_touch; · decide)
    | (with_reducible apply Touch.via State.post_touch; · decide)
    | with_reducible apply State.each_touch
    | (with_reducible apply Touch.via State.setS_touch; · decide)
    | (with_reducible apply Touch.via State.setF_touch; · decide)
    | with_reducible apply Touch.ite
    | intro _ _ _
    | intro _
    | extract_lets
    | split
    | (dsimp +zetaDelta only; split)

theorem putGroup_touch {g rs s} : Touch [.regs, .sep] s (putGroup g rs s) := by
  unfold putGroup
  repeat first
    | with_reducible apply Touch.refl
    | with_reducible assumption
    | (with_reducible apply Touch.via State.setS_touch; · decide)
    | (with_reducible apply Touch.via State.withSep_touch; · decide)
    | (with_reducible apply Touch.via State.setF_touch; · decide)
    | with_reducible apply Touch.ite
    | with_reducible apply foldl_touch
    | intro _ _ _
    | intro _
    | extract_lets
    | split
    | (dsimp +zetaDelta only; split)

theorem sepCompute_touch {cycles s} : Touch [.regs, .hst, .sep] s (sepCompute cycles s) := by
  unfold sepCompute
  repeat first
    | with_reducible apply Touch.refl
    | with_reducible assumption
    | (with_reducible apply Touch.via State.withSep_touch; · decide)
    | (with_reducible apply Touch.via State.setF_touch; · decide)
    | (with_reducible apply Touch.via putGroup_touch; · decide)
    | (with_reducible apply Touch.via putArm_touch; · decide)
    | with_reducible apply State.each_touch
    | with_reducible apply Touch.ite
    | intro _ _ _
    | intro _
    | extract_lets
    | split
    | (dsimp +zetaDelta only; split)

theorem sepLate_touch {s} : Touch [.regs, .hst, .sch, .sep, .lnd] s (sepLate s) := by
  unfold sepLate
  repeat first
    | with_reducible apply Touch.refl
    | with_reducible assumption
    | (with_reducible apply Touch.via State.post_touch; · decide)
    | (with_reducible apply Touch.via State.withSep_touch; · decide)
    | (with_reducible apply Touch.via raiseSignals_touch; · decide)
    | (with_reducible apply Touch.via State.setF_touch; · decide)
    | (with_reducible apply Touch.via State.flag_touch; · decide)
    | with_reducible apply State.each_touch
    | with_reducible apply Touch.ite
    | intro _ _ _
    | intro _
    | extract_lets
    | split
    | (dsimp +zetaDelta only; split)

theorem factorIssue_touch {g s} : Touch [.regs, .hst, .sep, .saf] s (factorIssue g s) := by
  unfold factorIssue
  repeat first
    | with_reducible apply Touch.refl
    | with_reducible assumption
    | (with_reducible apply Touch.via State.post_touch; · decide)
    | (with_reducible apply Touch.via State.flagIf_touch; · decide)
    | (with_reducible apply Touch.via State.setF_touch; · decide)
    | (with_reducible apply Touch.via State.withSaf_touch; · decide)
    | (with_reducible apply Touch.via State.withSep_touch; · decide)
    | (with_reducible apply Touch.via State.setMaskBit_touch; · decide)
    | with_reducible apply Touch.ite
    | intro _ _ _
    | intro _
    | extract_lets
    | split
    | (dsimp +zetaDelta only; split)

theorem factorsIssue_touch {s} : Touch [.regs, .hst, .sep, .saf] s (factorsIssue s) := by
  unfold factorsIssue
  repeat first
    | with_reducible apply Touch.refl
    | with_reducible assumption
    | (with_reducible apply Touch.via factorIssue_touch; · decide)
    | with_reducible apply State.each_touch
    | (with_reducible apply Touch.via State.withSaf_touch; · decide)
    | with_reducible apply Touch.ite
    | intro _ _ _
    | intro _
    | extract_lets
    | split
    | (dsimp +zetaDelta only; split)

theorem factorsTake_touch {s} : Touch [.trj, .sep, .saf] s (factorsTake s) := by
  unfold factorsTake
  repeat first
    | with_reducible apply Touch.refl
    | with_reducible assumption
    | (with_reducible apply Touch.via State.withSep_touch; · decide)
    | (with_reducible apply Touch.via State.withSaf_touch; · decide)
    | (with_reducible apply Touch.via State.modGrp_touch; · decide)
    | with_reducible apply State.each_touch
    | with_reducible apply Touch.ite
    | intro _ _ _
    | intro _
    | extract_lets
    | split
    | (dsimp +zetaDelta only; split)

end Sys2Proof.Machine
end

