-- ==== Sys2Proof/Laws/TouchSafCmd.lean ====
section
/-! SUPPORT. The footprint of each operation of Machine/SafCmd.lean: the parts of the state it may change. -/

namespace Sys2Proof.Machine

theorem paramCloseDone_touch {agree pend s} : Touch [.regs, .hst, .trj, .saf] s (paramCloseDone agree pend s) := by
  unfold paramCloseDone
  repeat first
    | with_reducible apply Touch.refl
    | with_reducible assumption
    | (with_reducible apply Touch.via enterSafSt_touch; · decide)
    | (with_reducible apply Touch.via enterStartTest_touch; · decide)
    | (with_reducible apply Touch.via State.setF_touch; · decide)
    | (with_reducible apply Touch.via State.completeHeld_touch; · decide)
    | (with_reducible apply Touch.via State.withSaf_touch; · decide)
    | with_reducible apply Touch.ite
    | intro _ _ _
    | intro _
    | extract_lets
    | split
    | (dsimp +zetaDelta only; split)

theorem paramOpen_touch {s} : Touch [.regs, .hst, .trj, .saf] s (paramOpen s) := by
  unfold paramOpen
  repeat first
    | with_reducible apply Touch.refl
    | with_reducible assumption
    | (with_reducible apply Touch.via State.setF_touch; · decide)
    | (with_reducible apply Touch.via enterSafSt_touch; · decide)
    | with_reducible apply Touch.ite
    | intro _ _ _
    | intro _
    | extract_lets
    | split
    | (dsimp +zetaDelta only; split)

theorem paramClose_touch {s} : Touch [.saf] s (paramClose s) := by
  unfold paramClose
  repeat first
    | with_reducible apply Touch.refl
    | with_reducible assumption
    | (with_reducible apply Touch.via State.withSaf_touch; · decide)
    | with_reducible apply Touch.ite
    | intro _ _ _
    | intro _
    | extract_lets
    | split
    | (dsimp +zetaDelta only; split)

theorem confirm_touch {s} : Touch [.regs, .saf] s (confirm s) := by
  unfold confirm
  repeat first
    | with_reducible apply Touch.refl
    | with_reducible assumption
    | (with_reducible apply Touch.via State.setF_touch; · decide)
    | (with_reducible apply Touch.via State.withSaf_touch; · decide)
    | with_reducible apply Touch.ite
    | intro _ _ _
    | intro _
    | extract_lets
    | split
    | (dsimp +zetaDelta only; split)

theorem safCmdRun_touch {cmd b s} : Touch [.regs, .hst, .trj, .saf] s (safCmdRun cmd b s) := by
  unfold safCmdRun
  repeat first
    | with_reducible apply Touch.refl
    | with_reducible assumption
    | (with_reducible apply Touch.via releaseHost_touch; · decide)
    | with_reducible apply State.each_touch
    | (with_reducible apply Touch.via confirm_touch; · decide)
    | (with_reducible apply Touch.via paramClose_touch; · decide)
    | (with_reducible apply Touch.via paramOpen_touch; · decide)
    | with_reducible apply Touch.ite
    | intro _ _ _
    | intro _
    | extract_lets
    | split
    | (dsimp +zetaDelta only; split)

theorem slsArmCheck_touch {g s} : Touch [.regs, .hst, .trj, .saf] s (slsArmCheck g s) := by
  unfold slsArmCheck
  repeat first
    | with_reducible apply Touch.refl
    | with_reducible assumption
    | (with_reducible apply Touch.via demand_touch; · decide)
    | (with_reducible apply Touch.via State.modSgrp_touch; · decide)
    | with_reducible apply Touch.ite
    | intro _ _ _
    | intro _
    | extract_lets
    | split
    | (dsimp +zetaDelta only; split)

theorem zoneCheck_touch {z s} : Touch [.regs, .hst, .trj, .saf] s (zoneCheck z s) := by
  unfold zoneCheck
  repeat first
    | with_reducible apply Touch.refl
    | with_reducible assumption
    | (with_reducible apply Touch.via State.modSgrp_touch; · decide)
    | (with_reducible apply Touch.via demand_touch; · decide)
    | with_reducible apply State.each_touch
    | with_reducible apply Touch.ite
    | intro _ _ _
    | intro _
    | extract_lets
    | split
    | (dsimp +zetaDelta only; split)

theorem zonesCheck_touch {s} : Touch [.regs, .hst, .trj, .saf] s (zonesCheck s) := by
  unfold zonesCheck
  repeat first
    | with_reducible apply Touch.refl
    | with_reducible assumption
    | (with_reducible apply Touch.via zoneCheck_touch; · decide)
    | (with_reducible apply Touch.via State.modSgrp_touch; · decide)
    | with_reducible apply State.each_touch
    | with_reducible apply Touch.ite
    | intro _ _ _
    | intro _
    | extract_lets
    | split
    | (dsimp +zetaDelta only; split)

theorem sepHandover_touch {sp felt s00} : Touch [.regs, .hst, .sch, .trj, .sep, .saf, .lnd] s00 (sepHandover sp felt s00) := by
  unfold sepHandover
  repeat first
    | with_reducible apply Touch.refl
    | with_reducible assumption
    | (with_reducible apply Touch.via slsArmCheck_touch; · decide)
    | (with_reducible apply Touch.via zonesCheck_touch; · decide)
    | (with_reducible apply Touch.via raiseSignals_touch; · decide)
    | (with_reducible apply Touch.via State.setF_touch; · decide)
    | (with_reducible apply Touch.via State.withSaf_touch; · decide)
    | (with_reducible apply Touch.via State.fault_touch; · decide)
    | with_reducible apply State.each_touch
    | (with_reducible apply Touch.via State.withSep_touch; · decide)
    | (with_reducible apply Touch.via paramPairs_touch; · decide)
    | with_reducible apply Touch.ite
    | with_reducible apply foldl_touch
    | intro _ _ _
    | intro _
    | extract_lets
    | split
    | (dsimp +zetaDelta only; split)

theorem safetyVerdict_touch {ch g bad s} : Touch [.regs, .hst, .saf, .lnd] s (safetyVerdict ch g bad s) := by
  unfold safetyVerdict
  repeat first
    | with_reducible apply Touch.refl
    | with_reducible assumption
    | (with_reducible apply Touch.via State.setF_touch; · decide)
    | (with_reducible apply Touch.via State.flagIf_touch; · decide)
    | (with_reducible apply Touch.via State.note_touch; · decide)
    | (with_reducible apply Touch.via State.fault_touch; · decide)
    | (with_reducible apply Touch.via State.withSaf_touch; · decide)
    | with_reducible apply Touch.ite
    | intro _ _ _
    | intro _
    | extract_lets
    | split
    | (dsimp +zetaDelta only; split)

theorem dataTimeout_touch {s} : Touch [.regs, .hst, .trj, .saf, .lnd] s (dataTimeout s) := by
  unfold dataTimeout
  repeat first
    | with_reducible apply Touch.refl
    | with_reducible assumption
    | (with_reducible apply Touch.via State.note_touch; · decide)
    | (with_reducible apply Touch.via demandMask_touch; · decide)
    | with_reducible apply Touch.ite
    | intro _ _ _
    | intro _
    | extract_lets
    | split
    | (dsimp +zetaDelta only; split)

theorem ssTmaxExpiry_touch {g s} : Touch [.regs, .hst, .trj, .saf] s (ssTmaxExpiry g s) := by
  unfold ssTmaxExpiry
  repeat first
    | with_reducible apply Touch.refl
    | with_reducible assumption
    | (with_reducible apply Touch.via demand_touch; · decide)
    | with_reducible apply Touch.ite
    | intro _ _ _
    | intro _
    | extract_lets
    | split
    | (dsimp +zetaDelta only; split)

theorem crossCompare_touch {differ ch s} : Touch [.regs, .hst, .trj, .saf] s (crossCompare differ ch s) := by
  unfold crossCompare
  repeat first
    | with_reducible apply Touch.refl
    | with_reducible assumption
    | (with_reducible apply Touch.via safeFault_touch; · decide)
    | (with_reducible apply Touch.via State.withSaf_touch; · decide)
    | with_reducible apply Touch.ite
    | intro _ _ _
    | intro _
    | extract_lets
    | split
    | (dsimp +zetaDelta only; split)

theorem paramRecheck_touch {ch value s} : Touch [.regs, .hst, .trj, .saf] s (paramRecheck ch value s) := by
  unfold paramRecheck
  repeat first
    | with_reducible apply Touch.refl
    | with_reducible assumption
    | (with_reducible apply Touch.via safeFault_touch; · decide)
    | with_reducible apply Touch.ite
    | intro _ _ _
    | intro _
    | extract_lets
    | split
    | (dsimp +zetaDelta only; split)

theorem discTimeout_touch {i s} : Touch [.regs, .hst, .trj, .saf] s (discTimeout i s) := by
  unfold discTimeout
  repeat first
    | with_reducible apply Touch.refl
    | with_reducible assumption
    | (with_reducible apply Touch.via discLatch_touch; · decide)
    | with_reducible apply Touch.ite
    | intro _ _ _
    | intro _
    | extract_lets
    | split
    | (dsimp +zetaDelta only; split)

theorem testPulse_touch {i good s} : Touch [.regs, .hst, .trj, .saf] s (testPulse i good s) := by
  unfold testPulse
  repeat first
    | with_reducible apply Touch.refl
    | with_reducible assumption
    | (with_reducible apply Touch.via discLatch_touch; · decide)
    | with_reducible apply Touch.ite
    | intro _ _ _
    | intro _
    | extract_lets
    | split
    | (dsimp +zetaDelta only; split)

theorem resetRelease_touch {pend i s} : Touch [.regs, .hst, .trj, .saf] s (resetRelease pend i s) := by
  unfold resetRelease
  repeat first
    | with_reducible apply Touch.refl
    | with_reducible assumption
    | (with_reducible apply Touch.via inputChange_touch; · decide)
    | with_reducible apply Touch.ite
    | intro _ _ _
    | intro _
    | extract_lets
    | split
    | (dsimp +zetaDelta only; split)

theorem resetStuck_touch {i s} : Touch [.regs, .hst, .saf] s (resetStuck i s) := by
  unfold resetStuck
  repeat first
    | with_reducible apply Touch.refl
    | with_reducible assumption
    | (with_reducible apply Touch.via State.flag_touch; · decide)
    | (with_reducible apply Touch.via State.withSaf_touch; · decide)
    | (with_reducible apply Touch.via State.post_touch; · decide)
    | with_reducible apply Touch.ite
    | intro _ _ _
    | intro _
    | extract_lets
    | split
    | (dsimp +zetaDelta only; split)

theorem outputTest_touch {element seenOff s} : Touch [.regs, .hst, .trj, .saf] s (outputTest element seenOff s) := by
  unfold outputTest
  repeat first
    | with_reducible apply Touch.refl
    | with_reducible assumption
    | (with_reducible apply Touch.via safeFault_touch; · decide)
    | with_reducible apply Touch.ite
    | intro _ _ _
    | intro _
    | extract_lets
    | split
    | (dsimp +zetaDelta only; split)

theorem edmTimeout_touch {o s} : Touch [.regs, .hst, .saf] s (edmTimeout o s) := by
  unfold edmTimeout
  repeat first
    | with_reducible apply Touch.refl
    | with_reducible assumption
    | (with_reducible apply Touch.via State.flag_touch; · decide)
    | (with_reducible apply Touch.via outFollow_touch; · decide)
    | (with_reducible apply Touch.via State.post_touch; · decide)
    | (with_reducible apply Touch.via State.setMaskBit_touch; · decide)
    | (with_reducible apply Touch.via State.withSaf_touch; · decide)
    | with_reducible apply Touch.ite
    | intro _ _ _
    | intro _
    | extract_lets
    | split
    | (dsimp +zetaDelta only; split)

end Sys2Proof.Machine
end

