-- ==== Sys2Proof/Laws/TouchBf.lean ====
section
/-! SUPPORT. The footprint of each operation of Machine/Bf.lean: the parts of the state it may change. -/

namespace Sys2Proof.Machine

theorem State.withCen_touch {s f} : Touch [.cen] s (State.withCen s f) := by
  unfold State.withCen
  repeat first
    | with_reducible apply Touch.refl
    | with_reducible assumption
    | with_reducible apply Touch.ite
    | (with_reducible apply Touch.cen; · decide)
    | intro _ _ _
    | intro _
    | extract_lets
    | split
    | (dsimp +zetaDelta only; split)

theorem State.modLaw_touch {s n f} : Touch [.cen] s (State.modLaw s n f) := by
  unfold State.modLaw
  repeat first
    | with_reducible apply Touch.refl
    | with_reducible assumption
    | (with_reducible apply Touch.via State.withCen_touch; · decide)
    | with_reducible apply Touch.ite
    | intro _ _ _
    | intro _
    | extract_lets
    | split
    | (dsimp +zetaDelta only; split)

end Sys2Proof.Machine
end

