-- ==== Sys2Proof/Laws/TouchWalno.lean ====
section
/-! SUPPORT. The footprint of each operation of Machine/Walno.lean: the parts of the state it may change. -/

namespace Sys2Proof.Machine

theorem State.withDp_touch {s f} : Touch [.dp] s (State.withDp s f) := by
  unfold State.withDp
  repeat first
    | with_reducible apply Touch.refl
    | with_reducible assumption
    | with_reducible apply Touch.ite
    | (with_reducible apply Touch.dp; · decide)
    | intro _ _ _
    | intro _
    | extract_lets
    | split
    | (dsimp +zetaDelta only; split)

theorem State.setCtx_touch {s n c} : Touch [.dp] s (State.setCtx s n c) := by
  unfold State.setCtx
  repeat first
    | with_reducible apply Touch.refl
    | with_reducible assumption
    | (with_reducible apply Touch.via State.withDp_touch; · decide)
    | with_reducible apply Touch.ite
    | intro _ _ _
    | intro _
    | extract_lets
    | split
    | (dsimp +zetaDelta only; split)

theorem dpFlag_touch {n b s} : Touch [.regs] s (dpFlag n b s) := by
  unfold dpFlag
  repeat first
    | with_reducible apply Touch.refl
    | with_reducible assumption
    | (with_reducible apply Touch.via State.wr_touch; · decide)
    | with_reducible apply Touch.ite
    | intro _ _ _
    | intro _
    | extract_lets
    | split
    | (dsimp +zetaDelta only; split)

theorem State.setSlice_touch {s i v} : Touch [.regs] s (State.setSlice s i v) := by
  unfold State.setSlice
  repeat first
    | with_reducible apply Touch.refl
    | with_reducible assumption
    | (with_reducible apply Touch.via State.wr_touch; · decide)
    | with_reducible apply Touch.ite
    | intro _ _ _
    | intro _
    | extract_lets
    | split
    | (dsimp +zetaDelta only; split)

theorem sliceFree_touch {n s} : Touch [.regs] s (sliceFree n s) := by
  unfold sliceFree
  repeat first
    | with_reducible apply Touch.refl
    | with_reducible assumption
    | (with_reducible apply Touch.via State.setSlice_touch; · decide)
    | with_reducible apply Touch.ite
    | intro _ _ _
    | intro _
    | extract_lets
    | split
    | (dsimp +zetaDelta only; split)

theorem sliceAsk_touch {n s} : Touch [.regs] s (sliceAsk n s) := by
  unfold sliceAsk
  repeat first
    | with_reducible apply Touch.refl
    | with_reducible assumption
    | (with_reducible apply Touch.via dpFlag_touch; · decide)
    | (with_reducible apply Touch.via State.setSlice_touch; · decide)
    | with_reducible apply Touch.ite
    | intro _ _ _
    | intro _
    | extract_lets
    | split
    | (dsimp +zetaDelta only; split)

theorem dpStart_touch {n s} : Touch [.dp] s (dpStart n s) := by
  unfold dpStart
  repeat first
    | with_reducible apply Touch.refl
    | with_reducible assumption
    | (with_reducible apply Touch.via State.setCtx_touch; · decide)
    | with_reducible apply Touch.ite
    | intro _ _ _
    | intro _
    | extract_lets
    | split
    | (dsimp +zetaDelta only; split)

theorem dpPreempt_touch {n s} : Touch [.regs, .dp] s (dpPreempt n s) := by
  unfold dpPreempt
  repeat first
    | with_reducible apply Touch.refl
    | with_reducible assumption
    | (with_reducible apply Touch.via sliceFree_touch; · decide)
    | (with_reducible apply Touch.via State.setCtx_touch; · decide)
    | with_reducible apply Touch.ite
    | intro _ _ _
    | intro _
    | extract_lets
    | split
    | (dsimp +zetaDelta only; split)

theorem dpKeepInputs_touch {s} : Touch [.dp] s (dpKeepInputs s) := by
  unfold dpKeepInputs
  repeat first
    | with_reducible apply Touch.refl
    | with_reducible assumption
    | (with_reducible apply Touch.via State.setCtx_touch; · decide)
    | with_reducible apply State.each_touch
    | with_reducible apply Touch.ite
    | intro _ _ _
    | intro _
    | extract_lets
    | split
    | (dsimp +zetaDelta only; split)

theorem exception_touch {n number s} : Touch [.regs, .hst, .sch, .lnd] s (exception n number s) := by
  unfold exception
  repeat first
    | with_reducible apply Touch.refl
    | with_reducible assumption
    | (with_reducible apply Touch.via State.flag_touch; · decide)
    | (with_reducible apply Touch.via sliceFree_touch; · decide)
    | (with_reducible apply Touch.via haltCtx_touch; · decide)
    | (with_reducible apply Touch.via State.setF_touch; · decide)
    | with_reducible apply Touch.ite
    | intro _ _ _
    | intro _
    | extract_lets
    | split
    | (dsimp +zetaDelta only; split)

theorem advance_touch {n s} : Touch [.regs, .dp] s (advance n s) := by
  unfold advance
  repeat first
    | with_reducible apply Touch.refl
    | with_reducible assumption
    | (with_reducible apply Touch.via sliceAsk_touch; · decide)
    | (with_reducible apply Touch.via sliceFree_touch; · decide)
    | (with_reducible apply Touch.via State.setCtx_touch; · decide)
    | with_reducible apply Touch.ite
    | intro _ _ _
    | intro _
    | extract_lets
    | split
    | (dsimp +zetaDelta only; split)

theorem fold_touch {n g s} : Touch [.regs, .dp] s (fold n g s) := by
  unfold fold
  repeat first
    | with_reducible apply Touch.refl
    | with_reducible assumption
    | (with_reducible apply Touch.via State.setCtx_touch; · decide)
    | (with_reducible apply Touch.via dpFlag_touch; · decide)
    | with_reducible apply Touch.ite
    | intro _ _ _
    | intro _
    | extract_lets
    | split
    | (dsimp +zetaDelta only; split)

theorem postMod_touch {n g pm s} : Touch [.dp] s (postMod n g pm s) := by
  unfold postMod
  repeat first
    | with_reducible apply Touch.refl
    | with_reducible assumption
    | (with_reducible apply Touch.via State.setCtx_touch; · decide)
    | with_reducible apply Touch.ite
    | intro _ _ _
    | intro _
    | extract_lets
    | split
    | (dsimp +zetaDelta only; split)

theorem accOvf_touch {n hits s} : Touch [.regs, .hst, .sch, .lnd] s (accOvf n hits s).1 := by
  unfold accOvf
  repeat first
    | with_reducible apply Touch.refl
    | with_reducible assumption
    | (with_reducible apply Touch.via exception_touch; · decide)
    | (with_reducible apply Touch.via State.addF_touch; · decide)
    | with_reducible apply Touch.ite
    | intro _ _ _
    | intro _
    | extract_lets
    | split
    | (dsimp +zetaDelta only; split)

theorem mapAcc_touch {n i f s} : Touch [.regs, .hst, .sch, .dp, .lnd] s (mapAcc n i f s) := by
  unfold mapAcc
  repeat first
    | with_reducible apply Touch.refl
    | with_reducible assumption
    | (with_reducible apply Touch.via advance_touch; · decide)
    | (with_reducible apply Touch.via accOvf_touch; · decide)
    | (with_reducible apply Touch.via State.setCtx_touch; · decide)
    | (with_reducible apply Touch.via dpFlag_touch; · decide)
    | with_reducible apply Touch.ite
    | with_reducible apply foldl_touch
    | intro _ _ _
    | intro _
    | extract_lets
    | split
    | (dsimp +zetaDelta only; split)

theorem walnoMul_touch {n op acc xg xpm sg spm s0} : Touch [.regs, .hst, .sch, .dp, .lnd] s0 (walnoMul n op acc xg xpm sg spm s0) := by
  unfold walnoMul
  repeat first
    | with_reducible apply Touch.refl
    | with_reducible assumption
    | (with_reducible apply Touch.via mapAcc_touch; · decide)
    | (with_reducible apply Touch.via postMod_touch; · decide)
    | (with_reducible apply Touch.via exception_touch; · decide)
    | (with_reducible apply Touch.via fold_touch; · decide)
    | with_reducible apply Touch.ite
    | intro _ _ _
    | intro _
    | extract_lets
    | split
    | (dsimp +zetaDelta only; split)

theorem walnoAdd_touch {n acc src sub s} : Touch [.regs, .hst, .sch, .dp, .lnd] s (walnoAdd n acc src sub s) := by
  unfold walnoAdd
  repeat first
    | with_reducible apply Touch.refl
    | with_reducible assumption
    | (with_reducible apply Touch.via mapAcc_touch; · decide)
    | with_reducible apply Touch.ite
    | intro _ _ _
    | intro _
    | extract_lets
    | split
    | (dsimp +zetaDelta only; split)

theorem walnoClmp_touch {n acc lo hi s0} : Touch [.regs, .hst, .sch, .dp, .lnd] s0 (walnoClmp n acc lo hi s0) := by
  unfold walnoClmp
  repeat first
    | with_reducible apply Touch.refl
    | with_reducible assumption
    | (with_reducible apply Touch.via mapAcc_touch; · decide)
    | (with_reducible apply Touch.via exception_touch; · decide)
    | (with_reducible apply Touch.via fold_touch; · decide)
    | with_reducible apply Touch.ite
    | intro _ _ _
    | intro _
    | extract_lets
    | split
    | (dsimp +zetaDelta only; split)

theorem walnoLde_touch {n acc g pm lane s0} : Touch [.regs, .hst, .sch, .dp, .lnd] s0 (walnoLde n acc g pm lane s0) := by
  unfold walnoLde
  repeat first
    | with_reducible apply Touch.refl
    | with_reducible assumption
    | (with_reducible apply Touch.via postMod_touch; · decide)
    | (with_reducible apply Touch.via mapAcc_touch; · decide)
    | (with_reducible apply Touch.via exception_touch; · decide)
    | (with_reducible apply Touch.via fold_touch; · decide)
    | with_reducible apply Touch.ite
    | intro _ _ _
    | intro _
    | extract_lets
    | split
    | (dsimp +zetaDelta only; split)

theorem walnoLdq_touch {n acc g pm lane f s0} : Touch [.regs, .hst, .sch, .dp, .lnd] s0 (walnoLdq n acc g pm lane f s0) := by
  unfold walnoLdq
  repeat first
    | with_reducible apply Touch.refl
    | with_reducible assumption
    | (with_reducible apply Touch.via postMod_touch; · decide)
    | (with_reducible apply Touch.via mapAcc_touch; · decide)
    | (with_reducible apply Touch.via exception_touch; · decide)
    | (with_reducible apply Touch.via fold_touch; · decide)
    | with_reducible apply Touch.ite
    | intro _ _ _
    | intro _
    | extract_lets
    | split
    | (dsimp +zetaDelta only; split)

theorem walnoLdi_touch {n acc src inst field s} : Touch [.regs, .hst, .sch, .dp, .lnd] s (walnoLdi n acc src inst field s) := by
  unfold walnoLdi
  repeat first
    | with_reducible apply Touch.refl
    | with_reducible assumption
    | (with_reducible apply Touch.via mapAcc_touch; · decide)
    | (with_reducible apply Touch.via State.setCtx_touch; · decide)
    | (with_reducible apply Touch.via dpFlag_touch; · decide)
    | with_reducible apply Touch.ite
    | intro _ _ _
    | intro _
    | extract_lets
    | split
    | (dsimp +zetaDelta only; split)

theorem putElem_touch {ea m bad s} : Touch [.mem, .poison] s (putElem ea m bad s) := by
  unfold putElem
  repeat first
    | with_reducible apply Touch.refl
    | with_reducible assumption
    | (with_reducible apply Touch.via State.writeWord_touch; · decide)
    | with_reducible apply Touch.ite
    | (with_reducible apply Touch.poison; · decide)
    | intro _ _ _
    | intro _
    | extract_lets
    | split
    | (dsimp +zetaDelta only; split)

theorem walnoSta_touch {n acc g pm lane s0} : Touch [.regs, .mem, .poison, .hst, .sch, .dp, .lnd] s0 (walnoSta n acc g pm lane s0) := by
  unfold walnoSta
  repeat first
    | with_reducible apply Touch.refl
    | with_reducible assumption
    | (with_reducible apply Touch.via postMod_touch; · decide)
    | (with_reducible apply Touch.via advance_touch; · decide)
    | (with_reducible apply Touch.via dpFlag_touch; · decide)
    | (with_reducible apply Touch.via State.setCtx_touch; · decide)
    | (with_reducible apply Touch.via State.incF_touch; · decide)
    | (with_reducible apply Touch.via State.writeWord_touch; · decide)
    | (with_reducible apply Touch.via putElem_touch; · decide)
    | (with_reducible apply Touch.via exception_touch; · decide)
    | (with_reducible apply Touch.via fold_touch; · decide)
    | with_reducible apply Touch.ite
    | with_reducible apply foldl_touch
    | intro _ _ _
    | intro _
    | extract_lets
    | split
    | (dsimp +zetaDelta only; split)

theorem walnoStq_touch {n acc g pm lane f s0} : Touch [.regs, .mem, .poison, .hst, .sch, .dp, .lnd] s0 (walnoStq n acc g pm lane f s0) := by
  unfold walnoStq
  extract_lets s c x es firsts q sat s1 c1 s2 s3
  have h : Touch [.regs, .mem, .poison, .hst, .sch, .dp, .lnd] s0 s := .via fold_touch (by decide) .refl
  have h1 : Touch [.regs, .mem, .poison, .hst, .sch, .dp, .lnd] s0 s1 := foldl_touch h fun p t ht => by
    have hu : Touch [.regs, .mem, .poison, .hst, .sch, .dp, .lnd] s0 (t.writeWord p.1 (BitVec.ofNat 72 (toBits 72 (clampI (-(2 ^ 71)) (2 ^ 71 - 1) (q p.2))))) :=
      .via State.writeWord_touch (by decide) ht
    exact .ite (fun _ => .poison (by decide) hu) fun _ => hu
  have h2 : Touch [.regs, .mem, .poison, .hst, .sch, .dp, .lnd] s0 s2 := .via State.setCtx_touch (by decide) h1
  have h3 : Touch [.regs, .mem, .poison, .hst, .sch, .dp, .lnd] s0 s3 := .ite (fun _ => .via dpFlag_touch (by decide) h2) fun _ => h2
  exact .ite (fun _ => .via exception_touch (by decide) h) fun _ =>
    .ite (fun _ => .via exception_touch (by decide) h) fun _ =>
      .via advance_touch (by decide) (.via postMod_touch (by decide) h3)

theorem walnoAgset_touch {n g base len unit s} : Touch [.regs, .hst, .sch, .dp, .lnd] s (walnoAgset n g base len unit s) := by
  unfold walnoAgset
  repeat first
    | with_reducible apply Touch.refl
    | with_reducible assumption
    | (with_reducible apply Touch.via State.setCtx_touch; · decide)
    | (with_reducible apply Touch.via advance_touch; · decide)
    | (with_reducible apply Touch.via exception_touch; · decide)
    | with_reducible apply Touch.ite
    | intro _ _ _
    | intro _
    | extract_lets
    | split
    | (dsimp +zetaDelta only; split)

theorem walnoAgstg_touch {n g hdr ls step s} : Touch [.regs, .hst, .sch, .dp, .lnd] s (walnoAgstg n g hdr ls step s) := by
  unfold walnoAgstg
  repeat first
    | with_reducible apply Touch.refl
    | with_reducible assumption
    | (with_reducible apply Touch.via State.setCtx_touch; · decide)
    | (with_reducible apply Touch.via advance_touch; · decide)
    | (with_reducible apply Touch.via exception_touch; · decide)
    | with_reducible apply Touch.ite
    | intro _ _ _
    | intro _
    | extract_lets
    | split
    | (dsimp +zetaDelta only; split)

theorem walnoAgmod_touch {n g step ls exp s} : Touch [.regs, .dp] s (walnoAgmod n g step ls exp s) := by
  unfold walnoAgmod
  repeat first
    | with_reducible apply Touch.refl
    | with_reducible assumption
    | (with_reducible apply Touch.via State.setCtx_touch; · decide)
    | (with_reducible apply Touch.via advance_touch; · decide)
    | with_reducible apply Touch.ite
    | intro _ _ _
    | intro _
    | extract_lets
    | split
    | (dsimp +zetaDelta only; split)

theorem walnoAgptr_touch {n g ptr s} : Touch [.regs, .dp] s (walnoAgptr n g ptr s) := by
  unfold walnoAgptr
  repeat first
    | with_reducible apply Touch.refl
    | with_reducible assumption
    | (with_reducible apply Touch.via State.setCtx_touch; · decide)
    | (with_reducible apply Touch.via advance_touch; · decide)
    | with_reducible apply Touch.ite
    | intro _ _ _
    | intro _
    | extract_lets
    | split
    | (dsimp +zetaDelta only; split)

theorem walnoLoop_touch {n count len s} : Touch [.regs, .dp] s (walnoLoop n count len s) := by
  unfold walnoLoop
  repeat first
    | with_reducible apply Touch.refl
    | with_reducible assumption
    | (with_reducible apply Touch.via State.setCtx_touch; · decide)
    | (with_reducible apply Touch.via sliceAsk_touch; · decide)
    | with_reducible apply Touch.ite
    | intro _ _ _
    | intro _
    | extract_lets
    | split
    | (dsimp +zetaDelta only; split)

theorem walnoRep_touch {n count s} : Touch [.dp] s (walnoRep n count s) := by
  unfold walnoRep
  repeat first
    | with_reducible apply Touch.refl
    | with_reducible assumption
    | (with_reducible apply Touch.via State.setCtx_touch; · decide)
    | with_reducible apply Touch.ite
    | intro _ _ _
    | intro _
    | extract_lets
    | split
    | (dsimp +zetaDelta only; split)

theorem walnoEnd_touch {n s} : Touch [.regs, .sch] s (walnoEnd n s) := by
  unfold walnoEnd
  repeat first
    | with_reducible apply Touch.refl
    | with_reducible assumption
    | (with_reducible apply Touch.via sliceFree_touch; · decide)
    | (with_reducible apply Touch.via State.withSch_touch; · decide)
    | with_reducible apply Touch.ite
    | intro _ _ _
    | intro _
    | extract_lets
    | split
    | (dsimp +zetaDelta only; split)

theorem walnoRun_touch {n i s} : Touch [.regs, .mem, .poison, .hst, .sch, .dp, .lnd] s (walnoRun n i s) := by
  unfold walnoRun
  repeat first
    | with_reducible apply Touch.refl
    | with_reducible assumption
    | (with_reducible apply Touch.via walnoAgptr_touch; · decide)
    | (with_reducible apply Touch.via walnoAgmod_touch; · decide)
    | (with_reducible apply Touch.via walnoAgstg_touch; · decide)
    | (with_reducible apply Touch.via walnoAgset_touch; · decide)
    | (with_reducible apply Touch.via walnoStq_touch; · decide)
    | (with_reducible apply Touch.via walnoSta_touch; · decide)
    | (with_reducible apply Touch.via walnoLdi_touch; · decide)
    | (with_reducible apply Touch.via walnoLdq_touch; · decide)
    | (with_reducible apply Touch.via walnoLde_touch; · decide)
    | (with_reducible apply Touch.via walnoClmp_touch; · decide)
    | (with_reducible apply Touch.via walnoAdd_touch; · decide)
    | (with_reducible apply Touch.via mapAcc_touch; · decide)
    | (with_reducible apply Touch.via walnoMul_touch; · decide)
    | (with_reducible apply Touch.via walnoRep_touch; · decide)
    | (with_reducible apply Touch.via walnoLoop_touch; · decide)
    | (with_reducible apply Touch.via State.setCtx_touch; · decide)
    | (with_reducible apply Touch.via walnoEnd_touch; · decide)
    | (with_reducible apply Touch.via advance_touch; · decide)
    | with_reducible apply Touch.ite
    | intro _ _ _
    | intro _
    | extract_lets
    | split
    | (dsimp +zetaDelta only; split)

theorem walnoIssue_touch {n i s} : Touch [.regs, .mem, .poison, .hst, .sch, .dp, .lnd] s (walnoIssue n i s) := by
  unfold walnoIssue
  repeat first
    | with_reducible apply Touch.refl
    | with_reducible assumption
    | (with_reducible apply Touch.via State.setCtx_touch; · decide)
    | (with_reducible apply Touch.via walnoRun_touch; · decide)
    | (with_reducible apply Touch.via exception_touch; · decide)
    | with_reducible apply Touch.ite
    | intro _ _ _
    | intro _
    | extract_lets
    | split
    | (dsimp +zetaDelta only; split)

theorem cenCmdRun_touch {cmd b s} : Touch [.regs, .dp] s (cenCmdRun cmd b s) := by
  unfold cenCmdRun
  repeat first
    | with_reducible apply Touch.refl
    | with_reducible assumption
    | (with_reducible apply Touch.via State.setF_touch; · decide)
    | (with_reducible apply Touch.via State.withDp_touch; · decide)
    | with_reducible apply Touch.ite
    | intro _ _ _
    | intro _
    | extract_lets
    | split
    | (dsimp +zetaDelta only; split)

theorem progVerifyDone_touch {s} : Touch [.regs, .hst, .dp] s (progVerifyDone s) := by
  unfold progVerifyDone
  repeat first
    | with_reducible apply Touch.refl
    | with_reducible assumption
    | (with_reducible apply Touch.via State.setF_touch; · decide)
    | (with_reducible apply Touch.via State.completeHeld_touch; · decide)
    | (with_reducible apply Touch.via State.withDp_touch; · decide)
    | with_reducible apply Touch.ite
    | intro _ _ _
    | intro _
    | extract_lets
    | split
    | (dsimp +zetaDelta only; split)

theorem progTake_touch {s} : Touch [.regs, .hst, .dp] s (progTake s) := by
  unfold progTake
  repeat first
    | with_reducible apply Touch.refl
    | with_reducible assumption
    | (with_reducible apply Touch.via State.withDp_touch; · decide)
    | (with_reducible apply Touch.via State.completeHeld_touch; · decide)
    | (with_reducible apply Touch.via State.setF_touch; · decide)
    | with_reducible apply Touch.ite
    | intro _ _ _
    | intro _
    | extract_lets
    | split
    | (dsimp +zetaDelta only; split)

end Sys2Proof.Machine
end

