-- ==== Sys2Proof/Laws/TouchCen.lean ====
section
/-! SUPPORT. The footprint of each operation of Machine/Cen.lean: the parts of the state it may change. -/

namespace Sys2Proof.Machine

theorem lawDrop_touch {n s} : Touch [.regs, .cen] s (lawDrop n s) := by
  unfold lawDrop
  repeat first
    | with_reducible apply Touch.refl
    | with_reducible assumption
    | (with_reducible apply Touch.via State.modLaw_touch; · decide)
    | (with_reducible apply Touch.via State.setF_touch; · decide)
    | with_reducible apply Touch.ite
    | intro _ _ _
    | intro _
    | extract_lets
    | split
    | (dsimp +zetaDelta only; split)

theorem lawT0_touch {n s0} : Touch [.regs, .cen] s0 (lawT0 n s0) := by
  unfold lawT0
  repeat first
    | with_reducible apply Touch.refl
    | with_reducible assumption
    | (with_reducible apply Touch.via State.setF_touch; · decide)
    | (with_reducible apply Touch.via State.modLaw_touch; · decide)
    | (with_reducible apply Touch.via lawDrop_touch; · decide)
    | with_reducible apply Touch.ite
    | intro _ _ _
    | intro _
    | extract_lets
    | split
    | (dsimp +zetaDelta only; split)

theorem lawsT0_touch {s} : Touch [.regs, .cen] s (lawsT0 s) := by
  unfold lawsT0
  repeat first
    | with_reducible apply Touch.refl
    | with_reducible assumption
    | (with_reducible apply Touch.via lawT0_touch; · decide)
    | with_reducible apply State.each_touch
    | with_reducible apply Touch.ite
    | intro _ _ _
    | intro _
    | extract_lets
    | split
    | (dsimp +zetaDelta only; split)

theorem lawFlag_touch {n b cb s} : Touch [.regs] s (lawFlag n b cb s) := by
  unfold lawFlag
  repeat first
    | with_reducible apply Touch.refl
    | with_reducible assumption
    | (with_reducible apply Touch.via State.wr_touch; · decide)
    | with_reducible apply Touch.ite
    | intro _ _ _
    | intro _
    | extract_lets
    | split
    | (dsimp +zetaDelta only; split)

theorem lawFlagIf_touch {hit n b cb s} : Touch [.regs] s (lawFlagIf hit n b cb s) := by
  unfold lawFlagIf
  repeat first
    | with_reducible apply Touch.refl
    | with_reducible assumption
    | (with_reducible apply Touch.via lawFlag_touch; · decide)
    | with_reducible apply Touch.ite
    | intro _ _ _
    | intro _
    | extract_lets
    | split
    | (dsimp +zetaDelta only; split)

theorem writeRecord_touch {w l bad s} : Touch [.mem, .poison] s (writeRecord w l bad s) := by
  unfold writeRecord
  repeat first
    | with_reducible apply Touch.refl
    | with_reducible assumption
    | (with_reducible apply Touch.via State.writeWords_touch; · decide)
    | with_reducible apply Touch.ite
    | (with_reducible apply Touch.poison; · decide)
    | with_reducible apply foldl_touch
    | intro _ _ _
    | intro _
    | extract_lets
    | split
    | (dsimp +zetaDelta only; split)

theorem runCounts_touch {n lane t1 s} : Touch [.regs, .hst, .cen] s (runCounts n lane t1 s) := by
  unfold runCounts
  repeat first
    | with_reducible apply Touch.refl
    | with_reducible assumption
    | (with_reducible apply Touch.via State.modLaw_touch; · decide)
    | (with_reducible apply Touch.via State.post_touch; · decide)
    | (with_reducible apply Touch.via lawFlagIf_touch; · decide)
    | (with_reducible apply Touch.via lawFlag_touch; · decide)
    | (with_reducible apply Touch.via State.addF_touch; · decide)
    | with_reducible apply Touch.ite
    | intro _ _ _
    | intro _
    | extract_lets
    | split
    | (dsimp +zetaDelta only; split)

theorem measCount_touch {n invalid s} : Touch [.regs, .hst, .cen, .trj, .saf] s (measCount n invalid s) := by
  unfold measCount
  repeat first
    | with_reducible apply Touch.refl
    | with_reducible assumption
    | (with_reducible apply Touch.via requestStop_touch; · decide)
    | (with_reducible apply Touch.via State.post_touch; · decide)
    | (with_reducible apply Touch.via State.wr_touch; · decide)
    | (with_reducible apply Touch.via State.modLaw_touch; · decide)
    | (with_reducible apply Touch.via lawFlagIf_touch; · decide)
    | with_reducible apply Touch.ite
    | intro _ _ _
    | intro _
    | extract_lets
    | split
    | (dsimp +zetaDelta only; split)

theorem blendShow_touch {ctx n b s} : Touch [.regs, .hst] s (blendShow ctx n b s) := by
  unfold blendShow
  repeat first
    | with_reducible apply Touch.refl
    | with_reducible assumption
    | (with_reducible apply Touch.via lawFlag_touch; · decide)
    | (with_reducible apply Touch.via State.post_touch; · decide)
    | (with_reducible apply Touch.via dpFlag_touch; · decide)
    | (with_reducible apply Touch.via State.setF_touch; · decide)
    | (with_reducible apply Touch.via lawFlagIf_touch; · decide)
    | with_reducible apply Touch.ite
    | intro _ _ _
    | intro _
    | extract_lets
    | split
    | (dsimp +zetaDelta only; split)

theorem blendAfter_touch {ctx n c xh s} : Touch [.regs, .hst, .cen] s (blendAfter ctx n c xh s) := by
  unfold blendAfter
  repeat first
    | with_reducible apply Touch.refl
    | with_reducible assumption
    | (with_reducible apply Touch.via State.setF_touch; · decide)
    | (with_reducible apply Touch.via lawFlag_touch; · decide)
    | (with_reducible apply Touch.via State.modLaw_touch; · decide)
    | (with_reducible apply Touch.via blendShow_touch; · decide)
    | with_reducible apply Touch.ite
    | intro _ _ _
    | intro _
    | extract_lets
    | split
    | (dsimp +zetaDelta only; split)

theorem runGains_touch {ctx n c xh s} : Touch [.regs, .hst, .cen] s (runGains ctx n c xh s).1 := by
  unfold runGains
  repeat first
    | with_reducible apply Touch.refl
    | with_reducible assumption
    | (with_reducible apply Touch.via State.modLaw_touch; · decide)
    | (with_reducible apply Touch.via blendShow_touch; · decide)
    | with_reducible apply Touch.ite
    | intro _ _ _
    | intro _
    | extract_lets
    | split
    | (dsimp +zetaDelta only; split)

theorem lawRun_touch {ctx n s} : Touch [.regs, .mem, .poison, .hst, .sch, .cen, .trj, .saf, .lnd] s (lawRun ctx n s).1 := by
  unfold lawRun
  split
  · exact .refl
  rename_i c hc
  extract_lets k a d x dv recs hx hxi stamp off exi eu gap lost xh0 rg s1
  have h1 : Touch [.regs, .mem, .poison, .hst, .sch, .cen, .trj, .saf, .lnd] s s1 := .via runGains_touch (by decide) .refl
  clear_value rg s1
  refine Touch.ite_fst (fun _ => .via exception_touch (by decide) .refl) fun _ => ?_
  split
  · exact .via exception_touch (by decide) h1
  extract_lets
  repeat first
    | with_reducible assumption
    | with_reducible apply Touch.ite_fst
    | (with_reducible apply Touch.via exception_touch; · decide)
    | (with_reducible apply Touch.via blendAfter_touch; · decide)
    | (with_reducible apply Touch.via State.setF_touch; · decide)
    | (with_reducible apply Touch.via State.incF_touch; · decide)
    | (with_reducible apply Touch.via measCount_touch; · decide)
    | (with_reducible apply Touch.via lawFlagIf_touch; · decide)
    | (with_reducible apply Touch.via lawFlag_touch; · decide)
    | (with_reducible apply Touch.via State.modLaw_touch; · decide)
    | (with_reducible apply Touch.via writeRecord_touch; · decide)
    | (with_reducible apply Touch.via State.fault_touch; · decide)
    | (with_reducible apply Touch.via State.post_touch; · decide)
    | (with_reducible apply Touch.via runCounts_touch; · decide)
    | (with_reducible apply Touch.via dpFlag_touch; · decide)
    | with_reducible apply Touch.ite
    | intro _
    | extract_lets

theorem lawRuns_touch {ctx s} : Touch [.regs, .mem, .poison, .hst, .sch, .cen, .trj, .saf, .lnd] s (lawRuns ctx s) := by
  unfold lawRuns
  refine foldl_fst_touch .refl fun p n h => ?_
  split
  · exact h
  · exact .via lawRun_touch (by decide) h

theorem lawLate_touch {n s} : Touch [.regs] s (lawLate n s) := by
  unfold lawLate
  repeat first
    | with_reducible apply Touch.refl
    | with_reducible assumption
    | (with_reducible apply Touch.via State.incF_touch; · decide)
    | (with_reducible apply Touch.via lawFlag_touch; · decide)
    | with_reducible apply Touch.ite
    | intro _ _ _
    | intro _
    | extract_lets
    | split
    | (dsimp +zetaDelta only; split)

theorem cenFollow_touch {base n v old s} : Touch [.regs, .cen] s (cenFollow base n v old s) := by
  unfold cenFollow
  repeat first
    | with_reducible apply Touch.refl
    | with_reducible assumption
    | (with_reducible apply Touch.via State.setF_touch; · decide)
    | (with_reducible apply Touch.via State.modLaw_touch; · decide)
    | with_reducible apply Touch.ite
    | intro _ _ _
    | intro _
    | extract_lets
    | split
    | (dsimp +zetaDelta only; split)

end Sys2Proof.Machine
end

