-- ==== Sys2Proof/Laws/TouchPwm.lean ====
section
/-! SUPPORT. The footprint of each operation of Machine/Pwm.lean: the parts of the state it may change. -/

namespace Sys2Proof.Machine

theorem State.withPwm_touch {s f} : Touch [.pwm] s (State.withPwm s f) := by
  unfold State.withPwm
  repeat first
    | with_reducible apply Touch.refl
    | with_reducible assumption
    | with_reducible apply Touch.ite
    | (with_reducible apply Touch.pwm; · decide)
    | intro _ _ _
    | intro _
    | extract_lets
    | split
    | (dsimp +zetaDelta only; split)

theorem State.setPch_touch {s n c} : Touch [.pwm] s (State.setPch s n c) := by
  unfold State.setPch
  repeat first
    | with_reducible apply Touch.refl
    | with_reducible assumption
    | (with_reducible apply Touch.via State.withPwm_touch; · decide)
    | with_reducible apply Touch.ite
    | intro _ _ _
    | intro _
    | extract_lets
    | split
    | (dsimp +zetaDelta only; split)

theorem pwmEvent_touch {n f s} : Touch [.regs, .hst, .pwm] s (pwmEvent n f s) := by
  unfold pwmEvent
  repeat first
    | with_reducible apply Touch.refl
    | with_reducible assumption
    | (with_reducible apply Touch.via State.post_touch; · decide)
    | (with_reducible apply Touch.via State.incF_touch; · decide)
    | (with_reducible apply Touch.via State.withPwm_touch; · decide)
    | (with_reducible apply Touch.via State.setPch_touch; · decide)
    | with_reducible apply Touch.ite
    | intro _ _ _
    | intro _
    | extract_lets
    | split
    | (dsimp +zetaDelta only; split)

theorem blankOpen_touch {n h1 l s} : Touch [.pwm] s (blankOpen n h1 l s) := by
  unfold blankOpen
  repeat first
    | with_reducible apply Touch.refl
    | with_reducible assumption
    | (with_reducible apply Touch.via State.withPwm_touch; · decide)
    | with_reducible apply State.each_touch
    | with_reducible apply Touch.ite
    | intro _ _ _
    | intro _
    | extract_lets
    | split
    | (dsimp +zetaDelta only; split)

theorem modOut_touch {n f s} : Touch [.pwm] s (modOut n f s) := by
  unfold modOut
  repeat first
    | with_reducible apply Touch.refl
    | with_reducible assumption
    | (with_reducible apply Touch.via State.setPch_touch; · decide)
    | (with_reducible apply Touch.via blankOpen_touch; · decide)
    | with_reducible apply Touch.ite
    | intro _ _ _
    | intro _
    | extract_lets
    | split
    | (dsimp +zetaDelta only; split)

theorem refFollow_touch {n s} : Touch [.regs, .hst, .pwm] s (refFollow n s) := by
  unfold refFollow
  repeat first
    | with_reducible apply Touch.refl
    | with_reducible assumption
    | (with_reducible apply Touch.via pwmEvent_touch; · decide)
    | (with_reducible apply Touch.via modOut_touch; · decide)
    | (with_reducible apply Touch.via State.flagIf_touch; · decide)
    | (with_reducible apply Touch.via State.setPch_touch; · decide)
    | with_reducible apply Touch.ite
    | intro _ _ _
    | intro _
    | extract_lets
    | split
    | (dsimp +zetaDelta only; split)

theorem deadTimeEnd_touch {n s} : Touch [.pwm] s (deadTimeEnd n s) := by
  unfold deadTimeEnd
  repeat first
    | with_reducible apply Touch.refl
    | with_reducible assumption
    | (with_reducible apply Touch.via modOut_touch; · decide)
    | with_reducible apply Touch.ite
    | intro _ _ _
    | intro _
    | extract_lets
    | split
    | (dsimp +zetaDelta only; split)

theorem tripResume_touch {n s} : Touch [.pwm] s (tripResume n s) := by
  unfold tripResume
  repeat first
    | with_reducible apply Touch.refl
    | with_reducible assumption
    | (with_reducible apply Touch.via modOut_touch; · decide)
    | with_reducible apply Touch.ite
    | intro _ _ _
    | intro _
    | extract_lets
    | split
    | (dsimp +zetaDelta only; split)

theorem periodStart_touch {n edge per s} : Touch [.regs, .hst, .pwm] s (periodStart n edge per s) := by
  unfold periodStart
  repeat first
    | with_reducible apply Touch.refl
    | with_reducible assumption
    | (with_reducible apply Touch.via tripResume_touch; · decide)
    | (with_reducible apply Touch.via refFollow_touch; · decide)
    | (with_reducible apply Touch.via pwmEvent_touch; · decide)
    | (with_reducible apply Touch.via State.setPch_touch; · decide)
    | with_reducible apply Touch.ite
    | intro _ _ _
    | intro _
    | extract_lets
    | split
    | (dsimp +zetaDelta only; split)

theorem pwmReload_touch {n s} : Touch [.regs, .hst, .pwm] s (pwmReload n s) := by
  unfold pwmReload
  repeat first
    | with_reducible apply Touch.refl
    | with_reducible assumption
    | (with_reducible apply Touch.via periodStart_touch; · decide)
    | with_reducible apply Touch.ite
    | intro _ _ _
    | intro _
    | extract_lets
    | split
    | (dsimp +zetaDelta only; split)

theorem syncLost_touch {n detail s} : Touch [.regs, .hst] s (syncLost n detail s) := by
  unfold syncLost
  repeat first
    | with_reducible apply Touch.refl
    | with_reducible assumption
    | (with_reducible apply Touch.via State.flag_touch; · decide)
    | (with_reducible apply Touch.via State.post_touch; · decide)
    | with_reducible apply Touch.ite
    | intro _ _ _
    | intro _
    | extract_lets
    | split
    | (dsimp +zetaDelta only; split)

theorem pwmHoldLimit_touch {n s} : Touch [.regs, .hst, .pwm] s (pwmHoldLimit n s) := by
  unfold pwmHoldLimit
  repeat first
    | with_reducible apply Touch.refl
    | with_reducible assumption
    | (with_reducible apply Touch.via periodStart_touch; · decide)
    | (with_reducible apply Touch.via syncLost_touch; · decide)
    | with_reducible apply Touch.ite
    | intro _ _ _
    | intro _
    | extract_lets
    | split
    | (dsimp +zetaDelta only; split)

theorem takeDuty_touch {n s} : Touch [.pwm] s (takeDuty n s) := by
  unfold takeDuty
  repeat first
    | with_reducible apply Touch.refl
    | with_reducible assumption
    | (with_reducible apply Touch.via State.setPch_touch; · decide)
    | with_reducible apply Touch.ite
    | intro _ _ _
    | intro _
    | extract_lets
    | split
    | (dsimp +zetaDelta only; split)

theorem syncReload_touch {edge n s} : Touch [.regs, .hst, .pwm] s (syncReload edge n s) := by
  unfold syncReload
  repeat first
    | with_reducible apply Touch.refl
    | with_reducible assumption
    | (with_reducible apply Touch.via syncLost_touch; · decide)
    | (with_reducible apply Touch.via takeDuty_touch; · decide)
    | (with_reducible apply Touch.via periodStart_touch; · decide)
    | (with_reducible apply Touch.via State.setF_touch; · decide)
    | with_reducible apply Touch.ite
    | intro _ _ _
    | intro _
    | extract_lets
    | split
    | (dsimp +zetaDelta only; split)

theorem pwmSyncReload_touch {s} : Touch [.regs, .hst, .pwm] s (pwmSyncReload s) := by
  unfold pwmSyncReload
  repeat first
    | with_reducible apply Touch.refl
    | with_reducible assumption
    | (with_reducible apply Touch.via syncReload_touch; · decide)
    | (with_reducible apply Touch.via State.withPwm_touch; · decide)
    | with_reducible apply State.each_touch
    | with_reducible apply Touch.ite
    | intro _ _ _
    | intro _
    | extract_lets
    | split
    | (dsimp +zetaDelta only; split)

theorem pwmCycleEnd_touch {s} : Touch [.regs, .hst, .pwm] s (pwmCycleEnd s) := by
  unfold pwmCycleEnd
  repeat first
    | with_reducible apply Touch.refl
    | with_reducible assumption
    | (with_reducible apply Touch.via State.setPch_touch; · decide)
    | (with_reducible apply Touch.via periodStart_touch; · decide)
    | (with_reducible apply Touch.via State.withPwm_touch; · decide)
    | with_reducible apply State.each_touch
    | with_reducible apply Touch.ite
    | intro _ _ _
    | intro _
    | extract_lets
    | split
    | (dsimp +zetaDelta only; split)

theorem pwmTop_touch {n s} : Touch [.regs, .hst, .pwm] s (pwmTop n s) := by
  unfold pwmTop
  repeat first
    | with_reducible apply Touch.refl
    | with_reducible assumption
    | (with_reducible apply Touch.via State.setPch_touch; · decide)
    | (with_reducible apply Touch.via pwmEvent_touch; · decide)
    | (with_reducible apply Touch.via refFollow_touch; · decide)
    | with_reducible apply Touch.ite
    | intro _ _ _
    | intro _
    | extract_lets
    | split
    | (dsimp +zetaDelta only; split)

theorem pwmCmpb_touch {n s} : Touch [.regs, .hst, .pwm] s (pwmCmpb n s) := by
  unfold pwmCmpb
  repeat first
    | with_reducible apply Touch.refl
    | with_reducible assumption
    | (with_reducible apply Touch.via State.setPch_touch; · decide)
    | (with_reducible apply Touch.via pwmEvent_touch; · decide)
    | with_reducible apply Touch.ite
    | intro _ _ _
    | intro _
    | extract_lets
    | split
    | (dsimp +zetaDelta only; split)

theorem tripLatch_touch {g forced s} : Touch [.regs, .hst, .pwm] s (tripLatch g forced s) := by
  unfold tripLatch
  repeat first
    | with_reducible apply Touch.refl
    | with_reducible assumption
    | (with_reducible apply Touch.via State.post_touch; · decide)
    | (with_reducible apply Touch.via modOut_touch; · decide)
    | (with_reducible apply Touch.via State.flag_touch; · decide)
    | (with_reducible apply Touch.via State.incF_touch; · decide)
    | with_reducible apply State.each_touch
    | (with_reducible apply Touch.via State.setF_touch; · decide)
    | with_reducible apply Touch.ite
    | intro _ _ _
    | intro _
    | extract_lets
    | split
    | (dsimp +zetaDelta only; split)

theorem tripScan_touch {s} : Touch [.regs, .hst, .pwm] s (tripScan s) := by
  unfold tripScan
  repeat first
    | with_reducible apply Touch.refl
    | with_reducible assumption
    | (with_reducible apply Touch.via tripLatch_touch; · decide)
    | with_reducible apply State.each_touch
    | with_reducible apply Touch.ite
    | intro _ _ _
    | intro _
    | extract_lets
    | split
    | (dsimp +zetaDelta only; split)

theorem tripInput_touch {i level s} : Touch [.regs, .hst, .pwm] s (tripInput i level s) := by
  unfold tripInput
  repeat first
    | with_reducible apply Touch.refl
    | with_reducible assumption
    | (with_reducible apply Touch.via State.withPwm_touch; · decide)
    | (with_reducible apply Touch.via tripScan_touch; · decide)
    | with_reducible apply Touch.ite
    | intro _ _ _
    | intro _
    | extract_lets
    | split
    | (dsimp +zetaDelta only; split)

theorem blankClose_touch {g s} : Touch [.regs, .hst, .pwm] s (blankClose g s) := by
  unfold blankClose
  repeat first
    | with_reducible apply Touch.refl
    | with_reducible assumption
    | (with_reducible apply Touch.via tripLatch_touch; · decide)
    | (with_reducible apply Touch.via State.withPwm_touch; · decide)
    | with_reducible apply Touch.ite
    | intro _ _ _
    | intro _
    | extract_lets
    | split
    | (dsimp +zetaDelta only; split)

theorem tripClear_touch {g s} : Touch [.regs, .hst, .pwm] s (tripClear g s) := by
  unfold tripClear
  repeat first
    | with_reducible apply Touch.refl
    | with_reducible assumption
    | (with_reducible apply Touch.via State.post_touch; · decide)
    | (with_reducible apply Touch.via tripResume_touch; · decide)
    | (with_reducible apply Touch.via State.setPch_touch; · decide)
    | with_reducible apply State.each_touch
    | (with_reducible apply Touch.via State.setF_touch; · decide)
    | with_reducible apply Touch.ite
    | intro _ _ _
    | intro _
    | extract_lets
    | split
    | (dsimp +zetaDelta only; split)

theorem gateChange_touch {ch set s} : Touch [.pwm] s (gateChange ch set s) := by
  unfold gateChange
  repeat first
    | with_reducible apply Touch.refl
    | with_reducible assumption
    | (with_reducible apply Touch.via blankOpen_touch; · decide)
    | (with_reducible apply Touch.via State.withPwm_touch; · decide)
    | with_reducible apply Touch.ite
    | with_reducible apply foldl_touch
    | intro _ _ _
    | intro _
    | extract_lets
    | split
    | (dsimp +zetaDelta only; split)

theorem lawsOff_touch {a s} : Touch [.cen] s (lawsOff a s) := by
  unfold lawsOff
  repeat first
    | with_reducible apply Touch.refl
    | with_reducible assumption
    | (with_reducible apply Touch.via State.modLaw_touch; · decide)
    | with_reducible apply State.each_touch
    | with_reducible apply Touch.ite
    | intro _ _ _
    | intro _
    | extract_lets
    | split
    | (dsimp +zetaDelta only; split)

theorem refreshPower_touch {s} : Touch [.regs, .hst, .cen, .trj] s (refreshPower s) := by
  unfold refreshPower
  repeat first
    | with_reducible apply Touch.refl
    | with_reducible assumption
    | (with_reducible apply Touch.via groupFollow_touch; · decide)
    | (with_reducible apply Touch.via State.setAux_touch; · decide)
    | (with_reducible apply Touch.via State.setF_touch; · decide)
    | (with_reducible apply Touch.via lawsOff_touch; · decide)
    | with_reducible apply State.each_touch
    | with_reducible apply Touch.ite
    | intro _ _ _
    | intro _
    | extract_lets
    | split
    | (dsimp +zetaDelta only; split)

theorem pwmEnable_touch {n on s} : Touch [.regs, .hst, .pwm] s (pwmEnable n on s) := by
  unfold pwmEnable
  repeat first
    | with_reducible apply Touch.refl
    | with_reducible assumption
    | (with_reducible apply Touch.via periodStart_touch; · decide)
    | (with_reducible apply Touch.via State.setF_touch; · decide)
    | (with_reducible apply Touch.via State.setPch_touch; · decide)
    | with_reducible apply Touch.ite
    | intro _ _ _
    | intro _
    | extract_lets
    | split
    | (dsimp +zetaDelta only; split)

theorem dutyTake_touch {n v s} : Touch [.regs, .hst, .pwm] s (dutyTake n v s) := by
  unfold dutyTake
  repeat first
    | with_reducible apply Touch.refl
    | with_reducible assumption
    | (with_reducible apply Touch.via State.setPch_touch; · decide)
    | (with_reducible apply Touch.via refFollow_touch; · decide)
    | with_reducible apply Touch.ite
    | intro _ _ _
    | intro _
    | extract_lets
    | split
    | (dsimp +zetaDelta only; split)

theorem perChange_touch {n s} : Touch [.regs, .hst, .pwm] s (perChange n s) := by
  unfold perChange
  repeat first
    | with_reducible apply Touch.refl
    | with_reducible assumption
    | (with_reducible apply Touch.via periodStart_touch; · decide)
    | (with_reducible apply Touch.via State.setPch_touch; · decide)
    | (with_reducible apply Touch.via pwmEvent_touch; · decide)
    | (with_reducible apply Touch.via refFollow_touch; · decide)
    | with_reducible apply Touch.ite
    | intro _ _ _
    | intro _
    | extract_lets
    | split
    | (dsimp +zetaDelta only; split)

theorem pwmFollow_touch {base n v old s} : Touch [.regs, .hst, .pwm] s (pwmFollow base n v old s) := by
  unfold pwmFollow
  repeat first
    | with_reducible apply Touch.refl
    | with_reducible assumption
    | (with_reducible apply Touch.via tripClear_touch; · decide)
    | (with_reducible apply Touch.via tripLatch_touch; · decide)
    | (with_reducible apply Touch.via tripScan_touch; · decide)
    | (with_reducible apply Touch.via perChange_touch; · decide)
    | with_reducible apply State.each_touch
    | (with_reducible apply Touch.via dutyTake_touch; · decide)
    | (with_reducible apply Touch.via State.withPwm_touch; · decide)
    | (with_reducible apply Touch.via pwmEnable_touch; · decide)
    | with_reducible apply Touch.ite
    | intro _ _ _
    | intro _
    | extract_lets
    | split
    | (dsimp +zetaDelta only; split)

end Sys2Proof.Machine
end

