-- ==== Sys2Proof/Laws/TouchAdc.lean ====
section
/-! SUPPORT. The footprint of each operation of Machine/Adc.lean: the parts of the state it may change. -/

namespace Sys2Proof.Machine

theorem State.setAdc_touch {s c x} : Touch [.adc] s (State.setAdc s c x) := by
  unfold State.setAdc
  repeat first
    | with_reducible apply Touch.refl
    | with_reducible assumption
    | with_reducible apply Touch.ite
    | (with_reducible apply Touch.adc; · decide)
    | intro _ _ _
    | intro _
    | extract_lets
    | split
    | (dsimp +zetaDelta only; split)

theorem adcLaunch_touch {c pos kind late strobe s} : Touch [.regs, .adc] s (adcLaunch c pos kind late strobe s) := by
  unfold adcLaunch
  repeat first
    | with_reducible apply Touch.refl
    | with_reducible assumption
    | (with_reducible apply Touch.via State.setAdc_touch; · decide)
    | (with_reducible apply Touch.via State.flagIf_touch; · decide)
    | with_reducible apply Touch.ite
    | intro _ _ _
    | intro _
    | extract_lets
    | split
    | (dsimp +zetaDelta only; split)

theorem adcAlloc_touch {c strobe s} : Touch [.regs, .adc] s (adcAlloc c strobe s) := by
  unfold adcAlloc
  repeat first
    | with_reducible apply Touch.refl
    | with_reducible assumption
    | (with_reducible apply Touch.via State.setF_touch; · decide)
    | (with_reducible apply Touch.via State.setAdc_touch; · decide)
    | (with_reducible apply Touch.via adcLaunch_touch; · decide)
    | with_reducible apply Touch.ite
    | intro _ _ _
    | intro _
    | extract_lets
    | split
    | (dsimp +zetaDelta only; split)

theorem unScan_touch {c s} : Touch [.adc] s (unScan c s) := by
  unfold unScan
  repeat first
    | with_reducible apply Touch.refl
    | with_reducible assumption
    | (with_reducible apply Touch.via State.setAdc_touch; · decide)
    | with_reducible apply Touch.ite
    | intro _ _ _
    | intro _
    | extract_lets
    | split
    | (dsimp +zetaDelta only; split)

theorem unCal_touch {c s} : Touch [.regs, .adc] s (unCal c s) := by
  unfold unCal
  repeat first
    | with_reducible apply Touch.refl
    | with_reducible assumption
    | (with_reducible apply Touch.via State.setAdc_touch; · decide)
    | (with_reducible apply Touch.via State.setF_touch; · decide)
    | with_reducible apply Touch.ite
    | intro _ _ _
    | intro _
    | extract_lets
    | split
    | (dsimp +zetaDelta only; split)

theorem scanStart_touch {c strobe s} : Touch [.regs, .adc] s (scanStart c strobe s) := by
  unfold scanStart
  repeat first
    | with_reducible apply Touch.refl
    | with_reducible assumption
    | (with_reducible apply Touch.via State.setAdc_touch; · decide)
    | (with_reducible apply Touch.via State.setF_touch; · decide)
    | (with_reducible apply Touch.via adcAlloc_touch; · decide)
    | (with_reducible apply Touch.via State.flag_touch; · decide)
    | (with_reducible apply Touch.via State.incF_touch; · decide)
    | with_reducible apply Touch.ite
    | intro _ _ _
    | intro _
    | extract_lets
    | split
    | (dsimp +zetaDelta only; split)

theorem injStart_touch {c strobe s0} : Touch [.regs, .adc] s0 (injStart c strobe s0) := by
  unfold injStart
  repeat first
    | with_reducible apply Touch.refl
    | with_reducible assumption
    | (with_reducible apply Touch.via State.setAdc_touch; · decide)
    | (with_reducible apply Touch.via State.setF_touch; · decide)
    | (with_reducible apply Touch.via adcAlloc_touch; · decide)
    | (with_reducible apply Touch.via adcLaunch_touch; · decide)
    | (with_reducible apply Touch.via State.flag_touch; · decide)
    | (with_reducible apply Touch.via State.incF_touch; · decide)
    | (with_reducible apply Touch.via unCal_touch; · decide)
    | (with_reducible apply Touch.via unScan_touch; · decide)
    | with_reducible apply Touch.ite
    | intro _ _ _
    | intro _
    | extract_lets
    | split
    | (dsimp +zetaDelta only; split)

theorem calStart_touch {c s} : Touch [.regs, .adc] s (calStart c s) := by
  unfold calStart
  repeat first
    | with_reducible apply Touch.refl
    | with_reducible assumption
    | (with_reducible apply Touch.via State.setF_touch; · decide)
    | (with_reducible apply Touch.via unScan_touch; · decide)
    | (with_reducible apply Touch.via adcAlloc_touch; · decide)
    | with_reducible apply Touch.ite
    | intro _ _ _
    | intro _
    | extract_lets
    | split
    | (dsimp +zetaDelta only; split)

theorem adcRequests_touch {s} : Touch [.regs, .adc] s (adcRequests s) := by
  unfold adcRequests
  repeat first
    | with_reducible apply Touch.refl
    | with_reducible assumption
    | (with_reducible apply Touch.via scanStart_touch; · decide)
    | (with_reducible apply Touch.via injStart_touch; · decide)
    | with_reducible apply State.each_touch
    | with_reducible apply Touch.ite
    | intro _ _ _
    | intro _
    | extract_lets
    | split
    | (dsimp +zetaDelta only; split)

theorem tsAbandon_touch {c s} : Touch [.regs, .hst, .adc] s (tsAbandon c s) := by
  unfold tsAbandon
  repeat first
    | with_reducible apply Touch.refl
    | with_reducible assumption
    | (with_reducible apply Touch.via State.post_touch; · decide)
    | (with_reducible apply Touch.via State.flag_touch; · decide)
    | (with_reducible apply Touch.via State.incF_touch; · decide)
    | (with_reducible apply Touch.via State.setF_touch; · decide)
    | (with_reducible apply Touch.via State.setAdc_touch; · decide)
    | with_reducible apply Touch.ite
    | intro _ _ _
    | intro _
    | extract_lets
    | split
    | (dsimp +zetaDelta only; split)

theorem adcTs_touch {s} : Touch [.regs, .hst, .adc] s (adcTs s) := by
  unfold adcTs
  repeat first
    | with_reducible apply Touch.refl
    | with_reducible assumption
    | (with_reducible apply Touch.via State.setAdc_touch; · decide)
    | (with_reducible apply Touch.via adcAlloc_touch; · decide)
    | (with_reducible apply Touch.via tsAbandon_touch; · decide)
    | with_reducible apply State.each_touch
    | with_reducible apply Touch.ite
    | (with_reducible apply Touch.adc; · decide)
    | intro _ _ _
    | intro _
    | extract_lets
    | split
    | (dsimp +zetaDelta only; split)

theorem adcSignal_touch {s} : Touch [.regs, .sch, .lnd] s (adcSignal s) := by
  unfold adcSignal
  repeat first
    | with_reducible apply Touch.refl
    | with_reducible assumption
    | (with_reducible apply Touch.via raiseSignals_touch; · decide)
    | with_reducible apply Touch.ite
    | intro _ _ _
    | intro _
    | extract_lets
    | split
    | (dsimp +zetaDelta only; split)

theorem openCheck_touch {c m code s} : Touch [.regs, .hst, .adc] s (openCheck c m code s) := by
  unfold openCheck
  repeat first
    | with_reducible apply Touch.refl
    | with_reducible assumption
    | (with_reducible apply Touch.via State.post_touch; · decide)
    | (with_reducible apply Touch.via State.setF_touch; · decide)
    | (with_reducible apply Touch.via State.flag_touch; · decide)
    | (with_reducible apply Touch.via State.setAdc_touch; · decide)
    | with_reducible apply Touch.ite
    | intro _ _ _
    | intro _
    | extract_lets
    | split
    | (dsimp +zetaDelta only; split)

theorem tsStore_touch {c code v s} : Touch [.adc] s (tsStore c code v s) := by
  unfold tsStore
  repeat first
    | with_reducible apply Touch.refl
    | with_reducible assumption
    | with_reducible apply Touch.ite
    | (with_reducible apply Touch.adc; · decide)
    | intro _ _ _
    | intro _
    | extract_lets
    | split
    | (dsimp +zetaDelta only; split)

theorem takenSignal_touch {c res s} : Touch [.regs, .sch, .lnd] s (takenSignal c res s) := by
  unfold takenSignal
  repeat first
    | with_reducible apply Touch.refl
    | with_reducible assumption
    | (with_reducible apply Touch.via raiseSignals_touch; · decide)
    | with_reducible apply Touch.ite
    | intro _ _ _
    | intro _
    | extract_lets
    | split
    | (dsimp +zetaDelta only; split)

theorem deliver_touch {c code v last s} : Touch [.regs, .mem, .poison, .sch, .adc, .lnd] s (deliver c code v last s) := by
  unfold deliver
  repeat first
    | with_reducible apply Touch.refl
    | with_reducible assumption
    | (with_reducible apply Touch.via takenSignal_touch; · decide)
    | (with_reducible apply Touch.via State.setF_touch; · decide)
    | (with_reducible apply Touch.via State.wr_touch; · decide)
    | (with_reducible apply Touch.via State.writeWords_touch; · decide)
    | (with_reducible apply Touch.via State.flag_touch; · decide)
    | (with_reducible apply Touch.via State.incF_touch; · decide)
    | (with_reducible apply Touch.via State.setAdc_touch; · decide)
    | with_reducible apply Touch.ite
    | intro _ _ _
    | intro _
    | extract_lets
    | split
    | (dsimp +zetaDelta only; split)

theorem adcOverruns_touch {s} : Touch [.hst, .adc] s (adcOverruns s) := by
  unfold adcOverruns
  repeat first
    | with_reducible apply Touch.refl
    | with_reducible assumption
    | (with_reducible apply Touch.via State.setAdc_touch; · decide)
    | (with_reducible apply Touch.via State.post_touch; · decide)
    | with_reducible apply State.each_touch
    | with_reducible apply Touch.ite
    | intro _ _ _
    | intro _
    | extract_lets
    | split
    | (dsimp +zetaDelta only; split)

theorem testCompare_touch {c code s} : Touch [.regs, .hst] s (testCompare c code s) := by
  unfold testCompare
  repeat first
    | with_reducible apply Touch.refl
    | with_reducible assumption
    | (with_reducible apply Touch.via State.flag_touch; · decide)
    | (with_reducible apply Touch.via State.post_touch; · decide)
    | with_reducible apply Touch.ite
    | intro _ _ _
    | intro _
    | extract_lets
    | split
    | (dsimp +zetaDelta only; split)

theorem conversionDone_touch {c code s} : Touch [.regs, .mem, .poison, .hst, .sch, .adc, .lnd] s (conversionDone c code s) := by
  unfold conversionDone
  repeat first
    | with_reducible apply Touch.refl
    | with_reducible assumption
    | (with_reducible apply Touch.via State.setF_touch; · decide)
    | (with_reducible apply Touch.via deliver_touch; · decide)
    | (with_reducible apply Touch.via testCompare_touch; · decide)
    | (with_reducible apply Touch.via adcSignal_touch; · decide)
    | (with_reducible apply Touch.via openCheck_touch; · decide)
    | (with_reducible apply Touch.via tsStore_touch; · decide)
    | (with_reducible apply Touch.via adcAlloc_touch; · decide)
    | (with_reducible apply Touch.via State.setAdc_touch; · decide)
    | with_reducible apply Touch.ite
    | intro _ _ _
    | intro _
    | extract_lets
    | split
    | (dsimp +zetaDelta only; split)

theorem resultRead_touch {c s} : Touch [.regs, .sch, .lnd] s (resultRead c s) := by
  unfold resultRead
  repeat first
    | with_reducible apply Touch.refl
    | with_reducible assumption
    | (with_reducible apply Touch.via takenSignal_touch; · decide)
    | (with_reducible apply Touch.via State.setF_touch; · decide)
    | with_reducible apply Touch.ite
    | intro _ _ _
    | intro _
    | extract_lets
    | split
    | (dsimp +zetaDelta only; split)

theorem calDone_touch {c s} : Touch [.regs, .hst, .adc] s (calDone c s) := by
  unfold calDone
  repeat first
    | with_reducible apply Touch.refl
    | with_reducible assumption
    | (with_reducible apply Touch.via State.post_touch; · decide)
    | (with_reducible apply Touch.via adcAlloc_touch; · decide)
    | (with_reducible apply Touch.via State.setAdc_touch; · decide)
    | (with_reducible apply Touch.via State.setF_touch; · decide)
    | (with_reducible apply Touch.via State.flag_touch; · decide)
    | with_reducible apply Touch.ite
    | intro _ _ _
    | intro _
    | extract_lets
    | split
    | (dsimp +zetaDelta only; split)

theorem refSettle_touch {c s} : Touch [.regs, .adc] s (refSettle c s) := by
  unfold refSettle
  repeat first
    | with_reducible apply Touch.refl
    | with_reducible assumption
    | (with_reducible apply Touch.via State.setAdc_touch; · decide)
    | (with_reducible apply Touch.via State.setF_touch; · decide)
    | (with_reducible apply Touch.via adcAlloc_touch; · decide)
    | with_reducible apply Touch.ite
    | intro _ _ _
    | intro _
    | extract_lets
    | split
    | (dsimp +zetaDelta only; split)

theorem settleStart_touch {c s} : Touch [.adc] s (settleStart c s) := by
  unfold settleStart
  repeat first
    | with_reducible apply Touch.refl
    | with_reducible assumption
    | (with_reducible apply Touch.via State.setAdc_touch; · decide)
    | with_reducible apply Touch.ite
    | intro _ _ _
    | intro _
    | extract_lets
    | split
    | (dsimp +zetaDelta only; split)

theorem extRefChange_touch {ok s} : Touch [.regs, .hst, .adc] s (extRefChange ok s) := by
  unfold extRefChange
  repeat first
    | with_reducible apply Touch.refl
    | with_reducible assumption
    | (with_reducible apply Touch.via State.flag_touch; · decide)
    | (with_reducible apply Touch.via State.post_touch; · decide)
    | (with_reducible apply Touch.via settleStart_touch; · decide)
    | (with_reducible apply Touch.via State.setF_touch; · decide)
    | with_reducible apply State.each_touch
    | with_reducible apply Touch.ite
    | intro _ _ _
    | intro _
    | extract_lets
    | split
    | (dsimp +zetaDelta only; split)

theorem tdacSettled_touch {c s} : Touch [.regs, .adc] s (tdacSettled c s) := by
  unfold tdacSettled
  repeat first
    | with_reducible apply Touch.refl
    | with_reducible assumption
    | (with_reducible apply Touch.via adcAlloc_touch; · decide)
    | with_reducible apply Touch.ite
    | intro _ _ _
    | intro _
    | extract_lets
    | split
    | (dsimp +zetaDelta only; split)

theorem adcEnable_touch {c on s} : Touch [.regs, .adc] s (adcEnable c on s) := by
  unfold adcEnable
  repeat first
    | with_reducible apply Touch.refl
    | with_reducible assumption
    | (with_reducible apply Touch.via State.setF_touch; · decide)
    | (with_reducible apply Touch.via settleStart_touch; · decide)
    | (with_reducible apply Touch.via calStart_touch; · decide)
    | (with_reducible apply Touch.via State.wr_touch; · decide)
    | (with_reducible apply Touch.via State.setAdc_touch; · decide)
    | with_reducible apply Touch.ite
    | (with_reducible apply Touch.adc; · decide)
    | with_reducible apply foldl_touch
    | intro _ _ _
    | intro _
    | extract_lets
    | split
    | (dsimp +zetaDelta only; split)

theorem clrOpen_touch {c s} : Touch [.regs] s (clrOpen c s) := by
  unfold clrOpen
  repeat first
    | with_reducible apply Touch.refl
    | with_reducible assumption
    | (with_reducible apply Touch.via State.setF_touch; · decide)
    | with_reducible apply Touch.ite
    | intro _ _ _
    | intro _
    | extract_lets
    | split
    | (dsimp +zetaDelta only; split)

theorem adcFollow_touch {base c v old s} : Touch [.regs, .adc] s (adcFollow base c v old s) := by
  unfold adcFollow
  repeat first
    | with_reducible apply Touch.refl
    | with_reducible assumption
    | (with_reducible apply Touch.via State.setAdc_touch; · decide)
    | (with_reducible apply Touch.via adcAlloc_touch; · decide)
    | (with_reducible apply Touch.via clrOpen_touch; · decide)
    | (with_reducible apply Touch.via scanStart_touch; · decide)
    | (with_reducible apply Touch.via calStart_touch; · decide)
    | (with_reducible apply Touch.via injStart_touch; · decide)
    | (with_reducible apply Touch.via adcEnable_touch; · decide)
    | with_reducible apply Touch.ite
    | intro _ _ _
    | intro _
    | extract_lets
    | split
    | (dsimp +zetaDelta only; split)

theorem adcCycleEnd_touch {s} : Touch [.regs, .adc] s (adcCycleEnd s) := by
  unfold adcCycleEnd
  repeat first
    | with_reducible apply Touch.refl
    | with_reducible assumption
    | (with_reducible apply Touch.via adcAlloc_touch; · decide)
    | with_reducible apply State.each_touch
    | with_reducible apply Touch.ite
    | intro _ _ _
    | intro _
    | extract_lets
    | split
    | (dsimp +zetaDelta only; split)

end Sys2Proof.Machine
end

