-- ==== Sys2Proof/Laws/TouchTwl.lean ====
section
/-! SUPPORT. The footprint of each operation of Machine/Twl.lean: the parts of the state it may change. -/

namespace Sys2Proof.Machine

theorem State.withTwl_touch {s f} : Touch [.twl] s (State.withTwl s f) := by
  unfold State.withTwl
  repeat first
    | with_reducible apply Touch.refl
    | with_reducible assumption
    | with_reducible apply Touch.ite
    | (with_reducible apply Touch.twl; · decide)
    | intro _ _ _
    | intro _
    | extract_lets
    | split
    | (dsimp +zetaDelta only; split)

theorem State.setBr_touch {s b x} : Touch [.twl] s (State.setBr s b x) := by
  unfold State.setBr
  repeat first
    | with_reducible apply Touch.refl
    | with_reducible assumption
    | (with_reducible apply Touch.via State.withTwl_touch; · decide)
    | with_reducible apply Touch.ite
    | intro _ _ _
    | intro _
    | extract_lets
    | split
    | (dsimp +zetaDelta only; split)

theorem frameSend_touch {b type pair s} : Touch [.twl, .out] s (frameSend b type pair s) := by
  unfold frameSend
  repeat first
    | with_reducible apply Touch.refl
    | with_reducible assumption
    | (with_reducible apply Touch.via State.emit_touch; · decide)
    | (with_reducible apply Touch.via State.setBr_touch; · decide)
    | with_reducible apply State.each_touch
    | with_reducible apply Touch.ite
    | intro _ _ _
    | intro _
    | extract_lets
    | split
    | (dsimp +zetaDelta only; split)

theorem cmdLate_touch {b s} : Touch [.regs, .hst, .twl] s (cmdLate b s) := by
  unfold cmdLate
  repeat first
    | with_reducible apply Touch.refl
    | with_reducible assumption
    | (with_reducible apply Touch.via State.setBr_touch; · decide)
    | (with_reducible apply Touch.via State.flag_touch; · decide)
    | (with_reducible apply Touch.via State.post_touch; · decide)
    | (with_reducible apply Touch.via State.setF_touch; · decide)
    | with_reducible apply State.each_touch
    | with_reducible apply Touch.ite
    | intro _ _ _
    | intro _
    | extract_lets
    | split
    | (dsimp +zetaDelta only; split)

theorem twlSend_touch {b type pair s} : Touch [.regs, .hst, .twl, .out] s (twlSend b type pair s) := by
  unfold twlSend
  repeat first
    | with_reducible apply Touch.refl
    | with_reducible assumption
    | (with_reducible apply Touch.via cmdLate_touch; · decide)
    | with_reducible apply State.each_touch
    | (with_reducible apply Touch.via State.setF_touch; · decide)
    | (with_reducible apply Touch.via frameSend_touch; · decide)
    | with_reducible apply Touch.ite
    | intro _ _ _
    | intro _
    | extract_lets
    | split
    | (dsimp +zetaDelta only; split)

theorem branchSignal_touch {b s} : Touch [.regs, .sch, .twl, .lnd] s (branchSignal b s) := by
  unfold branchSignal
  repeat first
    | with_reducible apply Touch.refl
    | with_reducible assumption
    | (with_reducible apply Touch.via State.setBr_touch; · decide)
    | (with_reducible apply Touch.via raiseSignals_touch; · decide)
    | with_reducible apply Touch.ite
    | intro _ _ _
    | intro _
    | extract_lets
    | split
    | (dsimp +zetaDelta only; split)

theorem branchesTold_touch {s} : Touch [.twl] s (branchesTold s) := by
  unfold branchesTold
  repeat first
    | with_reducible apply Touch.refl
    | with_reducible assumption
    | (with_reducible apply Touch.via State.setBr_touch; · decide)
    | with_reducible apply State.each_touch
    | with_reducible apply Touch.ite
    | intro _ _ _
    | intro _
    | extract_lets
    | split
    | (dsimp +zetaDelta only; split)

theorem replyCheck_touch {a d s} : Touch [.regs, .hst, .trj, .saf] s (replyCheck a d s) := by
  unfold replyCheck
  repeat first
    | with_reducible apply Touch.refl
    | with_reducible assumption
    | (with_reducible apply Touch.via pduCheck_touch; · decide)
    | with_reducible apply Touch.ite
    | intro _ _ _
    | intro _
    | extract_lets
    | split
    | (dsimp +zetaDelta only; split)

theorem pathUpdate_touch {b n d s} : Touch [.regs, .hst, .twl] s (pathUpdate b n d s) := by
  unfold pathUpdate
  repeat first
    | with_reducible apply Touch.refl
    | with_reducible assumption
    | (with_reducible apply Touch.via State.flag_touch; · decide)
    | (with_reducible apply Touch.via State.post_touch; · decide)
    | (with_reducible apply Touch.via State.setS_touch; · decide)
    | (with_reducible apply Touch.via State.setF_touch; · decide)
    | (with_reducible apply Touch.via State.setBr_touch; · decide)
    | with_reducible apply Touch.ite
    | intro _ _ _
    | intro _
    | extract_lets
    | split
    | (dsimp +zetaDelta only; split)

theorem takeSlice_touch {b n port d s} : Touch [.regs, .hst, .cen, .trj, .twl] s (takeSlice b n port d s) := by
  unfold takeSlice
  repeat first
    | with_reducible apply Touch.refl
    | with_reducible assumption
    | (with_reducible apply Touch.via pathUpdate_touch; · decide)
    | (with_reducible apply Touch.via refreshPower_touch; · decide)
    | (with_reducible apply Touch.via driveInputs_touch; · decide)
    | with_reducible apply State.each_touch
    | (with_reducible apply Touch.via State.withTwl_touch; · decide)
    | (with_reducible apply Touch.via State.setF_touch; · decide)
    | (with_reducible apply Touch.via State.setBr_touch; · decide)
    | with_reducible apply Touch.ite
    | intro _ _ _
    | intro _
    | extract_lets
    | split
    | (dsimp +zetaDelta only; split)

theorem sliceIn_touch {b n port edge d s} : Touch [.regs, .hst, .cen, .trj, .twl] s (sliceIn b n port edge d s) := by
  unfold sliceIn
  repeat first
    | with_reducible apply Touch.refl
    | with_reducible assumption
    | (with_reducible apply Touch.via State.flag_touch; · decide)
    | (with_reducible apply Touch.via State.incF_touch; · decide)
    | (with_reducible apply Touch.via takeSlice_touch; · decide)
    | (with_reducible apply Touch.via State.setBr_touch; · decide)
    | with_reducible apply Touch.ite
    | intro _ _ _
    | intro _
    | extract_lets
    | split
    | (dsimp +zetaDelta only; split)

theorem layoutNext_touch {b s} : Touch [.twl] s (layoutNext b s) := by
  unfold layoutNext
  repeat first
    | with_reducible apply Touch.refl
    | with_reducible assumption
    | (with_reducible apply Touch.via State.setBr_touch; · decide)
    | with_reducible apply Touch.ite
    | intro _ _ _
    | intro _
    | extract_lets
    | split
    | (dsimp +zetaDelta only; split)

theorem svcResponse_touch {b d s} : Touch [.hst, .twl, .out] s (svcResponse b d s) := by
  unfold svcResponse
  repeat first
    | with_reducible apply Touch.refl
    | with_reducible assumption
    | (with_reducible apply Touch.via State.setBr_touch; · decide)
    | (with_reducible apply Touch.via State.emit_touch; · decide)
    | (with_reducible apply Touch.via State.completeHeld_touch; · decide)
    | (with_reducible apply Touch.via layoutNext_touch; · decide)
    | with_reducible apply Touch.ite
    | intro _ _ _
    | intro _
    | extract_lets
    | split
    | (dsimp +zetaDelta only; split)

theorem copyTake_touch {b port time bytes s} : Touch [.regs, .hst, .sch, .cen, .trj, .twl, .lnd, .out] s (copyTake b port time bytes s) := by
  unfold copyTake
  repeat first
    | with_reducible apply Touch.refl
    | with_reducible assumption
    | (with_reducible apply Touch.via svcResponse_touch; · decide)
    | (with_reducible apply Touch.via branchSignal_touch; · decide)
    | (with_reducible apply Touch.via State.setBr_touch; · decide)
    | (with_reducible apply Touch.via sliceIn_touch; · decide)
    | with_reducible apply State.each_touch
    | with_reducible apply Touch.ite
    | intro _ _ _
    | intro _
    | extract_lets
    | split
    | (dsimp +zetaDelta only; split)

theorem syncTake_touch {b port time bytes s} : Touch [.regs, .twl] s (syncTake b port time bytes s) := by
  unfold syncTake
  repeat first
    | with_reducible apply Touch.refl
    | with_reducible assumption
    | (with_reducible apply Touch.via State.setF_touch; · decide)
    | (with_reducible apply Touch.via State.setBr_touch; · decide)
    | with_reducible apply Touch.ite
    | intro _ _ _
    | intro _
    | extract_lets
    | split
    | (dsimp +zetaDelta only; split)

theorem portSeen_touch {b port s} : Touch [.regs, .hst, .twl] s (portSeen b port s) := by
  unfold portSeen
  repeat first
    | with_reducible apply Touch.refl
    | with_reducible assumption
    | (with_reducible apply Touch.via State.post_touch; · decide)
    | (with_reducible apply Touch.via State.setBr_touch; · decide)
    | (with_reducible apply Touch.via State.setF_touch; · decide)
    | with_reducible apply Touch.ite
    | intro _ _ _
    | intro _
    | extract_lets
    | split
    | (dsimp +zetaDelta only; split)

theorem outOfWindow_touch {b s} : Touch [.regs, .hst, .twl] s (outOfWindow b s) := by
  unfold outOfWindow
  repeat first
    | with_reducible apply Touch.refl
    | with_reducible assumption
    | (with_reducible apply Touch.via State.setBr_touch; · decide)
    | (with_reducible apply Touch.via State.post_touch; · decide)
    | (with_reducible apply Touch.via State.flag_touch; · decide)
    | (with_reducible apply Touch.via State.incF_touch; · decide)
    | with_reducible apply Touch.ite
    | intro _ _ _
    | intro _
    | extract_lets
    | split
    | (dsimp +zetaDelta only; split)

theorem copyReceive_touch {b port raw all s} : Touch [.regs, .hst, .sch, .cen, .trj, .twl, .lnd, .out] s (copyReceive b port raw all s) := by
  unfold copyReceive
  repeat first
    | with_reducible apply Touch.refl
    | with_reducible assumption
    | (with_reducible apply Touch.via copyTake_touch; · decide)
    | (with_reducible apply Touch.via outOfWindow_touch; · decide)
    | (with_reducible apply Touch.via syncTake_touch; · decide)
    | (with_reducible apply Touch.via State.incF_touch; · decide)
    | (with_reducible apply Touch.via portSeen_touch; · decide)
    | with_reducible apply Touch.ite
    | intro _ _ _
    | intro _
    | extract_lets
    | split
    | (dsimp +zetaDelta only; split)

theorem slotInvalid_touch {key s} : Touch [.twl] s (slotInvalid key s) := by
  unfold slotInvalid
  repeat first
    | with_reducible apply Touch.refl
    | with_reducible assumption
    | (with_reducible apply Touch.via State.withTwl_touch; · decide)
    | with_reducible apply Touch.ite
    | intro _ _ _
    | intro _
    | extract_lets
    | split
    | (dsimp +zetaDelta only; split)

theorem twlReplies_touch {s} : Touch [.regs, .hst, .trj, .saf, .twl] s (twlReplies s) := by
  unfold twlReplies
  repeat first
    | with_reducible apply Touch.refl
    | with_reducible assumption
    | (with_reducible apply Touch.via pduCheck_touch; · decide)
    | (with_reducible apply Touch.via replyCheck_touch; · decide)
    | (with_reducible apply Touch.via slotInvalid_touch; · decide)
    | (with_reducible apply Touch.via State.incF_touch; · decide)
    | with_reducible apply State.each_touch
    | with_reducible apply Touch.ite
    | intro _ _ _
    | intro _
    | extract_lets
    | split
    | (dsimp +zetaDelta only; split)

theorem twlTr_touch {s} : Touch [.regs, .hst, .trj, .saf, .twl] s (twlTr s) := by
  unfold twlTr
  repeat first
    | with_reducible apply Touch.refl
    | with_reducible assumption
    | (with_reducible apply Touch.via twlReplies_touch; · decide)
    | with_reducible apply Touch.ite
    | intro _ _ _
    | intro _
    | extract_lets
    | split
    | (dsimp +zetaDelta only; split)

theorem guardReport_touch {b s} : Touch [.hst, .twl] s (guardReport b s) := by
  unfold guardReport
  repeat first
    | with_reducible apply Touch.refl
    | with_reducible assumption
    | (with_reducible apply Touch.via State.setBr_touch; · decide)
    | (with_reducible apply Touch.via State.post_touch; · decide)
    | with_reducible apply Touch.ite
    | intro _ _ _
    | intro _
    | extract_lets
    | split
    | (dsimp +zetaDelta only; split)

theorem twlT0_touch {s0} : Touch [.regs, .hst, .twl] s0 (twlT0 s0) := by
  unfold twlT0
  repeat first
    | with_reducible apply Touch.refl
    | with_reducible assumption
    | (with_reducible apply Touch.via State.setF_touch; · decide)
    | (with_reducible apply Touch.via State.flagIf_touch; · decide)
    | (with_reducible apply Touch.via State.setBr_touch; · decide)
    | (with_reducible apply Touch.via guardReport_touch; · decide)
    | with_reducible apply State.each_touch
    | with_reducible apply Touch.ite
    | intro _ _ _
    | intro _
    | extract_lets
    | split
    | (dsimp +zetaDelta only; split)

theorem ringOpen_touch {b port s} : Touch [.regs, .hst, .twl] s (ringOpen b port s) := by
  unfold ringOpen
  repeat first
    | with_reducible apply Touch.refl
    | with_reducible assumption
    | (with_reducible apply Touch.via State.post_touch; · decide)
    | (with_reducible apply Touch.via State.setF_touch; · decide)
    | (with_reducible apply Touch.via State.flag_touch; · decide)
    | (with_reducible apply Touch.via State.setBr_touch; · decide)
    | with_reducible apply Touch.ite
    | intro _ _ _
    | intro _
    | extract_lets
    | split
    | (dsimp +zetaDelta only; split)

theorem slotsInvalid_touch {b s} : Touch [.twl] s (slotsInvalid b s) := by
  unfold slotsInvalid
  repeat first
    | with_reducible apply Touch.refl
    | with_reducible assumption
    | (with_reducible apply Touch.via State.withTwl_touch; · decide)
    | with_reducible apply Touch.ite
    | with_reducible apply foldl_touch
    | intro _ _ _
    | intro _
    | extract_lets
    | split
    | (dsimp +zetaDelta only; split)

theorem enterBr_touch {b st topo budget s} : Touch [.regs, .hst, .cen, .trj, .twl] s (enterBr b st topo budget s) := by
  unfold enterBr
  repeat first
    | with_reducible apply Touch.refl
    | with_reducible assumption
    | (with_reducible apply Touch.via State.post_touch; · decide)
    | (with_reducible apply Touch.via refreshPower_touch; · decide)
    | (with_reducible apply Touch.via layoutNext_touch; · decide)
    | (with_reducible apply Touch.via State.completeHeld_touch; · decide)
    | (with_reducible apply Touch.via State.setBr_touch; · decide)
    | (with_reducible apply Touch.via slotsInvalid_touch; · decide)
    | (with_reducible apply Touch.via State.wr_touch; · decide)
    | (with_reducible apply Touch.via State.flagIf_touch; · decide)
    | (with_reducible apply Touch.via State.setF_touch; · decide)
    | (with_reducible apply Touch.via guardReport_touch; · decide)
    | with_reducible apply Touch.ite
    | intro _ _ _
    | intro _
    | extract_lets
    | split
    | (dsimp +zetaDelta only; split)

theorem branchAdvance_touch {b s} : Touch [.regs, .hst, .cen, .trj, .twl] s (branchAdvance b s) := by
  unfold branchAdvance
  repeat first
    | with_reducible apply Touch.refl
    | with_reducible assumption
    | (with_reducible apply Touch.via enterBr_touch; · decide)
    | with_reducible apply Touch.ite
    | intro _ _ _
    | intro _
    | extract_lets
    | split
    | (dsimp +zetaDelta only; split)

theorem twlCycleEnd_touch {s} : Touch [.regs, .hst, .cen, .trj, .twl] s (twlCycleEnd s) := by
  unfold twlCycleEnd
  repeat first
    | with_reducible apply Touch.refl
    | with_reducible assumption
    | (with_reducible apply Touch.via enterBr_touch; · decide)
    | with_reducible apply State.each_touch
    | with_reducible apply Touch.ite
    | intro _ _ _
    | intro _
    | extract_lets
    | split
    | (dsimp +zetaDelta only; split)

theorem guardBlock_touch {b edges s} : Touch [.regs, .twl, .lnd] s (guardBlock b edges s) := by
  unfold guardBlock
  repeat first
    | with_reducible apply Touch.refl
    | with_reducible assumption
    | (with_reducible apply Touch.via State.note_touch; · decide)
    | (with_reducible apply Touch.via State.setBr_touch; · decide)
    | (with_reducible apply Touch.via State.setF_touch; · decide)
    | (with_reducible apply Touch.via State.flag_touch; · decide)
    | with_reducible apply Touch.ite
    | intro _ _ _
    | intro _
    | extract_lets
    | split
    | (dsimp +zetaDelta only; split)

theorem switchAnnounce_touch {m k s} : Touch [.regs, .twl] s (switchAnnounce m k s) := by
  unfold switchAnnounce
  repeat first
    | with_reducible apply Touch.refl
    | with_reducible assumption
    | (with_reducible apply Touch.via State.setF_touch; · decide)
    | (with_reducible apply Touch.via State.withTwl_touch; · decide)
    | with_reducible apply Touch.ite
    | intro _ _ _
    | intro _
    | extract_lets
    | split
    | (dsimp +zetaDelta only; split)

theorem switchCheck_touch {s} : Touch [.regs, .hst, .twl] s (switchCheck s) := by
  unfold switchCheck
  repeat first
    | with_reducible apply Touch.refl
    | with_reducible assumption
    | (with_reducible apply Touch.via State.flag_touch; · decide)
    | (with_reducible apply Touch.via State.post_touch; · decide)
    | with_reducible apply State.each_touch
    | (with_reducible apply Touch.via State.setF_touch; · decide)
    | (with_reducible apply Touch.via State.withTwl_touch; · decide)
    | with_reducible apply Touch.ite
    | intro _ _ _
    | intro _
    | extract_lets
    | split
    | (dsimp +zetaDelta only; split)

theorem switchApply_touch {s} : Touch [.regs, .hst, .twl] s (switchApply s) := by
  unfold switchApply
  repeat first
    | with_reducible apply Touch.refl
    | with_reducible assumption
    | (with_reducible apply Touch.via State.withTwl_touch; · decide)
    | (with_reducible apply Touch.via State.post_touch; · decide)
    | (with_reducible apply Touch.via State.setF_touch; · decide)
    | with_reducible apply Touch.ite
    | intro _ _ _
    | intro _
    | extract_lets
    | split
    | (dsimp +zetaDelta only; split)

theorem twlCmdRun_touch {cmd b s} : Touch [.regs, .twl] s (twlCmdRun cmd b s) := by
  unfold twlCmdRun
  repeat first
    | with_reducible apply Touch.refl
    | with_reducible assumption
    | (with_reducible apply Touch.via State.setBr_touch; · decide)
    | (with_reducible apply Touch.via switchAnnounce_touch; · decide)
    | with_reducible apply Touch.ite
    | intro _ _ _
    | intro _
    | extract_lets
    | split
    | (dsimp +zetaDelta only; split)

theorem svcTimeout_touch {b s} : Touch [.hst, .twl] s (svcTimeout b s) := by
  unfold svcTimeout
  repeat first
    | with_reducible apply Touch.refl
    | with_reducible assumption
    | (with_reducible apply Touch.via State.setBr_touch; · decide)
    | (with_reducible apply Touch.via State.completeHeld_touch; · decide)
    | with_reducible apply Touch.ite
    | intro _ _ _
    | intro _
    | extract_lets
    | split
    | (dsimp +zetaDelta only; split)

theorem twlFollow_touch {base b v old s} : Touch [.regs, .hst, .cen, .trj, .twl] s (twlFollow base b v old s) := by
  unfold twlFollow
  repeat first
    | with_reducible apply Touch.refl
    | with_reducible assumption
    | (with_reducible apply Touch.via enterBr_touch; · decide)
    | with_reducible apply Touch.ite
    | intro _ _ _
    | intro _
    | extract_lets
    | split
    | (dsimp +zetaDelta only; split)

theorem feltTell_touch {r1 s} : Touch [.twl] s (feltTell r1 s) := by
  unfold feltTell
  repeat first
    | with_reducible apply Touch.refl
    | with_reducible assumption
    | (with_reducible apply Touch.via State.withTwl_touch; · decide)
    | with_reducible apply Touch.ite
    | intro _ _ _
    | intro _
    | extract_lets
    | split
    | (dsimp +zetaDelta only; split)

theorem twlRecFollow_touch {r1 s0} : Touch [.twl] s0 (twlRecFollow r1 s0) := by
  unfold twlRecFollow
  repeat first
    | with_reducible apply Touch.refl
    | with_reducible assumption
    | (with_reducible apply Touch.via State.setBr_touch; · decide)
    | (with_reducible apply Touch.via layoutNext_touch; · decide)
    | (with_reducible apply Touch.via feltTell_touch; · decide)
    | with_reducible apply Touch.ite
    | intro _ _ _
    | intro _
    | extract_lets
    | split
    | (dsimp +zetaDelta only; split)

end Sys2Proof.Machine
end

