-- ==== Sys2Proof/Laws/TouchLink.lean ====
section
/-! SUPPORT. The footprint of each operation of Machine/Link.lean: the parts of the state it may change. -/

namespace Sys2Proof.Machine

theorem eccRecord_touch {unc row block byte src s} : Touch [.regs, .hst, .lnd] s (eccRecord unc row block byte src s) := by
  unfold eccRecord
  repeat first
    | with_reducible apply Touch.refl
    | with_reducible assumption
    | (with_reducible apply Touch.via State.withHst_touch; · decide)
    | (with_reducible apply Touch.via State.note_touch; · decide)
    | (with_reducible apply Touch.via State.wr_touch; · decide)
    | (with_reducible apply Touch.via State.incF_touch; · decide)
    | (with_reducible apply Touch.via State.flag_touch; · decide)
    | (with_reducible apply Touch.via State.postG_touch; · decide)
    | with_reducible apply Touch.ite
    | intro _ _ _
    | intro _
    | extract_lets
    | split
    | (dsimp +zetaDelta only; split)

theorem State.setLink_touch {s p x} : Touch [.links] s (State.setLink s p x) := by
  unfold State.setLink
  repeat first
    | with_reducible apply Touch.refl
    | with_reducible assumption
    | with_reducible apply Touch.ite
    | (with_reducible apply Touch.links; · decide)
    | intro _ _ _
    | intro _
    | extract_lets
    | split
    | (dsimp +zetaDelta only; split)

theorem State.setLinkSt_touch {s p st} : Touch [.regs] s (State.setLinkSt s p st) := by
  unfold State.setLinkSt
  repeat first
    | with_reducible apply Touch.refl
    | with_reducible assumption
    | (with_reducible apply Touch.via State.setF_touch; · decide)
    | with_reducible apply Touch.ite
    | intro _ _ _
    | intro _
    | extract_lets
    | split
    | (dsimp +zetaDelta only; split)

theorem State.setLdly_touch {s p v} : Touch [.regs] s (State.setLdly s p v) := by
  unfold State.setLdly
  repeat first
    | with_reducible apply Touch.refl
    | with_reducible assumption
    | (with_reducible apply Touch.via State.setF_touch; · decide)
    | with_reducible apply Touch.ite
    | intro _ _ _
    | intro _
    | extract_lets
    | split
    | (dsimp +zetaDelta only; split)

theorem lanesRefresh_touch {s} : Touch [.regs] s (lanesRefresh s) := by
  unfold lanesRefresh
  repeat first
    | with_reducible apply Touch.refl
    | with_reducible assumption
    | (with_reducible apply Touch.via State.setF_touch; · decide)
    | with_reducible apply Touch.ite
    | intro _ _ _
    | intro _
    | extract_lets
    | split
    | (dsimp +zetaDelta only; split)

theorem linkEnter_touch {p st hiber s} : Touch [.regs, .hst, .links] s (linkEnter p st hiber s) := by
  unfold linkEnter
  repeat first
    | with_reducible apply Touch.refl
    | with_reducible assumption
    | (with_reducible apply Touch.via lanesRefresh_touch; · decide)
    | (with_reducible apply Touch.via State.post_touch; · decide)
    | (with_reducible apply Touch.via State.incF_touch; · decide)
    | (with_reducible apply Touch.via State.flag_touch; · decide)
    | (with_reducible apply Touch.via State.setF_touch; · decide)
    | (with_reducible apply Touch.via State.setLink_touch; · decide)
    | (with_reducible apply Touch.via State.setLdly_touch; · decide)
    | (with_reducible apply Touch.via State.setLinkSt_touch; · decide)
    | with_reducible apply Touch.ite
    | intro _ _ _
    | intro _
    | extract_lets
    | split
    | (dsimp +zetaDelta only; split)

theorem linkOpen_touch {p s} : Touch [.regs, .hst, .links] s (linkOpen p s) := by
  unfold linkOpen
  repeat first
    | with_reducible apply Touch.refl
    | with_reducible assumption
    | (with_reducible apply Touch.via linkEnter_touch; · decide)
    | with_reducible apply Touch.ite
    | intro _ _ _
    | intro _
    | extract_lets
    | split
    | (dsimp +zetaDelta only; split)

theorem trainDone_touch {p s} : Touch [.regs, .hst, .links] s (trainDone p s) := by
  unfold trainDone
  repeat first
    | with_reducible apply Touch.refl
    | with_reducible assumption
    | (with_reducible apply Touch.via linkEnter_touch; · decide)
    | with_reducible apply Touch.ite
    | intro _ _ _
    | intro _
    | extract_lets
    | split
    | (dsimp +zetaDelta only; split)

theorem trainTimeout_touch {p s} : Touch [.regs, .hst, .links] s (trainTimeout p s) := by
  unfold trainTimeout
  repeat first
    | with_reducible apply Touch.refl
    | with_reducible assumption
    | (with_reducible apply Touch.via State.flag_touch; · decide)
    | (with_reducible apply Touch.via linkEnter_touch; · decide)
    | with_reducible apply Touch.ite
    | intro _ _ _
    | intro _
    | extract_lets
    | split
    | (dsimp +zetaDelta only; split)

theorem linkFall_touch {p hiber s} : Touch [.regs, .hst, .links] s (linkFall p hiber s) := by
  unfold linkFall
  repeat first
    | with_reducible apply Touch.refl
    | with_reducible assumption
    | (with_reducible apply Touch.via linkEnter_touch; · decide)
    | with_reducible apply Touch.ite
    | intro _ _ _
    | intro _
    | extract_lets
    | split
    | (dsimp +zetaDelta only; split)

theorem linkSent_touch {p t1 s} : Touch [.links] s (linkSent p t1 s) := by
  unfold linkSent
  repeat first
    | with_reducible apply Touch.refl
    | with_reducible assumption
    | (with_reducible apply Touch.via State.setLink_touch; · decide)
    | with_reducible apply Touch.ite
    | intro _ _ _
    | intro _
    | extract_lets
    | split
    | (dsimp +zetaDelta only; split)

theorem linkMeasure_touch {p t4 b s} : Touch [.regs, .hst, .links] s (linkMeasure p t4 b s) := by
  unfold linkMeasure
  repeat first
    | with_reducible apply Touch.refl
    | with_reducible assumption
    | (with_reducible apply Touch.via lanesRefresh_touch; · decide)
    | (with_reducible apply Touch.via linkEnter_touch; · decide)
    | (with_reducible apply Touch.via State.setF_touch; · decide)
    | (with_reducible apply Touch.via State.setLdly_touch; · decide)
    | (with_reducible apply Touch.via State.setLink_touch; · decide)
    | with_reducible apply Touch.ite
    | intro _ _ _
    | intro _
    | extract_lets
    | split
    | (dsimp +zetaDelta only; split)

theorem linkHeard_touch {p time b s} : Touch [.regs, .hst, .links] s (linkHeard p time b s) := by
  unfold linkHeard
  repeat first
    | with_reducible apply Touch.refl
    | with_reducible assumption
    | (with_reducible apply Touch.via linkMeasure_touch; · decide)
    | (with_reducible apply Touch.via linkEnter_touch; · decide)
    | (with_reducible apply Touch.via State.setF_touch; · decide)
    | (with_reducible apply Touch.via linkFall_touch; · decide)
    | (with_reducible apply Touch.via State.setLink_touch; · decide)
    | with_reducible apply Touch.ite
    | intro _ _ _
    | intro _
    | extract_lets
    | split
    | (dsimp +zetaDelta only; split)

end Sys2Proof.Machine
end

