-- ==== Sys2Proof/Laws/TouchDmk.lean ====
section
/-! SUPPORT. The footprint of each operation of Machine/Dmk.lean: the parts of the state it may change. -/

namespace Sys2Proof.Machine

theorem State.withDmk_touch {s f} : Touch [.dmk] s (State.withDmk s f) := by
  unfold State.withDmk
  repeat first
    | with_reducible apply Touch.refl
    | with_reducible assumption
    | with_reducible apply Touch.ite
    | (with_reducible apply Touch.dmk; · decide)
    | intro _ _ _
    | intro _
    | extract_lets
    | split
    | (dsimp +zetaDelta only; split)

theorem State.setDport_touch {s p x} : Touch [.dmk] s (State.setDport s p x) := by
  unfold State.setDport
  repeat first
    | with_reducible apply Touch.refl
    | with_reducible assumption
    | (with_reducible apply Touch.via State.withDmk_touch; · decide)
    | with_reducible apply Touch.ite
    | intro _ _ _
    | intro _
    | extract_lets
    | split
    | (dsimp +zetaDelta only; split)

theorem sendUnit_touch {p t1 f off s} : Touch [.dmk, .out] s (sendUnit p t1 f off s) := by
  unfold sendUnit
  repeat first
    | with_reducible apply Touch.refl
    | with_reducible assumption
    | (with_reducible apply Touch.via State.setDport_touch; · decide)
    | (with_reducible apply Touch.via State.emit_touch; · decide)
    | with_reducible apply Touch.ite
    | intro _ _ _
    | intro _
    | extract_lets
    | split
    | (dsimp +zetaDelta only; split)

theorem startFrame_touch {p f s} : Touch [.regs, .dmk, .out] s (startFrame p f s) := by
  unfold startFrame
  repeat first
    | with_reducible apply Touch.refl
    | with_reducible assumption
    | (with_reducible apply Touch.via sendUnit_touch; · decide)
    | (with_reducible apply Touch.via State.setF_touch; · decide)
    | with_reducible apply Touch.ite
    | intro _ _ _
    | intro _
    | extract_lets
    | split
    | (dsimp +zetaDelta only; split)

theorem startLink_touch {p body s} : Touch [.links, .dmk, .out] s (startLink p body s) := by
  unfold startLink
  repeat first
    | with_reducible apply Touch.refl
    | with_reducible assumption
    | (with_reducible apply Touch.via linkSent_touch; · decide)
    | (with_reducible apply Touch.via State.emit_touch; · decide)
    | (with_reducible apply Touch.via State.setDport_touch; · decide)
    | (with_reducible apply Touch.via State.withDmk_touch; · decide)
    | with_reducible apply Touch.ite
    | intro _ _ _
    | intro _
    | extract_lets
    | split
    | (dsimp +zetaDelta only; split)

theorem egressNext_touch {p s} : Touch [.regs, .links, .dmk, .out] s (egressNext p s) := by
  unfold egressNext
  repeat first
    | with_reducible apply Touch.refl
    | with_reducible assumption
    | (with_reducible apply Touch.via startFrame_touch; · decide)
    | (with_reducible apply Touch.via State.setDport_touch; · decide)
    | (with_reducible apply Touch.via startLink_touch; · decide)
    | with_reducible apply Touch.ite
    | intro _ _ _
    | intro _
    | extract_lets
    | split
    | (dsimp +zetaDelta only; split)

theorem enqueue_touch {p f s} : Touch [.regs, .hst, .links, .dmk, .out] s (enqueue p f s) := by
  unfold enqueue
  repeat first
    | with_reducible apply Touch.refl
    | with_reducible assumption
    | (with_reducible apply Touch.via egressNext_touch; · decide)
    | (with_reducible apply Touch.via State.setDport_touch; · decide)
    | (with_reducible apply Touch.via State.post_touch; · decide)
    | (with_reducible apply Touch.via State.flag_touch; · decide)
    | (with_reducible apply Touch.via State.incF_touch; · decide)
    | with_reducible apply Touch.ite
    | intro _ _ _
    | intro _
    | extract_lets
    | split
    | (dsimp +zetaDelta only; split)

theorem keyDone_touch {k s} : Touch [.hst] s (keyDone k s) := by
  unfold keyDone
  repeat first
    | with_reducible apply Touch.refl
    | with_reducible assumption
    | (with_reducible apply Touch.via State.completeHeld_touch; · decide)
    | with_reducible apply Touch.ite
    | intro _ _ _
    | intro _
    | extract_lets
    | split
    | (dsimp +zetaDelta only; split)

theorem release_touch {f s} : Touch [.regs, .hst, .links, .dmk, .out] s (release f s) := by
  unfold release
  repeat first
    | with_reducible apply Touch.refl
    | with_reducible assumption
    | (with_reducible apply Touch.via enqueue_touch; · decide)
    | with_reducible apply State.each_touch
    | (with_reducible apply Touch.via State.withDmk_touch; · decide)
    | with_reducible apply Touch.ite
    | intro _ _ _
    | intro _
    | extract_lets
    | split
    | (dsimp +zetaDelta only; split)

theorem shapedNext_touch {s} : Touch [.regs, .hst, .links, .dmk, .out] s (shapedNext s) := by
  unfold shapedNext
  repeat first
    | with_reducible apply Touch.refl
    | with_reducible assumption
    | (with_reducible apply Touch.via State.withDmk_touch; · decide)
    | (with_reducible apply Touch.via release_touch; · decide)
    | with_reducible apply Touch.ite
    | with_reducible apply foldl_touch
    | intro _ _ _
    | intro _
    | extract_lets
    | split
    | (dsimp +zetaDelta only; split)

theorem originate_touch {f s} : Touch [.regs, .hst, .links, .dmk, .out] s (originate f s) := by
  unfold originate
  repeat first
    | with_reducible apply Touch.refl
    | with_reducible assumption
    | (with_reducible apply Touch.via release_touch; · decide)
    | (with_reducible apply Touch.via State.withDmk_touch; · decide)
    | with_reducible apply Touch.ite
    | intro _ _ _
    | intro _
    | extract_lets
    | split
    | (dsimp +zetaDelta only; split)

theorem feedNext_touch {n s} : Touch [.regs, .hst, .links, .dmk, .out] s (feedNext n s) := by
  induction n generalizing s with
  | zero => exact .refl
  | succ n ih =>
    unfold feedNext
    split
    · exact .ite (fun _ => ih.via (by decide) (.via release_touch (by decide) (.via State.withDmk_touch (by decide) .refl))) fun _ => .refl
    · exact .refl

theorem unitEnd_touch {p s} : Touch [.regs, .hst, .links, .dmk, .out] s (unitEnd p s) := by
  unfold unitEnd
  repeat first
    | with_reducible apply Touch.refl
    | with_reducible assumption
    | (with_reducible apply Touch.via sendUnit_touch; · decide)
    | (with_reducible apply Touch.via State.emit_touch; · decide)
    | (with_reducible apply Touch.via State.incF_touch; · decide)
    | (with_reducible apply Touch.via keyDone_touch; · decide)
    | (with_reducible apply Touch.via State.setDport_touch; · decide)
    | (with_reducible apply Touch.via egressNext_touch; · decide)
    | (with_reducible apply Touch.via feedNext_touch; · decide)
    | (with_reducible apply Touch.via shapedNext_touch; · decide)
    | with_reducible apply Touch.ite
    | intro _ _ _
    | intro _
    | extract_lets
    | split
    | (dsimp +zetaDelta only; split)

theorem portFlush_touch {p s} : Touch [.hst, .dmk] s (portFlush p s) := by
  unfold portFlush
  repeat first
    | with_reducible apply Touch.refl
    | with_reducible assumption
    | (with_reducible apply Touch.via keyDone_touch; · decide)
    | with_reducible apply State.each_touch
    | (with_reducible apply Touch.via State.setDport_touch; · decide)
    | with_reducible apply Touch.ite
    | intro _ _ _
    | intro _
    | extract_lets
    | split
    | (dsimp +zetaDelta only; split)

theorem portChanged_touch {was p s} : Touch [.hst, .dmk] s (portChanged was p s) := by
  unfold portChanged
  repeat first
    | with_reducible apply Touch.refl
    | with_reducible assumption
    | (with_reducible apply Touch.via State.withDmk_touch; · decide)
    | (with_reducible apply Touch.via portFlush_touch; · decide)
    | with_reducible apply Touch.ite
    | intro _ _ _
    | intro _
    | extract_lets
    | split
    | (dsimp +zetaDelta only; split)

theorem modeSplit_touch {src mode s} : Touch [.regs, .hst, .dmk] s (modeSplit src mode s) := by
  unfold modeSplit
  repeat first
    | with_reducible apply Touch.refl
    | with_reducible assumption
    | (with_reducible apply Touch.via State.withDmk_touch; · decide)
    | (with_reducible apply Touch.via State.flag_touch; · decide)
    | (with_reducible apply Touch.via State.post_touch; · decide)
    | with_reducible apply Touch.ite
    | intro _ _ _
    | intro _
    | extract_lets
    | split
    | (dsimp +zetaDelta only; split)

theorem sliceRead_touch {r1 late f s} : Touch [.regs, .tabs, .hst, .dmk] s (sliceRead r1 late f s) := by
  unfold sliceRead
  repeat first
    | with_reducible apply Touch.refl
    | with_reducible assumption
    | (with_reducible apply Touch.via modeSplit_touch; · decide)
    | with_reducible apply State.each_touch
    | (with_reducible apply Touch.via State.setTw_touch; · decide)
    | with_reducible apply Touch.ite
    | intro _ _ _
    | intro _
    | extract_lets
    | split
    | (dsimp +zetaDelta only; split)

theorem c0Receive_touch {port f s} : Touch [.regs, .tabs, .hst, .dmk] s (c0Receive port f s) := by
  unfold c0Receive
  repeat first
    | with_reducible apply Touch.refl
    | with_reducible assumption
    | (with_reducible apply Touch.via sliceRead_touch; · decide)
    | (with_reducible apply Touch.via State.flag_touch; · decide)
    | (with_reducible apply Touch.via State.post_touch; · decide)
    | with_reducible apply State.each_touch
    | with_reducible apply Touch.ite
    | intro _ _ _
    | intro _
    | extract_lets
    | split
    | (dsimp +zetaDelta only; split)

theorem c0Send_touch {r1 s} : Touch [.regs, .hst, .links, .dmk, .out] s (c0Send r1 s) := by
  unfold c0Send
  repeat first
    | with_reducible apply Touch.refl
    | with_reducible assumption
    | (with_reducible apply Touch.via enqueue_touch; · decide)
    | with_reducible apply State.each_touch
    | (with_reducible apply Touch.via State.withDmk_touch; · decide)
    | with_reducible apply Touch.ite
    | intro _ _ _
    | intro _
    | extract_lets
    | split
    | (dsimp +zetaDelta only; split)

theorem unclaimed_touch {s} : Touch [.regs] s (unclaimed s) := by
  unfold unclaimed
  repeat first
    | with_reducible apply Touch.refl
    | with_reducible assumption
    | (with_reducible apply Touch.via State.flag_touch; · decide)
    | (with_reducible apply Touch.via State.incF_touch; · decide)
    | with_reducible apply Touch.ite
    | intro _ _ _
    | intro _
    | extract_lets
    | split
    | (dsimp +zetaDelta only; split)

theorem hostReceive_touch {src stream data s} : Touch [.regs, .hst, .out] s (hostReceive src stream data s) := by
  unfold hostReceive
  repeat first
    | with_reducible apply Touch.refl
    | with_reducible assumption
    | (with_reducible apply Touch.via State.emit_touch; · decide)
    | (with_reducible apply Touch.via State.setF_touch; · decide)
    | (with_reducible apply Touch.via State.post_touch; · decide)
    | (with_reducible apply Touch.via unclaimed_touch; · decide)
    | with_reducible apply Touch.ite
    | intro _ _ _
    | intro _
    | extract_lets
    | split
    | (dsimp +zetaDelta only; split)

theorem hostSend_touch {dst stream data s} : Touch [.regs, .hst, .links, .dmk, .out] s (hostSend dst stream data s) := by
  unfold hostSend
  repeat first
    | with_reducible apply Touch.refl
    | with_reducible assumption
    | (with_reducible apply Touch.via State.withDmk_touch; · decide)
    | (with_reducible apply Touch.via feedNext_touch; · decide)
    | with_reducible apply Touch.ite
    | intro _ _ _
    | intro _
    | extract_lets
    | split
    | (dsimp +zetaDelta only; split)

theorem seqGap_touch {s} : Touch [.regs] s (seqGap s) := by
  unfold seqGap
  repeat first
    | with_reducible apply Touch.refl
    | with_reducible assumption
    | (with_reducible apply Touch.via State.flag_touch; · decide)
    | (with_reducible apply Touch.via State.incF_touch; · decide)
    | with_reducible apply Touch.ite
    | intro _ _ _
    | intro _
    | extract_lets
    | split
    | (dsimp +zetaDelta only; split)

theorem State.dropReasm_touch {s r1} : Touch [.dmk] s (State.dropReasm s r1) := by
  unfold State.dropReasm
  repeat first
    | with_reducible apply Touch.refl
    | with_reducible assumption
    | (with_reducible apply Touch.via State.withDmk_touch; · decide)
    | with_reducible apply Touch.ite
    | intro _ _ _
    | intro _
    | extract_lets
    | split
    | (dsimp +zetaDelta only; split)

theorem reassemble_touch {f s} : Touch [.regs, .dmk] s (reassemble f s).1 := by
  unfold reassemble
  repeat first
    | with_reducible apply Touch.refl
    | with_reducible assumption
    | (with_reducible apply Touch.via State.dropReasm_touch; · decide)
    | (with_reducible apply Touch.via seqGap_touch; · decide)
    | (with_reducible apply Touch.via State.withDmk_touch; · decide)
    | with_reducible apply Touch.ite
    | intro _ _ _
    | intro _
    | extract_lets
    | split
    | (dsimp +zetaDelta only; split)

theorem reasmTimeout_touch {src stream s} : Touch [.regs, .dmk] s (reasmTimeout src stream s) := by
  unfold reasmTimeout
  repeat first
    | with_reducible apply Touch.refl
    | with_reducible assumption
    | (with_reducible apply Touch.via seqGap_touch; · decide)
    | (with_reducible apply Touch.via State.dropReasm_touch; · decide)
    | with_reducible apply Touch.ite
    | intro _ _ _
    | intro _
    | extract_lets
    | split
    | (dsimp +zetaDelta only; split)

theorem takeAddr_touch {a s} : Touch [.regs, .hst] s (takeAddr a s) := by
  unfold takeAddr
  repeat first
    | with_reducible apply Touch.refl
    | with_reducible assumption
    | (with_reducible apply Touch.via State.flag_touch; · decide)
    | (with_reducible apply Touch.via State.post_touch; · decide)
    | (with_reducible apply Touch.via State.setF_touch; · decide)
    | with_reducible apply Touch.ite
    | intro _ _ _
    | intro _
    | extract_lets
    | split
    | (dsimp +zetaDelta only; split)

theorem discAnswer_touch {b s} : Touch [.regs, .hst, .links, .dmk, .out] s (discAnswer b s) := by
  unfold discAnswer
  repeat first
    | with_reducible apply Touch.refl
    | with_reducible assumption
    | (with_reducible apply Touch.via originate_touch; · decide)
    | (with_reducible apply Touch.via State.setF_touch; · decide)
    | (with_reducible apply Touch.via State.flag_touch; · decide)
    | (with_reducible apply Touch.via State.withDmk_touch; · decide)
    | (with_reducible apply Touch.via State.post_touch; · decide)
    | with_reducible apply Touch.ite
    | intro _ _ _
    | intro _
    | extract_lets
    | split
    | (dsimp +zetaDelta only; split)

theorem assignAccept_touch {b s} : Touch [.regs, .hst, .links, .dmk, .out] s (assignAccept b s) := by
  unfold assignAccept
  repeat first
    | with_reducible apply Touch.refl
    | with_reducible assumption
    | (with_reducible apply Touch.via originate_touch; · decide)
    | (with_reducible apply Touch.via takeAddr_touch; · decide)
    | with_reducible apply Touch.ite
    | intro _ _ _
    | intro _
    | extract_lets
    | split
    | (dsimp +zetaDelta only; split)

theorem replaceTable_touch {ps s} : Touch [.tabs, .dmk] s (replaceTable ps s) := by
  unfold replaceTable
  repeat first
    | with_reducible apply Touch.refl
    | with_reducible assumption
    | (with_reducible apply Touch.via State.setTw_touch; · decide)
    | with_reducible apply State.each_touch
    | (with_reducible apply Touch.via State.withDmk_touch; · decide)
    | with_reducible apply Touch.ite
    | intro _ _ _
    | intro _
    | extract_lets
    | split
    | (dsimp +zetaDelta only; split)

theorem routePart_touch {b s} : Touch [.regs, .tabs, .hst, .links, .dmk, .out] s (routePart b s) := by
  unfold routePart
  repeat first
    | with_reducible apply Touch.refl
    | with_reducible assumption
    | (with_reducible apply Touch.via State.withDmk_touch; · decide)
    | (with_reducible apply Touch.via originate_touch; · decide)
    | (with_reducible apply Touch.via replaceTable_touch; · decide)
    | with_reducible apply Touch.ite
    | intro _ _ _
    | intro _
    | extract_lets
    | split
    | (dsimp +zetaDelta only; split)

theorem partsTimeout_touch {s} : Touch [.dmk] s (partsTimeout s) := by
  unfold partsTimeout
  repeat first
    | with_reducible apply Touch.refl
    | with_reducible assumption
    | (with_reducible apply Touch.via State.withDmk_touch; · decide)
    | with_reducible apply Touch.ite
    | intro _ _ _
    | intro _
    | extract_lets
    | split
    | (dsimp +zetaDelta only; split)

theorem discSend_touch {s} : Touch [.regs, .hst, .links, .dmk, .out] s (discSend s) := by
  unfold discSend
  repeat first
    | with_reducible apply Touch.refl
    | with_reducible assumption
    | (with_reducible apply Touch.via originate_touch; · decide)
    | (with_reducible apply Touch.via State.withDmk_touch; · decide)
    | with_reducible apply Touch.ite
    | intro _ _ _
    | intro _
    | extract_lets
    | split
    | (dsimp +zetaDelta only; split)

theorem discEnd_touch {d s} : Touch [.regs, .hst, .dmk] s (discEnd d s) := by
  unfold discEnd
  repeat first
    | with_reducible apply Touch.refl
    | with_reducible assumption
    | (with_reducible apply Touch.via State.withDmk_touch; · decide)
    | (with_reducible apply Touch.via State.setF_touch; · decide)
    | (with_reducible apply Touch.via State.post_touch; · decide)
    | with_reducible apply Touch.ite
    | intro _ _ _
    | intro _
    | extract_lets
    | split
    | (dsimp +zetaDelta only; split)

theorem discNext_touch {s} : Touch [.regs, .hst, .links, .dmk, .out] s (discNext s) := by
  unfold discNext
  repeat first
    | with_reducible apply Touch.refl
    | with_reducible assumption
    | (with_reducible apply Touch.via discSend_touch; · decide)
    | (with_reducible apply Touch.via originate_touch; · decide)
    | with_reducible apply State.each_touch
    | (with_reducible apply Touch.via State.withDmk_touch; · decide)
    | (with_reducible apply Touch.via discEnd_touch; · decide)
    | with_reducible apply Touch.ite
    | intro _ _ _
    | intro _
    | extract_lets
    | split
    | (dsimp +zetaDelta only; split)

theorem discAssign_touch {d s} : Touch [.regs, .tabs, .hst, .links, .dmk, .out] s (discAssign d s) := by
  unfold discAssign
  repeat first
    | with_reducible apply Touch.refl
    | with_reducible assumption
    | (with_reducible apply Touch.via State.withDmk_touch; · decide)
    | (with_reducible apply Touch.via discNext_touch; · decide)
    | (with_reducible apply Touch.via takeAddr_touch; · decide)
    | (with_reducible apply Touch.via replaceTable_touch; · decide)
    | with_reducible apply Touch.ite
    | intro _ _ _
    | intro _
    | extract_lets
    | split
    | (dsimp +zetaDelta only; split)

theorem discStep_touch {d s} : Touch [.regs, .tabs, .hst, .links, .dmk, .out] s (discStep d s) := by
  unfold discStep
  repeat first
    | with_reducible apply Touch.refl
    | with_reducible assumption
    | (with_reducible apply Touch.via discEnd_touch; · decide)
    | (with_reducible apply Touch.via State.withDmk_touch; · decide)
    | (with_reducible apply Touch.via discNext_touch; · decide)
    | (with_reducible apply Touch.via discAssign_touch; · decide)
    | with_reducible apply Touch.ite
    | intro _ _ _
    | intro _
    | extract_lets
    | split
    | (dsimp +zetaDelta only; split)

theorem ownAddr_touch {s} : Touch [.regs, .hst] s (ownAddr s) := by
  unfold ownAddr
  repeat first
    | with_reducible apply Touch.refl
    | with_reducible assumption
    | (with_reducible apply Touch.via takeAddr_touch; · decide)
    | with_reducible apply Touch.ite
    | intro _ _ _
    | intro _
    | extract_lets
    | split
    | (dsimp +zetaDelta only; split)

theorem discovery_touch {reported s} : Touch [.regs, .tabs, .hst, .links, .dmk, .out] s (discovery reported s) := by
  unfold discovery
  repeat first
    | with_reducible apply Touch.refl
    | with_reducible assumption
    | (with_reducible apply Touch.via discNext_touch; · decide)
    | (with_reducible apply Touch.via discAssign_touch; · decide)
    | (with_reducible apply Touch.via State.withDmk_touch; · decide)
    | (with_reducible apply Touch.via ownAddr_touch; · decide)
    | with_reducible apply Touch.ite
    | intro _ _ _
    | intro _
    | extract_lets
    | split
    | (dsimp +zetaDelta only; split)

theorem discReply_touch {b s} : Touch [.regs, .tabs, .hst, .links, .dmk, .out] s (discReply b s) := by
  unfold discReply
  repeat first
    | with_reducible apply Touch.refl
    | with_reducible assumption
    | (with_reducible apply Touch.via discStep_touch; · decide)
    | with_reducible apply Touch.ite
    | intro _ _ _
    | intro _
    | extract_lets
    | split
    | (dsimp +zetaDelta only; split)

theorem discAck_touch {kind b s} : Touch [.regs, .tabs, .hst, .links, .dmk, .out] s (discAck kind b s) := by
  unfold discAck
  repeat first
    | with_reducible apply Touch.refl
    | with_reducible assumption
    | (with_reducible apply Touch.via discStep_touch; · decide)
    | with_reducible apply Touch.ite
    | intro _ _ _
    | intro _
    | extract_lets
    | split
    | (dsimp +zetaDelta only; split)

theorem discRepeat_touch {s} : Touch [.regs, .tabs, .hst, .links, .dmk, .out] s (discRepeat s) := by
  unfold discRepeat
  repeat first
    | with_reducible apply Touch.refl
    | with_reducible assumption
    | (with_reducible apply Touch.via State.withDmk_touch; · decide)
    | (with_reducible apply Touch.via discSend_touch; · decide)
    | (with_reducible apply Touch.via discStep_touch; · decide)
    | with_reducible apply Touch.ite
    | intro _ _ _
    | intro _
    | extract_lets
    | split
    | (dsimp +zetaDelta only; split)

end Sys2Proof.Machine
end

