-- ==== Sys2Proof/Laws/TouchDmkSync.lean ====
section
/-! SUPPORT. The footprint of each operation of Machine/DmkSync.lean: the parts of the state it may change. -/

namespace Sys2Proof.Machine

theorem State.withSync_touch {s f} : Touch [.dmk] s (State.withSync s f) := by
  unfold State.withSync
  repeat first
    | with_reducible apply Touch.refl
    | with_reducible assumption
    | (with_reducible apply Touch.via State.withDmk_touch; · decide)
    | with_reducible apply Touch.ite
    | intro _ _ _
    | intro _
    | extract_lets
    | split
    | (dsimp +zetaDelta only; split)

theorem syncEnter_touch {st s} : Touch [.regs, .hst, .dmk] s (syncEnter st s) := by
  unfold syncEnter
  repeat first
    | with_reducible apply Touch.refl
    | with_reducible assumption
    | (with_reducible apply Touch.via State.post_touch; · decide)
    | (with_reducible apply Touch.via State.flagIf_touch; · decide)
    | (with_reducible apply Touch.via State.setF_touch; · decide)
    | (with_reducible apply Touch.via State.withSync_touch; · decide)
    | with_reducible apply Touch.ite
    | intro _ _ _
    | intro _
    | extract_lets
    | split
    | (dsimp +zetaDelta only; split)

theorem syncStart_touch {s} : Touch [.regs, .hst, .dmk] s (syncStart s) := by
  unfold syncStart
  repeat first
    | with_reducible apply Touch.refl
    | with_reducible assumption
    | (with_reducible apply Touch.via State.withSync_touch; · decide)
    | (with_reducible apply Touch.via syncEnter_touch; · decide)
    | with_reducible apply Touch.ite
    | intro _ _ _
    | intro _
    | extract_lets
    | split
    | (dsimp +zetaDelta only; split)

theorem syncFollow_touch {s} : Touch [.regs, .hst, .dmk] s (syncFollow s) := by
  unfold syncFollow
  repeat first
    | with_reducible apply Touch.refl
    | with_reducible assumption
    | (with_reducible apply Touch.via syncEnter_touch; · decide)
    | (with_reducible apply Touch.via syncStart_touch; · decide)
    | with_reducible apply Touch.ite
    | intro _ _ _
    | intro _
    | extract_lets
    | split
    | (dsimp +zetaDelta only; split)

theorem coldYield_touch {s} : Touch [.regs, .hst, .dmk] s (coldYield s) := by
  unfold coldYield
  repeat first
    | with_reducible apply Touch.refl
    | with_reducible assumption
    | (with_reducible apply Touch.via State.withSync_touch; · decide)
    | (with_reducible apply Touch.via syncEnter_touch; · decide)
    | with_reducible apply Touch.ite
    | intro _ _ _
    | intro _
    | extract_lets
    | split
    | (dsimp +zetaDelta only; split)

theorem timeTake_touch {src port hops raw rx ldly b s} : Touch [.regs, .hst, .dmk] s (timeTake src port hops raw rx ldly b s) := by
  unfold timeTake
  repeat first
    | with_reducible apply Touch.refl
    | with_reducible assumption
    | (with_reducible apply Touch.via syncEnter_touch; · decide)
    | (with_reducible apply Touch.via State.withSync_touch; · decide)
    | with_reducible apply Touch.ite
    | intro _ _ _
    | intro _
    | extract_lets
    | split
    | (dsimp +zetaDelta only; split)

theorem timeReceive_touch {src port hops raw rx ldly delayOk b s} : Touch [.regs, .hst, .dmk] s (timeReceive src port hops raw rx ldly delayOk b s) := by
  unfold timeReceive
  repeat first
    | with_reducible apply Touch.refl
    | with_reducible assumption
    | (with_reducible apply Touch.via timeTake_touch; · decide)
    | (with_reducible apply Touch.via coldYield_touch; · decide)
    | with_reducible apply Touch.ite
    | intro _ _ _
    | intro _
    | extract_lets
    | split
    | (dsimp +zetaDelta only; split)

theorem syncCorrect_touch {delta rho s} : Touch [.regs, .tbs, .hst, .dmk] s (syncCorrect delta rho s) := by
  unfold syncCorrect
  repeat first
    | with_reducible apply Touch.refl
    | with_reducible assumption
    | (with_reducible apply Touch.via armChange_touch; · decide)
    | (with_reducible apply Touch.via State.incF_touch; · decide)
    | (with_reducible apply Touch.via syncEnter_touch; · decide)
    | with_reducible apply Touch.ite
    | intro _ _ _
    | intro _
    | extract_lets
    | split
    | (dsimp +zetaDelta only; split)

theorem syncAdvance_touch {n delta s} : Touch [.regs, .hst, .dmk] s (syncAdvance n delta s) := by
  unfold syncAdvance
  repeat first
    | with_reducible apply Touch.refl
    | with_reducible assumption
    | (with_reducible apply Touch.via syncEnter_touch; · decide)
    | (with_reducible apply Touch.via State.withSync_touch; · decide)
    | with_reducible apply Touch.ite
    | intro _ _ _
    | intro _
    | extract_lets
    | split
    | (dsimp +zetaDelta only; split)

theorem roundClose_touch {s} : Touch [.regs, .tbs, .hst, .dmk] s (roundClose s) := by
  unfold roundClose
  repeat first
    | with_reducible apply Touch.refl
    | with_reducible assumption
    | (with_reducible apply Touch.via syncAdvance_touch; · decide)
    | (with_reducible apply Touch.via syncCorrect_touch; · decide)
    | (with_reducible apply Touch.via State.withSync_touch; · decide)
    | (with_reducible apply Touch.via State.setF_touch; · decide)
    | with_reducible apply Touch.ite
    | with_reducible apply foldl_touch
    | intro _ _ _
    | intro _
    | extract_lets
    | split
    | (dsimp +zetaDelta only; split)

theorem listenTimeout_touch {s} : Touch [.regs, .hst, .dmk] s (listenTimeout s) := by
  unfold listenTimeout
  repeat first
    | with_reducible apply Touch.refl
    | with_reducible assumption
    | (with_reducible apply Touch.via syncEnter_touch; · decide)
    | with_reducible apply Touch.ite
    | intro _ _ _
    | intro _
    | extract_lets
    | split
    | (dsimp +zetaDelta only; split)

theorem timeSend_touch {s} : Touch [.regs, .hst, .links, .dmk, .out] s (timeSend s) := by
  unfold timeSend
  repeat first
    | with_reducible apply Touch.refl
    | with_reducible assumption
    | (with_reducible apply Touch.via State.withSync_touch; · decide)
    | (with_reducible apply Touch.via originate_touch; · decide)
    | with_reducible apply Touch.ite
    | intro _ _ _
    | intro _
    | extract_lets
    | split
    | (dsimp +zetaDelta only; split)

theorem dmkCycleEnd_touch {s} : Touch [.regs, .hst, .dmk] s (dmkCycleEnd s) := by
  unfold dmkCycleEnd
  repeat first
    | with_reducible apply Touch.refl
    | with_reducible assumption
    | (with_reducible apply Touch.via syncEnter_touch; · decide)
    | with_reducible apply Touch.ite
    | intro _ _ _
    | intro _
    | extract_lets
    | split
    | (dsimp +zetaDelta only; split)

theorem modeSend_touch {dst body s} : Touch [.regs, .hst, .links, .dmk, .out] s (modeSend dst body s) := by
  unfold modeSend
  repeat first
    | with_reducible apply Touch.refl
    | with_reducible assumption
    | (with_reducible apply Touch.via State.withDmk_touch; · decide)
    | (with_reducible apply Touch.via originate_touch; · decide)
    | with_reducible apply Touch.ite
    | intro _ _ _
    | intro _
    | extract_lets
    | split
    | (dsimp +zetaDelta only; split)

theorem dmkT0_touch {s} : Touch [.regs, .hst, .links, .dmk, .out] s (dmkT0 s) := by
  unfold dmkT0
  repeat first
    | with_reducible apply Touch.refl
    | with_reducible assumption
    | (with_reducible apply Touch.via originate_touch; · decide)
    | with_reducible apply State.each_touch
    | (with_reducible apply Touch.via shapedNext_touch; · decide)
    | (with_reducible apply Touch.via State.withDmk_touch; · decide)
    | with_reducible apply Touch.ite
    | intro _ _ _
    | intro _
    | extract_lets
    | split
    | (dsimp +zetaDelta only; split)

theorem State.setAgree_touch {s a} : Touch [.regs, .dmk] s (State.setAgree s a) := by
  unfold State.setAgree
  repeat first
    | with_reducible apply Touch.refl
    | with_reducible assumption
    | (with_reducible apply Touch.via State.setF_touch; · decide)
    | (with_reducible apply Touch.via State.withDmk_touch; · decide)
    | with_reducible apply Touch.ite
    | intro _ _ _
    | intro _
    | extract_lets
    | split
    | (dsimp +zetaDelta only; split)

theorem switchCancel_touch {s} : Touch [.regs, .hst, .twl] s (switchCancel s) := by
  unfold switchCancel
  repeat first
    | with_reducible apply Touch.refl
    | with_reducible assumption
    | (with_reducible apply Touch.via State.flag_touch; · decide)
    | (with_reducible apply Touch.via State.post_touch; · decide)
    | (with_reducible apply Touch.via State.withTwl_touch; · decide)
    | with_reducible apply State.each_touch
    | (with_reducible apply Touch.via State.setF_touch; · decide)
    | with_reducible apply Touch.ite
    | intro _ _ _
    | intro _
    | extract_lets
    | split
    | (dsimp +zetaDelta only; split)

theorem agreeAbort_touch {a s} : Touch [.regs, .hst, .twl, .links, .dmk, .out] s (agreeAbort a s) := by
  unfold agreeAbort
  repeat first
    | with_reducible apply Touch.refl
    | with_reducible assumption
    | (with_reducible apply Touch.via modeSend_touch; · decide)
    | with_reducible apply State.each_touch
    | (with_reducible apply Touch.via State.completeHeld_touch; · decide)
    | (with_reducible apply Touch.via switchCancel_touch; · decide)
    | (with_reducible apply Touch.via State.setAgree_touch; · decide)
    | with_reducible apply Touch.ite
    | intro _ _ _
    | intro _
    | extract_lets
    | split
    | (dsimp +zetaDelta only; split)

theorem agreeJoin_touch {a s} : Touch [.regs, .twl, .dmk] s (agreeJoin a s) := by
  unfold agreeJoin
  repeat first
    | with_reducible apply Touch.refl
    | with_reducible assumption
    | (with_reducible apply Touch.via switchAnnounce_touch; · decide)
    | (with_reducible apply Touch.via State.setAgree_touch; · decide)
    | with_reducible apply Touch.ite
    | intro _ _ _
    | intro _
    | extract_lets
    | split
    | (dsimp +zetaDelta only; split)

theorem modePropose_touch {m ks s} : Touch [.regs, .hst, .twl, .links, .dmk, .out] s (modePropose m ks s) := by
  unfold modePropose
  repeat first
    | with_reducible apply Touch.refl
    | with_reducible assumption
    | (with_reducible apply Touch.via modeSend_touch; · decide)
    | with_reducible apply State.each_touch
    | (with_reducible apply Touch.via agreeJoin_touch; · decide)
    | (with_reducible apply Touch.via State.withDmk_touch; · decide)
    | (with_reducible apply Touch.via State.setAgree_touch; · decide)
    | with_reducible apply Touch.ite
    | intro _ _ _
    | intro _
    | extract_lets
    | split
    | (dsimp +zetaDelta only; split)

theorem modeVote_touch {a s} : Touch [.regs, .hst, .twl, .links, .dmk, .out] s (modeVote a s) := by
  unfold modeVote
  repeat first
    | with_reducible apply Touch.refl
    | with_reducible assumption
    | (with_reducible apply Touch.via modeSend_touch; · decide)
    | (with_reducible apply Touch.via agreeJoin_touch; · decide)
    | with_reducible apply Touch.ite
    | intro _ _ _
    | intro _
    | extract_lets
    | split
    | (dsimp +zetaDelta only; split)

theorem modeTake_touch {src b s} : Touch [.regs, .hst, .twl, .links, .dmk, .out] s (modeTake src b s) := by
  unfold modeTake
  repeat first
    | with_reducible apply Touch.refl
    | with_reducible assumption
    | (with_reducible apply Touch.via State.setAgree_touch; · decide)
    | (with_reducible apply Touch.via modeSend_touch; · decide)
    | (with_reducible apply Touch.via agreeAbort_touch; · decide)
    | (with_reducible apply Touch.via modeVote_touch; · decide)
    | (with_reducible apply Touch.via State.withDmk_touch; · decide)
    | with_reducible apply Touch.ite
    | intro _ _ _
    | intro _
    | extract_lets
    | split
    | (dsimp +zetaDelta only; split)

theorem agreeStep_touch {s} : Touch [.regs, .hst, .twl, .links, .dmk, .out] s (agreeStep s) := by
  unfold agreeStep
  repeat first
    | with_reducible apply Touch.refl
    | with_reducible assumption
    | (with_reducible apply Touch.via switchCancel_touch; · decide)
    | (with_reducible apply Touch.via switchApply_touch; · decide)
    | (with_reducible apply Touch.via State.withDmk_touch; · decide)
    | with_reducible apply State.each_touch
    | (with_reducible apply Touch.via State.completeHeld_touch; · decide)
    | (with_reducible apply Touch.via modeSend_touch; · decide)
    | (with_reducible apply Touch.via switchCheck_touch; · decide)
    | (with_reducible apply Touch.via State.setAgree_touch; · decide)
    | (with_reducible apply Touch.via agreeAbort_touch; · decide)
    | with_reducible apply Touch.ite
    | intro _ _ _
    | intro _
    | extract_lets
    | split
    | (dsimp +zetaDelta only; split)

theorem hdrDrop_touch {port s} : Touch [.regs] s (hdrDrop port s) := by
  unfold hdrDrop
  repeat first
    | with_reducible apply Touch.refl
    | with_reducible assumption
    | (with_reducible apply Touch.via State.incF_touch; · decide)
    | with_reducible apply Touch.ite
    | intro _ _ _
    | intro _
    | extract_lets
    | split
    | (dsimp +zetaDelta only; split)

theorem messageTo_touch {f data s} : Touch [.regs, .hst, .sep, .out] s (messageTo f data s) := by
  unfold messageTo
  repeat first
    | with_reducible apply Touch.refl
    | with_reducible assumption
    | (with_reducible apply Touch.via unclaimed_touch; · decide)
    | (with_reducible apply Touch.via damaskFrame_touch; · decide)
    | (with_reducible apply Touch.via hostReceive_touch; · decide)
    | with_reducible apply Touch.ite
    | intro _ _ _
    | intro _
    | extract_lets
    | split
    | (dsimp +zetaDelta only; split)

theorem poisoned_touch {port f s} : Touch [.regs, .hst, .dmk] s (poisoned port f s) := by
  unfold poisoned
  repeat first
    | with_reducible apply Touch.refl
    | with_reducible assumption
    | (with_reducible apply Touch.via State.flag_touch; · decide)
    | (with_reducible apply Touch.via State.post_touch; · decide)
    | (with_reducible apply Touch.via State.dropReasm_touch; · decide)
    | (with_reducible apply Touch.via State.withDmk_touch; · decide)
    | with_reducible apply Touch.ite
    | intro _ _ _
    | intro _
    | extract_lets
    | split
    | (dsimp +zetaDelta only; split)

theorem consume_touch {port raw f s} : Touch [.regs, .tabs, .hst, .sep, .twl, .links, .dmk, .out] s (consume port raw f s) := by
  unfold consume
  extract_lets s0 b
  have h : Touch [.regs, .tabs, .hst, .sep, .twl, .links, .dmk, .out] s s0 := .ite (fun _ => .via c0Receive_touch (by decide) .refl) fun _ => .refl
  refine .ite (fun _ => .via poisoned_touch (by decide) h) fun _ => ?_
  have hm : Touch [.regs, .tabs, .hst, .sep, .twl, .links, .dmk, .out] s (match reassemble f s0 with
      | (t, some data) => messageTo f data t
      | (t, none) => t) := by
    have hr : Touch [.regs, .tabs, .hst, .sep, .twl, .links, .dmk, .out] s (reassemble f s0).1 := .via reassemble_touch (by decide) h
    generalize reassemble f s0 = q at hr ⊢
    split
    · exact .via messageTo_touch (by decide) hr
    · exact hr
  split
  · exact hm
  · exact hm
  · exact .via timeReceive_touch (by decide) h
  · exact .ite (fun _ => .via discAnswer_touch (by decide) h) fun _ => .ite (fun _ => .via discReply_touch (by decide) h) fun _ => h
  · exact .ite (fun _ => h) fun _ => .ite (fun _ => .via assignAccept_touch (by decide) h) fun _ =>
      .ite (fun _ => .via discAck_touch (by decide) h) fun _ => h
  · exact .ite (fun _ => h) fun _ => .ite (fun _ => .ite (fun _ => .via routePart_touch (by decide) h) fun _ => h) fun _ =>
      .ite (fun _ => .via discAck_touch (by decide) h) fun _ => h
  · exact .via modeTake_touch (by decide) h
  · exact h

theorem countEcc_touch {port seq corr bad s} : Touch [.regs, .hst, .lnd] s (countEcc port seq corr bad s) := by
  unfold countEcc
  repeat first
    | with_reducible apply Touch.refl
    | with_reducible assumption
    | (with_reducible apply Touch.via State.incF_touch; · decide)
    | (with_reducible apply Touch.via eccRecord_touch; · decide)
    | with_reducible apply State.each_touch
    | with_reducible apply Touch.ite
    | intro _ _ _
    | intro _
    | extract_lets
    | split
    | (dsimp +zetaDelta only; split)

theorem damaskReceive_touch {port raw h1 sent flips residence s} : Touch [.regs, .tabs, .hst, .sep, .twl, .links, .dmk, .lnd, .out] s (damaskReceive port raw h1 sent flips residence s) := by
  unfold damaskReceive
  repeat first
    | with_reducible apply Touch.refl
    | with_reducible assumption
    | (with_reducible apply Touch.via consume_touch; · decide)
    | (with_reducible apply Touch.via enqueue_touch; · decide)
    | with_reducible apply State.each_touch
    | (with_reducible apply Touch.via State.withDmk_touch; · decide)
    | (with_reducible apply Touch.via State.setDport_touch; · decide)
    | (with_reducible apply Touch.via countEcc_touch; · decide)
    | (with_reducible apply Touch.via hdrDrop_touch; · decide)
    | with_reducible apply Touch.ite
    | intro _ _ _
    | intro _
    | extract_lets
    | split
    | (dsimp +zetaDelta only; split)

theorem linkPut_touch {p body s} : Touch [.regs, .links, .dmk, .out] s (linkPut p body s) := by
  unfold linkPut
  repeat first
    | with_reducible apply Touch.refl
    | with_reducible assumption
    | (with_reducible apply Touch.via State.setDport_touch; · decide)
    | (with_reducible apply Touch.via egressNext_touch; · decide)
    | with_reducible apply Touch.ite
    | intro _ _ _
    | intro _
    | extract_lets
    | split
    | (dsimp +zetaDelta only; split)

theorem linkSend_touch {p s} : Touch [.regs, .links, .dmk, .out] s (linkSend p s) := by
  unfold linkSend
  repeat first
    | with_reducible apply Touch.refl
    | with_reducible assumption
    | (with_reducible apply Touch.via linkPut_touch; · decide)
    | (with_reducible apply Touch.via State.setLink_touch; · decide)
    | with_reducible apply Touch.ite
    | intro _ _ _
    | intro _
    | extract_lets
    | split
    | (dsimp +zetaDelta only; split)

theorem linkReceive_touch {p raw b s} : Touch [.regs, .hst, .links, .dmk, .out] s (linkReceive p raw b s) := by
  unfold linkReceive
  repeat first
    | with_reducible apply Touch.refl
    | with_reducible assumption
    | (with_reducible apply Touch.via linkPut_touch; · decide)
    | (with_reducible apply Touch.via linkHeard_touch; · decide)
    | (with_reducible apply Touch.via portChanged_touch; · decide)
    | with_reducible apply Touch.ite
    | intro _ _ _
    | intro _
    | extract_lets
    | split
    | (dsimp +zetaDelta only; split)

theorem dmkCmdRun_touch {cmd b s} : Touch [.regs, .hst, .twl, .links, .dmk, .out] s (dmkCmdRun cmd b s) := by
  unfold dmkCmdRun
  repeat first
    | with_reducible apply Touch.refl
    | with_reducible assumption
    | (with_reducible apply Touch.via hostSend_touch; · decide)
    | (with_reducible apply Touch.via State.withDmk_touch; · decide)
    | (with_reducible apply Touch.via modePropose_touch; · decide)
    | with_reducible apply Touch.ite
    | intro _ _ _
    | intro _
    | extract_lets
    | split
    | (dsimp +zetaDelta only; split)

theorem dmkFollow_touch {base p v old s} : Touch [.regs, .hst, .links, .dmk] s (dmkFollow base p v old s) := by
  unfold dmkFollow
  repeat first
    | with_reducible apply Touch.refl
    | with_reducible assumption
    | (with_reducible apply Touch.via syncFollow_touch; · decide)
    | (with_reducible apply Touch.via State.withDmk_touch; · decide)
    | (with_reducible apply Touch.via State.setF_touch; · decide)
    | (with_reducible apply Touch.via linkEnter_touch; · decide)
    | (with_reducible apply Touch.via linkOpen_touch; · decide)
    | (with_reducible apply Touch.via portChanged_touch; · decide)
    | with_reducible apply Touch.ite
    | intro _ _ _
    | intro _
    | extract_lets
    | split
    | (dsimp +zetaDelta only; split)

end Sys2Proof.Machine
end

