-- ==== Sys2Proof/Laws/TouchFbk.lean ====
section
/-! SUPPORT. The footprint of each operation of Machine/Fbk.lean: the parts of the state it may change. -/

namespace Sys2Proof.Machine

theorem State.withFbk_touch {s f} : Touch [.fbk] s (State.withFbk s f) := by
  unfold State.withFbk
  repeat first
    | with_reducible apply Touch.refl
    | with_reducible assumption
    | with_reducible apply Touch.ite
    | (with_reducible apply Touch.fbk; · decide)
    | intro _ _ _
    | intro _
    | extract_lets
    | split
    | (dsimp +zetaDelta only; split)

theorem State.setChan_touch {s n c} : Touch [.fbk] s (State.setChan s n c) := by
  unfold State.setChan
  repeat first
    | with_reducible apply Touch.refl
    | with_reducible assumption
    | (with_reducible apply Touch.via State.withFbk_touch; · decide)
    | with_reducible apply Touch.ite
    | intro _ _ _
    | intro _
    | extract_lets
    | split
    | (dsimp +zetaDelta only; split)

theorem showLevels_touch {n p s} : Touch [.regs] s (showLevels n p s) := by
  unfold showLevels
  repeat first
    | with_reducible apply Touch.refl
    | with_reducible assumption
    | (with_reducible apply Touch.via State.setF_touch; · decide)
    | with_reducible apply Touch.ite
    | intro _ _ _
    | intro _
    | extract_lets
    | split
    | (dsimp +zetaDelta only; split)

theorem offerCount_touch {n time s} : Touch [.regs, .hst, .trj] s (offerCount n time s) := by
  unfold offerCount
  repeat first
    | with_reducible apply Touch.refl
    | with_reducible assumption
    | (with_reducible apply Touch.via cmpCompare_touch; · decide)
    | with_reducible apply State.each_touch
    | with_reducible apply Touch.ite
    | intro _ _ _
    | intro _
    | extract_lets
    | split
    | (dsimp +zetaDelta only; split)

theorem fbkSample_touch {s} : Touch [.regs, .hst, .trj] s (fbkSample s) := by
  unfold fbkSample
  repeat first
    | with_reducible apply Touch.refl
    | with_reducible assumption
    | (with_reducible apply Touch.via offerCount_touch; · decide)
    | with_reducible apply State.each_touch
    | with_reducible apply Touch.ite
    | intro _ _ _
    | intro _
    | extract_lets
    | split
    | (dsimp +zetaDelta only; split)

theorem countStep_touch {n d time s} : Touch [.fbk] s (countStep n d time s) := by
  unfold countStep
  repeat first
    | with_reducible apply Touch.refl
    | with_reducible assumption
    | (with_reducible apply Touch.via State.setChan_touch; · decide)
    | with_reducible apply Touch.ite
    | intro _ _ _
    | intro _
    | extract_lets
    | split
    | (dsimp +zetaDelta only; split)

theorem setFault_touch {n detail s} : Touch [.regs, .hst] s (setFault n detail s) := by
  unfold setFault
  repeat first
    | with_reducible apply Touch.refl
    | with_reducible assumption
    | (with_reducible apply Touch.via State.setF_touch; · decide)
    | (with_reducible apply Touch.via State.flag_touch; · decide)
    | (with_reducible apply Touch.via State.incF_touch; · decide)
    | (with_reducible apply Touch.via State.post_touch; · decide)
    | with_reducible apply Touch.ite
    | intro _ _ _
    | intro _
    | extract_lets
    | split
    | (dsimp +zetaDelta only; split)

theorem decodeError_touch {n kind s} : Touch [.regs, .hst, .fbk] s (decodeError n kind s) := by
  unfold decodeError
  repeat first
    | with_reducible apply Touch.refl
    | with_reducible assumption
    | (with_reducible apply Touch.via setFault_touch; · decide)
    | (with_reducible apply Touch.via State.post_touch; · decide)
    | (with_reducible apply Touch.via State.setChan_touch; · decide)
    | (with_reducible apply Touch.via State.setF_touch; · decide)
    | (with_reducible apply Touch.via State.flag_touch; · decide)
    | (with_reducible apply Touch.via State.incF_touch; · decide)
    | with_reducible apply Touch.ite
    | intro _ _ _
    | intro _
    | extract_lets
    | split
    | (dsimp +zetaDelta only; split)

theorem lossFollow_touch {n s} : Touch [.regs, .hst] s (lossFollow n s) := by
  unfold lossFollow
  repeat first
    | with_reducible apply Touch.refl
    | with_reducible assumption
    | (with_reducible apply Touch.via setFault_touch; · decide)
    | (with_reducible apply Touch.via State.setF_touch; · decide)
    | (with_reducible apply Touch.via State.flagIf_touch; · decide)
    | (with_reducible apply Touch.via State.post_touch; · decide)
    | with_reducible apply Touch.ite
    | intro _ _ _
    | intro _
    | extract_lets
    | split
    | (dsimp +zetaDelta only; split)

theorem lossChange_touch {n mask s} : Touch [.regs, .hst, .fbk] s (lossChange n mask s) := by
  unfold lossChange
  repeat first
    | with_reducible apply Touch.refl
    | with_reducible assumption
    | (with_reducible apply Touch.via State.setChan_touch; · decide)
    | (with_reducible apply Touch.via lossFollow_touch; · decide)
    | with_reducible apply Touch.ite
    | intro _ _ _
    | intro _
    | extract_lets
    | split
    | (dsimp +zetaDelta only; split)

theorem clearFault_touch {n s} : Touch [.regs, .fbk] s (clearFault n s) := by
  unfold clearFault
  repeat first
    | with_reducible apply Touch.refl
    | with_reducible assumption
    | (with_reducible apply Touch.via State.setF_touch; · decide)
    | (with_reducible apply Touch.via State.setChan_touch; · decide)
    | with_reducible apply Touch.ite
    | intro _ _ _
    | intro _
    | extract_lets
    | split
    | (dsimp +zetaDelta only; split)

theorem hallChange_touch {n was h1 time s} : Touch [.regs, .hst, .fbk] s (hallChange n was h1 time s) := by
  unfold hallChange
  repeat first
    | with_reducible apply Touch.refl
    | with_reducible assumption
    | (with_reducible apply Touch.via countStep_touch; · decide)
    | (with_reducible apply Touch.via State.setChan_touch; · decide)
    | (with_reducible apply Touch.via decodeError_touch; · decide)
    | with_reducible apply Touch.ite
    | intro _ _ _
    | intro _
    | extract_lets
    | split
    | (dsimp +zetaDelta only; split)

theorem quadChange_touch {n p q time s} : Touch [.regs, .hst, .fbk] s (quadChange n p q time s) := by
  unfold quadChange
  repeat first
    | with_reducible apply Touch.refl
    | with_reducible assumption
    | (with_reducible apply Touch.via countStep_touch; · decide)
    | (with_reducible apply Touch.via decodeError_touch; · decide)
    | with_reducible apply Touch.ite
    | intro _ _ _
    | intro _
    | extract_lets
    | split
    | (dsimp +zetaDelta only; split)

theorem indexEdge_touch {n p q time s} : Touch [.regs, .trj] s (indexEdge n p q time s) := by
  unfold indexEdge
  repeat first
    | with_reducible apply Touch.refl
    | with_reducible assumption
    | (with_reducible apply Touch.via State.incF_touch; · decide)
    | (with_reducible apply Touch.via homeIndex_touch; · decide)
    | (with_reducible apply Touch.via State.setS_touch; · decide)
    | (with_reducible apply Touch.via State.setF_touch; · decide)
    | (with_reducible apply Touch.via State.flag_touch; · decide)
    | with_reducible apply Touch.ite
    | intro _ _ _
    | intro _
    | extract_lets
    | split
    | (dsimp +zetaDelta only; split)

theorem feedbackChange_touch {n mask ta tb tz s} : Touch [.regs, .hst, .trj, .fbk] s (feedbackChange n mask ta tb tz s) := by
  unfold feedbackChange
  repeat first
    | with_reducible apply Touch.refl
    | with_reducible assumption
    | (with_reducible apply Touch.via hallChange_touch; · decide)
    | (with_reducible apply Touch.via offerCount_touch; · decide)
    | (with_reducible apply Touch.via quadChange_touch; · decide)
    | (with_reducible apply Touch.via indexEdge_touch; · decide)
    | (with_reducible apply Touch.via showLevels_touch; · decide)
    | (with_reducible apply Touch.via State.withFbk_touch; · decide)
    | with_reducible apply Touch.ite
    | intro _ _ _
    | intro _
    | extract_lets
    | split
    | (dsimp +zetaDelta only; split)

theorem putLatch_touch {n pos v tlat tedge valid still s} : Touch [.regs] s (putLatch n pos v tlat tedge valid still s) := by
  unfold putLatch
  repeat first
    | with_reducible apply Touch.refl
    | with_reducible assumption
    | (with_reducible apply Touch.via State.setS_touch; · decide)
    | (with_reducible apply Touch.via State.setF_touch; · decide)
    | with_reducible apply Touch.ite
    | intro _ _ _
    | intro _
    | extract_lets
    | split
    | (dsimp +zetaDelta only; split)

theorem chanLatch_touch {n tlat s} : Touch [.regs, .fbk] s (chanLatch n tlat s) := by
  unfold chanLatch
  repeat first
    | with_reducible apply Touch.refl
    | with_reducible assumption
    | (with_reducible apply Touch.via putLatch_touch; · decide)
    | (with_reducible apply Touch.via State.setChan_touch; · decide)
    | with_reducible apply Touch.ite
    | intro _ _ _
    | intro _
    | extract_lets
    | split
    | (dsimp +zetaDelta only; split)

theorem fbkSignal_touch {s} : Touch [.regs, .sch, .lnd] s (fbkSignal s) := by
  unfold fbkSignal
  repeat first
    | with_reducible apply Touch.refl
    | with_reducible assumption
    | (with_reducible apply Touch.via raiseSignals_touch; · decide)
    | with_reducible apply Touch.ite
    | intro _ _ _
    | intro _
    | extract_lets
    | split
    | (dsimp +zetaDelta only; split)

theorem sampleInputs_touch {s} : Touch [.regs, .hst, .trj] s (sampleInputs s) := by
  unfold sampleInputs
  repeat first
    | with_reducible apply Touch.refl
    | with_reducible assumption
    | (with_reducible apply Touch.via State.withTrj_touch; · decide)
    | (with_reducible apply Touch.via inputSample_touch; · decide)
    | with_reducible apply State.each_touch
    | with_reducible apply Touch.ite
    | intro _ _ _
    | intro _
    | extract_lets
    | split
    | (dsimp +zetaDelta only; split)

theorem fbkLatch_touch {s} : Touch [.regs, .sch, .fbk, .lnd] s (fbkLatch s) := by
  unfold fbkLatch
  repeat first
    | with_reducible apply Touch.refl
    | with_reducible assumption
    | (with_reducible apply Touch.via fbkSignal_touch; · decide)
    | (with_reducible apply Touch.via chanLatch_touch; · decide)
    | (with_reducible apply Touch.via State.withFbk_touch; · decide)
    | with_reducible apply State.each_touch
    | with_reducible apply Touch.ite
    | intro _ _ _
    | intro _
    | extract_lets
    | split
    | (dsimp +zetaDelta only; split)

theorem fbkWait_touch {s} : Touch [.fbk] s (fbkWait s) := by
  unfold fbkWait
  repeat first
    | with_reducible apply Touch.refl
    | with_reducible assumption
    | (with_reducible apply Touch.via State.withFbk_touch; · decide)
    | with_reducible apply Touch.ite
    | intro _ _ _
    | intro _
    | extract_lets
    | split
    | (dsimp +zetaDelta only; split)

theorem goodFrame_touch {n tlat v s} : Touch [.regs, .hst, .trj, .fbk] s (goodFrame n tlat v s) := by
  unfold goodFrame
  repeat first
    | with_reducible apply Touch.refl
    | with_reducible assumption
    | (with_reducible apply Touch.via offerCount_touch; · decide)
    | (with_reducible apply Touch.via State.setChan_touch; · decide)
    | (with_reducible apply Touch.via putLatch_touch; · decide)
    | (with_reducible apply Touch.via decodeError_touch; · decide)
    | with_reducible apply Touch.ite
    | intro _ _ _
    | intro _
    | extract_lets
    | split
    | (dsimp +zetaDelta only; split)

theorem ssiFrameDone_touch {n raw ready mono s} : Touch [.regs, .hst, .sch, .trj, .fbk, .lnd] s (ssiFrameDone n raw ready mono s) := by
  unfold ssiFrameDone
  repeat first
    | with_reducible apply Touch.refl
    | with_reducible assumption
    | (with_reducible apply Touch.via fbkSignal_touch; · decide)
    | (with_reducible apply Touch.via decodeError_touch; · decide)
    | (with_reducible apply Touch.via putLatch_touch; · decide)
    | (with_reducible apply Touch.via goodFrame_touch; · decide)
    | (with_reducible apply Touch.via State.setF_touch; · decide)
    | (with_reducible apply Touch.via State.setChan_touch; · decide)
    | with_reducible apply Touch.ite
    | intro _ _ _
    | intro _
    | extract_lets
    | split
    | (dsimp +zetaDelta only; split)

theorem fbkTell_touch {n s} : Touch [.saf] s (fbkTell n s) := by
  unfold fbkTell
  repeat first
    | with_reducible apply Touch.refl
    | with_reducible assumption
    | (with_reducible apply Touch.via State.withSaf_touch; · decide)
    | with_reducible apply Touch.ite
    | intro _ _ _
    | intro _
    | extract_lets
    | split
    | (dsimp +zetaDelta only; split)

theorem feltPairBad_touch {n s} : Touch [.regs, .hst, .trj, .saf, .lnd] s (feltPairBad n s) := by
  unfold feltPairBad
  repeat first
    | with_reducible apply Touch.refl
    | with_reducible assumption
    | (with_reducible apply Touch.via recordPairBad_touch; · decide)
    | with_reducible apply State.each_touch
    | with_reducible apply Touch.ite
    | intro _ _ _
    | intro _
    | extract_lets
    | split
    | (dsimp +zetaDelta only; split)

theorem feltLatch_touch {n lines frame s} : Touch [.regs, .hst, .trj, .saf, .fbk, .lnd] s (feltLatch n lines frame s) := by
  unfold feltLatch
  repeat first
    | with_reducible apply Touch.refl
    | with_reducible assumption
    | (with_reducible apply Touch.via State.setChan_touch; · decide)
    | (with_reducible apply Touch.via feltPairBad_touch; · decide)
    | with_reducible apply Touch.ite
    | with_reducible apply foldl_touch
    | intro _ _ _
    | intro _
    | extract_lets
    | split
    | (dsimp +zetaDelta only; split)

theorem feltAxis_touch {n a s} : Touch [.regs, .hst, .trj, .saf, .fbk] s (feltAxis n a s) := by
  unfold feltAxis
  repeat first
    | with_reducible apply Touch.refl
    | with_reducible assumption
    | (with_reducible apply Touch.via posCheck_touch; · decide)
    | (with_reducible apply Touch.via State.setChan_touch; · decide)
    | with_reducible apply Touch.ite
    | intro _ _ _
    | intro _
    | extract_lets
    | split
    | (dsimp +zetaDelta only; split)

theorem feltRecord_touch {s} : Touch [.regs, .hst, .trj, .saf, .fbk] s (feltRecord s) := by
  unfold feltRecord
  repeat first
    | with_reducible apply Touch.refl
    | with_reducible assumption
    | (with_reducible apply Touch.via feltAxis_touch; · decide)
    | with_reducible apply State.each_touch
    | with_reducible apply Touch.ite
    | intro _ _ _
    | intro _
    | extract_lets
    | split
    | (dsimp +zetaDelta only; split)

theorem fbkEnable_touch {n s} : Touch [.regs, .saf, .fbk] s (fbkEnable n s) := by
  unfold fbkEnable
  repeat first
    | with_reducible apply Touch.refl
    | with_reducible assumption
    | (with_reducible apply Touch.via State.setChan_touch; · decide)
    | (with_reducible apply Touch.via fbkTell_touch; · decide)
    | (with_reducible apply Touch.via State.setF_touch; · decide)
    | with_reducible apply Touch.ite
    | intro _ _ _
    | intro _
    | extract_lets
    | split
    | (dsimp +zetaDelta only; split)

theorem fbkStart_touch {n s} : Touch [.regs, .hst, .fbk] s (fbkStart n s) := by
  unfold fbkStart
  repeat first
    | with_reducible apply Touch.refl
    | with_reducible assumption
    | (with_reducible apply Touch.via hallChange_touch; · decide)
    | (with_reducible apply Touch.via showLevels_touch; · decide)
    | (with_reducible apply Touch.via State.setChan_touch; · decide)
    | with_reducible apply Touch.ite
    | intro _ _ _
    | intro _
    | extract_lets
    | split
    | (dsimp +zetaDelta only; split)

theorem fbkStarts_touch {s} : Touch [.regs, .hst, .fbk] s (fbkStarts s) := by
  unfold fbkStarts
  repeat first
    | with_reducible apply Touch.refl
    | with_reducible assumption
    | (with_reducible apply Touch.via fbkStart_touch; · decide)
    | with_reducible apply State.each_touch
    | with_reducible apply Touch.ite
    | intro _ _ _
    | intro _
    | extract_lets
    | split
    | (dsimp +zetaDelta only; split)

theorem fbkFollow_touch {base n v old s} : Touch [.regs, .hst, .saf, .fbk] s (fbkFollow base n v old s) := by
  unfold fbkFollow
  repeat first
    | with_reducible apply Touch.refl
    | with_reducible assumption
    | (with_reducible apply Touch.via lossFollow_touch; · decide)
    | (with_reducible apply Touch.via State.setF_touch; · decide)
    | (with_reducible apply Touch.via State.setChan_touch; · decide)
    | (with_reducible apply Touch.via fbkEnable_touch; · decide)
    | (with_reducible apply Touch.via clearFault_touch; · decide)
    | with_reducible apply Touch.ite
    | intro _ _ _
    | intro _
    | extract_lets
    | split
    | (dsimp +zetaDelta only; split)

end Sys2Proof.Machine
end

