-- ==== Sys2Proof/Laws/TouchLnd.lean ====
section
/-! SUPPORT. The footprint of each operation of Machine/Lnd.lean: the parts of the state it may change. -/

namespace Sys2Proof.Machine

theorem State.withLnd_touch {s f} : Touch [.lnd] s (State.withLnd s f) := by
  unfold State.withLnd
  repeat first
    | with_reducible apply Touch.refl
    | with_reducible assumption
    | with_reducible apply Touch.ite
    | (with_reducible apply Touch.lnd; · decide)
    | intro _ _ _
    | intro _
    | extract_lets
    | split
    | (dsimp +zetaDelta only; split)

theorem enterPst_touch {st s} : Touch [.regs, .hst] s (enterPst st s) := by
  unfold enterPst
  repeat first
    | with_reducible apply Touch.refl
    | with_reducible assumption
    | (with_reducible apply Touch.via State.post_touch; · decide)
    | (with_reducible apply Touch.via State.setF_touch; · decide)
    | with_reducible apply Touch.ite
    | intro _ _ _
    | intro _
    | extract_lets
    | split
    | (dsimp +zetaDelta only; split)

theorem lndSeq_touch {s} : Touch [.lnd] s (lndSeq s) := by
  unfold lndSeq
  repeat first
    | with_reducible apply Touch.refl
    | with_reducible assumption
    | (with_reducible apply Touch.via State.withLnd_touch; · decide)
    | with_reducible apply Touch.ite
    | intro _ _ _
    | intro _
    | extract_lets
    | split
    | (dsimp +zetaDelta only; split)

theorem lndSend_touch {kind cyc payload s} : Touch [.lnd, .out] s (lndSend kind cyc payload s) := by
  unfold lndSend
  repeat first
    | with_reducible apply Touch.refl
    | with_reducible assumption
    | (with_reducible apply Touch.via State.emit_touch; · decide)
    | (with_reducible apply Touch.via lndSeq_touch; · decide)
    | with_reducible apply State.each_touch
    | with_reducible apply Touch.ite
    | intro _ _ _
    | intro _
    | extract_lets
    | split
    | (dsimp +zetaDelta only; split)

theorem roleSend_touch {item ring cyc data s} : Touch [.lnd, .out] s (roleSend item ring cyc data s) := by
  unfold roleSend
  repeat first
    | with_reducible apply Touch.refl
    | with_reducible assumption
    | (with_reducible apply Touch.via lndSend_touch; · decide)
    | with_reducible apply Touch.ite
    | intro _ _ _
    | intro _
    | extract_lets
    | split
    | (dsimp +zetaDelta only; split)

theorem joinFail_touch {reason s} : Touch [.regs, .hst] s (joinFail reason s) := by
  unfold joinFail
  repeat first
    | with_reducible apply Touch.refl
    | with_reducible assumption
    | (with_reducible apply Touch.via State.post_touch; · decide)
    | (with_reducible apply Touch.via enterPst_touch; · decide)
    | (with_reducible apply Touch.via State.flag_touch; · decide)
    | (with_reducible apply Touch.via State.setF_touch; · decide)
    | with_reducible apply Touch.ite
    | intro _ _ _
    | intro _
    | extract_lets
    | split
    | (dsimp +zetaDelta only; split)

theorem joinStart_touch {s} : Touch [.regs, .hst, .lnd] s (joinStart s) := by
  unfold joinStart
  repeat first
    | with_reducible apply Touch.refl
    | with_reducible assumption
    | (with_reducible apply Touch.via joinFail_touch; · decide)
    | (with_reducible apply Touch.via enterPst_touch; · decide)
    | (with_reducible apply Touch.via State.withLnd_touch; · decide)
    | (with_reducible apply Touch.via State.setF_touch; · decide)
    | (with_reducible apply Touch.via State.wr_touch; · decide)
    | with_reducible apply Touch.ite
    | intro _ _ _
    | intro _
    | extract_lets
    | split
    | (dsimp +zetaDelta only; split)

theorem laneFollow_touch {s} : Touch [.regs, .hst, .lnd] s (laneFollow s) := by
  unfold laneFollow
  repeat first
    | with_reducible apply Touch.refl
    | with_reducible assumption
    | (with_reducible apply Touch.via lanesRefresh_touch; · decide)
    | (with_reducible apply Touch.via joinStart_touch; · decide)
    | with_reducible apply Touch.ite
    | intro _ _ _
    | intro _
    | extract_lets
    | split
    | (dsimp +zetaDelta only; split)

theorem installCtx_touch {n wake s} : Touch [.regs, .sch] s (installCtx n wake s) := by
  unfold installCtx
  repeat first
    | with_reducible apply Touch.refl
    | with_reducible assumption
    | (with_reducible apply Touch.via delayCtx_touch; · decide)
    | (with_reducible apply Touch.via State.setCtxSt_touch; · decide)
    | (with_reducible apply Touch.via makeReady_touch; · decide)
    | (with_reducible apply Touch.via unlist_touch; · decide)
    | (with_reducible apply Touch.via State.withSch_touch; · decide)
    | with_reducible apply Touch.ite
    | intro _ _ _
    | intro _
    | extract_lets
    | split
    | (dsimp +zetaDelta only; split)

theorem installSafety_touch {states s} : Touch [.regs, .hst, .trj, .saf] s (installSafety states s) := by
  unfold installSafety
  repeat first
    | with_reducible apply Touch.refl
    | with_reducible assumption
    | (with_reducible apply Touch.via enterGs_touch; · decide)
    | with_reducible apply State.each_touch
    | with_reducible apply Touch.ite
    | intro _ _ _
    | intro _
    | extract_lets
    | split
    | (dsimp +zetaDelta only; split)

theorem install_touch {m s} : Touch [.regs, .mem, .poison, .hst, .sch, .cen, .trj, .sep, .saf, .lnd] s (install m s) := by
  unfold install
  repeat first
    | with_reducible apply Touch.refl
    | with_reducible assumption
    | (with_reducible apply Touch.via installSafety_touch; · decide)
    | (with_reducible apply Touch.via installCtx_touch; · decide)
    | (with_reducible apply Touch.via State.withSep_touch; · decide)
    | (with_reducible apply Touch.via State.withTrj_touch; · decide)
    | (with_reducible apply Touch.via State.withCen_touch; · decide)
    | (with_reducible apply Touch.via State.withLnd_touch; · decide)
    | (with_reducible apply Touch.via State.wr_touch; · decide)
    | (with_reducible apply Touch.via State.writeWord_touch; · decide)
    | with_reducible apply Touch.ite
    | with_reducible apply foldl_touch
    | intro _ _ _
    | intro _
    | extract_lets
    | split
    | (dsimp +zetaDelta only; split)

theorem enterCopy_touch {s} : Touch [.regs, .hst, .lnd, .out] s (enterCopy s) := by
  unfold enterCopy
  repeat first
    | with_reducible apply Touch.refl
    | with_reducible assumption
    | with_reducible apply State.each_touch
    | (with_reducible apply Touch.via roleSend_touch; · decide)
    | (with_reducible apply Touch.via State.setF_touch; · decide)
    | (with_reducible apply Touch.via enterPst_touch; · decide)
    | (with_reducible apply Touch.via State.withLnd_touch; · decide)
    | with_reducible apply Touch.ite
    | intro _ _ _
    | intro _
    | extract_lets
    | split
    | (dsimp +zetaDelta only; split)

theorem joinPass_touch {partnerSync s} : Touch [.regs, .hst, .lnd, .out] s (joinPass partnerSync s) := by
  unfold joinPass
  repeat first
    | with_reducible apply Touch.refl
    | with_reducible assumption
    | (with_reducible apply Touch.via enterCopy_touch; · decide)
    | with_reducible apply Touch.ite
    | intro _ _ _
    | intro _
    | extract_lets
    | split
    | (dsimp +zetaDelta only; split)

theorem joinTimeout_touch {s} : Touch [.regs, .hst] s (joinTimeout s) := by
  unfold joinTimeout
  repeat first
    | with_reducible apply Touch.refl
    | with_reducible assumption
    | (with_reducible apply Touch.via joinFail_touch; · decide)
    | with_reducible apply Touch.ite
    | intro _ _ _
    | intro _
    | extract_lets
    | split
    | (dsimp +zetaDelta only; split)

theorem shadowCheck_touch {s} : Touch [.regs, .hst, .lnd] s (shadowCheck s) := by
  unfold shadowCheck
  repeat first
    | with_reducible apply Touch.refl
    | with_reducible assumption
    | (with_reducible apply Touch.via State.withLnd_touch; · decide)
    | (with_reducible apply Touch.via enterPst_touch; · decide)
    | with_reducible apply Touch.ite
    | intro _ _ _
    | intro _
    | extract_lets
    | split
    | (dsimp +zetaDelta only; split)

theorem copySend_touch {s} : Touch [.lnd, .out] s (copySend s) := by
  unfold copySend
  repeat first
    | with_reducible apply Touch.refl
    | with_reducible assumption
    | (with_reducible apply Touch.via State.withLnd_touch; · decide)
    | (with_reducible apply Touch.via State.emit_touch; · decide)
    | (with_reducible apply Touch.via lndSeq_touch; · decide)
    | with_reducible apply State.each_touch
    | with_reducible apply Touch.ite
    | intro _ _ _
    | intro _
    | extract_lets
    | split
    | (dsimp +zetaDelta only; split)

theorem mirSend_touch {part inst items s} : Touch [.lnd, .out] s (mirSend part inst items s) := by
  unfold mirSend
  repeat first
    | with_reducible apply Touch.refl
    | with_reducible assumption
    | (with_reducible apply Touch.via State.withLnd_touch; · decide)
    | (with_reducible apply Touch.via lndSend_touch; · decide)
    | with_reducible apply Touch.ite
    | intro _ _ _
    | intro _
    | extract_lets
    | split
    | (dsimp +zetaDelta only; split)

theorem mirPart_touch {due part inst items s} : Touch [.lnd, .out] s (mirPart due part inst items s) := by
  unfold mirPart
  repeat first
    | with_reducible apply Touch.refl
    | with_reducible assumption
    | (with_reducible apply Touch.via mirSend_touch; · decide)
    | with_reducible apply Touch.ite
    | intro _ _ _
    | intro _
    | extract_lets
    | split
    | (dsimp +zetaDelta only; split)

theorem mirrorPump_touch {s} : Touch [.lnd, .out] s (mirrorPump s) := by
  unfold mirrorPump
  repeat first
    | with_reducible apply Touch.refl
    | with_reducible assumption
    | with_reducible apply State.each_touch
    | (with_reducible apply Touch.via mirPart_touch; · decide)
    | with_reducible apply Touch.ite
    | intro _ _ _
    | intro _
    | extract_lets
    | split
    | (dsimp +zetaDelta only; split)

theorem takeDemands_touch {d s} : Touch [.regs, .hst, .trj, .saf, .lnd] s (takeDemands d s) := by
  unfold takeDemands
  repeat first
    | with_reducible apply Touch.refl
    | with_reducible assumption
    | (with_reducible apply Touch.via State.setCauses_touch; · decide)
    | (with_reducible apply Touch.via enterGs_touch; · decide)
    | with_reducible apply State.each_touch
    | (with_reducible apply Touch.via State.withLnd_touch; · decide)
    | with_reducible apply Touch.ite
    | intro _ _ _
    | intro _
    | extract_lets
    | split
    | (dsimp +zetaDelta only; split)

theorem mirInstall_touch {m s} : Touch [.regs, .hst, .cen, .trj, .sep, .saf, .adc, .twl, .lnd, .out] s (mirInstall m s) := by
  unfold mirInstall
  split
  · exact .ite (fun _ => .via takeSlice_touch (by decide) (.via State.setBr_touch (by decide) .refl)) fun _ => .refl
  · exact .via svcResponse_touch (by decide) .refl
  · exact .ite (fun _ => .refl) fun _ => .via putLatch_touch (by decide) .refl
  · exact .ite (fun _ => .refl) fun _ => .adc (by decide) .refl
  · exact .ite (fun _ => .refl) fun _ => .via State.withSep_touch (by decide) .refl
  · exact .via takeDemands_touch (by decide) .refl
  · exact .refl

theorem mirRaise_touch {s} : Touch [.regs, .sch] s (mirRaise s) := by
  unfold mirRaise
  repeat first
    | with_reducible apply Touch.refl
    | with_reducible assumption
    | (with_reducible apply Touch.via raiseNow_touch; · decide)
    | with_reducible apply Touch.ite
    | intro _ _ _
    | intro _
    | extract_lets
    | split
    | (dsimp +zetaDelta only; split)

theorem mirComplete_touch {s} : Touch [.regs, .hst, .sch, .cen, .trj, .sep, .saf, .adc, .twl, .lnd, .out] s (mirComplete s) := by
  unfold mirComplete
  repeat first
    | with_reducible apply Touch.refl
    | with_reducible assumption
    | (with_reducible apply Touch.via State.withLnd_touch; · decide)
    | (with_reducible apply Touch.via twlReplies_touch; · decide)
    | (with_reducible apply Touch.via mirRaise_touch; · decide)
    | (with_reducible apply Touch.via State.setF_touch; · decide)
    | (with_reducible apply Touch.via mirInstall_touch; · decide)
    | with_reducible apply State.each_touch
    | with_reducible apply Touch.ite
    | intro _ _ _
    | intro _
    | extract_lets
    | split
    | (dsimp +zetaDelta only; split)

theorem mirDeadline_touch {s} : Touch [.regs, .hst, .sch, .cen, .trj, .saf, .twl, .lnd, .out] s (mirDeadline s) := by
  unfold mirDeadline
  repeat first
    | with_reducible apply Touch.refl
    | with_reducible assumption
    | (with_reducible apply Touch.via State.withLnd_touch; · decide)
    | (with_reducible apply Touch.via twlReplies_touch; · decide)
    | (with_reducible apply Touch.via State.post_touch; · decide)
    | (with_reducible apply Touch.via mirRaise_touch; · decide)
    | (with_reducible apply Touch.via State.note_touch; · decide)
    | (with_reducible apply Touch.via State.setF_touch; · decide)
    | (with_reducible apply Touch.via State.flag_touch; · decide)
    | (with_reducible apply Touch.via State.incF_touch; · decide)
    | (with_reducible apply Touch.via copyTake_touch; · decide)
    | with_reducible apply State.each_touch
    | with_reducible apply Touch.ite
    | intro _ _ _
    | intro _
    | extract_lets
    | split
    | (dsimp +zetaDelta only; split)

theorem relaySent_touch {b type s} : Touch [.twl] s (relaySent b type s) := by
  unfold relaySent
  repeat first
    | with_reducible apply Touch.refl
    | with_reducible assumption
    | (with_reducible apply Touch.via State.setBr_touch; · decide)
    | with_reducible apply Touch.ite
    | intro _ _ _
    | intro _
    | extract_lets
    | split
    | (dsimp +zetaDelta only; split)

theorem streamTake_touch {p s} : Touch [.twl, .lnd, .out] s (streamTake p s) := by
  unfold streamTake
  repeat first
    | with_reducible apply Touch.refl
    | with_reducible assumption
    | (with_reducible apply Touch.via State.emit_touch; · decide)
    | (with_reducible apply Touch.via State.withLnd_touch; · decide)
    | (with_reducible apply Touch.via relaySent_touch; · decide)
    | with_reducible apply Touch.ite
    | intro _ _ _
    | intro _
    | extract_lets
    | split
    | (dsimp +zetaDelta only; split)

theorem streamSend_touch {b type s} : Touch [.lnd, .out] s (streamSend b type s) := by
  unfold streamSend
  repeat first
    | with_reducible apply Touch.refl
    | with_reducible assumption
    | (with_reducible apply Touch.via lndSend_touch; · decide)
    | with_reducible apply Touch.ite
    | intro _ _ _
    | intro _
    | extract_lets
    | split
    | (dsimp +zetaDelta only; split)

theorem pairSend_touch {b type s} : Touch [.regs, .hst, .twl, .lnd, .out] s (pairSend b type s) := by
  unfold pairSend
  repeat first
    | with_reducible apply Touch.refl
    | with_reducible assumption
    | (with_reducible apply Touch.via streamSend_touch; · decide)
    | (with_reducible apply Touch.via twlSend_touch; · decide)
    | with_reducible apply Touch.ite
    | intro _ _ _
    | intro _
    | extract_lets
    | split
    | (dsimp +zetaDelta only; split)

theorem streamTimeout_touch {b type s} : Touch [.regs, .hst, .twl, .lnd, .out] s (streamTimeout b type s) := by
  unfold streamTimeout
  repeat first
    | with_reducible apply Touch.refl
    | with_reducible assumption
    | (with_reducible apply Touch.via State.withLnd_touch; · decide)
    | (with_reducible apply Touch.via twlSend_touch; · decide)
    | with_reducible apply Touch.ite
    | intro _ _ _
    | intro _
    | extract_lets
    | split
    | (dsimp +zetaDelta only; split)

theorem commanderSeen_touch {b bytes s} : Touch [.lnd] s (commanderSeen b bytes s) := by
  unfold commanderSeen
  repeat first
    | with_reducible apply Touch.refl
    | with_reducible assumption
    | (with_reducible apply Touch.via State.withLnd_touch; · decide)
    | with_reducible apply Touch.ite
    | intro _ _ _
    | intro _
    | extract_lets
    | split
    | (dsimp +zetaDelta only; split)

theorem svcTell_touch {b port bytes was s} : Touch [.lnd, .out] s (svcTell b port bytes was s) := by
  unfold svcTell
  repeat first
    | with_reducible apply Touch.refl
    | with_reducible assumption
    | (with_reducible apply Touch.via lndSend_touch; · decide)
    | with_reducible apply Touch.ite
    | intro _ _ _
    | intro _
    | extract_lets
    | split
    | (dsimp +zetaDelta only; split)

theorem branchTell_touch {b before s} : Touch [.lnd, .out] s (branchTell b before s) := by
  unfold branchTell
  repeat first
    | with_reducible apply Touch.refl
    | with_reducible assumption
    | (with_reducible apply Touch.via roleSend_touch; · decide)
    | with_reducible apply Touch.ite
    | intro _ _ _
    | intro _
    | extract_lets
    | split
    | (dsimp +zetaDelta only; split)

theorem pairCopy_touch {b port raw all s} : Touch [.regs, .hst, .sch, .cen, .trj, .twl, .lnd, .out] s (pairCopy b port raw all s) := by
  unfold pairCopy
  repeat first
    | with_reducible apply Touch.refl
    | with_reducible assumption
    | (with_reducible apply Touch.via copyReceive_touch; · decide)
    | (with_reducible apply Touch.via svcTell_touch; · decide)
    | (with_reducible apply Touch.via outOfWindow_touch; · decide)
    | (with_reducible apply Touch.via State.withLnd_touch; · decide)
    | (with_reducible apply Touch.via portSeen_touch; · decide)
    | (with_reducible apply Touch.via lndSend_touch; · decide)
    | (with_reducible apply Touch.via commanderSeen_touch; · decide)
    | with_reducible apply Touch.ite
    | intro _ _ _
    | intro _
    | extract_lets
    | split
    | (dsimp +zetaDelta only; split)

theorem echoTake_touch {p s} : Touch [.regs, .hst, .sch, .cen, .trj, .twl, .lnd, .out] s (echoTake p s) := by
  unfold echoTake
  repeat first
    | with_reducible apply Touch.refl
    | with_reducible assumption
    | (with_reducible apply Touch.via copyTake_touch; · decide)
    | (with_reducible apply Touch.via outOfWindow_touch; · decide)
    | (with_reducible apply Touch.via syncTake_touch; · decide)
    | (with_reducible apply Touch.via portSeen_touch; · decide)
    | with_reducible apply Touch.ite
    | intro _ _ _
    | intro _
    | extract_lets
    | split
    | (dsimp +zetaDelta only; split)

theorem digestCompare_touch {k s} : Touch [.regs, .hst, .lnd, .out] s (digestCompare k s) := by
  unfold digestCompare
  repeat first
    | with_reducible apply Touch.refl
    | with_reducible assumption
    | (with_reducible apply Touch.via enterCopy_touch; · decide)
    | (with_reducible apply Touch.via State.flag_touch; · decide)
    | (with_reducible apply Touch.via State.incF_touch; · decide)
    | (with_reducible apply Touch.via State.post_touch; · decide)
    | (with_reducible apply Touch.via State.withLnd_touch; · decide)
    | (with_reducible apply Touch.via shadowCheck_touch; · decide)
    | with_reducible apply Touch.ite
    | intro _ _ _
    | intro _
    | extract_lets
    | split
    | (dsimp +zetaDelta only; split)

theorem digestSend_touch {s} : Touch [.regs, .hst, .lnd, .out] s (digestSend s) := by
  unfold digestSend
  repeat first
    | with_reducible apply Touch.refl
    | with_reducible assumption
    | (with_reducible apply Touch.via lndSend_touch; · decide)
    | (with_reducible apply Touch.via digestCompare_touch; · decide)
    | (with_reducible apply Touch.via State.withLnd_touch; · decide)
    | with_reducible apply Touch.ite
    | intro _ _ _
    | intro _
    | extract_lets
    | split
    | (dsimp +zetaDelta only; split)

theorem digestTimeout_touch {s} : Touch [.regs] s (digestTimeout s) := by
  unfold digestTimeout
  repeat first
    | with_reducible apply Touch.refl
    | with_reducible assumption
    | (with_reducible apply Touch.via State.flag_touch; · decide)
    | with_reducible apply Touch.ite
    | intro _ _ _
    | intro _
    | extract_lets
    | split
    | (dsimp +zetaDelta only; split)

theorem pairT0_touch {s} : Touch [.lnd, .out] s (pairT0 s) := by
  unfold pairT0
  repeat first
    | with_reducible apply Touch.refl
    | with_reducible assumption
    | (with_reducible apply Touch.via lndSend_touch; · decide)
    | (with_reducible apply Touch.via State.withLnd_touch; · decide)
    | with_reducible apply Touch.ite
    | intro _ _ _
    | intro _
    | extract_lets
    | split
    | (dsimp +zetaDelta only; split)

theorem hbTake_touch {b s} : Touch [.regs, .hst, .lnd, .out] s (hbTake b s) := by
  unfold hbTake
  repeat first
    | with_reducible apply Touch.refl
    | with_reducible assumption
    | (with_reducible apply Touch.via enterPst_touch; · decide)
    | (with_reducible apply Touch.via enterCopy_touch; · decide)
    | (with_reducible apply Touch.via State.withLnd_touch; · decide)
    | (with_reducible apply Touch.via State.setF_touch; · decide)
    | with_reducible apply Touch.ite
    | intro _ _ _
    | intro _
    | extract_lets
    | split
    | (dsimp +zetaDelta only; split)

theorem hbDeadline_touch {s} : Touch [.regs, .hst, .twl, .lnd, .out] s (hbDeadline s) := by
  unfold hbDeadline
  repeat first
    | with_reducible apply Touch.refl
    | with_reducible assumption
    | (with_reducible apply Touch.via State.flag_touch; · decide)
    | (with_reducible apply Touch.via State.withTwl_touch; · decide)
    | (with_reducible apply Touch.via enterCopy_touch; · decide)
    | (with_reducible apply Touch.via State.setF_touch; · decide)
    | (with_reducible apply Touch.via State.withLnd_touch; · decide)
    | with_reducible apply Touch.ite
    | intro _ _ _
    | intro _
    | extract_lets
    | split
    | (dsimp +zetaDelta only; split)

theorem pairTr_touch {s} : Touch [.lnd] s (pairTr s) := by
  unfold pairTr
  repeat first
    | with_reducible apply Touch.refl
    | with_reducible assumption
    | (with_reducible apply Touch.via State.withLnd_touch; · decide)
    | with_reducible apply Touch.ite
    | intro _ _ _
    | intro _
    | extract_lets
    | split
    | (dsimp +zetaDelta only; split)

theorem gatesShut_touch {s} : Touch [.twl] s (gatesShut s) := by
  unfold gatesShut
  repeat first
    | with_reducible apply Touch.refl
    | with_reducible assumption
    | (with_reducible apply Touch.via State.withTwl_touch; · decide)
    | with_reducible apply Touch.ite
    | intro _ _ _
    | intro _
    | extract_lets
    | split
    | (dsimp +zetaDelta only; split)

theorem takeRole_touch {role s} : Touch [.regs, .lnd] s (takeRole role s) := by
  unfold takeRole
  repeat first
    | with_reducible apply Touch.refl
    | with_reducible assumption
    | (with_reducible apply Touch.via State.setF_touch; · decide)
    | (with_reducible apply Touch.via State.withLnd_touch; · decide)
    | with_reducible apply Touch.ite
    | intro _ _ _
    | intro _
    | extract_lets
    | split
    | (dsimp +zetaDelta only; split)

theorem pairPlanTake_touch {s} : Touch [.regs, .hst, .trj, .saf, .twl, .lnd] s (pairPlanTake s) := by
  unfold pairPlanTake
  repeat first
    | with_reducible apply Touch.refl
    | with_reducible assumption
    | (with_reducible apply Touch.via requestStop_touch; · decide)
    | (with_reducible apply Touch.via takeRole_touch; · decide)
    | (with_reducible apply Touch.via gatesShut_touch; · decide)
    | (with_reducible apply Touch.via State.flag_touch; · decide)
    | (with_reducible apply Touch.via State.setF_touch; · decide)
    | (with_reducible apply Touch.via State.post_touch; · decide)
    | (with_reducible apply Touch.via enterPst_touch; · decide)
    | (with_reducible apply Touch.via State.withLnd_touch; · decide)
    | with_reducible apply Touch.ite
    | intro _ _ _
    | intro _
    | extract_lets
    | split
    | (dsimp +zetaDelta only; split)

theorem pairTc_touch {s} : Touch [.regs, .hst, .trj, .saf, .twl, .lnd, .out] s (pairTc s) := by
  unfold pairTc
  repeat first
    | with_reducible apply Touch.refl
    | with_reducible assumption
    | (with_reducible apply Touch.via pairPlanTake_touch; · decide)
    | (with_reducible apply Touch.via digestSend_touch; · decide)
    | (with_reducible apply Touch.via copySend_touch; · decide)
    | with_reducible apply Touch.ite
    | intro _ _ _
    | intro _
    | extract_lets
    | split
    | (dsimp +zetaDelta only; split)

theorem roleTake_touch {p s} : Touch [.regs, .tbs, .hst, .cen, .trj, .twl, .lnd] s (roleTake p s) := by
  unfold roleTake
  repeat first
    | with_reducible apply Touch.refl
    | with_reducible assumption
    | (with_reducible apply Touch.via State.withLnd_touch; · decide)
    | (with_reducible apply Touch.via enterBr_touch; · decide)
    | (with_reducible apply Touch.via State.setF_touch; · decide)
    | (with_reducible apply Touch.via startCycle_touch; · decide)
    | with_reducible apply Touch.ite
    | intro _ _ _
    | intro _
    | extract_lets
    | split
    | (dsimp +zetaDelta only; split)

theorem laneLink_touch {l raw b s} : Touch [.regs, .hst, .links, .lnd, .out] s (laneLink l raw b s) := by
  unfold laneLink
  repeat first
    | with_reducible apply Touch.refl
    | with_reducible assumption
    | (with_reducible apply Touch.via laneFollow_touch; · decide)
    | (with_reducible apply Touch.via lndSeq_touch; · decide)
    | (with_reducible apply Touch.via State.emit_touch; · decide)
    | (with_reducible apply Touch.via linkHeard_touch; · decide)
    | with_reducible apply Touch.ite
    | intro _ _ _
    | intro _
    | extract_lets
    | split
    | (dsimp +zetaDelta only; split)

theorem laneSend_touch {l s} : Touch [.links, .lnd, .out] s (laneSend l s) := by
  unfold laneSend
  repeat first
    | with_reducible apply Touch.refl
    | with_reducible assumption
    | (with_reducible apply Touch.via lndSeq_touch; · decide)
    | (with_reducible apply Touch.via State.emit_touch; · decide)
    | (with_reducible apply Touch.via State.setLink_touch; · decide)
    | (with_reducible apply Touch.via linkSent_touch; · decide)
    | with_reducible apply Touch.ite
    | intro _ _ _
    | intro _
    | extract_lets
    | split
    | (dsimp +zetaDelta only; split)

theorem laendTake_touch {l raw kind cyc p item s} : Touch [.regs, .mem, .poison, .tbs, .hst, .sch, .cen, .trj, .sep, .saf, .adc, .twl, .dmk, .lnd, .out] s (laendTake l raw kind cyc p item s) := by
  unfold laendTake
  repeat first
    | with_reducible apply Touch.refl
    | with_reducible assumption
    | (with_reducible apply Touch.via roleTake_touch; · decide)
    | (with_reducible apply Touch.via install_touch; · decide)
    | (with_reducible apply Touch.via shadowCheck_touch; · decide)
    | (with_reducible apply Touch.via digestCompare_touch; · decide)
    | (with_reducible apply Touch.via echoTake_touch; · decide)
    | (with_reducible apply Touch.via streamTake_touch; · decide)
    | (with_reducible apply Touch.via takeDemands_touch; · decide)
    | (with_reducible apply Touch.via State.withLnd_touch; · decide)
    | (with_reducible apply Touch.via mirComplete_touch; · decide)
    | (with_reducible apply Touch.via mirInstall_touch; · decide)
    | with_reducible apply State.each_touch
    | (with_reducible apply Touch.via timeReceive_touch; · decide)
    | (with_reducible apply Touch.via hbTake_touch; · decide)
    | with_reducible apply Touch.ite
    | intro _ _ _
    | intro _
    | extract_lets
    | split
    | (dsimp +zetaDelta only; split)

theorem laendReceive_touch {l raw h1 sent flips item s} : Touch [.regs, .mem, .poison, .tbs, .hst, .sch, .cen, .trj, .sep, .saf, .adc, .twl, .links, .dmk, .lnd, .out] s (laendReceive l raw h1 sent flips item s) := by
  unfold laendReceive
  repeat first
    | with_reducible apply Touch.refl
    | with_reducible assumption
    | (with_reducible apply Touch.via State.withLnd_touch; · decide)
    | (with_reducible apply Touch.via laendTake_touch; · decide)
    | (with_reducible apply Touch.via laneLink_touch; · decide)
    | (with_reducible apply Touch.via State.incF_touch; · decide)
    | (with_reducible apply Touch.via eccRecord_touch; · decide)
    | with_reducible apply State.each_touch
    | with_reducible apply Touch.ite
    | intro _ _ _
    | intro _
    | extract_lets
    | split
    | (dsimp +zetaDelta only; split)

theorem laendTime_touch {r1 s} : Touch [.lnd, .out] s (laendTime r1 s) := by
  unfold laendTime
  repeat first
    | with_reducible apply Touch.refl
    | with_reducible assumption
    | (with_reducible apply Touch.via State.emit_touch; · decide)
    | (with_reducible apply Touch.via lndSeq_touch; · decide)
    | with_reducible apply State.each_touch
    | with_reducible apply Touch.ite
    | intro _ _ _
    | intro _
    | extract_lets
    | split
    | (dsimp +zetaDelta only; split)

theorem timeFrames_touch {s} : Touch [.regs, .hst, .links, .dmk, .lnd, .out] s (timeFrames s) := by
  unfold timeFrames
  repeat first
    | with_reducible apply Touch.refl
    | with_reducible assumption
    | (with_reducible apply Touch.via laendTime_touch; · decide)
    | (with_reducible apply Touch.via timeSend_touch; · decide)
    | (with_reducible apply Touch.via State.withSync_touch; · decide)
    | with_reducible apply Touch.ite
    | intro _ _ _
    | intro _
    | extract_lets
    | split
    | (dsimp +zetaDelta only; split)

theorem selfTest_touch {part s} : Touch [.regs, .hst, .lnd] s (selfTest part s) := by
  unfold selfTest
  repeat first
    | with_reducible apply Touch.refl
    | with_reducible assumption
    | (with_reducible apply Touch.via State.note_touch; · decide)
    | (with_reducible apply Touch.via State.flag_touch; · decide)
    | (with_reducible apply Touch.via State.post_touch; · decide)
    | (with_reducible apply Touch.via State.withLnd_touch; · decide)
    | with_reducible apply Touch.ite
    | intro _ _ _
    | intro _
    | extract_lets
    | split
    | (dsimp +zetaDelta only; split)

theorem pairEnable_touch {s} : Touch [.regs, .hst, .links, .lnd] s (pairEnable s) := by
  unfold pairEnable
  repeat first
    | with_reducible apply Touch.refl
    | with_reducible assumption
    | (with_reducible apply Touch.via State.withLnd_touch; · decide)
    | (with_reducible apply Touch.via linkOpen_touch; · decide)
    | (with_reducible apply Touch.via laneFollow_touch; · decide)
    | with_reducible apply Touch.ite
    | intro _ _ _
    | intro _
    | extract_lets
    | split
    | (dsimp +zetaDelta only; split)

theorem pairDisable_touch {s} : Touch [.regs, .tbs, .hst, .trj, .saf, .twl, .links, .lnd] s (pairDisable s) := by
  unfold pairDisable
  repeat first
    | with_reducible apply Touch.refl
    | with_reducible assumption
    | (with_reducible apply Touch.via gatesShut_touch; · decide)
    | (with_reducible apply Touch.via State.withTbs_touch; · decide)
    | (with_reducible apply Touch.via enterGs_touch; · decide)
    | with_reducible apply State.each_touch
    | (with_reducible apply Touch.via State.withTwl_touch; · decide)
    | (with_reducible apply Touch.via enterPst_touch; · decide)
    | (with_reducible apply Touch.via State.withLnd_touch; · decide)
    | (with_reducible apply Touch.via State.setF_touch; · decide)
    | (with_reducible apply Touch.via linkEnter_touch; · decide)
    | with_reducible apply Touch.ite
    | intro _ _ _
    | intro _
    | extract_lets
    | split
    | (dsimp +zetaDelta only; split)

theorem pairCycleEnd_touch {s} : Touch [.twl, .lnd] s (pairCycleEnd s) := by
  unfold pairCycleEnd
  repeat first
    | with_reducible apply Touch.refl
    | with_reducible assumption
    | (with_reducible apply Touch.via State.withLnd_touch; · decide)
    | (with_reducible apply Touch.via State.withTwl_touch; · decide)
    | with_reducible apply Touch.ite
    | intro _ _ _
    | intro _
    | extract_lets
    | split
    | (dsimp +zetaDelta only; split)

theorem switchPlan_touch {s} : Touch [.lnd] s (switchPlan s) := by
  unfold switchPlan
  repeat first
    | with_reducible apply Touch.refl
    | with_reducible assumption
    | (with_reducible apply Touch.via State.withLnd_touch; · decide)
    | with_reducible apply Touch.ite
    | intro _ _ _
    | intro _
    | extract_lets
    | split
    | (dsimp +zetaDelta only; split)

end Sys2Proof.Machine
end

