-- ==== Sys2Proof/Laws/TouchAcq.lean ====
section
/-! SUPPORT. The footprint of each operation of Machine/Acq.lean: the parts of the state it may change. -/

namespace Sys2Proof.Machine

theorem State.withAcq_touch {s f} : Touch [.acq] s (State.withAcq s f) := by
  unfold State.withAcq
  repeat first
    | with_reducible apply Touch.refl
    | with_reducible assumption
    | with_reducible apply Touch.ite
    | (with_reducible apply Touch.acq; · decide)
    | intro _ _ _
    | intro _
    | extract_lets
    | split
    | (dsimp +zetaDelta only; split)

theorem State.setAu_touch {s u x} : Touch [.acq] s (State.setAu s u x) := by
  unfold State.setAu
  repeat first
    | with_reducible apply Touch.refl
    | with_reducible assumption
    | (with_reducible apply Touch.via State.withAcq_touch; · decide)
    | with_reducible apply Touch.ite
    | intro _ _ _
    | intro _
    | extract_lets
    | split
    | (dsimp +zetaDelta only; split)

theorem State.modAu_touch {s u f} : Touch [.acq] s (State.modAu s u f) := by
  unfold State.modAu
  repeat first
    | with_reducible apply Touch.refl
    | with_reducible assumption
    | (with_reducible apply Touch.via State.setAu_touch; · decide)
    | with_reducible apply Touch.ite
    | intro _ _ _
    | intro _
    | extract_lets
    | split
    | (dsimp +zetaDelta only; split)

theorem acqEvent_touch {sel s} : Touch [.acq] s (acqEvent sel s) := by
  unfold acqEvent
  repeat first
    | with_reducible apply Touch.refl
    | with_reducible assumption
    | (with_reducible apply Touch.via State.modAu_touch; · decide)
    | with_reducible apply State.each_touch
    | with_reducible apply Touch.ite
    | intro _ _ _
    | intro _
    | extract_lets
    | split
    | (dsimp +zetaDelta only; split)

theorem acqFires_touch {t0 s} : Touch [.trj, .acq] s (acqFires t0 s) := by
  unfold acqFires
  repeat first
    | with_reducible apply Touch.refl
    | with_reducible assumption
    | (with_reducible apply Touch.via acqEvent_touch; · decide)
    | with_reducible apply State.each_touch
    | (with_reducible apply Touch.via State.withTrj_touch; · decide)
    | with_reducible apply Touch.ite
    | intro _ _ _
    | intro _
    | extract_lets
    | split
    | (dsimp +zetaDelta only; split)

theorem pwmOffer_touch {s} : Touch [.regs, .pwm, .adc, .acq] s (pwmOffer s) := by
  unfold pwmOffer
  extract_lets s1
  have h : Touch [.regs, .pwm, .adc, .acq] s s1 := foldl_touch (.via adcRequests_touch (by decide) .refl) fun a t h => .via acqEvent_touch (by decide) h
  exact .pwm (by decide) h

theorem streamChunk_touch {u last ended s} : Touch [.regs, .acq, .out] s (streamChunk u last ended s) := by
  unfold streamChunk
  repeat first
    | with_reducible apply Touch.refl
    | with_reducible assumption
    | (with_reducible apply Touch.via State.setF_touch; · decide)
    | (with_reducible apply Touch.via State.flagIf_touch; · decide)
    | (with_reducible apply Touch.via State.setAu_touch; · decide)
    | (with_reducible apply Touch.via State.emit_touch; · decide)
    | with_reducible apply Touch.ite
    | intro _ _ _
    | intro _
    | extract_lets
    | split
    | (dsimp +zetaDelta only; split)

theorem streamRun_touch {u rest ended n s} : Touch [.regs, .acq, .out] s (streamRun u rest ended n s) := by
  induction n generalizing s with
  | zero => exact .refl
  | succ n ih =>
    unfold streamRun
    exact .ite (fun _ => .via streamChunk_touch (by decide) .refl) fun _ =>
      .ite (fun _ => ih.via (by decide) (.via streamChunk_touch (by decide) .refl)) fun _ => .refl

theorem stream_touch {u rest ended s} : Touch [.regs, .acq, .out] s (stream u rest ended s) := by
  unfold stream
  repeat first
    | with_reducible apply Touch.refl
    | with_reducible assumption
    | (with_reducible apply Touch.via streamRun_touch; · decide)
    | with_reducible apply Touch.ite
    | intro _ _ _
    | intro _
    | extract_lets
    | split
    | (dsimp +zetaDelta only; split)

theorem setASt_touch {u st s} : Touch [.regs] s (setASt u st s) := by
  unfold setASt
  repeat first
    | with_reducible apply Touch.refl
    | with_reducible assumption
    | (with_reducible apply Touch.via State.setF_touch; · decide)
    | with_reducible apply Touch.ite
    | intro _ _ _
    | intro _
    | extract_lets
    | split
    | (dsimp +zetaDelta only; split)

theorem acqClose_touch {u shed stopped s} : Touch [.regs, .mem, .poison, .hst, .acq, .out] s (acqClose u shed stopped s) := by
  unfold acqClose
  repeat first
    | with_reducible apply Touch.refl
    | with_reducible assumption
    | (with_reducible apply Touch.via State.post_touch; · decide)
    | (with_reducible apply Touch.via State.setF_touch; · decide)
    | (with_reducible apply Touch.via State.flag_touch; · decide)
    | (with_reducible apply Touch.via State.flagIf_touch; · decide)
    | (with_reducible apply Touch.via stream_touch; · decide)
    | (with_reducible apply Touch.via State.setS_touch; · decide)
    | with_reducible apply State.each_touch
    | (with_reducible apply Touch.via State.writeWords_touch; · decide)
    | (with_reducible apply Touch.via State.modAu_touch; · decide)
    | (with_reducible apply Touch.via setASt_touch; · decide)
    | with_reducible apply Touch.ite
    | intro _ _ _
    | intro _
    | extract_lets
    | split
    | (dsimp +zetaDelta only; split)

theorem acqShedEnd_touch {u s} : Touch [.regs, .mem, .poison, .hst, .acq, .out] s (acqShedEnd u s) := by
  unfold acqShedEnd
  repeat first
    | with_reducible apply Touch.refl
    | with_reducible assumption
    | (with_reducible apply Touch.via acqClose_touch; · decide)
    | (with_reducible apply Touch.via State.flag_touch; · decide)
    | (with_reducible apply Touch.via State.post_touch; · decide)
    | with_reducible apply Touch.ite
    | intro _ _ _
    | intro _
    | extract_lets
    | split
    | (dsimp +zetaDelta only; split)

theorem acqFill_touch {u s} : Touch [.regs, .acq] s (acqFill u s) := by
  unfold acqFill
  repeat first
    | with_reducible apply Touch.refl
    | with_reducible assumption
    | (with_reducible apply Touch.via setASt_touch; · decide)
    | (with_reducible apply Touch.via State.setF_touch; · decide)
    | (with_reducible apply Touch.via State.setAu_touch; · decide)
    | with_reducible apply Touch.ite
    | intro _ _ _
    | intro _
    | extract_lets
    | split
    | (dsimp +zetaDelta only; split)

theorem acqStart_touch {u s} : Touch [.regs, .acq] s (acqStart u s) := by
  unfold acqStart
  repeat first
    | with_reducible apply Touch.refl
    | with_reducible assumption
    | with_reducible apply State.each_touch
    | (with_reducible apply Touch.via acqFill_touch; · decide)
    | (with_reducible apply Touch.via State.setF_touch; · decide)
    | with_reducible apply Touch.ite
    | intro _ _ _
    | intro _
    | extract_lets
    | split
    | (dsimp +zetaDelta only; split)

theorem acqStop_touch {u s} : Touch [.regs, .mem, .poison, .hst, .acq, .out] s (acqStop u s) := by
  unfold acqStop
  repeat first
    | with_reducible apply Touch.refl
    | with_reducible assumption
    | (with_reducible apply Touch.via acqClose_touch; · decide)
    | (with_reducible apply Touch.via State.modAu_touch; · decide)
    | with_reducible apply Touch.ite
    | intro _ _ _
    | intro _
    | extract_lets
    | split
    | (dsimp +zetaDelta only; split)

theorem acqStops_touch {s} : Touch [.regs, .mem, .poison, .hst, .acq, .out] s (acqStops s) := by
  unfold acqStops
  repeat first
    | with_reducible apply Touch.refl
    | with_reducible assumption
    | (with_reducible apply Touch.via State.modAu_touch; · decide)
    | (with_reducible apply Touch.via acqClose_touch; · decide)
    | with_reducible apply State.each_touch
    | with_reducible apply Touch.ite
    | intro _ _ _
    | intro _
    | extract_lets
    | split
    | (dsimp +zetaDelta only; split)

theorem acqPast_touch {s} : Touch [.regs, .acq] s (acqPast s) := by
  unfold acqPast
  repeat first
    | with_reducible apply Touch.refl
    | with_reducible assumption
    | (with_reducible apply Touch.via setASt_touch; · decide)
    | (with_reducible apply Touch.via State.modAu_touch; · decide)
    | with_reducible apply State.each_touch
    | with_reducible apply Touch.ite
    | intro _ _ _
    | intro _
    | extract_lets
    | split
    | (dsimp +zetaDelta only; split)

theorem acqForce_touch {u s} : Touch [.regs, .acq] s (acqForce u s) := by
  unfold acqForce
  repeat first
    | with_reducible apply Touch.refl
    | with_reducible assumption
    | (with_reducible apply Touch.via State.flag_touch; · decide)
    | (with_reducible apply Touch.via State.modAu_touch; · decide)
    | with_reducible apply Touch.ite
    | intro _ _ _
    | intro _
    | extract_lets
    | split
    | (dsimp +zetaDelta only; split)

theorem acqArm_touch {u s} : Touch [.regs, .trj, .acq] s (acqArm u s) := by
  unfold acqArm
  repeat first
    | with_reducible apply Touch.refl
    | with_reducible assumption
    | (with_reducible apply Touch.via State.flag_touch; · decide)
    | (with_reducible apply Touch.via acqStart_touch; · decide)
    | (with_reducible apply Touch.via acqFires_touch; · decide)
    | with_reducible apply Touch.ite
    | intro _ _ _
    | intro _
    | extract_lets
    | split
    | (dsimp +zetaDelta only; split)

theorem sampleTake_touch {u edge full s} : Touch [.regs, .mem, .poison, .acq] s (sampleTake u edge full s).2 := by
  unfold sampleTake
  repeat first
    | with_reducible apply Touch.refl
    | with_reducible assumption
    | (with_reducible apply Touch.via State.setAu_touch; · decide)
    | (with_reducible apply Touch.via State.writeWords_touch; · decide)
    | (with_reducible apply Touch.via State.flag_touch; · decide)
    | (with_reducible apply Touch.via State.setF_touch; · decide)
    | (with_reducible apply Touch.via State.incF_touch; · decide)
    | (with_reducible apply Touch.via State.modAu_touch; · decide)
    | with_reducible apply Touch.ite
    | intro _ _ _
    | intro _
    | extract_lets
    | split
    | (dsimp +zetaDelta only; split)

theorem acqTrigger_touch {e s} : Touch [.regs, .acq] s (acqTrigger e s) := by
  unfold acqTrigger
  repeat first
    | with_reducible apply Touch.refl
    | with_reducible assumption
    | (with_reducible apply Touch.via State.setF_touch; · decide)
    | (with_reducible apply Touch.via State.setAu_touch; · decide)
    | (with_reducible apply Touch.via setASt_touch; · decide)
    | with_reducible apply Touch.ite
    | with_reducible apply foldl_touch
    | intro _ _ _
    | intro _
    | extract_lets
    | split
    | (dsimp +zetaDelta only; split)

theorem acqComplete_touch {u s} : Touch [.regs, .mem, .poison, .hst, .acq, .out] s (acqComplete u s) := by
  unfold acqComplete
  repeat first
    | with_reducible apply Touch.refl
    | with_reducible assumption
    | (with_reducible apply Touch.via acqFill_touch; · decide)
    | (with_reducible apply Touch.via acqClose_touch; · decide)
    | with_reducible apply Touch.ite
    | intro _ _ _
    | intro _
    | extract_lets
    | split
    | (dsimp +zetaDelta only; split)

theorem sampleLife_touch {e s} : Touch [.regs, .mem, .poison, .hst, .acq, .out] s (sampleLife e s) := by
  unfold sampleLife
  repeat first
    | with_reducible apply Touch.refl
    | with_reducible assumption
    | (with_reducible apply Touch.via setASt_touch; · decide)
    | (with_reducible apply Touch.via acqComplete_touch; · decide)
    | (with_reducible apply Touch.via State.setF_touch; · decide)
    | (with_reducible apply Touch.via State.modAu_touch; · decide)
    | (with_reducible apply Touch.via stream_touch; · decide)
    | (with_reducible apply Touch.via acqClose_touch; · decide)
    | (with_reducible apply Touch.via State.incF_touch; · decide)
    | with_reducible apply State.each_touch
    | (with_reducible apply Touch.via acqTrigger_touch; · decide)
    | (with_reducible apply Touch.via acqEvent_touch; · decide)
    | with_reducible apply Touch.ite
    | intro _ _ _
    | intro _
    | extract_lets
    | split
    | (dsimp +zetaDelta only; split)

theorem acqSample_touch {n full s0} : Touch [.regs, .mem, .poison, .hst, .trj, .acq, .out] s0 (acqSample n full s0) := by
  unfold acqSample
  extract_lets s edge units r es s1 trig s2
  have h : Touch [.regs, .mem, .poison, .hst, .trj, .acq, .out] s0 s := .via acqFires_touch (by decide) .refl
  have hr : Touch [.regs, .mem, .poison, .hst, .trj, .acq, .out] s0 r.2 := foldl_snd_touch h fun p u hp => .via sampleTake_touch (by decide) hp
  have h1 : Touch [.regs, .mem, .poison, .hst, .trj, .acq, .out] s0 s1 := State.each_touch hr fun e t ht => .via sampleLife_touch (by decide) ht
  have h2 : Touch [.regs, .mem, .poison, .hst, .trj, .acq, .out] s0 s2 := State.each_touch h1 fun e t ht => foldl_touch ht fun i v hv =>
    .ite (fun _ => .via State.modAu_touch (by decide) hv) fun _ => hv
  exact .via acqStops_touch (by decide)
    (.ite (fun _ => State.each_touch h2 fun u t ht => .via acqShedEnd_touch (by decide) ht) fun _ => h2)

theorem acqT0_touch {t0 s} : Touch [.hst, .trj, .acq] s (acqT0 t0 s) := by
  unfold acqT0
  repeat first
    | with_reducible apply Touch.refl
    | with_reducible assumption
    | (with_reducible apply Touch.via acqFires_touch; · decide)
    | (with_reducible apply Touch.via State.withAcq_touch; · decide)
    | (with_reducible apply Touch.via State.modAu_touch; · decide)
    | (with_reducible apply Touch.via State.post_touch; · decide)
    | with_reducible apply State.each_touch
    | with_reducible apply Touch.ite
    | intro _ _ _
    | intro _
    | extract_lets
    | split
    | (dsimp +zetaDelta only; split)

theorem acqCycleEnd_touch {s} : Touch [.regs, .mem, .poison, .hst, .acq, .out] s (acqCycleEnd s) := by
  unfold acqCycleEnd
  repeat first
    | with_reducible apply Touch.refl
    | with_reducible assumption
    | (with_reducible apply Touch.via acqClose_touch; · decide)
    | with_reducible apply State.each_touch
    | with_reducible apply Touch.ite
    | intro _ _ _
    | intro _
    | extract_lets
    | split
    | (dsimp +zetaDelta only; split)

theorem acqCmdRun_touch {cmd b s} : Touch [.regs, .mem, .poison, .hst, .trj, .acq, .out] s (acqCmdRun cmd b s) := by
  unfold acqCmdRun
  repeat first
    | with_reducible apply Touch.refl
    | with_reducible assumption
    | (with_reducible apply Touch.via acqForce_touch; · decide)
    | (with_reducible apply Touch.via acqStop_touch; · decide)
    | (with_reducible apply Touch.via acqStart_touch; · decide)
    | (with_reducible apply Touch.via acqFires_touch; · decide)
    | with_reducible apply State.each_touch
    | with_reducible apply Touch.ite
    | intro _ _ _
    | intro _
    | extract_lets
    | split
    | (dsimp +zetaDelta only; split)

theorem acqFollow_touch {base u v old s} : Touch [.regs] s (acqFollow base u v old s) := by
  unfold acqFollow
  repeat first
    | with_reducible apply Touch.refl
    | with_reducible assumption
    | (with_reducible apply Touch.via State.setF_touch; · decide)
    | with_reducible apply Touch.ite
    | intro _ _ _
    | intro _
    | extract_lets
    | split
    | (dsimp +zetaDelta only; split)

end Sys2Proof.Machine
end

