-- ==== Sys2Proof/Laws/TouchBoot.lean ====
section
/-! SUPPORT. The footprint of each operation of Machine/Boot.lean: the parts of the state it may change. -/

namespace Sys2Proof.Machine

theorem State.withBoot_touch {s f} : Touch [.boot] s (State.withBoot s f) := by
  unfold State.withBoot
  repeat first
    | with_reducible apply Touch.refl
    | with_reducible assumption
    | with_reducible apply Touch.ite
    | (with_reducible apply Touch.boot; · decide)
    | intro _ _ _
    | intro _
    | extract_lets
    | split
    | (dsimp +zetaDelta only; split)

theorem flashProgram_touch {ofs data s} : Touch [.boot] s (flashProgram ofs data s) := by
  unfold flashProgram
  repeat first
    | with_reducible apply Touch.refl
    | with_reducible assumption
    | (with_reducible apply Touch.via State.withBoot_touch; · decide)
    | with_reducible apply Touch.ite
    | intro _ _ _
    | intro _
    | extract_lets
    | split
    | (dsimp +zetaDelta only; split)

theorem setStage_touch {n s} : Touch [.regs] s (setStage n s) := by
  unfold setStage
  repeat first
    | with_reducible apply Touch.refl
    | with_reducible assumption
    | (with_reducible apply Touch.via State.setF_touch; · decide)
    | with_reducible apply Touch.ite
    | intro _ _ _
    | intro _
    | extract_lets
    | split
    | (dsimp +zetaDelta only; split)

theorem bootFail_touch {reason s} : Touch [.regs] s (bootFail reason s) := by
  unfold bootFail
  repeat first
    | with_reducible apply Touch.refl
    | with_reducible assumption
    | (with_reducible apply Touch.via setStage_touch; · decide)
    | (with_reducible apply Touch.via State.setF_touch; · decide)
    | with_reducible apply Touch.ite
    | intro _ _ _
    | intro _
    | extract_lets
    | split
    | (dsimp +zetaDelta only; split)

theorem bankFails_touch {reason s} : Touch [.regs, .boot] s (bankFails reason s) := by
  unfold bankFails
  repeat first
    | with_reducible apply Touch.refl
    | with_reducible assumption
    | (with_reducible apply Touch.via State.setF_touch; · decide)
    | (with_reducible apply Touch.via setStage_touch; · decide)
    | (with_reducible apply Touch.via State.withBoot_touch; · decide)
    | (with_reducible apply Touch.via bootFail_touch; · decide)
    | with_reducible apply Touch.ite
    | intro _ _ _
    | intro _
    | extract_lets
    | split
    | (dsimp +zetaDelta only; split)

theorem memClear_touch {s : State} : Touch [.mem, .poison] s { s with mem := [], poison := [] } :=
  ⟨rfl, fun h => ⟨rfl, h.2⟩, fun p hp => by cases p <;> first | rfl | exact absurd (by decide) hp⟩

theorem loadLibrary_touch {s} : Touch [.mem, .poison] s (loadLibrary s) := by
  unfold loadLibrary
  exact .ite (fun _ => .via State.writeWords_touch (by decide) memClear_touch) fun _ => memClear_touch

theorem loadBank_touch {s} : Touch [.regs, .mem, .poison, .boot] s (loadBank s) := by
  unfold loadBank
  repeat first
    | with_reducible apply Touch.refl
    | with_reducible assumption
    | (with_reducible apply Touch.via bankFails_touch; · decide)
    | (with_reducible apply Touch.via loadLibrary_touch; · decide)
    | (with_reducible apply Touch.via setStage_touch; · decide)
    | with_reducible apply Touch.ite
    | intro _ _ _
    | intro _
    | extract_lets
    | split
    | (dsimp +zetaDelta only; split)

theorem showFuses_touch {s} : Touch [.regs] s (showFuses s) := by
  unfold showFuses
  repeat first
    | with_reducible apply Touch.refl
    | with_reducible assumption
    | (with_reducible apply Touch.via State.setF_touch; · decide)
    | with_reducible apply Touch.ite
    | intro _ _ _
    | intro _
    | extract_lets
    | split
    | (dsimp +zetaDelta only; split)

theorem bootRomDone_touch {fusesOk flashOk vfuse s} : Touch [.regs, .mem, .poison] s (bootRomDone fusesOk flashOk vfuse s) := by
  unfold bootRomDone
  extract_lets src s1
  have h : Touch [.regs, .mem, .poison] s s1 := .via memClear_touch (by decide) (.via State.setF_touch (by decide) .refl)
  exact .ite (fun _ => .refl) fun _ => .ite (fun _ => .via bootFail_touch (by decide) h) fun _ =>
    .ite (fun _ => .via bootFail_touch (by decide) (.via showFuses_touch (by decide) h)) fun _ =>
      .via setStage_touch (by decide) (.via showFuses_touch (by decide) h)

theorem bootLoadDone_touch {s} : Touch [.regs, .mem, .poison, .boot] s (bootLoadDone s) := by
  unfold bootLoadDone
  repeat first
    | with_reducible apply Touch.refl
    | with_reducible assumption
    | (with_reducible apply Touch.via State.setF_touch; · decide)
    | (with_reducible apply Touch.via loadBank_touch; · decide)
    | with_reducible apply Touch.ite
    | intro _ _ _
    | intro _
    | extract_lets
    | split
    | (dsimp +zetaDelta only; split)

theorem bootVerifyDone_touch {s} : Touch [.regs, .boot] s (bootVerifyDone s) := by
  unfold bootVerifyDone
  repeat first
    | with_reducible apply Touch.refl
    | with_reducible assumption
    | (with_reducible apply Touch.via State.withBoot_touch; · decide)
    | (with_reducible apply Touch.via setStage_touch; · decide)
    | (with_reducible apply Touch.via State.setF_touch; · decide)
    | with_reducible apply State.each_touch
    | (with_reducible apply Touch.via bankFails_touch; · decide)
    | with_reducible apply Touch.ite
    | intro _ _ _
    | intro _
    | extract_lets
    | split
    | (dsimp +zetaDelta only; split)

theorem recordWrite_touch {s} : Touch [.boot] s (recordWrite s) := by
  unfold recordWrite
  repeat first
    | with_reducible apply Touch.refl
    | with_reducible assumption
    | (with_reducible apply Touch.via flashProgram_touch; · decide)
    | with_reducible apply Touch.ite
    | intro _ _ _
    | intro _
    | extract_lets
    | split
    | (dsimp +zetaDelta only; split)

theorem confirmedRecord_touch {s t1} : Touch [.boot] t1 (confirmedRecord s t1) := by
  unfold confirmedRecord
  repeat first
    | with_reducible apply Touch.refl
    | with_reducible assumption
    | (with_reducible apply Touch.via recordWrite_touch; · decide)
    | with_reducible apply Touch.ite
    | intro _ _ _
    | intro _
    | extract_lets
    | split
    | (dsimp +zetaDelta only; split)

theorem bootSafetyDone_touch {spOk feltOk s} : Touch [.regs, .boot] s (bootSafetyDone spOk feltOk s) := by
  unfold bootSafetyDone
  repeat first
    | with_reducible apply Touch.refl
    | with_reducible assumption
    | (with_reducible apply Touch.via setStage_touch; · decide)
    | (with_reducible apply Touch.via bootFail_touch; · decide)
    | (with_reducible apply Touch.via State.setF_touch; · decide)
    | (with_reducible apply Touch.via bankFails_touch; · decide)
    | with_reducible apply Touch.ite
    | intro _ _ _
    | intro _
    | extract_lets
    | split
    | (dsimp +zetaDelta only; split)

theorem booted_touch {s} : Touch [.regs, .hst] s (booted s) := by
  unfold booted
  repeat first
    | with_reducible apply Touch.refl
    | with_reducible assumption
    | (with_reducible apply Touch.via State.post_touch; · decide)
    | (with_reducible apply Touch.via State.setF_touch; · decide)
    | with_reducible apply Touch.ite
    | intro _ _ _
    | intro _
    | extract_lets
    | split
    | (dsimp +zetaDelta only; split)

theorem withFuses_touch {x n s} : Touch [.boot] s (withFuses x n s) := by
  unfold withFuses
  repeat first
    | with_reducible apply Touch.refl
    | with_reducible assumption
    | (with_reducible apply Touch.via State.withBoot_touch; · decide)
    | with_reducible apply Touch.ite
    | intro _ _ _
    | intro _
    | extract_lets
    | split
    | (dsimp +zetaDelta only; split)

theorem fuseBurnDone_touch {ok n s} : Touch [.regs, .hst, .boot] s (fuseBurnDone ok n s) := by
  unfold fuseBurnDone
  repeat first
    | with_reducible apply Touch.refl
    | with_reducible assumption
    | (with_reducible apply Touch.via State.post_touch; · decide)
    | (with_reducible apply Touch.via State.completeHeld_touch; · decide)
    | (with_reducible apply Touch.via withFuses_touch; · decide)
    | (with_reducible apply Touch.via showFuses_touch; · decide)
    | (with_reducible apply Touch.via State.withBoot_touch; · decide)
    | with_reducible apply Touch.ite
    | intro _ _ _
    | intro _
    | extract_lets
    | split
    | (dsimp +zetaDelta only; split)

theorem dieReset_touch {por causes left burned s} : Touch [.frc, .regs, .latch, .mem, .poison, .scrub, .tabs, .tbs, .hst, .sch, .cen, .dp, .trj, .sep, .saf, .fbk, .pwm, .adc, .twl, .links, .dmk, .lnd, .acq, .boot, .therm, .out, .freeCtr] s (dieReset por causes left burned s) := by
  unfold dieReset
  extract_lets src pw s1
  have h : Touch [.frc, .regs, .latch, .mem, .poison, .scrub, .tabs, .tbs, .hst, .sch, .cen, .dp, .trj, .sep, .saf, .fbk, .pwm, .adc, .twl, .links, .dmk, .lnd, .acq, .boot, .therm, .out, .freeCtr] s s1 := ⟨rfl, fun _ => ⟨rfl, rfl, rfl⟩, fun p hp => by cases p <;> first | rfl | exact absurd (by decide) hp⟩
  exact .ite (fun _ => h) fun _ => .via State.wr_touch (by decide) (.via State.wr_touch (by decide) h)

theorem deviceReset_touch {left burned s} : Touch [.frc, .regs, .latch, .mem, .poison, .scrub, .tabs, .tbs, .hst, .sch, .cen, .dp, .trj, .sep, .saf, .fbk, .pwm, .adc, .twl, .links, .dmk, .lnd, .acq, .boot, .therm, .out, .freeCtr] s (deviceReset left burned s) := by
  unfold deviceReset
  repeat first
    | with_reducible apply Touch.refl
    | with_reducible assumption
    | (with_reducible apply Touch.via dieReset_touch; · decide)
    | with_reducible apply Touch.ite
    | intro _ _ _
    | intro _
    | extract_lets
    | split
    | (dsimp +zetaDelta only; split)

theorem watchdogExpiry_touch {s} : Touch [.regs, .hst, .trj, .saf, .boot] s (watchdogExpiry s) := by
  unfold watchdogExpiry
  repeat first
    | with_reducible apply Touch.refl
    | with_reducible assumption
    | (with_reducible apply Touch.via State.setF_touch; · decide)
    | (with_reducible apply Touch.via State.withBoot_touch; · decide)
    | (with_reducible apply Touch.via requestStop_touch; · decide)
    | with_reducible apply Touch.ite
    | intro _ _ _
    | intro _
    | extract_lets
    | split
    | (dsimp +zetaDelta only; split)

theorem watchdogReset_touch {left burned s} : Touch [.frc, .regs, .latch, .mem, .poison, .scrub, .tabs, .tbs, .hst, .sch, .cen, .dp, .trj, .sep, .saf, .fbk, .pwm, .adc, .twl, .links, .dmk, .lnd, .acq, .boot, .therm, .out, .freeCtr] s (watchdogReset left burned s) := by
  unfold watchdogReset
  repeat first
    | with_reducible apply Touch.refl
    | with_reducible assumption
    | (with_reducible apply Touch.via dieReset_touch; · decide)
    | with_reducible apply Touch.ite
    | intro _ _ _
    | intro _
    | extract_lets
    | split
    | (dsimp +zetaDelta only; split)

theorem msixReset_touch {s} : Touch [.regs, .hst] s (msixReset s) := by
  unfold msixReset
  refine .via State.withHst_touch (by decide) (.via (V := [.regs]) ?_ (by decide) .refl)
  exact ⟨rfl, fun h => ⟨h.1, mapWf_filter regReset _ h.2.1, h.2.2⟩, fun p hp => by cases p <;> first | rfl | exact absurd (by decide) hp⟩

theorem linkReset_touch {perst left burned s} : Touch [.frc, .regs, .latch, .mem, .poison, .scrub, .tabs, .tbs, .hst, .sch, .cen, .dp, .trj, .sep, .saf, .fbk, .pwm, .adc, .twl, .links, .dmk, .lnd, .acq, .boot, .therm, .out, .freeCtr] s (linkReset perst left burned s) := by
  unfold linkReset
  repeat first
    | with_reducible apply Touch.refl
    | with_reducible assumption
    | (with_reducible apply Touch.via State.withHst_touch; · decide)
    | (with_reducible apply Touch.via State.setF_touch; · decide)
    | (with_reducible apply Touch.via msixReset_touch; · decide)
    | (with_reducible apply Touch.via State.flag_touch; · decide)
    | (with_reducible apply Touch.via dieReset_touch; · decide)
    | with_reducible apply Touch.ite
    | intro _ _ _
    | intro _
    | extract_lets
    | split
    | (dsimp +zetaDelta only; split)

theorem attestLatch_touch {s} : Touch [.boot] s (attestLatch s) := by
  unfold attestLatch
  repeat first
    | with_reducible apply Touch.refl
    | with_reducible assumption
    | (with_reducible apply Touch.via State.withBoot_touch; · decide)
    | with_reducible apply Touch.ite
    | intro _ _ _
    | intro _
    | extract_lets
    | split
    | (dsimp +zetaDelta only; split)

theorem attestDone_touch {s} : Touch [.hst, .boot, .out, .freeCtr] s (attestDone s) := by
  unfold attestDone
  repeat first
    | with_reducible apply Touch.refl
    | with_reducible assumption
    | (with_reducible apply Touch.via State.tick1_touch; · decide)
    | (with_reducible apply Touch.via State.withBoot_touch; · decide)
    | (with_reducible apply Touch.via State.emit_touch; · decide)
    | (with_reducible apply Touch.via State.completeHeld_touch; · decide)
    | with_reducible apply Touch.ite
    | intro _ _ _
    | intro _
    | extract_lets
    | split
    | (dsimp +zetaDelta only; split)

theorem flashWriteDone_touch {ok left s} : Touch [.hst, .boot] s (flashWriteDone ok left s) := by
  unfold flashWriteDone
  repeat first
    | with_reducible apply Touch.refl
    | with_reducible assumption
    | (with_reducible apply Touch.via flashProgram_touch; · decide)
    | (with_reducible apply Touch.via State.completeHeld_touch; · decide)
    | (with_reducible apply Touch.via State.withBoot_touch; · decide)
    | with_reducible apply Touch.ite
    | intro _ _ _
    | intro _
    | extract_lets
    | split
    | (dsimp +zetaDelta only; split)

theorem recoveryWrite_touch {s} : Touch [.regs, .boot] s (recoveryWrite s) := by
  unfold recoveryWrite
  repeat first
    | with_reducible apply Touch.refl
    | with_reducible assumption
    | (with_reducible apply Touch.via State.setF_touch; · decide)
    | (with_reducible apply Touch.via State.withBoot_touch; · decide)
    | with_reducible apply Touch.ite
    | intro _ _ _
    | intro _
    | extract_lets
    | split
    | (dsimp +zetaDelta only; split)

theorem recoveryWriteDone_touch {ok left s} : Touch [.regs, .boot] s (recoveryWriteDone ok left s) := by
  unfold recoveryWriteDone
  repeat first
    | with_reducible apply Touch.refl
    | with_reducible assumption
    | (with_reducible apply Touch.via flashProgram_touch; · decide)
    | (with_reducible apply Touch.via State.withBoot_touch; · decide)
    | (with_reducible apply Touch.via State.setF_touch; · decide)
    | with_reducible apply Touch.ite
    | intro _ _ _
    | intro _
    | extract_lets
    | split
    | (dsimp +zetaDelta only; split)

theorem bootCmdRun_touch {cmd b s} : Touch [.boot] s (bootCmdRun cmd b s) := by
  unfold bootCmdRun
  repeat first
    | with_reducible apply Touch.refl
    | with_reducible assumption
    | (with_reducible apply Touch.via State.withBoot_touch; · decide)
    | with_reducible apply Touch.ite
    | intro _ _ _
    | intro _
    | extract_lets
    | split
    | (dsimp +zetaDelta only; split)

theorem bootFollow_touch {base v s} : Touch [.regs, .boot] s (bootFollow base v s) := by
  unfold bootFollow
  repeat first
    | with_reducible apply Touch.refl
    | with_reducible assumption
    | (with_reducible apply Touch.via recoveryWrite_touch; · decide)
    | (with_reducible apply Touch.via State.withBoot_touch; · decide)
    | with_reducible apply Touch.ite
    | intro _ _ _
    | intro _
    | extract_lets
    | split
    | (dsimp +zetaDelta only; split)

end Sys2Proof.Machine
end

