-- ==== Sys2Proof/Laws/TouchDigest.lean ====
section
/-! SUPPORT. The footprint of each operation of Machine/Digest.lean: the parts of the state it may change. -/

namespace Sys2Proof.Machine

theorem digestTake_touch {s} : Touch [.regs] s (digestTake s) := by
  unfold digestTake
  repeat first
    | with_reducible apply Touch.refl
    | with_reducible assumption
    | (with_reducible apply Touch.via State.setF_touch; · decide)
    | with_reducible apply Touch.ite
    | intro _ _ _
    | intro _
    | extract_lets
    | split
    | (dsimp +zetaDelta only; split)

theorem thermFollow_touch {old s} : Touch [.regs, .hst, .trj, .saf, .links, .dmk, .lnd, .out] s (thermFollow old s) := by
  unfold thermFollow
  repeat first
    | with_reducible apply Touch.refl
    | with_reducible assumption
    | (with_reducible apply Touch.via releaseStop_touch; · decide)
    | (with_reducible apply Touch.via requestStop_touch; · decide)
    | (with_reducible apply Touch.via State.note_touch; · decide)
    | (with_reducible apply Touch.via egressNext_touch; · decide)
    | with_reducible apply State.each_touch
    | (with_reducible apply Touch.via State.setF_touch; · decide)
    | with_reducible apply Touch.ite
    | intro _ _ _
    | intro _
    | extract_lets
    | split
    | (dsimp +zetaDelta only; split)

theorem thermalSample_touch {readings s} : Touch [.regs, .hst, .trj, .saf, .links, .dmk, .lnd, .therm, .out] s (thermalSample readings s) := by
  unfold thermalSample
  repeat first
    | with_reducible apply Touch.refl
    | with_reducible assumption
    | (with_reducible apply Touch.via thermFollow_touch; · decide)
    | with_reducible apply Touch.ite
    | (with_reducible apply Touch.therm; · decide)
    | intro _ _ _
    | intro _
    | extract_lets
    | split
    | (dsimp +zetaDelta only; split)

end Sys2Proof.Machine
end

