-- ==== Sys2Proof/Laws/TouchBar.lean ====
section
/-! SUPPORT. The footprint of each operation of Machine/Bar.lean: the parts of the state it may change. -/

namespace Sys2Proof.Machine

theorem regRead_touch {off s} : Touch [.regs, .latch, .sch, .lnd] s (regRead off s).2 := by
  unfold regRead
  split
  · exact .refl
  · split
    · exact .refl
    · exact .ite (fun _ => .via resultRead_touch (by decide) (.latch (by decide) .refl)) fun _ => .latch (by decide) .refl

theorem ringEnable_touch {base n s} : Touch [.regs, .hst] s (ringEnable base n s) := by
  unfold ringEnable
  repeat first
    | with_reducible apply Touch.refl
    | with_reducible assumption
    | (with_reducible apply Touch.via State.setF_touch; · decide)
    | (with_reducible apply Touch.via State.wr_touch; · decide)
    | (with_reducible apply Touch.via State.withHst_touch; · decide)
    | with_reducible apply Touch.ite
    | intro _ _ _
    | intro _
    | extract_lets
    | split
    | (dsimp +zetaDelta only; split)

theorem ringDisable_touch {base n s} : Touch [.regs] s (ringDisable base n s) := by
  unfold ringDisable
  repeat first
    | with_reducible apply Touch.refl
    | with_reducible assumption
    | (with_reducible apply Touch.via State.setF_touch; · decide)
    | with_reducible apply Touch.ite
    | intro _ _ _
    | intro _
    | extract_lets
    | split
    | (dsimp +zetaDelta only; split)

theorem hstFollow_touch {base n v old s} : Touch [.regs, .hst] s (hstFollow base n v old s) := by
  unfold hstFollow
  repeat first
    | with_reducible apply Touch.refl
    | with_reducible assumption
    | (with_reducible apply Touch.via digestTake_touch; · decide)
    | (with_reducible apply Touch.via ringDisable_touch; · decide)
    | (with_reducible apply Touch.via ringEnable_touch; · decide)
    | with_reducible apply Touch.ite
    | intro _ _ _
    | intro _
    | extract_lets
    | split
    | (dsimp +zetaDelta only; split)

theorem blockFollow_touch {base i off v old s} : Touch [.regs, .tbs, .hst, .sch, .cen, .trj, .sep, .saf, .fbk, .pwm, .adc, .twl, .links, .dmk, .lnd, .acq, .boot] s (blockFollow base i off v old s) := by
  unfold blockFollow
  repeat first
    | with_reducible apply Touch.refl
    | with_reducible assumption
    | (with_reducible apply Touch.via bootFollow_touch; · decide)
    | (with_reducible apply Touch.via acqFollow_touch; · decide)
    | (with_reducible apply Touch.via pairDisable_touch; · decide)
    | (with_reducible apply Touch.via digestTake_touch; · decide)
    | (with_reducible apply Touch.via pairEnable_touch; · decide)
    | (with_reducible apply Touch.via dmkFollow_touch; · decide)
    | (with_reducible apply Touch.via twlFollow_touch; · decide)
    | (with_reducible apply Touch.via adcFollow_touch; · decide)
    | (with_reducible apply Touch.via pwmFollow_touch; · decide)
    | (with_reducible apply Touch.via pwmOffer_touch; · decide)
    | (with_reducible apply Touch.via fbkFollow_touch; · decide)
    | (with_reducible apply Touch.via sepFollow_touch; · decide)
    | (with_reducible apply Touch.via auxFollow_touch; · decide)
    | (with_reducible apply Touch.via axFollow_touch; · decide)
    | (with_reducible apply Touch.via refreshPower_touch; · decide)
    | (with_reducible apply Touch.via trjFollow_touch; · decide)
    | (with_reducible apply Touch.via cenFollow_touch; · decide)
    | (with_reducible apply Touch.via schFollow_touch; · decide)
    | (with_reducible apply Touch.via tbsFollow_touch; · decide)
    | (with_reducible apply Touch.via hstFollow_touch; · decide)
    | with_reducible apply Touch.ite
    | intro _ _ _
    | intro _
    | extract_lets
    | split
    | (dsimp +zetaDelta only; split)

theorem flagRelease_touch {base v s} : Touch [.saf] s (flagRelease base v s) := by
  unfold flagRelease
  repeat first
    | with_reducible apply Touch.refl
    | with_reducible assumption
    | with_reducible apply State.each_touch
    | (with_reducible apply Touch.via releaseStop_touch; · decide)
    | with_reducible apply Touch.ite
    | intro _ _ _
    | intro _
    | extract_lets
    | split
    | (dsimp +zetaDelta only; split)

theorem writeDo_touch {off v s} : Touch [.regs, .tbs, .hst, .sch, .cen, .trj, .sep, .saf, .fbk, .pwm, .adc, .twl, .links, .dmk, .lnd, .acq, .boot] s (writeDo off v s) := by
  unfold writeDo
  split
  · exact .refl
  rename_i d i x h
  extract_lets old t
  have ht : Touch [.regs, .tbs, .hst, .sch, .cen, .trj, .sep, .saf, .fbk, .pwm, .adc, .twl, .links, .dmk, .lnd, .acq, .boot] s t :=
    .via flagRelease_touch (by decide) (.via blockFollow_touch (by decide) (.via State.wr_touch (by decide) .refl))
  clear_value t
  exact .updBits (by decide) ht

theorem hostWrite_touch {off v s} : Touch [.regs, .tbs, .hst, .sch, .cen, .trj, .sep, .saf, .fbk, .pwm, .adc, .twl, .links, .dmk, .lnd, .acq, .boot] s (hostWrite off v s) := by
  unfold hostWrite
  repeat first
    | with_reducible apply Touch.refl
    | with_reducible assumption
    | (with_reducible apply Touch.via writeDo_touch; · decide)
    | (with_reducible apply Touch.via State.withHst_touch; · decide)
    | with_reducible apply Touch.ite
    | intro _ _ _
    | intro _
    | extract_lets
    | split
    | (dsimp +zetaDelta only; split)

theorem dropDescArm_touch {s} : Touch [.regs, .tbs, .hst] s (dropDescArm s) := by
  unfold dropDescArm
  repeat first
    | with_reducible apply Touch.refl
    | with_reducible assumption
    | (with_reducible apply Touch.via cancelChange_touch; · decide)
    | (with_reducible apply Touch.via State.withHst_touch; · decide)
    | with_reducible apply Touch.ite
    | intro _ _ _
    | intro _
    | extract_lets
    | split
    | (dsimp +zetaDelta only; split)

theorem barWrite_touch {off v full s} : Touch [.regs, .tbs, .hst, .sch, .cen, .trj, .sep, .saf, .fbk, .pwm, .adc, .twl, .links, .dmk, .lnd, .acq, .boot] s (barWrite off v full s) := by
  unfold barWrite
  repeat first
    | with_reducible apply Touch.refl
    | with_reducible assumption
    | (with_reducible apply Touch.via State.reject_touch; · decide)
    | (with_reducible apply Touch.via hostWrite_touch; · decide)
    | (with_reducible apply Touch.via State.withHst_touch; · decide)
    | (with_reducible apply Touch.via dropDescArm_touch; · decide)
    | with_reducible apply Touch.ite
    | intro _ _ _
    | intro _
    | extract_lets
    | split
    | (dsimp +zetaDelta only; split)

theorem itemWrite_touch {off v s} : Touch [.regs, .tbs, .hst, .sch, .cen, .trj, .sep, .saf, .fbk, .pwm, .adc, .twl, .links, .dmk, .lnd, .acq, .boot] s (itemWrite off v s) := by
  unfold itemWrite
  repeat first
    | with_reducible apply Touch.refl
    | with_reducible assumption
    | (with_reducible apply Touch.via hostWrite_touch; · decide)
    | (with_reducible apply Touch.via State.reject_touch; · decide)
    | (with_reducible apply Touch.via writeDo_touch; · decide)
    | with_reducible apply Touch.ite
    | with_reducible apply foldl_touch
    | intro _ _ _
    | intro _
    | extract_lets
    | split
    | (dsimp +zetaDelta only; split)

theorem putOffWrites_touch {s} : Touch [.regs, .tbs, .hst, .sch, .cen, .trj, .sep, .saf, .fbk, .pwm, .adc, .twl, .links, .dmk, .lnd, .acq, .boot] s (putOffWrites s) := by
  unfold putOffWrites
  extract_lets l
  exact foldl_touch (.via State.withHst_touch (by decide) (.updBits (by decide) .refl)) fun a t h => .via barWrite_touch (by decide) h

theorem fieldWrite_touch {f v i j s} : Touch [.regs, .tbs, .hst, .sch, .cen, .trj, .sep, .saf, .fbk, .pwm, .adc, .twl, .links, .dmk, .lnd, .acq, .boot] s (fieldWrite f v i j s) := by
  unfold fieldWrite
  repeat first
    | with_reducible apply Touch.refl
    | with_reducible assumption
    | (with_reducible apply Touch.via barWrite_touch; · decide)
    | with_reducible apply Touch.ite
    | intro _ _ _
    | intro _
    | extract_lets
    | split
    | (dsimp +zetaDelta only; split)

theorem barRead_touch {off size s} : Touch [.regs, .latch, .hst, .sch, .lnd, .out] s (barRead off size s) := by
  unfold barRead
  repeat first
    | with_reducible apply Touch.refl
    | with_reducible assumption
    | (with_reducible apply Touch.via State.reject_touch; · decide)
    | (with_reducible apply Touch.via State.emit_touch; · decide)
    | (with_reducible apply Touch.via regRead_touch; · decide)
    | with_reducible apply Touch.ite
    | intro _ _ _
    | intro _
    | extract_lets
    | split
    | (dsimp +zetaDelta only; split)

end Sys2Proof.Machine
end

