-- ==== Sys2Proof/Laws/TouchDesc.lean ====
section
/-! SUPPORT. The footprint of each operation of Machine/Desc.lean: the parts of the state it may change. -/

namespace Sys2Proof.Machine

theorem regWrites_touch {d l s} : Touch [.regs, .tbs, .hst, .sch, .cen, .trj, .sep, .saf, .fbk, .pwm, .adc, .twl, .links, .dmk, .lnd, .acq, .boot] s (regWrites d l s).2 := by
  induction l generalizing s with
  | nil => exact .refl
  | cons f l ih =>
    exact ih.via (by decide) (.ite (fun _ => .via itemWrite_touch (by decide) .refl) fun _ => .refl)

theorem schCmdRun_touch {cmd b s} : Touch [.regs, .sch] s (schCmdRun cmd b s) := by
  unfold schCmdRun
  repeat first
    | with_reducible apply Touch.refl
    | with_reducible assumption
    | (with_reducible apply Touch.via releaseMask_touch; · decide)
    | (with_reducible apply Touch.via State.setF_touch; · decide)
    | (with_reducible apply Touch.via disableCtx_touch; · decide)
    | with_reducible apply State.each_touch
    | (with_reducible apply Touch.via enableAll_touch; · decide)
    | with_reducible apply Touch.ite
    | intro _ _ _
    | intro _
    | extract_lets
    | split
    | (dsimp +zetaDelta only; split)

theorem cmdRun_touch {blk cmd b s} : Touch [.regs, .mem, .poison, .hst, .sch, .dp, .trj, .sep, .saf, .twl, .links, .dmk, .acq, .boot, .out] s (cmdRun blk cmd b s) := by
  unfold cmdRun
  repeat first
    | with_reducible apply Touch.refl
    | with_reducible assumption
    | (with_reducible apply Touch.via bootCmdRun_touch; · decide)
    | (with_reducible apply Touch.via acqCmdRun_touch; · decide)
    | (with_reducible apply Touch.via dmkCmdRun_touch; · decide)
    | (with_reducible apply Touch.via twlCmdRun_touch; · decide)
    | (with_reducible apply Touch.via safCmdRun_touch; · decide)
    | (with_reducible apply Touch.via sepCmdRun_touch; · decide)
    | (with_reducible apply Touch.via trjCmdRun_touch; · decide)
    | (with_reducible apply Touch.via cenCmdRun_touch; · decide)
    | (with_reducible apply Touch.via schCmdRun_touch; · decide)
    | with_reducible apply Touch.ite
    | intro _ _ _
    | intro _
    | extract_lets
    | split
    | (dsimp +zetaDelta only; split)

theorem putRec_touch {table rec n w s} : Touch [.tabs] s (putRec table rec n w s) := by
  unfold putRec
  repeat first
    | with_reducible apply Touch.refl
    | with_reducible assumption
    | (with_reducible apply Touch.via State.setTw_touch; · decide)
    | with_reducible apply State.each_touch
    | with_reducible apply Touch.ite
    | intro _ _ _
    | intro _
    | extract_lets
    | split
    | (dsimp +zetaDelta only; split)

theorem tableNew_touch {t1 d but s} : Touch [.tabs] s (tableNew t1 d but s) := by
  unfold tableNew
  repeat first
    | with_reducible apply Touch.refl
    | with_reducible assumption
    | (with_reducible apply Touch.via putRec_touch; · decide)
    | with_reducible apply State.each_touch
    | with_reducible apply Touch.ite
    | intro _ _ _
    | intro _
    | extract_lets
    | split
    | (dsimp +zetaDelta only; split)

theorem tableDo_touch {d s} : Touch [.regs, .tabs, .sep, .twl] s (tableDo d s) := by
  unfold tableDo
  repeat first
    | with_reducible apply Touch.refl
    | with_reducible assumption
    | (with_reducible apply Touch.via sepRecFollow_touch; · decide)
    | (with_reducible apply Touch.via axRecFollow_touch; · decide)
    | (with_reducible apply Touch.via twlRecFollow_touch; · decide)
    | with_reducible apply State.each_touch
    | (with_reducible apply Touch.via tableNew_touch; · decide)
    | with_reducible apply Touch.ite
    | intro _ _ _
    | intro _
    | extract_lets
    | split
    | (dsimp +zetaDelta only; split)

theorem tableSend_touch {d s} : Touch [.out] s (tableSend d s) := by
  unfold tableSend
  split
  · exact .refl
  · exact .out (by decide) .refl

theorem wordDo_touch {d s} : Touch [.mem, .poison] s (wordDo d s) := by
  unfold wordDo
  repeat first
    | with_reducible apply Touch.refl
    | with_reducible assumption
    | (with_reducible apply Touch.via State.writeWords_touch; · decide)
    | with_reducible apply Touch.ite
    | intro _ _ _
    | intro _
    | extract_lets
    | split
    | (dsimp +zetaDelta only; split)

theorem wordSend_touch {d s} : Touch [.out] s (wordSend d s) := by
  unfold wordSend
  repeat first
    | with_reducible apply Touch.refl
    | with_reducible assumption
    | with_reducible apply Touch.ite
    | (with_reducible apply Touch.out; · decide)
    | intro _ _ _
    | intro _
    | extract_lets
    | split
    | (dsimp +zetaDelta only; split)

theorem regReads_touch {d l s} : Touch [.regs, .latch, .sch, .lnd] s (regReads d l s).2 := by
  induction l generalizing s with
  | nil => exact .refl
  | cons f l ih => exact ih.via (by decide) (.via regRead_touch (by decide) .refl)

theorem hostStop_touch {groups kind s} : Touch [.regs, .hst, .trj, .saf] s (hostStop groups kind s) := by
  unfold hostStop
  repeat first
    | with_reducible apply Touch.refl
    | with_reducible assumption
    | (with_reducible apply Touch.via demandMask_touch; · decide)
    | with_reducible apply Touch.ite
    | intro _ _ _
    | intro _
    | extract_lets
    | split
    | (dsimp +zetaDelta only; split)

theorem clearMiss_touch {mask s} : Touch [.regs, .saf] s (clearMiss mask s) := by
  unfold clearMiss
  repeat first
    | with_reducible apply Touch.refl
    | with_reducible assumption
    | (with_reducible apply Touch.via State.setF_touch; · decide)
    | (with_reducible apply Touch.via releaseStop_touch; · decide)
    | with_reducible apply State.each_touch
    | with_reducible apply Touch.ite
    | intro _ _ _
    | intro _
    | extract_lets
    | split
    | (dsimp +zetaDelta only; split)

theorem effectRun_touch {d sq head s} : Touch [.regs, .latch, .mem, .poison, .tabs, .tbs, .hst, .sch, .cen, .dp, .trj, .sep, .saf, .fbk, .pwm, .adc, .twl, .links, .dmk, .lnd, .acq, .boot, .out] s (effectRun d sq head s) := by
  unfold effectRun
  repeat first
    | with_reducible apply Touch.refl
    | with_reducible assumption
    | (with_reducible apply Touch.via cmdRun_touch; · decide)
    | (with_reducible apply Touch.via pwmOffer_touch; · decide)
    | (with_reducible apply Touch.via clearMiss_touch; · decide)
    | (with_reducible apply Touch.via hostStop_touch; · decide)
    | (with_reducible apply Touch.via armChange_touch; · decide)
    | (with_reducible apply Touch.via cancelChange_touch; · decide)
    | (with_reducible apply Touch.via tableSend_touch; · decide)
    | (with_reducible apply Touch.via tableDo_touch; · decide)
    | (with_reducible apply Touch.via wordSend_touch; · decide)
    | (with_reducible apply Touch.via wordDo_touch; · decide)
    | (with_reducible apply Touch.via regReads_touch; · decide)
    | (with_reducible apply Touch.via regWrites_touch; · decide)
    | with_reducible apply Touch.ite
    | intro _ _ _
    | intro _
    | extract_lets
    | split
    | (dsimp +zetaDelta only; split)

theorem rejectedRun_touch {d s} : Touch [.regs] s (rejectedRun d s) := by
  unfold rejectedRun
  repeat first
    | with_reducible apply Touch.refl
    | with_reducible assumption
    | (with_reducible apply Touch.via sepCmdRejected_touch; · decide)
    | with_reducible apply Touch.ite
    | intro _ _ _
    | intro _
    | extract_lets
    | split
    | (dsimp +zetaDelta only; split)

theorem State.addComp_touch {s c} : Touch [.hst] s (State.addComp s c) := by
  unfold State.addComp
  repeat first
    | with_reducible apply Touch.refl
    | with_reducible assumption
    | (with_reducible apply Touch.via State.withHst_touch; · decide)
    | with_reducible apply Touch.ite
    | intro _ _ _
    | intro _
    | extract_lets
    | split
    | (dsimp +zetaDelta only; split)

theorem descTake_touch {q ns s} : Touch [.regs, .latch, .mem, .poison, .tabs, .tbs, .hst, .sch, .cen, .dp, .trj, .sep, .saf, .fbk, .pwm, .adc, .twl, .links, .dmk, .lnd, .acq, .boot, .out] s (descTake q ns s) := by
  unfold descTake
  repeat first
    | with_reducible apply Touch.refl
    | with_reducible assumption
    | (with_reducible apply Touch.via effectRun_touch; · decide)
    | (with_reducible apply Touch.via rejectedRun_touch; · decide)
    | (with_reducible apply Touch.via State.addComp_touch; · decide)
    | with_reducible apply Touch.ite
    | intro _ _ _
    | intro _
    | extract_lets
    | split
    | (dsimp +zetaDelta only; split)

theorem descNow_touch {sq d s} : Touch [.regs, .latch, .mem, .poison, .tabs, .tbs, .hst, .sch, .cen, .dp, .trj, .sep, .saf, .fbk, .pwm, .adc, .twl, .links, .dmk, .lnd, .acq, .boot, .out] s (descNow sq d s) := by
  unfold descNow
  repeat first
    | with_reducible apply Touch.refl
    | with_reducible assumption
    | (with_reducible apply Touch.via descTake_touch; · decide)
    | with_reducible apply Touch.ite
    | intro _ _ _
    | intro _
    | extract_lets
    | split
    | (dsimp +zetaDelta only; split)

theorem mirrorDesc_touch {q s} : Touch [.lnd, .out] s (mirrorDesc q s) := by
  unfold mirrorDesc
  repeat first
    | with_reducible apply Touch.refl
    | with_reducible assumption
    | (with_reducible apply Touch.via roleSend_touch; · decide)
    | with_reducible apply Touch.ite
    | intro _ _ _
    | intro _
    | extract_lets
    | split
    | (dsimp +zetaDelta only; split)

theorem validate_touch {sq head d s} : Touch [.regs, .tabs, .tbs, .hst, .sch, .cen, .trj, .sep, .saf, .fbk, .pwm, .adc, .twl, .links, .dmk, .lnd, .acq, .boot, .out] s (validate sq head d s) := by
  unfold validate
  repeat first
    | with_reducible apply Touch.refl
    | with_reducible assumption
    | (with_reducible apply Touch.via State.withHst_touch; · decide)
    | (with_reducible apply Touch.via mirrorDesc_touch; · decide)
    | with_reducible apply Touch.ite
    | intro _ _ _
    | intro _
    | extract_lets
    | split
    | (dsimp +zetaDelta only; split)

theorem descEffects_touch {ns s} : Touch [.regs, .latch, .mem, .poison, .tabs, .tbs, .hst, .sch, .cen, .dp, .trj, .sep, .saf, .fbk, .pwm, .adc, .twl, .links, .dmk, .lnd, .acq, .boot, .out] s (descEffects ns s) := by
  unfold descEffects
  repeat first
    | with_reducible apply Touch.refl
    | with_reducible assumption
    | (with_reducible apply Touch.via descTake_touch; · decide)
    | with_reducible apply State.each_touch
    | (with_reducible apply Touch.via State.withHst_touch; · decide)
    | with_reducible apply Touch.ite
    | intro _ _ _
    | intro _
    | extract_lets
    | split
    | (dsimp +zetaDelta only; split)

theorem timedStop_touch {s} : Touch [.hst] s (timedStop s) := by
  unfold timedStop
  repeat first
    | with_reducible apply Touch.refl
    | with_reducible assumption
    | (with_reducible apply Touch.via State.withHst_touch; · decide)
    | with_reducible apply Touch.ite
    | intro _ _ _
    | intro _
    | extract_lets
    | split
    | (dsimp +zetaDelta only; split)

theorem roleItems_touch {s} : Touch [.regs, .latch, .mem, .poison, .tabs, .tbs, .hst, .sch, .cen, .dp, .trj, .sep, .saf, .fbk, .pwm, .adc, .twl, .links, .dmk, .lnd, .acq, .boot, .out] s (roleItems s) := by
  unfold roleItems
  repeat first
    | with_reducible apply Touch.refl
    | with_reducible assumption
    | (with_reducible apply Touch.via enterBr_touch; · decide)
    | (with_reducible apply Touch.via hostStop_touch; · decide)
    | (with_reducible apply Touch.via effectRun_touch; · decide)
    | (with_reducible apply Touch.via rejectedRun_touch; · decide)
    | with_reducible apply State.each_touch
    | (with_reducible apply Touch.via State.withLnd_touch; · decide)
    | with_reducible apply Touch.ite
    | intro _ _ _
    | intro _
    | extract_lets
    | split
    | (dsimp +zetaDelta only; split)

theorem switchDue_touch {s} : Touch [.lnd] s (switchDue s) := by
  unfold switchDue
  repeat first
    | with_reducible apply Touch.refl
    | with_reducible assumption
    | (with_reducible apply Touch.via switchPlan_touch; · decide)
    | with_reducible apply Touch.ite
    | intro _ _ _
    | intro _
    | extract_lets
    | split
    | (dsimp +zetaDelta only; split)

end Sys2Proof.Machine
end

