-- ==== Sys2Proof/Laws/TouchHst.lean ====
section
/-! SUPPORT. The footprint of each operation of Machine/Hst.lean: the parts of the state it may change. -/

namespace Sys2Proof.Machine

theorem hostLost_touch {stale s} : Touch [.regs, .hst, .trj, .saf] s (hostLost stale s) := by
  unfold hostLost
  repeat first
    | with_reducible apply Touch.refl
    | with_reducible assumption
    | (with_reducible apply Touch.via requestStop_touch; · decide)
    | (with_reducible apply Touch.via State.setF_touch; · decide)
    | (with_reducible apply Touch.via State.flag_touch; · decide)
    | (with_reducible apply Touch.via State.postG_touch; · decide)
    | with_reducible apply Touch.ite
    | intro _ _ _
    | intro _
    | extract_lets
    | split
    | (dsimp +zetaDelta only; split)

theorem dbMissed_touch {s} : Touch [.regs, .hst, .trj, .saf] s (dbMissed s) := by
  unfold dbMissed
  repeat first
    | with_reducible apply Touch.refl
    | with_reducible assumption
    | (with_reducible apply Touch.via hostLost_touch; · decide)
    | (with_reducible apply Touch.via State.incF_touch; · decide)
    | (with_reducible apply Touch.via State.flag_touch; · decide)
    | (with_reducible apply Touch.via State.withHst_touch; · decide)
    | with_reducible apply Touch.ite
    | intro _ _ _
    | intro _
    | extract_lets
    | split
    | (dsimp +zetaDelta only; split)

theorem doorbellDeadline_touch {s} : Touch [.regs, .hst, .trj, .saf] s (doorbellDeadline s) := by
  unfold doorbellDeadline
  repeat first
    | with_reducible apply Touch.refl
    | with_reducible assumption
    | (with_reducible apply Touch.via dbMissed_touch; · decide)
    | with_reducible apply Touch.ite
    | intro _ _ _
    | intro _
    | extract_lets
    | split
    | (dsimp +zetaDelta only; split)

theorem doorbellRead_touch {t0 s} : Touch [.regs, .hst, .trj, .saf, .out] s (doorbellRead t0 s) := by
  unfold doorbellRead
  repeat first
    | with_reducible apply Touch.refl
    | with_reducible assumption
    | (with_reducible apply Touch.via State.emit_touch; · decide)
    | (with_reducible apply Touch.via State.withHst_touch; · decide)
    | (with_reducible apply Touch.via dbMissed_touch; · decide)
    | with_reducible apply Touch.ite
    | intro _ _ _
    | intro _
    | extract_lets
    | split
    | (dsimp +zetaDelta only; split)

theorem stopPair_touch {v c s} : Touch [.regs, .hst, .trj, .saf, .lnd, .out] s (stopPair v c s) := by
  unfold stopPair
  repeat first
    | with_reducible apply Touch.refl
    | with_reducible assumption
    | (with_reducible apply Touch.via hostStop_touch; · decide)
    | (with_reducible apply Touch.via roleSend_touch; · decide)
    | (with_reducible apply Touch.via State.fault_touch; · decide)
    | (with_reducible apply Touch.via demandMask_touch; · decide)
    | with_reducible apply Touch.ite
    | intro _ _ _
    | intro _
    | extract_lets
    | split
    | (dsimp +zetaDelta only; split)

theorem doorbellGood_touch {data s} : Touch [.regs, .hst, .trj, .saf, .lnd, .out] s (doorbellGood data s) := by
  unfold doorbellGood
  repeat first
    | with_reducible apply Touch.refl
    | with_reducible assumption
    | (with_reducible apply Touch.via State.emit_touch; · decide)
    | with_reducible apply State.each_touch
    | (with_reducible apply Touch.via stopPair_touch; · decide)
    | (with_reducible apply Touch.via hostLost_touch; · decide)
    | (with_reducible apply Touch.via State.withHst_touch; · decide)
    | (with_reducible apply Touch.via State.setF_touch; · decide)
    | with_reducible apply Touch.ite
    | intro _ _ _
    | intro _
    | extract_lets
    | split
    | (dsimp +zetaDelta only; split)

theorem doorbellCompletion_touch {good data s} : Touch [.regs, .hst, .trj, .saf, .lnd, .out] s (doorbellCompletion good data s) := by
  unfold doorbellCompletion
  repeat first
    | with_reducible apply Touch.refl
    | with_reducible assumption
    | (with_reducible apply Touch.via dbMissed_touch; · decide)
    | (with_reducible apply Touch.via doorbellGood_touch; · decide)
    | with_reducible apply Touch.ite
    | intro _ _ _
    | intro _
    | extract_lets
    | split
    | (dsimp +zetaDelta only; split)

theorem ringHalt_touch {kind n cause s} : Touch [.regs, .hst] s (ringHalt kind n cause s) := by
  unfold ringHalt
  repeat first
    | with_reducible apply Touch.refl
    | with_reducible assumption
    | (with_reducible apply Touch.via State.postG_touch; · decide)
    | (with_reducible apply Touch.via State.setF_touch; · decide)
    | with_reducible apply Touch.ite
    | intro _ _ _
    | intro _
    | extract_lets
    | split
    | (dsimp +zetaDelta only; split)

theorem ritEntry_touch {e v s} : Touch [.regs, .hst] s (ritEntry e v s) := by
  unfold ritEntry
  repeat first
    | with_reducible apply Touch.refl
    | with_reducible assumption
    | (with_reducible apply Touch.via State.withHst_touch; · decide)
    | (with_reducible apply Touch.via ringHalt_touch; · decide)
    | with_reducible apply Touch.ite
    | intro _ _ _
    | intro _
    | extract_lets
    | split
    | (dsimp +zetaDelta only; split)

theorem ritLine_touch {l good data s} : Touch [.regs, .hst] s (ritLine l good data s) := by
  unfold ritLine
  repeat first
    | with_reducible apply Touch.refl
    | with_reducible assumption
    | (with_reducible apply Touch.via ritEntry_touch; · decide)
    | with_reducible apply State.each_touch
    | (with_reducible apply Touch.via State.flag_touch; · decide)
    | with_reducible apply Touch.ite
    | intro _ _ _
    | intro _
    | extract_lets
    | split
    | (dsimp +zetaDelta only; split)

theorem descFetch_touch {q good d s} : Touch [.regs, .tabs, .tbs, .hst, .sch, .cen, .trj, .sep, .saf, .fbk, .pwm, .adc, .twl, .links, .dmk, .lnd, .acq, .boot, .out] s (descFetch q good d s) := by
  unfold descFetch
  repeat first
    | with_reducible apply Touch.refl
    | with_reducible assumption
    | (with_reducible apply Touch.via validate_touch; · decide)
    | (with_reducible apply Touch.via State.setF_touch; · decide)
    | (with_reducible apply Touch.via ringHalt_touch; · decide)
    | (with_reducible apply Touch.via State.withHst_touch; · decide)
    | (with_reducible apply Touch.via State.emit_touch; · decide)
    | with_reducible apply Touch.ite
    | intro _ _ _
    | intro _
    | extract_lets
    | split
    | (dsimp +zetaDelta only; split)

theorem fenceRelease_touch {q s} : Touch [.regs, .tabs, .tbs, .hst, .sch, .cen, .trj, .sep, .saf, .fbk, .pwm, .adc, .twl, .links, .dmk, .lnd, .acq, .boot, .out] s (fenceRelease q s) := by
  unfold fenceRelease
  repeat first
    | with_reducible apply Touch.refl
    | with_reducible assumption
    | (with_reducible apply Touch.via State.withHst_touch; · decide)
    | (with_reducible apply Touch.via validate_touch; · decide)
    | with_reducible apply Touch.ite
    | intro _ _ _
    | intro _
    | extract_lets
    | split
    | (dsimp +zetaDelta only; split)

theorem compWrite_touch {c s} : Touch [.regs, .hst, .out] s (compWrite c s) := by
  unfold compWrite
  repeat first
    | with_reducible apply Touch.refl
    | with_reducible assumption
    | (with_reducible apply Touch.via State.vecDue_touch; · decide)
    | (with_reducible apply Touch.via State.setF_touch; · decide)
    | (with_reducible apply Touch.via State.emit_touch; · decide)
    | with_reducible apply Touch.ite
    | intro _ _ _
    | intro _
    | extract_lets
    | split
    | (dsimp +zetaDelta only; split)

theorem completionWrite_touch {s} : Touch [.regs, .hst, .out] s (completionWrite s) := by
  unfold completionWrite
  repeat first
    | with_reducible apply Touch.refl
    | with_reducible assumption
    | (with_reducible apply Touch.via State.withHst_touch; · decide)
    | (with_reducible apply Touch.via compWrite_touch; · decide)
    | with_reducible apply Touch.ite
    | intro _ _ _
    | intro _
    | extract_lets
    | split
    | (dsimp +zetaDelta only; split)

theorem overflowEvent_touch {n s} : Touch [.hst] s (overflowEvent n s) := by
  unfold overflowEvent
  repeat first
    | with_reducible apply Touch.refl
    | with_reducible assumption
    | (with_reducible apply Touch.via State.withHst_touch; · decide)
    | (with_reducible apply Touch.via State.post_touch; · decide)
    | with_reducible apply Touch.ite
    | intro _ _ _
    | intro _
    | extract_lets
    | split
    | (dsimp +zetaDelta only; split)

theorem msixMessage_touch {v s} : Touch [.hst, .out] s (msixMessage v s) := by
  unfold msixMessage
  repeat first
    | with_reducible apply Touch.refl
    | with_reducible assumption
    | (with_reducible apply Touch.via State.withHst_touch; · decide)
    | (with_reducible apply Touch.via State.emit_touch; · decide)
    | with_reducible apply Touch.ite
    | intro _ _ _
    | intro _
    | extract_lets
    | split
    | (dsimp +zetaDelta only; split)

theorem mirrorWrite_touch {cyc t0 s} : Touch [.hst, .out] s (mirrorWrite cyc t0 s) := by
  unfold mirrorWrite
  repeat first
    | with_reducible apply Touch.refl
    | with_reducible assumption
    | (with_reducible apply Touch.via State.vecDue_touch; · decide)
    | (with_reducible apply Touch.via State.emit_touch; · decide)
    | (with_reducible apply Touch.via State.withHst_touch; · decide)
    | with_reducible apply Touch.ite
    | intro _ _ _
    | intro _
    | extract_lets
    | split
    | (dsimp +zetaDelta only; split)

theorem d3hotRequest_touch {s} : Touch [.hst] s (d3hotRequest s) := by
  unfold d3hotRequest
  repeat first
    | with_reducible apply Touch.refl
    | with_reducible assumption
    | (with_reducible apply Touch.via State.withHst_touch; · decide)
    | with_reducible apply Touch.ite
    | intro _ _ _
    | intro _
    | extract_lets
    | split
    | (dsimp +zetaDelta only; split)

theorem State.putBlock_touch {s row b d} : Touch [.mem] s (State.putBlock s row b d) := by
  unfold State.putBlock
  refine ⟨rfl, fun h => ⟨?_, h.2⟩, fun p hp => by cases p <;> first | rfl | exact absurd (by decide) hp⟩
  show Memory.wf (d.zipIdx.foldl (fun m p => writeByte m (144 * row + 16 * b + p.2) (BitVec.ofNat 8 p.1)) s.mem) = true
  have hm := h.1
  revert hm
  generalize s.mem = m
  generalize d.zipIdx = l
  intro hm
  induction l generalizing m with
  | nil => exact hm
  | cons p l ih => exact ih _ (writeByte_wf _ _ hm)

theorem scrubBlock_touch {flips row b s} : Touch [.regs, .mem, .poison, .hst, .lnd] s (scrubBlock flips row b s) := by
  unfold scrubBlock
  generalize eccRead b flips (s.blockData row b) = r
  dsimp only
  split
  · exact .via State.putBlock_touch (by decide) .refl
  · exact .via eccRecord_touch (by decide) (.via State.putBlock_touch (by decide) .refl)
  · exact .poison (by decide) (.via eccRecord_touch (by decide) .refl)

theorem scrubRow_touch {flips s} : Touch [.regs, .mem, .poison, .scrub, .hst, .lnd] s (scrubRow flips s) := by
  unfold scrubRow
  repeat first
    | with_reducible apply Touch.refl
    | with_reducible assumption
    | (with_reducible apply Touch.via scrubBlock_touch; · decide)
    | with_reducible apply State.each_touch
    | with_reducible apply Touch.ite
    | (with_reducible apply Touch.scrub; · decide)
    | intro _ _ _
    | intro _
    | extract_lets
    | split
    | (dsimp +zetaDelta only; split)

end Sys2Proof.Machine
end

