-- ==== Sys2Proof/Laws/TouchCycle.lean ====
section
/-! SUPPORT. The footprint of each operation of Machine/Cycle.lean: the parts of the state it may change. -/

namespace Sys2Proof.Machine

theorem beginCycle_touch {s} : Touch [.tbs, .hst, .sch, .adc] s (beginCycle s) := by
  unfold beginCycle
  repeat first
    | with_reducible apply Touch.refl
    | with_reducible assumption
    | (with_reducible apply Touch.via State.withTbs_touch; · decide)
    | (with_reducible apply Touch.via postUnder_touch; · decide)
    | (with_reducible apply Touch.via adcOverruns_touch; · decide)
    | with_reducible apply Touch.ite
    | intro _ _ _
    | intro _
    | extract_lets
    | split
    | (dsimp +zetaDelta only; split)

theorem engineT0_touch {first late s} : Touch [.regs, .hst, .sch, .cen, .trj, .sep, .saf, .pwm, .adc, .lnd, .acq] s (engineT0 first late s) := by
  unfold engineT0
  repeat first
    | with_reducible apply Touch.refl
    | with_reducible assumption
    | (with_reducible apply Touch.via auxCycle_touch; · decide)
    | with_reducible apply State.each_touch
    | (with_reducible apply Touch.via refreshPower_touch; · decide)
    | (with_reducible apply Touch.via pwmOffer_touch; · decide)
    | (with_reducible apply Touch.via raiseSignals_touch; · decide)
    | (with_reducible apply Touch.via evalGroups_touch; · decide)
    | (with_reducible apply Touch.via sepSnapshot_touch; · decide)
    | (with_reducible apply Touch.via lawsT0_touch; · decide)
    | (with_reducible apply Touch.via trjCycleStart_touch; · decide)
    | (with_reducible apply Touch.via envStart_touch; · decide)
    | (with_reducible apply Touch.via factorsTake_touch; · decide)
    | (with_reducible apply Touch.via advanceClocks_touch; · decide)
    | with_reducible apply Touch.ite
    | intro _ _ _
    | intro _
    | extract_lets
    | split
    | (dsimp +zetaDelta only; split)

theorem takeT0_touch {late s} : Touch [.regs, .latch, .mem, .poison, .tabs, .tbs, .hst, .sch, .cen, .dp, .trj, .sep, .saf, .fbk, .pwm, .adc, .twl, .links, .dmk, .lnd, .acq, .boot, .out] s (takeT0 late s) := by
  unfold takeT0
  repeat first
    | with_reducible apply Touch.refl
    | with_reducible assumption
    | (with_reducible apply Touch.via twlT0_touch; · decide)
    | (with_reducible apply Touch.via dmkT0_touch; · decide)
    | (with_reducible apply Touch.via engineT0_touch; · decide)
    | (with_reducible apply Touch.via mirrorPump_touch; · decide)
    | (with_reducible apply Touch.via progTake_touch; · decide)
    | (with_reducible apply Touch.via descEffects_touch; · decide)
    | (with_reducible apply Touch.via roleItems_touch; · decide)
    | (with_reducible apply Touch.via acqT0_touch; · decide)
    | (with_reducible apply Touch.via doorbellRead_touch; · decide)
    | (with_reducible apply Touch.via pairT0_touch; · decide)
    | (with_reducible apply Touch.via dpKeepInputs_touch; · decide)
    | (with_reducible apply Touch.via beginCycle_touch; · decide)
    | with_reducible apply Touch.ite
    | intro _ _ _
    | intro _
    | extract_lets
    | split
    | (dsimp +zetaDelta only; split)

theorem latchTs_touch {s} : Touch [.regs, .sch, .fbk, .lnd, .out] s (latchTs s) := by
  unfold latchTs
  repeat first
    | with_reducible apply Touch.refl
    | with_reducible assumption
    | (with_reducible apply Touch.via fbkLatch_touch; · decide)
    | (with_reducible apply Touch.via limitsRelease_touch; · decide)
    | (with_reducible apply Touch.via mirrorPump_touch; · decide)
    | with_reducible apply Touch.ite
    | intro _ _ _
    | intro _
    | extract_lets
    | split
    | (dsimp +zetaDelta only; split)

theorem takeTs_touch {s} : Touch [.regs, .tbs, .hst, .sch, .fbk, .adc, .lnd, .out] s (takeTs s) := by
  unfold takeTs
  repeat first
    | with_reducible apply Touch.refl
    | with_reducible assumption
    | (with_reducible apply Touch.via fbkWait_touch; · decide)
    | (with_reducible apply Touch.via latchTs_touch; · decide)
    | (with_reducible apply Touch.via State.withTbs_touch; · decide)
    | (with_reducible apply Touch.via adcTs_touch; · decide)
    | with_reducible apply Touch.ite
    | intro _ _ _
    | intro _
    | extract_lets
    | split
    | (dsimp +zetaDelta only; split)

theorem takeTr_touch {s} : Touch [.regs, .tbs, .hst, .sch, .trj, .sep, .saf, .twl, .lnd, .out] s (takeTr s) := by
  unfold takeTr
  repeat first
    | with_reducible apply Touch.refl
    | with_reducible assumption
    | (with_reducible apply Touch.via sepSample_touch; · decide)
    | (with_reducible apply Touch.via pairTr_touch; · decide)
    | (with_reducible apply Touch.via mirrorPump_touch; · decide)
    | (with_reducible apply Touch.via branchesTold_touch; · decide)
    | (with_reducible apply Touch.via raiseSignals_touch; · decide)
    | (with_reducible apply Touch.via State.withTbs_touch; · decide)
    | (with_reducible apply Touch.via twlTr_touch; · decide)
    | with_reducible apply Touch.ite
    | intro _ _ _
    | intro _
    | extract_lets
    | split
    | (dsimp +zetaDelta only; split)

theorem axisTc_touch {a s} : Touch [.regs, .hst, .trj, .saf, .lnd] s (axisTc a s) := by
  unfold axisTc
  repeat first
    | with_reducible apply Touch.refl
    | with_reducible assumption
    | (with_reducible apply Touch.via State.postG_touch; · decide)
    | (with_reducible apply Touch.via requestStop_touch; · decide)
    | (with_reducible apply Touch.via lawLate_touch; · decide)
    | with_reducible apply State.each_touch
    | (with_reducible apply Touch.via State.note_touch; · decide)
    | (with_reducible apply Touch.via State.setF_touch; · decide)
    | with_reducible apply Touch.ite
    | intro _ _ _
    | intro _
    | extract_lets
    | split
    | (dsimp +zetaDelta only; split)

theorem takeTc_touch {s} : Touch [.regs, .tbs, .hst, .trj, .sep, .saf, .pwm, .adc, .twl, .lnd, .acq, .boot, .out] s (takeTc s) := by
  unfold takeTc
  repeat first
    | with_reducible apply Touch.refl
    | with_reducible assumption
    | (with_reducible apply Touch.via State.withTbs_touch; · decide)
    | (with_reducible apply Touch.via pwmOffer_touch; · decide)
    | (with_reducible apply Touch.via attestLatch_touch; · decide)
    | (with_reducible apply Touch.via mirrorWrite_touch; · decide)
    | (with_reducible apply Touch.via factorsIssue_touch; · decide)
    | (with_reducible apply Touch.via switchDue_touch; · decide)
    | (with_reducible apply Touch.via pairTc_touch; · decide)
    | (with_reducible apply Touch.via axisTc_touch; · decide)
    | with_reducible apply State.each_touch
    | (with_reducible apply Touch.via auxMeasured_touch; · decide)
    | (with_reducible apply Touch.via lateContexts_touch; · decide)
    | with_reducible apply Touch.ite
    | intro _ _ _
    | intro _
    | extract_lets
    | split
    | (dsimp +zetaDelta only; split)

theorem tsIfDue_touch {s} : Touch [.regs, .tbs, .hst, .sch, .fbk, .adc, .lnd, .out] s (tsIfDue s) := by
  unfold tsIfDue
  repeat first
    | with_reducible apply Touch.refl
    | with_reducible assumption
    | (with_reducible apply Touch.via takeTs_touch; · decide)
    | with_reducible apply Touch.ite
    | intro _ _ _
    | intro _
    | extract_lets
    | split
    | (dsimp +zetaDelta only; split)

theorem trIfDue_touch {s0} : Touch [.regs, .tbs, .hst, .sch, .trj, .sep, .saf, .fbk, .adc, .twl, .lnd, .out] s0 (trIfDue s0) := by
  unfold trIfDue
  repeat first
    | with_reducible apply Touch.refl
    | with_reducible assumption
    | (with_reducible apply Touch.via takeTr_touch; · decide)
    | (with_reducible apply Touch.via tsIfDue_touch; · decide)
    | with_reducible apply Touch.ite
    | intro _ _ _
    | intro _
    | extract_lets
    | split
    | (dsimp +zetaDelta only; split)

theorem tcIfDue_touch {s0} : Touch [.regs, .tbs, .hst, .sch, .trj, .sep, .saf, .fbk, .pwm, .adc, .twl, .lnd, .acq, .boot, .out] s0 (tcIfDue s0) := by
  unfold tcIfDue
  repeat first
    | with_reducible apply Touch.refl
    | with_reducible assumption
    | (with_reducible apply Touch.via takeTc_touch; · decide)
    | (with_reducible apply Touch.via trIfDue_touch; · decide)
    | with_reducible apply Touch.ite
    | intro _ _ _
    | intro _
    | extract_lets
    | split
    | (dsimp +zetaDelta only; split)

theorem cellT0_touch {late s} : Touch [.regs, .latch, .mem, .poison, .tabs, .tbs, .hst, .sch, .cen, .dp, .trj, .sep, .saf, .fbk, .pwm, .adc, .twl, .links, .dmk, .lnd, .acq, .boot, .out] s (cellT0 late s) := by
  unfold cellT0
  repeat first
    | with_reducible apply Touch.refl
    | with_reducible assumption
    | (with_reducible apply Touch.via tcIfDue_touch; · decide)
    | (with_reducible apply Touch.via takeT0_touch; · decide)
    | with_reducible apply Touch.ite
    | intro _ _ _
    | intro _
    | extract_lets
    | split
    | (dsimp +zetaDelta only; split)

theorem takeEnd_touch {s} : Touch [.regs, .mem, .poison, .tbs, .hst, .cen, .trj, .sep, .pwm, .adc, .twl, .dmk, .lnd, .acq, .out] s (takeEnd s) := by
  unfold takeEnd
  repeat first
    | with_reducible apply Touch.refl
    | with_reducible assumption
    | (with_reducible apply Touch.via pwmCycleEnd_touch; · decide)
    | (with_reducible apply Touch.via adcCycleEnd_touch; · decide)
    | (with_reducible apply Touch.via twlCycleEnd_touch; · decide)
    | (with_reducible apply Touch.via dmkCycleEnd_touch; · decide)
    | (with_reducible apply Touch.via pairCycleEnd_touch; · decide)
    | (with_reducible apply Touch.via acqCycleEnd_touch; · decide)
    | (with_reducible apply Touch.via groupMembers_touch; · decide)
    | (with_reducible apply Touch.via timedStop_touch; · decide)
    | (with_reducible apply Touch.via cmdLost_touch; · decide)
    | with_reducible apply State.each_touch
    | (with_reducible apply Touch.via sepClear_touch; · decide)
    | (with_reducible apply Touch.via State.withHst_touch; · decide)
    | (with_reducible apply Touch.via State.withTbs_touch; · decide)
    | (with_reducible apply Touch.via State.setF_touch; · decide)
    | with_reducible apply Touch.ite
    | intro _ _ _
    | intro _
    | extract_lets
    | split
    | (dsimp +zetaDelta only; split)

theorem cellEnd_touch {s} : Touch [.regs, .mem, .poison, .tbs, .hst, .sch, .cen, .trj, .sep, .saf, .fbk, .pwm, .adc, .twl, .dmk, .lnd, .acq, .boot, .out] s (cellEnd s) := by
  unfold cellEnd
  repeat first
    | with_reducible apply Touch.refl
    | with_reducible assumption
    | (with_reducible apply Touch.via tcIfDue_touch; · decide)
    | (with_reducible apply Touch.via takeEnd_touch; · decide)
    | with_reducible apply Touch.ite
    | intro _ _ _
    | intro _
    | extract_lets
    | split
    | (dsimp +zetaDelta only; split)

theorem takeIdle_touch {s} : Touch [.regs, .latch, .mem, .poison, .tabs, .tbs, .hst, .sch, .cen, .dp, .trj, .sep, .saf, .fbk, .pwm, .adc, .twl, .links, .dmk, .lnd, .acq, .boot, .out] s (takeIdle s) := by
  unfold takeIdle
  repeat first
    | with_reducible apply Touch.refl
    | with_reducible assumption
    | (with_reducible apply Touch.via pwmOffer_touch; · decide)
    | (with_reducible apply Touch.via limitsRelease_touch; · decide)
    | (with_reducible apply Touch.via attestLatch_touch; · decide)
    | (with_reducible apply Touch.via mirrorWrite_touch; · decide)
    | (with_reducible apply Touch.via acqT0_touch; · decide)
    | (with_reducible apply Touch.via doorbellRead_touch; · decide)
    | (with_reducible apply Touch.via progTake_touch; · decide)
    | (with_reducible apply Touch.via descEffects_touch; · decide)
    | (with_reducible apply Touch.via State.withHst_touch; · decide)
    | (with_reducible apply Touch.via postUnder_touch; · decide)
    | (with_reducible apply Touch.via adcOverruns_touch; · decide)
    | with_reducible apply Touch.ite
    | intro _ _ _
    | intro _
    | extract_lets
    | split
    | (dsimp +zetaDelta only; split)

theorem idleTick_touch {s} : Touch [.regs, .latch, .mem, .poison, .tabs, .tbs, .hst, .sch, .cen, .dp, .trj, .sep, .saf, .fbk, .pwm, .adc, .twl, .links, .dmk, .lnd, .acq, .boot, .out] s (idleTick s) := by
  unfold idleTick
  repeat first
    | with_reducible apply Touch.refl
    | with_reducible assumption
    | (with_reducible apply Touch.via takeIdle_touch; · decide)
    | with_reducible apply Touch.ite
    | intro _ _ _
    | intro _
    | extract_lets
    | split
    | (dsimp +zetaDelta only; split)

theorem edge_touch {s} : Touch [.frc, .regs, .tbs, .hst, .sch, .cen, .trj, .sep, .saf, .fbk, .pwm, .adc, .twl, .links, .dmk, .lnd, .acq, .boot, .out] s (edge s) := by
  unfold edge
  repeat first
    | with_reducible apply Touch.refl
    | with_reducible assumption
    | (with_reducible apply Touch.via latchTs_touch; · decide)
    | (with_reducible apply Touch.via sampleInputs_touch; · decide)
    | (with_reducible apply Touch.via fbkSample_touch; · decide)
    | (with_reducible apply Touch.via fbkStarts_touch; · decide)
    | (with_reducible apply Touch.via State.setF_touch; · decide)
    | (with_reducible apply Touch.via State.flushEvents_touch; · decide)
    | (with_reducible apply Touch.via putOffWrites_touch; · decide)
    | (with_reducible apply Touch.via acqPast_touch; · decide)
    | with_reducible apply Touch.ite
    | (with_reducible apply Touch.frc; · decide)
    | intro _ _ _
    | intro _
    | extract_lets
    | split
    | (dsimp +zetaDelta only; split)

end Sys2Proof.Machine
end

