-- ==== Sys2Proof/Laws/TouchTimeRows.lean ====
section
/-! SUPPORT. The footprint of each operation of Machine/TimeRows.lean: the parts of the state it may change. -/

namespace Sys2Proof.Machine

theorem execCellCycleT0_touch {s late t} (h : execCellCycleT0 s late = .next t) : Touch [.regs, .latch, .mem, .poison, .tabs, .tbs, .hst, .sch, .cen, .dp, .trj, .sep, .saf, .fbk, .pwm, .adc, .twl, .links, .dmk, .lnd, .acq, .boot, .out] s t := by
  cases h
  repeat first
    | with_reducible apply Touch.refl
    | with_reducible assumption
    | (with_reducible apply Touch.via cellT0_touch; · decide)
    | with_reducible apply Touch.ite
    | intro _ _ _
    | intro _
    | extract_lets
    | split
    | (dsimp +zetaDelta only; split)

theorem execCellCycleTs_touch {s t} (h : execCellCycleTs s = .next t) : Touch [.regs, .tbs, .hst, .sch, .fbk, .adc, .lnd, .out] s t := by
  cases h
  repeat first
    | with_reducible apply Touch.refl
    | with_reducible assumption
    | (with_reducible apply Touch.via tsIfDue_touch; · decide)
    | with_reducible apply Touch.ite
    | intro _ _ _
    | intro _
    | extract_lets
    | split
    | (dsimp +zetaDelta only; split)

theorem execCellCycleTr_touch {s t} (h : execCellCycleTr s = .next t) : Touch [.regs, .tbs, .hst, .sch, .trj, .sep, .saf, .fbk, .adc, .twl, .lnd, .out] s t := by
  cases h
  repeat first
    | with_reducible apply Touch.refl
    | with_reducible assumption
    | (with_reducible apply Touch.via trIfDue_touch; · decide)
    | with_reducible apply Touch.ite
    | intro _ _ _
    | intro _
    | extract_lets
    | split
    | (dsimp +zetaDelta only; split)

theorem execCellCycleTc_touch {s t} (h : execCellCycleTc s = .next t) : Touch [.regs, .tbs, .hst, .sch, .trj, .sep, .saf, .fbk, .pwm, .adc, .twl, .lnd, .acq, .boot, .out] s t := by
  cases h
  repeat first
    | with_reducible apply Touch.refl
    | with_reducible assumption
    | (with_reducible apply Touch.via tcIfDue_touch; · decide)
    | with_reducible apply Touch.ite
    | intro _ _ _
    | intro _
    | extract_lets
    | split
    | (dsimp +zetaDelta only; split)

theorem execCycleEnd_touch {s t} (h : execCycleEnd s = .next t) : Touch [.regs, .mem, .poison, .tbs, .hst, .sch, .cen, .trj, .sep, .saf, .fbk, .pwm, .adc, .twl, .dmk, .lnd, .acq, .boot, .out] s t := by
  cases h
  repeat first
    | with_reducible apply Touch.refl
    | with_reducible assumption
    | (with_reducible apply Touch.via cellEnd_touch; · decide)
    | with_reducible apply Touch.ite
    | intro _ _ _
    | intro _
    | extract_lets
    | split
    | (dsimp +zetaDelta only; split)

theorem execCycleStart_touch {s t} (h : execCycleStart s = .next t) : Touch [.regs, .tbs, .hst, .sch, .cen, .trj, .sep, .saf, .fbk, .pwm, .adc, .twl, .links, .dmk, .lnd, .acq, .boot] s t := by
  cases h
  repeat first
    | with_reducible apply Touch.refl
    | with_reducible assumption
    | (with_reducible apply Touch.via fieldWrite_touch; · decide)
    | with_reducible apply Touch.ite
    | intro _ _ _
    | intro _
    | extract_lets
    | split
    | (dsimp +zetaDelta only; split)

theorem execCycleStop_touch {s t} (h : execCycleStop s = .next t) : Touch [.regs, .tbs, .hst, .sch, .cen, .trj, .sep, .saf, .fbk, .pwm, .adc, .twl, .links, .dmk, .lnd, .acq, .boot] s t := by
  cases h
  repeat first
    | with_reducible apply Touch.refl
    | with_reducible assumption
    | (with_reducible apply Touch.via fieldWrite_touch; · decide)
    | with_reducible apply Touch.ite
    | intro _ _ _
    | intro _
    | extract_lets
    | split
    | (dsimp +zetaDelta only; split)

theorem execPeriodWrite_touch {period s t} (h : execPeriodWrite period s = .next t) : Touch [.regs, .tbs, .hst, .sch, .cen, .trj, .sep, .saf, .fbk, .pwm, .adc, .twl, .links, .dmk, .lnd, .acq, .boot] s t := by
  cases h
  repeat first
    | with_reducible apply Touch.refl
    | with_reducible assumption
    | (with_reducible apply Touch.via fieldWrite_touch; · decide)
    | with_reducible apply Touch.ite
    | intro _ _ _
    | intro _
    | extract_lets
    | split
    | (dsimp +zetaDelta only; split)

theorem execTbsArm_touch {step rate slew s t} (h : execTbsArm step rate slew s = .next t) : Touch [.regs, .tbs, .hst, .sch, .cen, .trj, .sep, .saf, .fbk, .pwm, .adc, .twl, .links, .dmk, .lnd, .acq, .boot] s t := by
  cases h
  repeat first
    | with_reducible apply Touch.refl
    | with_reducible assumption
    | (with_reducible apply Touch.via barWrite_touch; · decide)
    | with_reducible apply Touch.ite
    | intro _ _ _
    | intro _
    | extract_lets
    | split
    | (dsimp +zetaDelta only; split)

theorem execTbsCancel_touch {s t} (h : execTbsCancel s = .next t) : Touch [.regs, .tbs, .hst, .sch, .cen, .trj, .sep, .saf, .fbk, .pwm, .adc, .twl, .links, .dmk, .lnd, .acq, .boot] s t := by
  cases h
  repeat first
    | with_reducible apply Touch.refl
    | with_reducible assumption
    | (with_reducible apply Touch.via barWrite_touch; · decide)
    | with_reducible apply Touch.ite
    | intro _ _ _
    | intro _
    | extract_lets
    | split
    | (dsimp +zetaDelta only; split)

theorem execApplyChange_touch {s t} (h : execApplyChange s = .next t) : Touch [.regs, .tbs] s t := by
  cases h
  repeat first
    | with_reducible apply Touch.refl
    | with_reducible assumption
    | (with_reducible apply Touch.via applyChange_touch; · decide)
    | with_reducible apply Touch.ite
    | intro _ _ _
    | intro _
    | extract_lets
    | split
    | (dsimp +zetaDelta only; split)

theorem execSlewDone_touch {s t} (h : execSlewDone s = .next t) : Touch [.regs, .tbs] s t := by
  cases h
  repeat first
    | with_reducible apply Touch.refl
    | with_reducible assumption
    | (with_reducible apply Touch.via endSlew_touch; · decide)
    | with_reducible apply Touch.ite
    | intro _ _ _
    | intro _
    | extract_lets
    | split
    | (dsimp +zetaDelta only; split)

theorem execTimeReadLatch_touch {off size s t} (h : execTimeReadLatch off size s = .next t) : Touch [.regs, .latch, .hst, .sch, .lnd, .out] s t := by
  cases h
  repeat first
    | with_reducible apply Touch.refl
    | with_reducible assumption
    | (with_reducible apply Touch.via barRead_touch; · decide)
    | with_reducible apply Touch.ite
    | intro _ _ _
    | intro _
    | extract_lets
    | split
    | (dsimp +zetaDelta only; split)

theorem trgStart_touch {kind target at_ s} : Touch [.regs, .trj, .adc, .acq] s (trgStart kind target at_ s) := by
  unfold trgStart
  repeat first
    | with_reducible apply Touch.refl
    | with_reducible assumption
    | (with_reducible apply Touch.via acqForce_touch; · decide)
    | (with_reducible apply Touch.via acqArm_touch; · decide)
    | (with_reducible apply Touch.via scanStart_touch; · decide)
    | (with_reducible apply Touch.via injStart_touch; · decide)
    | with_reducible apply Touch.ite
    | intro _ _ _
    | intro _
    | extract_lets
    | split
    | (dsimp +zetaDelta only; split)

theorem trgFire_touch {due u s} : Touch [.regs, .tbs, .trj, .adc, .acq] s (trgFire due u s) := by
  unfold trgFire
  repeat first
    | with_reducible apply Touch.refl
    | with_reducible assumption
    | (with_reducible apply Touch.via trgStart_touch; · decide)
    | (with_reducible apply Touch.via State.setF_touch; · decide)
    | (with_reducible apply Touch.via State.withTbs_touch; · decide)
    | (with_reducible apply Touch.via State.flag_touch; · decide)
    | (with_reducible apply Touch.via State.flagIf_touch; · decide)
    | with_reducible apply Touch.ite
    | intro _ _ _
    | intro _
    | extract_lets
    | split
    | (dsimp +zetaDelta only; split)

theorem execTimedStartFire_touch {s t} (h : execTimedStartFire s = .next t) : Touch [.regs, .tbs, .trj, .adc, .acq] s t := by
  cases h
  repeat first
    | with_reducible apply Touch.refl
    | with_reducible assumption
    | (with_reducible apply Touch.via trgFire_touch; · decide)
    | with_reducible apply State.each_touch
    | with_reducible apply Touch.ite
    | intro _ _ _
    | intro _
    | extract_lets
    | split
    | (dsimp +zetaDelta only; split)

theorem execRefLoss_touch {s t} (h : execRefLoss s = .next t) : Touch [.regs, .hst, .trj, .saf, .lnd] s t := by
  cases h
  repeat first
    | with_reducible apply Touch.refl
    | with_reducible assumption
    | (with_reducible apply Touch.via State.setF_touch; · decide)
    | (with_reducible apply Touch.via State.flag_touch; · decide)
    | (with_reducible apply Touch.via State.note_touch; · decide)
    | (with_reducible apply Touch.via State.postG_touch; · decide)
    | (with_reducible apply Touch.via requestStop_touch; · decide)
    | with_reducible apply Touch.ite
    | intro _ _ _
    | intro _
    | extract_lets
    | split
    | (dsimp +zetaDelta only; split)

theorem execPllLockRegain_touch {s t} (h : execPllLockRegain s = .next t) : Touch [.regs] s t := by
  cases h
  repeat first
    | with_reducible apply Touch.refl
    | with_reducible assumption
    | (with_reducible apply Touch.via State.setF_touch; · decide)
    | with_reducible apply Touch.ite
    | intro _ _ _
    | intro _
    | extract_lets
    | split
    | (dsimp +zetaDelta only; split)

theorem execScrubRow_touch {data check s t} (h : execScrubRow data check s = .next t) : Touch [.regs, .mem, .poison, .scrub, .hst, .lnd] s t := by
  cases h
  repeat first
    | with_reducible apply Touch.refl
    | with_reducible assumption
    | (with_reducible apply Touch.via scrubRow_touch; · decide)
    | with_reducible apply Touch.ite
    | intro _ _ _
    | intro _
    | extract_lets
    | split
    | (dsimp +zetaDelta only; split)

theorem execD3hotRequest_touch {s t} (h : execD3hotRequest s = .next t) : Touch [.hst] s t := by
  cases h
  repeat first
    | with_reducible apply Touch.refl
    | with_reducible assumption
    | (with_reducible apply Touch.via d3hotRequest_touch; · decide)
    | with_reducible apply Touch.ite
    | intro _ _ _
    | intro _
    | extract_lets
    | split
    | (dsimp +zetaDelta only; split)

theorem execIdleTick_touch {s t} (h : execIdleTick s = .next t) : Touch [.regs, .latch, .mem, .poison, .tabs, .tbs, .hst, .sch, .cen, .dp, .trj, .sep, .saf, .fbk, .pwm, .adc, .twl, .links, .dmk, .lnd, .acq, .boot, .out] s t := by
  cases h
  repeat first
    | with_reducible apply Touch.refl
    | with_reducible assumption
    | (with_reducible apply Touch.via idleTick_touch; · decide)
    | with_reducible apply Touch.ite
    | intro _ _ _
    | intro _
    | extract_lets
    | split
    | (dsimp +zetaDelta only; split)

theorem execDoorbellCompletion_touch {good data s t} (h : execDoorbellCompletion good data s = .next t) : Touch [.regs, .hst, .trj, .saf, .lnd, .out] s t := by
  cases h
  repeat first
    | with_reducible apply Touch.refl
    | with_reducible assumption
    | (with_reducible apply Touch.via doorbellCompletion_touch; · decide)
    | with_reducible apply Touch.ite
    | intro _ _ _
    | intro _
    | extract_lets
    | split
    | (dsimp +zetaDelta only; split)

theorem execDoorbellDeadline_touch {s t} (h : execDoorbellDeadline s = .next t) : Touch [.regs, .hst, .trj, .saf] s t := by
  cases h
  repeat first
    | with_reducible apply Touch.refl
    | with_reducible assumption
    | (with_reducible apply Touch.via doorbellDeadline_touch; · decide)
    | with_reducible apply Touch.ite
    | intro _ _ _
    | intro _
    | extract_lets
    | split
    | (dsimp +zetaDelta only; split)

theorem execRitLineRead_touch {line good data s t} (h : execRitLineRead line good data s = .next t) : Touch [.regs, .hst] s t := by
  cases h
  repeat first
    | with_reducible apply Touch.refl
    | with_reducible assumption
    | (with_reducible apply Touch.via ritLine_touch; · decide)
    | with_reducible apply Touch.ite
    | intro _ _ _
    | intro _
    | extract_lets
    | split
    | (dsimp +zetaDelta only; split)

theorem execDescriptorFetch_touch {sq good desc s t} (h : execDescriptorFetch sq good desc s = .next t) : Touch [.regs, .tabs, .tbs, .hst, .sch, .cen, .trj, .sep, .saf, .fbk, .pwm, .adc, .twl, .links, .dmk, .lnd, .acq, .boot, .out] s t := by
  cases h
  repeat first
    | with_reducible apply Touch.refl
    | with_reducible assumption
    | (with_reducible apply Touch.via descFetch_touch; · decide)
    | with_reducible apply Touch.ite
    | intro _ _ _
    | intro _
    | extract_lets
    | split
    | (dsimp +zetaDelta only; split)

theorem execFenceRelease_touch {sq s t} (h : execFenceRelease sq s = .next t) : Touch [.regs, .tabs, .tbs, .hst, .sch, .cen, .trj, .sep, .saf, .fbk, .pwm, .adc, .twl, .links, .dmk, .lnd, .acq, .boot, .out] s t := by
  cases h
  repeat first
    | with_reducible apply Touch.refl
    | with_reducible assumption
    | (with_reducible apply Touch.via fenceRelease_touch; · decide)
    | with_reducible apply Touch.ite
    | intro _ _ _
    | intro _
    | extract_lets
    | split
    | (dsimp +zetaDelta only; split)

theorem execCompletionWrite_touch {s t} (h : execCompletionWrite s = .next t) : Touch [.regs, .hst, .out] s t := by
  cases h
  repeat first
    | with_reducible apply Touch.refl
    | with_reducible assumption
    | (with_reducible apply Touch.via completionWrite_touch; · decide)
    | with_reducible apply Touch.ite
    | intro _ _ _
    | intro _
    | extract_lets
    | split
    | (dsimp +zetaDelta only; split)

theorem execOverflowEvent_touch {ring s t} (h : execOverflowEvent ring s = .next t) : Touch [.hst] s t := by
  cases h
  repeat first
    | with_reducible apply Touch.refl
    | with_reducible assumption
    | (with_reducible apply Touch.via overflowEvent_touch; · decide)
    | with_reducible apply Touch.ite
    | intro _ _ _
    | intro _
    | extract_lets
    | split
    | (dsimp +zetaDelta only; split)

theorem execMsixMessage_touch {vector s t} (h : execMsixMessage vector s = .next t) : Touch [.hst, .out] s t := by
  cases h
  repeat first
    | with_reducible apply Touch.refl
    | with_reducible assumption
    | (with_reducible apply Touch.via msixMessage_touch; · decide)
    | with_reducible apply Touch.ite
    | intro _ _ _
    | intro _
    | extract_lets
    | split
    | (dsimp +zetaDelta only; split)

end Sys2Proof.Machine
end

