-- ==== Sys2Proof/Laws/TouchSchRows.lean ====
section
/-! SUPPORT. The footprint of each operation of Machine/SchRows.lean: the parts of the state it may change. -/

namespace Sys2Proof.Machine

theorem execRegisterWrite_touch {off value full s t} (h : execRegisterWrite off value full s = .next t) : Touch [.regs, .tbs, .hst, .sch, .cen, .trj, .sep, .saf, .fbk, .pwm, .adc, .twl, .links, .dmk, .lnd, .acq, .boot] s t := by
  cases h
  repeat first
    | with_reducible apply Touch.refl
    | with_reducible assumption
    | (with_reducible apply Touch.via barWrite_touch; · decide)
    | with_reducible apply Touch.ite
    | intro _ _ _
    | intro _
    | extract_lets
    | split
    | (dsimp +zetaDelta only; split)

theorem execCommitLockSet_touch {s t} (h : execCommitLockSet s = .next t) : Touch [.regs, .tbs, .hst, .sch, .cen, .trj, .sep, .saf, .fbk, .pwm, .adc, .twl, .links, .dmk, .lnd, .acq, .boot] s t := by
  cases h
  repeat first
    | with_reducible apply Touch.refl
    | with_reducible assumption
    | (with_reducible apply Touch.via barWrite_touch; · decide)
    | with_reducible apply Touch.ite
    | intro _ _ _
    | intro _
    | extract_lets
    | split
    | (dsimp +zetaDelta only; split)

theorem execCommitLockClear_touch {s t} (h : execCommitLockClear s = .next t) : Touch [.regs, .tbs, .hst, .sch, .cen, .trj, .sep, .saf, .fbk, .pwm, .adc, .twl, .links, .dmk, .lnd, .acq, .boot] s t := by
  cases h
  repeat first
    | with_reducible apply Touch.refl
    | with_reducible assumption
    | (with_reducible apply Touch.via barWrite_touch; · decide)
    | with_reducible apply Touch.ite
    | intro _ _ _
    | intro _
    | extract_lets
    | split
    | (dsimp +zetaDelta only; split)

theorem execRingEnable_touch {kind n s t} (h : execRingEnable kind n s = .next t) : Touch [.regs, .tbs, .hst, .sch, .cen, .trj, .sep, .saf, .fbk, .pwm, .adc, .twl, .links, .dmk, .lnd, .acq, .boot] s t := by
  cases h
  repeat first
    | with_reducible apply Touch.refl
    | with_reducible assumption
    | (with_reducible apply Touch.via fieldWrite_touch; · decide)
    | with_reducible apply Touch.ite
    | intro _ _ _
    | intro _
    | extract_lets
    | split
    | (dsimp +zetaDelta only; split)

theorem execRingDisable_touch {kind n s t} (h : execRingDisable kind n s = .next t) : Touch [.regs, .tbs, .hst, .sch, .cen, .trj, .sep, .saf, .fbk, .pwm, .adc, .twl, .links, .dmk, .lnd, .acq, .boot] s t := by
  cases h
  repeat first
    | with_reducible apply Touch.refl
    | with_reducible assumption
    | (with_reducible apply Touch.via fieldWrite_touch; · decide)
    | with_reducible apply Touch.ite
    | intro _ _ _
    | intro _
    | extract_lets
    | split
    | (dsimp +zetaDelta only; split)

theorem execCtxEnable_touch {h1 mask s t} (h : execCtxEnable h1 mask s = .next t) : Touch [.regs, .latch, .mem, .poison, .tabs, .tbs, .hst, .sch, .cen, .dp, .trj, .sep, .saf, .fbk, .pwm, .adc, .twl, .links, .dmk, .lnd, .acq, .boot, .out] s t := by
  cases h
  repeat first
    | with_reducible apply Touch.refl
    | with_reducible assumption
    | (with_reducible apply Touch.via fieldWrite_touch; · decide)
    | with_reducible apply State.each_touch
    | (with_reducible apply Touch.via blockNow_touch; · decide)
    | with_reducible apply Touch.ite
    | intro _ _ _
    | intro _
    | extract_lets
    | split
    | (dsimp +zetaDelta only; split)

theorem execCtxDisable_touch {h1 mask s t} (h : execCtxDisable h1 mask s = .next t) : Touch [.regs, .latch, .mem, .poison, .tabs, .tbs, .hst, .sch, .cen, .dp, .trj, .sep, .saf, .fbk, .pwm, .adc, .twl, .links, .dmk, .lnd, .acq, .boot, .out] s t := by
  cases h
  repeat first
    | with_reducible apply Touch.refl
    | with_reducible assumption
    | (with_reducible apply Touch.via fieldWrite_touch; · decide)
    | with_reducible apply State.each_touch
    | (with_reducible apply Touch.via blockNow_touch; · decide)
    | with_reducible apply Touch.ite
    | intro _ _ _
    | intro _
    | extract_lets
    | split
    | (dsimp +zetaDelta only; split)

theorem execCtxRelease_touch {h1 mask s t} (h : execCtxRelease h1 mask s = .next t) : Touch [.regs, .latch, .mem, .poison, .tabs, .tbs, .hst, .sch, .cen, .dp, .trj, .sep, .saf, .fbk, .pwm, .adc, .twl, .links, .dmk, .lnd, .acq, .boot, .out] s t := by
  cases h
  repeat first
    | with_reducible apply Touch.refl
    | with_reducible assumption
    | (with_reducible apply Touch.via blockNow_touch; · decide)
    | with_reducible apply Touch.ite
    | intro _ _ _
    | intro _
    | extract_lets
    | split
    | (dsimp +zetaDelta only; split)

theorem execClrStat_touch {s t} (h : execClrStat s = .next t) : Touch [.regs, .tbs, .hst, .sch, .cen, .trj, .sep, .saf, .fbk, .pwm, .adc, .twl, .links, .dmk, .lnd, .acq, .boot] s t := by
  cases h
  repeat first
    | with_reducible apply Touch.refl
    | with_reducible assumption
    | (with_reducible apply Touch.via fieldWrite_touch; · decide)
    | with_reducible apply Touch.ite
    | intro _ _ _
    | intro _
    | extract_lets
    | split
    | (dsimp +zetaDelta only; split)

theorem execDelayTick_touch {s t} (h : execDelayTick s = .next t) : Touch [.regs, .sch] s t := by
  cases h
  repeat first
    | with_reducible apply Touch.refl
    | with_reducible assumption
    | (with_reducible apply Touch.via tickStep_touch; · decide)
    | with_reducible apply Touch.ite
    | intro _ _ _
    | intro _
    | extract_lets
    | split
    | (dsimp +zetaDelta only; split)

theorem execAgePromote_touch {s t} (h : execAgePromote s = .next t) : Touch [.regs, .sch] s t := by
  cases h
  repeat first
    | with_reducible apply Touch.refl
    | with_reducible assumption
    | (with_reducible apply Touch.via ageStep_touch; · decide)
    | with_reducible apply Touch.ite
    | intro _ _ _
    | intro _
    | extract_lets
    | split
    | (dsimp +zetaDelta only; split)

theorem l0Measure_touch {n held latency s} : Touch [.regs, .hst, .trj, .saf, .lnd] s (l0Measure n held latency s) := by
  unfold l0Measure
  repeat first
    | with_reducible apply Touch.refl
    | with_reducible assumption
    | (with_reducible apply Touch.via State.flag_touch; · decide)
    | (with_reducible apply Touch.via State.note_touch; · decide)
    | (with_reducible apply Touch.via State.post_touch; · decide)
    | (with_reducible apply Touch.via requestStop_touch; · decide)
    | (with_reducible apply Touch.via State.setF_touch; · decide)
    | with_reducible apply Touch.ite
    | intro _ _ _
    | intro _
    | extract_lets
    | split
    | (dsimp +zetaDelta only; split)

theorem dispatchOn_touch {n lane latency s} : Touch [.regs, .mem, .poison, .hst, .sch, .cen, .dp, .trj, .saf, .lnd] s (dispatchOn n lane latency s) := by
  unfold dispatchOn
  repeat first
    | with_reducible apply Touch.refl
    | with_reducible assumption
    | (with_reducible apply Touch.via lawRuns_touch; · decide)
    | (with_reducible apply Touch.via l0Measure_touch; · decide)
    | (with_reducible apply Touch.via dpStart_touch; · decide)
    | (with_reducible apply Touch.via startRun_touch; · decide)
    | with_reducible apply Touch.ite
    | intro _ _ _
    | intro _
    | extract_lets
    | split
    | (dsimp +zetaDelta only; split)

theorem execDispatch_touch {n latency s t} (h : execDispatch n latency s = .next t) : Touch [.regs, .mem, .poison, .hst, .sch, .cen, .dp, .trj, .saf, .lnd] s t := by
  cases h
  repeat first
    | with_reducible apply Touch.refl
    | with_reducible assumption
    | (with_reducible apply Touch.via dispatchOn_touch; · decide)
    | (with_reducible apply Touch.via updateReserv_touch; · decide)
    | with_reducible apply Touch.ite
    | intro _ _ _
    | intro _
    | extract_lets
    | split
    | (dsimp +zetaDelta only; split)

theorem execPreempt_touch {n s t} (h : execPreempt n s = .next t) : Touch [.regs, .sch, .dp] s t := by
  cases h
  repeat first
    | with_reducible apply Touch.refl
    | with_reducible assumption
    | (with_reducible apply Touch.via makeReady_touch; · decide)
    | (with_reducible apply Touch.via State.flag_touch; · decide)
    | (with_reducible apply Touch.via dpPreempt_touch; · decide)
    | (with_reducible apply Touch.via State.withSch_touch; · decide)
    | (with_reducible apply Touch.via updateReserv_touch; · decide)
    | with_reducible apply Touch.ite
    | intro _ _ _
    | intro _
    | extract_lets
    | split
    | (dsimp +zetaDelta only; split)

theorem execCtxComplete_touch {n s t} (h : execCtxComplete n s = .next t) : Touch [.regs, .hst, .sch] s t := by
  cases h
  repeat first
    | with_reducible apply Touch.refl
    | with_reducible assumption
    | (with_reducible apply Touch.via sliceFree_touch; · decide)
    | (with_reducible apply Touch.via completeCtx_touch; · decide)
    | (with_reducible apply Touch.via updateReserv_touch; · decide)
    | with_reducible apply Touch.ite
    | intro _ _ _
    | intro _
    | extract_lets
    | split
    | (dsimp +zetaDelta only; split)

theorem wordCopy_touch {src dst count s} : Touch [.mem, .poison] s (wordCopy src dst count s) := by
  unfold wordCopy
  repeat first
    | with_reducible apply Touch.refl
    | with_reducible assumption
    | (with_reducible apply Touch.via State.writeWord_touch; · decide)
    | with_reducible apply State.each_touch
    | with_reducible apply Touch.ite
    | (with_reducible apply Touch.poison; · decide)
    | intro _ _ _
    | intro _
    | extract_lets
    | split
    | (dsimp +zetaDelta only; split)

theorem svcRun_touch {n s} : Touch [.mem, .poison, .hst] s (svcRun n s) := by
  unfold svcRun
  repeat first
    | with_reducible apply Touch.refl
    | with_reducible assumption
    | (with_reducible apply Touch.via State.post_touch; · decide)
    | (with_reducible apply Touch.via wordCopy_touch; · decide)
    | with_reducible apply Touch.ite
    | intro _ _ _
    | intro _
    | extract_lets
    | split
    | (dsimp +zetaDelta only; split)

theorem execSvcDispatch_touch {s t} (h : execSvcDispatch s = .next t) : Touch [.regs, .mem, .poison, .hst, .sch, .lnd] s t := by
  cases h
  repeat first
    | with_reducible apply Touch.refl
    | with_reducible assumption
    | (with_reducible apply Touch.via State.withSch_touch; · decide)
    | (with_reducible apply Touch.via svcRun_touch; · decide)
    | (with_reducible apply Touch.via exception_touch; · decide)
    | (with_reducible apply Touch.via State.setF_touch; · decide)
    | (with_reducible apply Touch.via startRun_touch; · decide)
    | with_reducible apply Touch.ite
    | intro _ _ _
    | intro _
    | extract_lets
    | split
    | (dsimp +zetaDelta only; split)

theorem execSvcComplete_touch {core s t} (h : execSvcComplete core s = .next t) : Touch [.regs, .hst, .sch] s t := by
  cases h
  repeat first
    | with_reducible apply Touch.refl
    | with_reducible assumption
    | (with_reducible apply Touch.via State.withSch_touch; · decide)
    | (with_reducible apply Touch.via completeCtx_touch; · decide)
    | with_reducible apply Touch.ite
    | intro _ _ _
    | intro _
    | extract_lets
    | split
    | (dsimp +zetaDelta only; split)

end Sys2Proof.Machine
end

