-- ==== Sys2Proof/Laws/TouchLawRows.lean ====
section
/-! SUPPORT. The footprint of each operation of Machine/LawRows.lean: the parts of the state it may change. -/

namespace Sys2Proof.Machine

theorem execLawEnable_touch {n s t} (h : execLawEnable n s = .next t) : Touch [.regs, .tbs, .hst, .sch, .cen, .trj, .sep, .saf, .fbk, .pwm, .adc, .twl, .links, .dmk, .lnd, .acq, .boot] s t := by
  cases h
  repeat first
    | with_reducible apply Touch.refl
    | with_reducible assumption
    | (with_reducible apply Touch.via fieldWrite_touch; · decide)
    | with_reducible apply Touch.ite
    | intro _ _ _
    | intro _
    | extract_lets
    | split
    | (dsimp +zetaDelta only; split)

theorem execLawDisable_touch {n s t} (h : execLawDisable n s = .next t) : Touch [.regs, .tbs, .hst, .sch, .cen, .trj, .sep, .saf, .fbk, .pwm, .adc, .twl, .links, .dmk, .lnd, .acq, .boot] s t := by
  cases h
  repeat first
    | with_reducible apply Touch.refl
    | with_reducible assumption
    | (with_reducible apply Touch.via fieldWrite_touch; · decide)
    | with_reducible apply Touch.ite
    | intro _ _ _
    | intro _
    | extract_lets
    | split
    | (dsimp +zetaDelta only; split)

theorem execWalnoNop_touch {ctx s t} (h : execWalnoNop ctx s = .next t) : Touch [.regs, .mem, .poison, .hst, .sch, .dp, .lnd] s t := by
  cases h
  repeat first
    | with_reducible apply Touch.refl
    | with_reducible assumption
    | (with_reducible apply Touch.via walnoIssue_touch; · decide)
    | with_reducible apply Touch.ite
    | intro _ _ _
    | intro _
    | extract_lets
    | split
    | (dsimp +zetaDelta only; split)

theorem execWalnoEnd_touch {ctx s t} (h : execWalnoEnd ctx s = .next t) : Touch [.regs, .mem, .poison, .hst, .sch, .dp, .lnd] s t := by
  cases h
  repeat first
    | with_reducible apply Touch.refl
    | with_reducible assumption
    | (with_reducible apply Touch.via walnoIssue_touch; · decide)
    | with_reducible apply Touch.ite
    | intro _ _ _
    | intro _
    | extract_lets
    | split
    | (dsimp +zetaDelta only; split)

theorem execWalnoBr_touch {ctx target s t} (h : execWalnoBr ctx target s = .next t) : Touch [.regs, .mem, .poison, .hst, .sch, .dp, .lnd] s t := by
  cases h
  repeat first
    | with_reducible apply Touch.refl
    | with_reducible assumption
    | (with_reducible apply Touch.via walnoIssue_touch; · decide)
    | with_reducible apply Touch.ite
    | intro _ _ _
    | intro _
    | extract_lets
    | split
    | (dsimp +zetaDelta only; split)

theorem execWalnoBrc_touch {ctx acc cond target s t} (h : execWalnoBrc ctx acc cond target s = .next t) : Touch [.regs, .mem, .poison, .hst, .sch, .dp, .lnd] s t := by
  cases h
  repeat first
    | with_reducible apply Touch.refl
    | with_reducible assumption
    | (with_reducible apply Touch.via walnoIssue_touch; · decide)
    | with_reducible apply Touch.ite
    | intro _ _ _
    | intro _
    | extract_lets
    | split
    | (dsimp +zetaDelta only; split)

theorem execWalnoLoop_touch {ctx count len s t} (h : execWalnoLoop ctx count len s = .next t) : Touch [.regs, .mem, .poison, .hst, .sch, .dp, .lnd] s t := by
  cases h
  repeat first
    | with_reducible apply Touch.refl
    | with_reducible assumption
    | (with_reducible apply Touch.via walnoIssue_touch; · decide)
    | with_reducible apply Touch.ite
    | intro _ _ _
    | intro _
    | extract_lets
    | split
    | (dsimp +zetaDelta only; split)

theorem execWalnoRep_touch {ctx count s t} (h : execWalnoRep ctx count s = .next t) : Touch [.regs, .mem, .poison, .hst, .sch, .dp, .lnd] s t := by
  cases h
  repeat first
    | with_reducible apply Touch.refl
    | with_reducible assumption
    | (with_reducible apply Touch.via walnoIssue_touch; · decide)
    | with_reducible apply Touch.ite
    | intro _ _ _
    | intro _
    | extract_lets
    | split
    | (dsimp +zetaDelta only; split)

theorem execWalnoMac_touch {ctx acc xg xpm sg spm sb s t} (h : execWalnoMac ctx acc xg xpm sg spm sb s = .next t) : Touch [.regs, .mem, .poison, .hst, .sch, .dp, .lnd] s t := by
  cases h
  repeat first
    | with_reducible apply Touch.refl
    | with_reducible assumption
    | (with_reducible apply Touch.via walnoIssue_touch; · decide)
    | with_reducible apply Touch.ite
    | intro _ _ _
    | intro _
    | extract_lets
    | split
    | (dsimp +zetaDelta only; split)

theorem execWalnoMsu_touch {ctx acc xg xpm sg spm sb s t} (h : execWalnoMsu ctx acc xg xpm sg spm sb s = .next t) : Touch [.regs, .mem, .poison, .hst, .sch, .dp, .lnd] s t := by
  cases h
  repeat first
    | with_reducible apply Touch.refl
    | with_reducible assumption
    | (with_reducible apply Touch.via walnoIssue_touch; · decide)
    | with_reducible apply Touch.ite
    | intro _ _ _
    | intro _
    | extract_lets
    | split
    | (dsimp +zetaDelta only; split)

theorem execWalnoMul_touch {ctx acc xg xpm sg spm sb s t} (h : execWalnoMul ctx acc xg xpm sg spm sb s = .next t) : Touch [.regs, .mem, .poison, .hst, .sch, .dp, .lnd] s t := by
  cases h
  repeat first
    | with_reducible apply Touch.refl
    | with_reducible assumption
    | (with_reducible apply Touch.via walnoIssue_touch; · decide)
    | with_reducible apply Touch.ite
    | intro _ _ _
    | intro _
    | extract_lets
    | split
    | (dsimp +zetaDelta only; split)

theorem execWalnoMuln_touch {ctx acc xg xpm sg spm sb s t} (h : execWalnoMuln ctx acc xg xpm sg spm sb s = .next t) : Touch [.regs, .mem, .poison, .hst, .sch, .dp, .lnd] s t := by
  cases h
  repeat first
    | with_reducible apply Touch.refl
    | with_reducible assumption
    | (with_reducible apply Touch.via walnoIssue_touch; · decide)
    | with_reducible apply Touch.ite
    | intro _ _ _
    | intro _
    | extract_lets
    | split
    | (dsimp +zetaDelta only; split)

theorem execWalnoClr_touch {ctx acc s t} (h : execWalnoClr ctx acc s = .next t) : Touch [.regs, .mem, .poison, .hst, .sch, .dp, .lnd] s t := by
  cases h
  repeat first
    | with_reducible apply Touch.refl
    | with_reducible assumption
    | (with_reducible apply Touch.via walnoIssue_touch; · decide)
    | with_reducible apply Touch.ite
    | intro _ _ _
    | intro _
    | extract_lets
    | split
    | (dsimp +zetaDelta only; split)

theorem execWalnoMov_touch {ctx acc src s t} (h : execWalnoMov ctx acc src s = .next t) : Touch [.regs, .mem, .poison, .hst, .sch, .dp, .lnd] s t := by
  cases h
  repeat first
    | with_reducible apply Touch.refl
    | with_reducible assumption
    | (with_reducible apply Touch.via walnoIssue_touch; · decide)
    | with_reducible apply Touch.ite
    | intro _ _ _
    | intro _
    | extract_lets
    | split
    | (dsimp +zetaDelta only; split)

theorem execWalnoAdda_touch {ctx acc src s t} (h : execWalnoAdda ctx acc src s = .next t) : Touch [.regs, .mem, .poison, .hst, .sch, .dp, .lnd] s t := by
  cases h
  repeat first
    | with_reducible apply Touch.refl
    | with_reducible assumption
    | (with_reducible apply Touch.via walnoIssue_touch; · decide)
    | with_reducible apply Touch.ite
    | intro _ _ _
    | intro _
    | extract_lets
    | split
    | (dsimp +zetaDelta only; split)

theorem execWalnoSuba_touch {ctx acc src s t} (h : execWalnoSuba ctx acc src s = .next t) : Touch [.regs, .mem, .poison, .hst, .sch, .dp, .lnd] s t := by
  cases h
  repeat first
    | with_reducible apply Touch.refl
    | with_reducible assumption
    | (with_reducible apply Touch.via walnoIssue_touch; · decide)
    | with_reducible apply Touch.ite
    | intro _ _ _
    | intro _
    | extract_lets
    | split
    | (dsimp +zetaDelta only; split)

theorem execWalnoNeg_touch {ctx acc s t} (h : execWalnoNeg ctx acc s = .next t) : Touch [.regs, .mem, .poison, .hst, .sch, .dp, .lnd] s t := by
  cases h
  repeat first
    | with_reducible apply Touch.refl
    | with_reducible assumption
    | (with_reducible apply Touch.via walnoIssue_touch; · decide)
    | with_reducible apply Touch.ite
    | intro _ _ _
    | intro _
    | extract_lets
    | split
    | (dsimp +zetaDelta only; split)

theorem execWalnoClmp_touch {ctx acc lo hi s t} (h : execWalnoClmp ctx acc lo hi s = .next t) : Touch [.regs, .mem, .poison, .hst, .sch, .dp, .lnd] s t := by
  cases h
  repeat first
    | with_reducible apply Touch.refl
    | with_reducible assumption
    | (with_reducible apply Touch.via walnoIssue_touch; · decide)
    | with_reducible apply Touch.ite
    | intro _ _ _
    | intro _
    | extract_lets
    | split
    | (dsimp +zetaDelta only; split)

theorem execWalnoLde_touch {ctx acc g pm lane s t} (h : execWalnoLde ctx acc g pm lane s = .next t) : Touch [.regs, .mem, .poison, .hst, .sch, .dp, .lnd] s t := by
  cases h
  repeat first
    | with_reducible apply Touch.refl
    | with_reducible assumption
    | (with_reducible apply Touch.via walnoIssue_touch; · decide)
    | with_reducible apply Touch.ite
    | intro _ _ _
    | intro _
    | extract_lets
    | split
    | (dsimp +zetaDelta only; split)

theorem execWalnoLdq_touch {ctx acc g pm lane f s t} (h : execWalnoLdq ctx acc g pm lane f s = .next t) : Touch [.regs, .mem, .poison, .hst, .sch, .dp, .lnd] s t := by
  cases h
  repeat first
    | with_reducible apply Touch.refl
    | with_reducible assumption
    | (with_reducible apply Touch.via walnoIssue_touch; · decide)
    | with_reducible apply Touch.ite
    | intro _ _ _
    | intro _
    | extract_lets
    | split
    | (dsimp +zetaDelta only; split)

theorem execWalnoLdi_touch {ctx acc src inst field s t} (h : execWalnoLdi ctx acc src inst field s = .next t) : Touch [.regs, .mem, .poison, .hst, .sch, .dp, .lnd] s t := by
  cases h
  repeat first
    | with_reducible apply Touch.refl
    | with_reducible assumption
    | (with_reducible apply Touch.via walnoIssue_touch; · decide)
    | with_reducible apply Touch.ite
    | intro _ _ _
    | intro _
    | extract_lets
    | split
    | (dsimp +zetaDelta only; split)

theorem execWalnoSta_touch {ctx acc g pm lane s t} (h : execWalnoSta ctx acc g pm lane s = .next t) : Touch [.regs, .mem, .poison, .hst, .sch, .dp, .lnd] s t := by
  cases h
  repeat first
    | with_reducible apply Touch.refl
    | with_reducible assumption
    | (with_reducible apply Touch.via walnoIssue_touch; · decide)
    | with_reducible apply Touch.ite
    | intro _ _ _
    | intro _
    | extract_lets
    | split
    | (dsimp +zetaDelta only; split)

theorem execWalnoStq_touch {ctx acc g pm lane f s t} (h : execWalnoStq ctx acc g pm lane f s = .next t) : Touch [.regs, .mem, .poison, .hst, .sch, .dp, .lnd] s t := by
  cases h
  repeat first
    | with_reducible apply Touch.refl
    | with_reducible assumption
    | (with_reducible apply Touch.via walnoIssue_touch; · decide)
    | with_reducible apply Touch.ite
    | intro _ _ _
    | intro _
    | extract_lets
    | split
    | (dsimp +zetaDelta only; split)

theorem execWalnoAgset_touch {ctx g base len unit s t} (h : execWalnoAgset ctx g base len unit s = .next t) : Touch [.regs, .mem, .poison, .hst, .sch, .dp, .lnd] s t := by
  cases h
  repeat first
    | with_reducible apply Touch.refl
    | with_reducible assumption
    | (with_reducible apply Touch.via walnoIssue_touch; · decide)
    | with_reducible apply Touch.ite
    | intro _ _ _
    | intro _
    | extract_lets
    | split
    | (dsimp +zetaDelta only; split)

theorem execWalnoAgstg_touch {ctx g hdr ls step s t} (h : execWalnoAgstg ctx g hdr ls step s = .next t) : Touch [.regs, .mem, .poison, .hst, .sch, .dp, .lnd] s t := by
  cases h
  repeat first
    | with_reducible apply Touch.refl
    | with_reducible assumption
    | (with_reducible apply Touch.via walnoIssue_touch; · decide)
    | with_reducible apply Touch.ite
    | intro _ _ _
    | intro _
    | extract_lets
    | split
    | (dsimp +zetaDelta only; split)

theorem execWalnoAgmod_touch {ctx g step ls exp s t} (h : execWalnoAgmod ctx g step ls exp s = .next t) : Touch [.regs, .mem, .poison, .hst, .sch, .dp, .lnd] s t := by
  cases h
  repeat first
    | with_reducible apply Touch.refl
    | with_reducible assumption
    | (with_reducible apply Touch.via walnoIssue_touch; · decide)
    | with_reducible apply Touch.ite
    | intro _ _ _
    | intro _
    | extract_lets
    | split
    | (dsimp +zetaDelta only; split)

theorem execWalnoAgptr_touch {ctx g ptr s t} (h : execWalnoAgptr ctx g ptr s = .next t) : Touch [.regs, .mem, .poison, .hst, .sch, .dp, .lnd] s t := by
  cases h
  repeat first
    | with_reducible apply Touch.refl
    | with_reducible assumption
    | (with_reducible apply Touch.via walnoIssue_touch; · decide)
    | with_reducible apply Touch.ite
    | intro _ _ _
    | intro _
    | extract_lets
    | split
    | (dsimp +zetaDelta only; split)

theorem execProgLoad_touch {h1 slot base len crc s t} (h : execProgLoad h1 slot base len crc s = .next t) : Touch [.regs, .latch, .mem, .poison, .tabs, .tbs, .hst, .sch, .cen, .dp, .trj, .sep, .saf, .fbk, .pwm, .adc, .twl, .links, .dmk, .lnd, .acq, .boot, .out] s t := by
  cases h
  repeat first
    | with_reducible apply Touch.refl
    | with_reducible assumption
    | (with_reducible apply Touch.via blockNow_touch; · decide)
    | with_reducible apply Touch.ite
    | intro _ _ _
    | intro _
    | extract_lets
    | split
    | (dsimp +zetaDelta only; split)

theorem execProgUnload_touch {h1 slot s t} (h : execProgUnload h1 slot s = .next t) : Touch [.regs, .latch, .mem, .poison, .tabs, .tbs, .hst, .sch, .cen, .dp, .trj, .sep, .saf, .fbk, .pwm, .adc, .twl, .links, .dmk, .lnd, .acq, .boot, .out] s t := by
  cases h
  repeat first
    | with_reducible apply Touch.refl
    | with_reducible assumption
    | (with_reducible apply Touch.via blockNow_touch; · decide)
    | with_reducible apply Touch.ite
    | intro _ _ _
    | intro _
    | extract_lets
    | split
    | (dsimp +zetaDelta only; split)

theorem execProgVerifyDone_touch {s t} (h : execProgVerifyDone s = .next t) : Touch [.regs, .hst, .dp] s t := by
  cases h
  repeat first
    | with_reducible apply Touch.refl
    | with_reducible assumption
    | (with_reducible apply Touch.via progVerifyDone_touch; · decide)
    | with_reducible apply Touch.ite
    | intro _ _ _
    | intro _
    | extract_lets
    | split
    | (dsimp +zetaDelta only; split)

end Sys2Proof.Machine
end

