-- ==== Sys2Proof/Machine/Ball.lean ====
section
/-! DEFINITION. The ball map (R689 to R693): what each of the 2704 balls carries. No command refers to a ball; the map ties the machine's inputs and outputs to the package. -/

namespace Sys2Proof.Machine

/-- Supplies (R694). -/
inductive Net where
  | vss | vdd | vddSram | vddAn | vddFelt | vddSd | vddSdh | vddio25 | vddio33 | vdda | vfuse
  deriving DecidableEq, Repr

/-- Groups of signal balls (R691). -/
inductive Sig where
  | fb | pwm | trip | gpi | cmpo | safeIn | testPulse | safeOut | flash | refClk | rstN | thermN | thermCritN | thermDiode | test
  | ain | adcVrefp | pcie | pcieRefclk | perstN | damask | laend | twill
  deriving DecidableEq, Repr

/-- What a ball carries: a supply, or position pos of instance n of a group of signals. -/
inductive Ball where
  | supply (net : Net)
  | signal (group : Sig) (n pos : Nat)
  deriving DecidableEq, Repr

/-- Instance and position of site s in a range that starts at first, size balls per instance (R691). -/
def Ball.at (g : Sig) (first size s : Nat) : Ball := .signal g ((s - first) / size) ((s - first) % size)

/-- The North band (R691). -/
def northSite (s : Nat) : Ball := if s < 256 then .at .fb 0 8 s else .supply .vddio33

/-- The South band (R691). -/
def southSite (s : Nat) : Ball :=
  if s < 144 then .at .pwm 0 2 s
  else if s < 152 then .at .trip 144 1 s
  else if s < 216 then .at .gpi 152 1 s
  else if s < 232 then .at .cmpo 216 1 s
  else if s < 264 then .at .safeIn 232 2 s
  else if s < 266 then .at .testPulse 264 1 s
  else if s < 290 then .at .safeOut 266 3 s
  else if s < 296 then .at .flash 290 6 s
  else if s = 296 then .signal .refClk 0 0
  else if s = 297 then .signal .rstN 0 0
  else if s = 298 then .signal .thermN 0 0
  else if s = 299 then .signal .thermCritN 0 0
  else if s < 302 then .at .thermDiode 300 2 s
  else if s = 302 then .supply .vfuse
  else if s < 307 then .at .test 303 1 s
  else .supply .vddio33

/-- The West band (R691). -/
def westSite (s : Nat) : Ball :=
  if s < 128 then .at .ain 0 1 s else if s = 128 then .signal .adcVrefp 0 0 else .supply .vdda

/-- The East band (R691); of a Twill branch, positions 0 to 3 are its port A, 4 to 7 its port B. -/
def eastSite (s : Nat) : Ball :=
  if s < 32 then .at .pcie 0 4 s
  else if s < 34 then .at .pcieRefclk 32 2 s
  else if s = 34 then .signal .perstN 0 0
  else if s = 35 then .supply .vddSdh
  else if s < 52 then .at .damask 36 4 s
  else if s < 60 then .at .laend 52 4 s
  else if s < 124 then .at .twill 60 8 s
  else if s < 146 then .supply .vddSd
  else .supply .vddSdh

/-- The supply of a core ball whose row and column add up to an odd number (R692). -/
def coreSupply (r c : Nat) : Net :=
  let u := r - 13
  let v := c - 13
  if v ≤ 3 then .vddAn
  else if 24 ≤ v then .vddio25
  else if u ≤ 3 then .vddSram
  else if 24 ≤ u then .vddFelt
  else .vdd

/-- Ball r:c, rows and columns 1 to 52 (R689, R690). -/
def ball (r c : Nat) : Ball :=
  if r ≤ 12 then (if r % 2 = 0 then .supply .vss else northSite (52 * ((r - 1) / 2) + (c - 1)))
  else if 41 ≤ r then (if r % 2 = 1 then .supply .vss else southSite (52 * ((52 - r) / 2) + (c - 1)))
  else if c ≤ 12 then (if c % 2 = 0 then .supply .vss else westSite (28 * ((c - 1) / 2) + (r - 13)))
  else if 41 ≤ c then (if c % 2 = 0 then .supply .vss else eastSite (28 * ((c - 41) / 2) + (r - 13)))
  else if (r + c) % 2 = 0 then .supply .vss
  else .supply (coreSupply r c)

/-- All balls, row by row. -/
def balls : List Ball := (List.range 52).flatMap fun r => (List.range 52).map fun c => ball (r + 1) (c + 1)

end Sys2Proof.Machine
end

