-- ==== Sys2Proof/WellFormed.lean ====
section
/-! DEFINITION. Which commands are well formed: every operand within the range its row gives it. The meanings are total; a command that is not well formed is no command of the controller, and no statement is about one. -/

namespace Sys2Proof

open Sys2Proof.Machine

/-- A descriptor's ring and tag (R104, R116). -/
def hdrWf (h : DescHdr) : Bool := decide (h.sq < 64) && decide (h.tag < 2 ^ 16)

/-- A link of R89: x1 to x8, 2.5 to 16 GT/s, BAR0 aligned to its 16 MiB, payload and read request sizes of the table. -/
def pcieWf (l : PcieLink) : Bool :=
  decide (l.width < 4) && decide (1 ≤ l.speed) && decide (l.speed ≤ 4) && l.config.bar0 % 2 ^ 24 == 0 && decide (l.config.bar0 < 2 ^ 64)
  && decide (l.config.payload ≤ 2) && decide (l.config.request ≤ 5)

/-- Bits of one byte of a code block (R42). -/
def flipWf (check : Bool) (f : ByteFlip) : Bool :=
  (if check then decide (16 ≤ f.byte) && decide (f.byte < 18) else decide (f.byte < 16)) && decide (f.bits < 256)

/-- The operands of a command lie within the ranges of its row. -/
def Instr.wf (i : Instr) : Bool :=
  match i with
  | .cellCycleT0 late => late.all fun a => decide (a < 128)
  | .cellCycleTs => true
  | .cellCycleTr => true
  | .cellCycleTc => true
  | .cycleEnd => true
  | .cycleStart => true
  | .cycleStop => true
  | .periodWrite period => decide (period < 4)
  | .tbsArm _ _ _ => true
  | .tbsCancel => true
  | .applyChange => true
  | .slewDone => true
  | .timeReadLatch off _ => decide (off < 2 ^ 24)
  | .timedStartFire => true
  | .refLoss => true
  | .pllLockRegain => true
  | .scrubRow data check => ((data ++ check).all fun f => decide (f.block < 9)) && data.all (flipWf false) && check.all (flipWf true)
  | .d3hotRequest => true
  | .idleTick => true
  | .doorbellCompletion _ _ => true
  | .doorbellDeadline => true
  | .ritLineRead line _ _ => decide (line < 9)
  | .descriptorFetch sq _ _ => decide (sq < 64)
  | .fenceRelease sq => decide (sq < 64)
  | .completionWrite => true
  | .overflowEvent ring => decide (ring < 8)
  | .msixMessage vector => decide (vector < 64)
  | .nop h => hdrWf h
  | .regWrite h items => hdrWf h && items.all (fun i => decide (i.1 < 2 ^ 24) && decide (i.2 < 2 ^ 32)) && decide (items.length < 8)
  | .regRead h offs => hdrWf h && offs.all (fun o => decide (o < 2 ^ 24)) && decide (offs.length < 8)
  | .wordWrite h waddr count ptr _ => hdrWf h && decide (waddr < 2 ^ 22) && decide (count < 2 ^ 16) && decide (ptr < 2 ^ 64)
  | .wordRead h waddr count ptr => hdrWf h && decide (waddr < 2 ^ 22) && decide (count < 2 ^ 16) && decide (ptr < 2 ^ 64)
  | .tableWrite h table first count ptr _ => hdrWf h && decide (table < 2 ^ 16) && decide (first < 2 ^ 32) && decide (count < 2 ^ 32) && decide (ptr < 2 ^ 64)
  | .tableRead h table first count ptr => hdrWf h && decide (table < 2 ^ 16) && decide (first < 2 ^ 32) && decide (count < 2 ^ 32) && decide (ptr < 2 ^ 64)
  | .timeCorr h ctl step rate slew at_ => hdrWf h && decide (ctl < 2 ^ 64) && decide (step < 2 ^ 72) && decide (rate < 2 ^ 32) && decide (slew < 2 ^ 32) && decide (at_ < 2 ^ 72)
  | .stop h groups kind => hdrWf h && decide (groups < 256) && decide (kind < 256)
  | .clearMiss h axes => hdrWf h && decide (axes < 2 ^ 128)
  | .registerWrite off value _ => decide (off < 2 ^ 24) && decide (value < 2 ^ 32)
  | .commitLockSet => true
  | .commitLockClear => true
  | .ringEnable kind n => decide (kind < 3) && decide (n < if kind = 2 then 8 else 64)
  | .ringDisable kind n => decide (kind < 3) && decide (n < if kind = 2 then 8 else 64)
  | .ctxEnable h mask => h.all hdrWf && decide (mask < 2 ^ 128)
  | .ctxDisable h mask => h.all hdrWf && decide (mask < 2 ^ 128)
  | .ctxRelease h mask => hdrWf h && decide (mask < 2 ^ 128)
  | .clrStat => true
  | .delayTick => true
  | .agePromote => true
  | .dispatch n _ => decide (n < 128)
  | .preempt n => decide (n < 128)
  | .ctxComplete n => decide (n < 128)
  | .svcDispatch => true
  | .svcComplete core => decide (core < 8)
  | .lawEnable n => decide (n < 256)
  | .lawDisable n => decide (n < 256)
  | .walnoNop ctx => decide (ctx < 128)
  | .endRun ctx => decide (ctx < 128)
  | .br ctx target => decide (ctx < 128) && decide (target < 2 ^ 22)
  | .brc ctx acc cond target => decide (ctx < 128) && decide (acc < 4) && decide (cond < 6) && decide (target < 2 ^ 22)
  | .loop ctx count len => decide (ctx < 128) && decide (1 ≤ count) && decide (count ≤ 4096) && decide (1 ≤ len) && decide (len ≤ 16)
  | .rep ctx count => decide (ctx < 128) && decide (1 ≤ count) && decide (count ≤ 4096)
  | .mac ctx acc xg xpm sg spm sb => decide (ctx < 128) && decide (acc < 4) && decide (xg < 16) && decide (xpm < 4) && decide (sg < 16) && decide (spm < 4) && decide (sb < 2)
  | .msu ctx acc xg xpm sg spm sb => decide (ctx < 128) && decide (acc < 4) && decide (xg < 16) && decide (xpm < 4) && decide (sg < 16) && decide (spm < 4) && decide (sb < 2)
  | .mul ctx acc xg xpm sg spm sb => decide (ctx < 128) && decide (acc < 4) && decide (xg < 16) && decide (xpm < 4) && decide (sg < 16) && decide (spm < 4) && decide (sb < 2)
  | .muln ctx acc xg xpm sg spm sb => decide (ctx < 128) && decide (acc < 4) && decide (xg < 16) && decide (xpm < 4) && decide (sg < 16) && decide (spm < 4) && decide (sb < 2)
  | .clr ctx acc => decide (ctx < 128) && decide (acc < 4)
  | .mov ctx acc src => decide (ctx < 128) && decide (acc < 4) && decide (src < 4)
  | .adda ctx acc src => decide (ctx < 128) && decide (acc < 4) && decide (src < 4)
  | .suba ctx acc src => decide (ctx < 128) && decide (acc < 4) && decide (src < 4)
  | .neg ctx acc => decide (ctx < 128) && decide (acc < 4)
  | .clmp ctx acc lo hi => decide (ctx < 128) && decide (acc < 4) && decide (lo < 16) && decide (hi < 16)
  | .lde ctx acc g pm lane => decide (ctx < 128) && decide (acc < 4) && decide (g < 16) && decide (pm < 4) && decide (lane < 2)
  | .ldq ctx acc g pm lane f => decide (ctx < 128) && decide (acc < 4) && decide (g < 16) && decide (pm < 4) && decide (lane < 2) && decide (f < 72)
  | .ldi ctx acc src inst field => decide (ctx < 128) && decide (acc < 4) && decide (src < 16) && decide (inst < 2 ^ 12) && decide (field < 256)
  | .sta ctx acc g pm lane => decide (ctx < 128) && decide (acc < 4) && decide (g < 16) && decide (pm < 4) && decide (lane < 2)
  | .stq ctx acc g pm lane f => decide (ctx < 128) && decide (acc < 4) && decide (g < 16) && decide (pm < 4) && decide (lane < 2) && decide (f < 72)
  | .agset ctx g base len unit => decide (ctx < 128) && decide (g < 16) && decide (base < 2 ^ 23) && decide (len < 2 ^ 14) && decide (unit < 2)
  | .agstg ctx g hdr ls step => decide (ctx < 128) && decide (g < 16) && decide (hdr < 2 ^ 22) && decide (ls < 2 ^ 14) && decide (step < 2 ^ 14)
  | .agmod ctx g step ls exp => decide (ctx < 128) && decide (g < 16) && decide (step < 2 ^ 14) && decide (ls < 2 ^ 14) && decide (exp < 256)
  | .agptr ctx g ptr => decide (ctx < 128) && decide (g < 16) && decide (ptr < 2 ^ 14)
  | .progLoad h slot base len crc => hdrWf h && decide (slot < 32) && decide (base < 2 ^ 22) && decide (len < 2 ^ 14) && decide (crc < 2 ^ 32)
  | .progUnload h slot => hdrWf h && decide (slot < 32)
  | .progVerifyDone => true
  | .move h arm _ targets ptr => hdrWf h && decide (arm < 16) && decide (targets.length < 13) && targets.all (fun z => decide (-(2 ^ 71) ≤ z) && decide (z < 2 ^ 71)) && decide (ptr < 2 ^ 64)
  | .vel h axis speed => hdrWf h && decide (axis < 128) && decide (-(2 ^ 63) ≤ speed) && decide (speed < 2 ^ 63)
  | .knotPush h axis knots ptr => hdrWf h && decide (axis < 128) && decide (knots.length < 512) && knots.all (fun k => decide (k.t < 2 ^ 72) && decide (k.ftag < 256)) && decide (ptr < 2 ^ 64)
  | .tblStart h group => hdrWf h && decide (group < 8)
  | .tblClear h axis => hdrWf h && decide (axis < 128)
  | .pause h groups => hdrWf h && decide (groups < 256)
  | .resume h groups => hdrWf h && decide (groups < 256)
  | .abort h groups => hdrWf h && decide (groups < 256)
  | .home h axis => hdrWf h && decide (axis < 128)
  | .setPos h axis pos ptr => hdrWf h && decide (axis < 128) && decide (-(2 ^ 71) ≤ pos) && decide (pos < 2 ^ 71) && decide (ptr < 2 ^ 64)
  | .auxMove h aux _ target ptr => hdrWf h && decide (aux < 16) && decide (-(2 ^ 71) ≤ target) && decide (target < 2 ^ 71) && decide (ptr < 2 ^ 64)
  | .auxVel h aux speed => hdrWf h && decide (aux < 16) && decide (-(2 ^ 63) ≤ speed) && decide (speed < 2 ^ 63)
  | .limitInputConfirm a j _ gpi => decide (a < 128) && decide (j < 3) && decide (gpi < 2 ^ 64)
  | .axisEnable a gpi => decide (a < 128) && decide (gpi < 2 ^ 64)
  | .cmpArm c pos => decide (c < 32) && pos.all (fun z => decide (-(2 ^ 71) ≤ z) && decide (z < 2 ^ 71))
  | .cmpPulseEnd c => decide (c < 32)
  | .auxHoldCurrent n => decide (n < 16)
  | .sensorFrame input _ => decide (input < 16)
  | .sensFrame h sensor ptr _ => hdrWf h && decide (sensor < 16) && decide (ptr < 2 ^ 64)
  | .sepCompute _ => true
  | .sepHandover sp felt _ => (sp ++ felt).all fun f => decide (f.value < 2 ^ 36) && decide (f.compl < 2 ^ 36)
  | .sepLate => true
  | .safetyVerdict ch g _ => decide (ch < 2) && decide (g < 8)
  | .sepEnable => true
  | .positionRecord ch flips => decide (ch < 2) && flips.all fun f => decide (f.word < 1056)
  | .dataTimeout => true
  | .ssTmaxExpiry g => decide (g < 8)
  | .crossCompare _ ch => decide (ch < 2)
  | .supplyMonitorFault ch => decide (ch < 2)
  | .oscillatorFault ch => decide (ch < 2)
  | .paramRecheck ch value => decide (ch < 2) && decide (value < 2 ^ 32)
  | .safeInputChange ch input b _ => decide (ch < 2) && decide (input < 16) && decide (b < 2)
  | .discLatch input => decide (input < 16)
  | .testPulseCheck input _ => decide (input < 16)
  | .resetEdge input => decide (input < 16)
  | .resetStuck input => decide (input < 16)
  | .paramOpen h => hdrWf h
  | .paramClose h => hdrWf h
  | .confirm h value compl => hdrWf h && decide (value < 2 ^ 64) && decide (compl < 2 ^ 64)
  | .confirmTimeout => true
  | .release h groups compl => hdrWf h && decide (groups < 2 ^ 64) && decide (compl < 2 ^ 64)
  | .bchTimeout a => decide (a < 128)
  | .safeOutputTest o element _ => decide (o < 8) && decide (element < 2)
  | .edmTimeout o => decide (o < 8)
  | .feedbackInputChange n mask ta tb tz => decide (n < 32) && decide (mask < 8) && [ta, tb, tz].all fun raw => raw % 32 == 0
  | .ssiFrameDone n _ _ _ => decide (n < 32)
  | .lossChange n mask => decide (n < 32) && decide (mask < 8)
  | .clrFault n => decide (n < 32)
  | .fbkEnable n => decide (n < 32)
  | .feltFeedbackLatch n told => decide (n < 32) && told.1.all fun l => decide (l.1 < 8) && decide (l.2 < 8)
  | .pwmEnable n => decide (n < 72)
  | .pwmReload n => decide (n < 72)
  | .pwmSyncReload => true
  | .pwmHoldLimit n => decide (n < 72)
  | .pwmDutyWrite n duty => decide (n < 72) && decide (duty < 2 ^ 32)
  | .pwmPerWrite n per => decide (n < 72) && decide (per < 2 ^ 32)
  | .pwmRefEdge n => decide (n < 72)
  | .deadTimeEnd n => decide (n < 72)
  | .blankWindowClose g => decide (g < 16)
  | .tripLatch input _ => decide (input < 8)
  | .tripForce g => decide (g < 16)
  | .tripClear g => decide (g < 16)
  | .gateLineChange ch set => decide (ch < 2) && decide (set < 24)
  | .adcEnable c => decide (c < 16)
  | .conversionDone c code => decide (c < 16) && decide (code < 2 ^ 14)
  | .scanGo c => decide (c < 16)
  | .injGo c => decide (c < 16)
  | .cal c => decide (c < 16)
  | .clrOpen c => decide (c < 16)
  | .calDone c => decide (c < 16)
  | .refSettle c => decide (c < 16)
  | .extRefChange _ => true
  | .adcResultRead c => decide (c < 16)
  | .tdacWrite c code tol => decide (c < 16) && decide (code < 2 ^ 12) && decide (tol < 256)
  | .twlEnable b => decide (b < 8)
  | .twlDisable b => decide (b < 8)
  | .syncFrameSend b => decide (b < 8)
  | .pollFrameSend b => decide (b < 8)
  | .svcFrameSend b => decide (b < 8)
  | .safeFrameSend b => decide (b < 8)
  | .cmdFrameSend b => decide (b < 8)
  | .twillCopyReceive b port raw _ => decide (b < 8) && decide (port < 2) && raw % 32 == 0
  | .ringOpen b port => decide (b < 8) && decide (port < 2)
  | .branchStateAdvance b => decide (b < 8)
  | .modeSwitch h mode cycle => hdrWf h && decide (mode < 8) && decide (cycle < 2 ^ 64)
  | .modeSwitchCheck => true
  | .modeSwitchApply => true
  | .svcXfer h b node ptr _ => hdrWf h && decide (b < 8) && decide (node < 16) && decide (ptr < 2 ^ 64)
  | .svcTimeout b => decide (b < 8)
  | .guardBlock b _ => decide (b < 8)
  | .dmkPortEnable p => decide (p < 4)
  | .dmkPortDisable p => decide (p < 4)
  | .linkTrainDone p => decide (p < 6)
  | .trainTimeout p => decide (p < 6)
  | .linkFrameSend p => decide (p < 6)
  | .linkFrameReceive p raw _ => decide (p < 4) && raw % 32 == 0
  | .linkLoss p reason => decide (p < 6) && decide (reason < 3)
  | .damaskFrameReceive port raw _ _ flips check _ => decide (port < 4) && raw % 32 == 0 && flips.all (flipWf false) && check.all (flipWf true)
  | .reassemblyTimeout src stream => decide (src < 2 ^ 12) && decide (stream < 256)
  | .egressUnitEnd p => decide (p < 4)
  | .c0Send r => decide (r < 64)
  | .discovery _ => true
  | .discRepeat => true
  | .routeTableTimeout => true
  | .timeFrameSend => true
  | .roundClose _ => true
  | .listenTimeout => true
  | .modePropose h mode cycle => hdrWf h && decide (mode < 8) && decide (cycle < 2 ^ 64)
  | .modeAgreementStep => true
  | .rediscover h => hdrWf h
  | .hostSend h dst stream ptr _ => hdrWf h && decide (dst < 2 ^ 12) && decide (stream < 256) && decide (ptr < 2 ^ 64)
  | .pairEnable info => decide (info.uid < 2 ^ 64) && decide (info.digest < 2 ^ 32) && decide (info.chk < 2 ^ 32)
  | .pairDisable => true
  | .laendFrameReceive lane raw _ _ flips check _ => decide (lane < 2) && raw % 32 == 0 && flips.all (flipWf false) && check.all (flipWf true)
  | .mirrorDeadline => true
  | .streamTimeout b type => decide (b < 8) && decide (type < 8)
  | .digestTimeout => true
  | .hbDeadline => true
  | .selfTestPass _ => true
  | .switchover h => hdrWf h
  | .acqStart h units => hdrWf h && decide (units < 256)
  | .acqStop h units => hdrWf h && decide (units < 256)
  | .acqForce h units => hdrWf h && decide (units < 256)
  | .acqSample _ full gpi => decide (full < 256) && decide (gpi < 2 ^ 64)
  | .powerOnReset _ _ => true
  | .externalReset _ _ => true
  | .bootRst value => decide (value < 2 ^ 32)
  | .deviceReset _ _ => true
  | .watchdogExpiry => true
  | .watchdogReset _ _ => true
  | .linkReset _ _ _ link => link.all pcieWf
  | .bootRomDone _ _ _ link => link.all pcieWf
  | .bootLoadDone => true
  | .bootVerifyDone => true
  | .bootSafetyDone _ _ => true
  | .booted link => link.all pcieWf
  | .attest h ptr nonce => hdrWf h && decide (nonce.length = 32) && decide (ptr < 2 ^ 64)
  | .attestDone => true
  | .flashWrite h ofs ptr _ => hdrWf h && decide (ofs < 2 ^ 64) && decide (ptr < 2 ^ 64)
  | .flashVerify h => hdrWf h
  | .svnCommit h dom _ => hdrWf h && decide (dom < 2)
  | .keyRevoke h dom slot _ => hdrWf h && decide (dom < 2) && decide (slot < 4)
  | .recoveryWrite => true
  | .recoveryReset => true
  | .thermalSample readings => decide (readings.length = 4)
  | .paramCloseDone _ => true
  | .flashWriteDone _ _ => true
  | .fuseBurnDone _ _ => true
  | .recoveryWriteDone _ _ => true
  | .pwmTop n => decide (n < 72)
  | .pwmCmpb n => decide (n < 72)
  | .joinSyncTimeout => true
  | .tdacSettled c => decide (c < 16)

end Sys2Proof
end

