-- ==== Sys2Proof/Tests/Slice0.lean ====
section
/-! SUPPORT. The author's own tests: one step each on a small state, the refusals of the well-formedness checks, and the witnesses of the statements' premises. -/

namespace Sys2Proof.Tests

open Sys2Proof Sys2Proof.Machine

set_option Elab.async false

/-! ### Small states -/

/-- The runtime serves. -/
def up : State := { State.reset.setF F.HST_STAT_RUNTIME 1 with upd := [] }

/-- The cell cycle runs in its cycle 5, ns after that cycle's T0. -/
def cyc (ns : Nat) : State :=
  { (up.setF F.TBS_STAT_CYC_RUN 1).setF F.TBS_CYC_CTL_RUN 1 with
    frc := 156250 + ns, upd := []
    tbs := { Tbs.reset with started := true, k := 5, t0 := 156250, nextT0 := 187500, t0Edge := 156250, tsDone := false, trDone := false,
                            tcDone := false } }

/-- No register has been updated at the present edge. -/
def still (s : State) : State := { s with upd := [] }

/-- The commit lock is set. -/
def lockedUp : State := still (up.setF F.HST_LOCK_COMMIT 1)

/-- The state after a command. -/
def after (c : Instr) (s : State) : State := match exec c s with | .next t => t | _ => s

def h0 : DescHdr := { sq := 0, tag := 7, irq := false }

/-! ### Steps, stores, registers -/

/-- The counter starts at 0 and a step on an empty queue is one edge (R55). -/
theorem test_edge : (match step State.reset with | .next t => t.frc | _ => 7) = 1 := by decide +kernel

/-- Premises of StepRunsTheFrontCommand, and the step. -/
theorem test_front : (State.reset.withPending [.cycleStart]).pending = .cycleStart :: []
    ∧ (match step (State.reset.withPending [.cycleStart, .clrStat]) with | .next t => t.pending | _ => []) = [.clrStat] := by decide +kernel

/-- Premises of StepKeepsStoresCanonical and of the reading laws of SRAM: two listed bytes. -/
theorem test_stores : Memory.wf (State.reset.writeWord 3 0x12).mem = true
    ∧ ((State.reset.writeWord 3 0x12).writeWord 3 0).mem = [] ∧ (State.reset.writeWord 3 0x12).readWord 3 = 0x12 := by decide +kernel

/-- A W1C bit clears by a written 1 and the premise of the merge rule holds of a register that has both kinds. -/
theorem test_merge : ((findReg R.HST_FAULT_FLAG).map fun d => (d.1.rw &&& d.1.w1c, d.1.merge 1 3 0)) = some (0, 2) := by decide +kernel

/-- An accepted write of one field, of one register; a rejected one: a reserved bit, a write that is not whole. -/
theorem test_writes : Accepts (F.TBS_CYC_CTL_RUN.off 0 0) (fieldValue F.TBS_CYC_CTL_RUN 1 0 0 up) up
    ∧ Accepts R.HST_LOCK 1 up ∧ Accepts R.TBS_P_CMD 2 up
    ∧ Rejects R.HST_LOCK 2 true up ∧ Rejects R.HST_LOCK 1 false up ∧ Rejects 0xFFFFFC 0 true up
    ∧ barCode R.HST_LOCK 1 false up = EC.ALIGN := by decide +kernel

/-- The commit lock is clear and may be set; set, a write of an RWL field (TBS_CYC_CTL's PERIOD) is refused, and so is its
clearing while the cell cycle runs (R134). -/
theorem test_lock : Accepts R.HST_LOCK 1 up ∧ Accepts R.HST_LOCK 0 lockedUp
    ∧ ((findReg R.TBS_CYC_CTL).any fun d => 2 &&& d.1.rwl != (lockedUp.rd R.TBS_CYC_CTL).toNat &&& d.1.rwl) = true
    ∧ barCode R.TBS_CYC_CTL 2 true lockedUp = EC.LOCKED
    ∧ barCode R.HST_LOCK 0 true ((cyc 0).setF F.HST_LOCK_COMMIT 1) = EC.STATE := by decide +kernel

/-- Before the runtime serves (R668). -/
theorem test_early : barCode R.HST_LOCK 1 true State.reset = EC.STATE ∧ earlyRead R.TBS_NOW_0 = false
    ∧ (regRead R.TBS_FRC_0 State.reset).1 = 0 := by decide +kernel

/-- A read latches the whole time (R72). -/
theorem test_latch : (regRead R.TBS_FRC_1 { after (.timeReadLatch R.TBS_FRC_0 4) { up with frc := 2 ^ 33 } with frc := 5 }).1 = 2
    ∧ (after (.timeReadLatch R.TBS_NOW_0 2) up).getF F.HST_ERR_CODE_CODE = EC.ALIGN := by decide +kernel

/-! ### Time base -/

/-- A change armed at one edge with AT 0 applies at the next while the cell cycle stands still (R61 to R63). -/
def armed : State := still (after (.tbsArm true false false) (still (up.setF F.TBS_P_STEP_V 512)))

theorem test_arm : Accepts R.TBS_P_CMD 17 (up.setF F.TBS_P_STEP_V 512) ∧ armed.tbs.pend ≠ none
    ∧ (∀ c ∈ armed.tbs.pend, applyDue c armed = false ∧ applyDue c { armed with frc := 1 } = true ∧ c.by_ = none)
    ∧ (after .applyChange { armed with frc := 1 }).now = 256 + 512 := by decide +kernel

/-- A second arm meets the pending one; a cancel discards it; an arm of a descriptor at the same edge gives way (R68, R70). -/
theorem test_busy : (after (.tbsArm true false false) armed).getF F.HST_ERR_CODE_CODE = EC.BUSY ∧ Accepts R.TBS_P_CMD 2 armed
    ∧ (after .tbsCancel armed).tbs.pend = none
    ∧ Accepts R.TBS_P_CMD 17 (dropDescArm (armed.withTbs fun b => { b with pend := b.pend.map fun c => { c with by_ := some (0, 0) } })) := by
  decide +kernel

/-- A slew of 2 units of 1/256 ns is made after enough edges (R65). -/
theorem test_slew : slewDue { armed.setF F.TBS_STAT_SLEWING 1 with
    frc := 1000, tbs := { Tbs.reset with slewAmt := 2, par := { TbParams.reset with slew := 2 ^ 40 } } } = true := by decide +kernel

/-- The instants of cycle 5: T0 at the next one, TS, TR, TC in their order, the end after a stop, an idle tick (R31, R78, R79). -/
theorem test_instants : (cyc 31250).t0Due = true ∧ (cyc 0).t0Due = false ∧ (cyc 0).reached (cyc 0).tsAt = true
    ∧ ((cyc 31250).withTbs fun b => { b with tsDone := true }).reached (cyc 0).trAt = true
    ∧ (cyc 29250).reached (cyc 0).tcAt = true ∧ (cyc 29249).reached (cyc 0).tcAt = false
    ∧ ((cyc 31250).withTbs fun b => { b with stopping := true }).endDue = true
    ∧ ((cyc 31249).withTbs fun b => { b with stopping := true }).endDue = false
    ∧ { up with frc := 31250 }.hst.tickNo ≠ { up with frc := 31250 }.ns / 31250 := by decide +kernel

/-- A start is accepted and a stop too; with an enabled axis not in STO it is not (R78, R79). -/
theorem test_start_stop : (after .cycleStart up).cycRun = true ∧ (after .cycleStart up).tbs.nextT0 = 31250
    ∧ Lands R.TBS_CYC_CTL (fieldValue F.TBS_CYC_CTL_RUN 0 0 0 (cyc 0)) (cyc 0)
    ∧ (after .cycleStop (cyc 0)).tbs.stopping = true
    ∧ (((cyc 0).setF F.AX_CTL_EN 1 3).setF F.SAF_AX_STAT_STO 0 3).axesSto = false := by decide +kernel

/-- The premises of the numbering of cycles. -/
theorem test_number : (cyc 0).getF F.TBS_CYC_PHASE_V ≤ (cyc 0).tbs.nextT0
    ∧ ((cyc 0).tbs.nextT0 - (cyc 0).getF F.TBS_CYC_PHASE_V) % (cyc 0).period = 0 ∧ (beginCycle (cyc 31250)).tbs.k = 6 := by decide +kernel

/-- PERIOD 1 doubles the cycle; TS and TR out of range (R80). -/
theorem test_period : Accepts R.TBS_CYC_CTL (fieldValue F.TBS_CYC_CTL_PERIOD 1 0 0 up) up ∧ (after (.periodWrite 1) up).period = 62500
    ∧ trLegal (bits (2 ^ 19 - 1) 0 19) (up.getF F.TBS_TR_V) up.period = false ∧ trLegal (up.getF F.TBS_TS_V) (bits 0 0 21) up.period = false := by
  decide +kernel

/-- Two timed starts with one target at one time: the higher one is coalesced (R83). -/
def trg : State :=
  (((up.setF F.TBS_TRG_CTL_EN 1 0).setF F.TBS_TRG_CTL_EN 1 15).withTbs fun b => { b with trgNext := [(0, some 0), (15, some 0)] })

theorem test_timed_start : trg.trgDue = [0, 15] ∧ (trg.trgDue.any fun v => decide (v < 15) && trg.trgKind v == trg.trgKind 15) = true
    ∧ mapGet (fun _ => none) trg.tbs.trgNext 15 = some 0 := by decide +kernel

/-- The reference and D3hot (R85, R90). -/
theorem test_power : (after .d3hotRequest up).hst.d3hot = true ∧ (after .d3hotRequest (cyc 0)).hst.d3hot = false
    ∧ (after .refLoss up).getB F.TBS_FLAG_REF_LOSS = true := by decide +kernel
/-! ### Well-formedness: one term for each check, and well-formed terms beside them -/

def g : DescHdr := { sq := 0, tag := 7, irq := false }
def bs : DescHdr := { g with sq := 64 }
def bt : DescHdr := { g with tag := 2 ^ 16 }
def d0 : Desc := { f0 := 0, f1 := 0, f2 := 0, f3 := 0, f4 := 0, f5 := 0, f6 := 0, f7 := 0, data := [] }
def kn : Knot := { t := 0, pos := 0, vel := 0, last := false, ftag := 0 }
def f0 : PairFlip := { word := 0, value := 0, compl := 0 }
def p0 : PairInfo := { uid := 0, digest := 0, chk := 0, chkValid := false, run := false, pref := false, fails := 0 }
def c0 : PcieConfig := { bar0 := 0, payload := 0, request := 0, msixEnable := true, functionMask := false }
def l0 : PcieLink := { width := 0, speed := 1, bme := true, config := c0 }

/-- Terms that a check refuses, part 1. -/
theorem test_ill_formed1 : ([
    .cellCycleT0 [128], .periodWrite 4, .timeReadLatch (2 ^ 24) 0, .scrubRow [⟨9, 0, 1⟩] [],
    .scrubRow [⟨0, 16, 1⟩] [], .scrubRow [⟨0, 0, 256⟩] [], .scrubRow [] [⟨0, 15, 1⟩], .scrubRow [] [⟨0, 18, 1⟩],
    .scrubRow [] [⟨9, 16, 1⟩], .scrubRow [] [⟨0, 16, 256⟩], .ritLineRead 9 false [], .descriptorFetch 64 false d0,
    .fenceRelease 64, .overflowEvent 8, .msixMessage 64, .nop bs,
    .regWrite bs [], .regWrite g [(2 ^ 24, 0)], .regWrite g [(0, 2 ^ 32)], .regWrite g (List.replicate 8 (0, 0)),
    .regRead bs [], .regRead g [2 ^ 24], .regRead g (List.replicate 8 0), .wordWrite bt 0 0 0 [],
    .wordWrite g (2 ^ 22) 0 0 [], .wordWrite g 0 (2 ^ 16) 0 [], .wordWrite g 0 0 (2 ^ 64) [], .wordRead bs 0 0 0,
    .wordRead g (2 ^ 22) 0 0, .wordRead g 0 (2 ^ 16) 0, .wordRead g 0 0 (2 ^ 64), .tableWrite bt 0 0 0 0 [],
    .tableWrite g (2 ^ 16) 0 0 0 [], .tableWrite g 0 (2 ^ 32) 0 0 [], .tableWrite g 0 0 (2 ^ 32) 0 [], .tableWrite g 0 0 0 (2 ^ 64) [],
    .tableRead bs 0 0 0 0, .tableRead g (2 ^ 16) 0 0 0, .tableRead g 0 (2 ^ 32) 0 0, .tableRead g 0 0 (2 ^ 32) 0,
    .tableRead g 0 0 0 (2 ^ 64), .timeCorr bt 0 0 0 0 0, .timeCorr g (2 ^ 64) 0 0 0 0, .timeCorr g 0 (2 ^ 72) 0 0 0,
    .timeCorr g 0 0 (2 ^ 32) 0 0] : List Instr).all (fun i => !i.wf) = true := by decide +kernel

/-- Terms that a check refuses, part 2. -/
theorem test_ill_formed2 : ([
    .timeCorr g 0 0 0 (2 ^ 32) 0, .timeCorr g 0 0 0 0 (2 ^ 72), .stop bs 0 0, .stop g 256 0,
    .stop g 0 256, .clearMiss bt 0, .clearMiss g (2 ^ 128), .registerWrite (2 ^ 24) 0 false,
    .registerWrite 0 (2 ^ 32) false, .ringEnable 3 0, .ringEnable 0 64, .ringEnable 2 8,
    .ringDisable 3 0, .ringDisable 0 64, .ringDisable 2 8, .ctxEnable (some bs) 0,
    .ctxEnable none (2 ^ 128), .ctxDisable (some bt) 0, .ctxDisable none (2 ^ 128), .ctxRelease bs 0,
    .ctxRelease g (2 ^ 128), .dispatch 128 0, .preempt 128, .ctxComplete 128,
    .svcComplete 8, .lawEnable 256, .lawDisable 256, .walnoNop 128,
    .endRun 128, .br 128 0, .br 0 (2 ^ 22), .brc 128 0 0 0,
    .brc 0 4 0 0, .brc 0 0 6 0, .brc 0 0 0 (2 ^ 22), .loop 128 1 1,
    .loop 0 4097 1, .loop 0 1 17, .rep 128 1, .rep 0 4097,
    .mac 128 0 0 0 0 0 0, .mac 0 4 0 0 0 0 0, .mac 0 0 16 0 0 0 0, .mac 0 0 0 4 0 0 0,
    .mac 0 0 0 0 16 0 0] : List Instr).all (fun i => !i.wf) = true := by decide +kernel

/-- Terms that a check refuses, part 3. -/
theorem test_ill_formed3 : ([
    .mac 0 0 0 0 0 4 0, .mac 0 0 0 0 0 0 2, .msu 128 0 0 0 0 0 0, .msu 0 4 0 0 0 0 0,
    .msu 0 0 16 0 0 0 0, .msu 0 0 0 4 0 0 0, .msu 0 0 0 0 16 0 0, .msu 0 0 0 0 0 4 0,
    .msu 0 0 0 0 0 0 2, .mul 128 0 0 0 0 0 0, .mul 0 4 0 0 0 0 0, .mul 0 0 16 0 0 0 0,
    .mul 0 0 0 4 0 0 0, .mul 0 0 0 0 16 0 0, .mul 0 0 0 0 0 4 0, .mul 0 0 0 0 0 0 2,
    .muln 128 0 0 0 0 0 0, .muln 0 4 0 0 0 0 0, .muln 0 0 16 0 0 0 0, .muln 0 0 0 4 0 0 0,
    .muln 0 0 0 0 16 0 0, .muln 0 0 0 0 0 4 0, .muln 0 0 0 0 0 0 2, .clr 128 0,
    .clr 0 4, .mov 128 0 0, .mov 0 4 0, .mov 0 0 4,
    .adda 128 0 0, .adda 0 4 0, .adda 0 0 4, .suba 128 0 0,
    .suba 0 4 0, .suba 0 0 4, .neg 128 0, .neg 0 4,
    .clmp 128 0 0 0, .clmp 0 4 0 0, .clmp 0 0 16 0, .clmp 0 0 0 16,
    .lde 128 0 0 0 0, .lde 0 4 0 0 0, .lde 0 0 16 0 0, .lde 0 0 0 4 0,
    .lde 0 0 0 0 2] : List Instr).all (fun i => !i.wf) = true := by decide +kernel

/-- Terms that a check refuses, part 4. -/
theorem test_ill_formed4 : ([
    .ldq 128 0 0 0 0 0, .ldq 0 4 0 0 0 0, .ldq 0 0 16 0 0 0, .ldq 0 0 0 4 0 0,
    .ldq 0 0 0 0 2 0, .ldq 0 0 0 0 0 72, .ldi 128 0 0 0 0, .ldi 0 4 0 0 0,
    .ldi 0 0 16 0 0, .ldi 0 0 0 (2 ^ 12) 0, .ldi 0 0 0 0 256, .sta 128 0 0 0 0,
    .sta 0 4 0 0 0, .sta 0 0 16 0 0, .sta 0 0 0 4 0, .sta 0 0 0 0 2,
    .stq 128 0 0 0 0 0, .stq 0 4 0 0 0 0, .stq 0 0 16 0 0 0, .stq 0 0 0 4 0 0,
    .stq 0 0 0 0 2 0, .stq 0 0 0 0 0 72, .agset 128 0 0 0 0, .agset 0 16 0 0 0,
    .agset 0 0 (2 ^ 23) 0 0, .agset 0 0 0 (2 ^ 14) 0, .agset 0 0 0 0 2, .agstg 128 0 0 0 0,
    .agstg 0 16 0 0 0, .agstg 0 0 (2 ^ 22) 0 0, .agstg 0 0 0 (2 ^ 14) 0, .agstg 0 0 0 0 (2 ^ 14),
    .agmod 128 0 0 0 0, .agmod 0 16 0 0 0, .agmod 0 0 (2 ^ 14) 0 0, .agmod 0 0 0 (2 ^ 14) 0,
    .agmod 0 0 0 0 256, .agptr 128 0 0, .agptr 0 16 0, .agptr 0 0 (2 ^ 14),
    .progLoad bt 0 0 0 0, .progLoad g 32 0 0 0, .progLoad g 0 (2 ^ 22) 0 0, .progLoad g 0 0 (2 ^ 14) 0,
    .progLoad g 0 0 0 (2 ^ 32)] : List Instr).all (fun i => !i.wf) = true := by decide +kernel

/-- Terms that a check refuses, part 5. -/
theorem test_ill_formed5 : ([
    .progUnload bs 0, .progUnload g 32, .move bs 0 false [] 0, .move g 16 false [] 0,
    .move g 0 false (List.replicate 13 0) 0, .move g 0 false [2 ^ 71] 0, .move g 0 false [-(2 ^ 71) - 1] 0, .move g 0 false [] (2 ^ 64),
    .vel bt 0 0, .vel g 128 0, .vel g 0 (2 ^ 63), .vel g 0 (-(2 ^ 63) - 1),
    .knotPush bs 0 [] 0, .knotPush g 128 [] 0, .knotPush g 0 (List.replicate 512 kn) 0, .knotPush g 0 [{ kn with t := 2 ^ 72 }] 0,
    .knotPush g 0 [{ kn with ftag := 256 }] 0, .knotPush g 0 [] (2 ^ 64), .tblStart bt 0, .tblStart g 8,
    .tblClear bs 0, .tblClear g 128, .pause bt 0, .pause g 256,
    .resume bs 0, .resume g 256, .abort bt 0, .abort g 256,
    .home bs 0, .home g 128, .setPos bs 0 0 0, .setPos g 128 0 0,
    .setPos g 0 (2 ^ 71) 0, .setPos g 0 (-(2 ^ 71) - 1) 0, .setPos g 0 0 (2 ^ 64), .auxMove bs 0 false 0 0,
    .auxMove g 16 false 0 0, .auxMove g 0 false (2 ^ 71) 0, .auxMove g 0 false (-(2 ^ 71) - 1) 0, .auxMove g 0 false 0 (2 ^ 64),
    .auxVel bs 0 0, .auxVel g 16 0, .auxVel g 0 (2 ^ 63), .auxVel g 0 (-(2 ^ 63) - 1),
    .limitInputConfirm 128 0 false 0] : List Instr).all (fun i => !i.wf) = true := by decide +kernel

/-- Terms that a check refuses, part 6. -/
theorem test_ill_formed6 : ([
    .limitInputConfirm 0 3 false 0, .limitInputConfirm 0 0 false (2 ^ 64), .axisEnable 128 0, .axisEnable 0 (2 ^ 64),
    .cmpArm 32 none, .cmpArm 0 (some (2 ^ 71)), .cmpArm 0 (some (-(2 ^ 71) - 1)), .cmpPulseEnd 32,
    .auxHoldCurrent 16, .sensorFrame 16 [], .sensFrame bt 0 0 [], .sensFrame g 16 0 [],
    .sensFrame g 0 (2 ^ 64) [], .sepHandover [{ f0 with value := 2 ^ 36 }] [] false, .sepHandover [] [{ f0 with compl := 2 ^ 36 }] false, .safetyVerdict 2 0 false,
    .safetyVerdict 0 8 false, .positionRecord 2 [], .positionRecord 0 [{ f0 with word := 1056 }], .ssTmaxExpiry 8,
    .crossCompare false 2, .supplyMonitorFault 2, .oscillatorFault 2, .paramRecheck 2 0,
    .paramRecheck 0 (2 ^ 32), .safeInputChange 2 0 0 .low, .safeInputChange 0 16 0 .low, .safeInputChange 0 0 2 .low,
    .discLatch 16, .testPulseCheck 16 false, .resetEdge 16, .resetStuck 16,
    .paramOpen bs, .paramClose bt, .confirm bs 0 0, .confirm g (2 ^ 64) 0,
    .confirm g 0 (2 ^ 64), .release bt 0 0, .release g (2 ^ 64) 0, .release g 0 (2 ^ 64),
    .bchTimeout 128, .safeOutputTest 8 0 false, .safeOutputTest 0 2 false, .edmTimeout 8,
    .feedbackInputChange 32 0 0 0 0] : List Instr).all (fun i => !i.wf) = true := by decide +kernel

/-- Terms that a check refuses, part 7. -/
theorem test_ill_formed7 : ([
    .feedbackInputChange 0 8 0 0 0, .feedbackInputChange 0 0 1 0 0, .feedbackInputChange 0 0 0 31 0, .feedbackInputChange 0 0 0 0 33,
    .ssiFrameDone 32 0 false false, .lossChange 32 0, .lossChange 0 8, .clrFault 32,
    .fbkEnable 32, .feltFeedbackLatch 32 ([], none), .feltFeedbackLatch 0 ([(8, 0)], none), .feltFeedbackLatch 0 ([(0, 8)], none),
    .pwmEnable 72, .pwmReload 72, .pwmHoldLimit 72, .pwmDutyWrite 72 0,
    .pwmDutyWrite 0 (2 ^ 32), .pwmPerWrite 72 0, .pwmPerWrite 0 (2 ^ 32), .pwmRefEdge 72,
    .deadTimeEnd 72, .blankWindowClose 16, .tripLatch 8 false, .tripForce 16,
    .tripClear 16, .gateLineChange 2 0, .gateLineChange 0 24, .adcEnable 16,
    .conversionDone 16 0, .conversionDone 0 (2 ^ 14), .scanGo 16, .injGo 16,
    .cal 16, .clrOpen 16, .calDone 16, .refSettle 16,
    .adcResultRead 16, .tdacWrite 16 0 0, .tdacWrite 0 (2 ^ 12) 0, .tdacWrite 0 0 256,
    .twlEnable 8, .twlDisable 8, .syncFrameSend 8, .pollFrameSend 8,
    .svcFrameSend 8] : List Instr).all (fun i => !i.wf) = true := by decide +kernel

/-- Terms that a check refuses, part 8. -/
theorem test_ill_formed8 : ([
    .safeFrameSend 8, .cmdFrameSend 8, .twillCopyReceive 8 0 0 [], .twillCopyReceive 0 2 0 [],
    .twillCopyReceive 0 0 1 [], .ringOpen 8 0, .ringOpen 0 2, .branchStateAdvance 8,
    .modeSwitch bs 0 0, .modeSwitch g 8 0, .modeSwitch g 0 (2 ^ 64), .svcXfer bt 0 0 0 [],
    .svcXfer g 8 0 0 [], .svcXfer g 0 16 0 [], .svcXfer g 0 0 (2 ^ 64) [], .svcTimeout 8,
    .guardBlock 8 0, .dmkPortEnable 4, .dmkPortDisable 4, .linkTrainDone 6,
    .trainTimeout 6, .linkFrameSend 6, .linkFrameReceive 4 0 [], .linkFrameReceive 0 1 [],
    .linkLoss 6 0, .linkLoss 0 3, .damaskFrameReceive 4 0 [] [] [] [] 0, .damaskFrameReceive 0 1 [] [] [] [] 0,
    .damaskFrameReceive 0 0 [] [] [⟨0, 16, 1⟩] [] 0, .damaskFrameReceive 0 0 [] [] [] [⟨0, 15, 1⟩] 0, .reassemblyTimeout (2 ^ 12) 0, .reassemblyTimeout 0 256,
    .egressUnitEnd 4, .c0Send 64, .modePropose bs 0 0, .modePropose g 8 0,
    .modePropose g 0 (2 ^ 64), .rediscover bt, .hostSend bs 0 0 0 [], .hostSend g (2 ^ 12) 0 0 [],
    .hostSend g 0 256 0 [], .hostSend g 0 0 (2 ^ 64) [], .pairEnable { p0 with uid := 2 ^ 64 }, .pairEnable { p0 with digest := 2 ^ 32 },
    .pairEnable { p0 with chk := 2 ^ 32 }] : List Instr).all (fun i => !i.wf) = true := by decide +kernel

/-- Terms that a check refuses, part 9. -/
theorem test_ill_formed9 : ([
    .laendFrameReceive 2 0 [] [] [] [] none, .laendFrameReceive 0 1 [] [] [] [] none, .laendFrameReceive 0 0 [] [] [⟨0, 0, 256⟩] [] none, .laendFrameReceive 0 0 [] [] [] [⟨0, 18, 1⟩] none,
    .streamTimeout 8 0, .streamTimeout 0 8, .switchover bt, .acqStart bs 0,
    .acqStart g 256, .acqStop bt 0, .acqStop g 256, .acqForce bs 0,
    .acqForce g 256, .acqSample none 256 0, .acqSample none 0 (2 ^ 64), .bootRst (2 ^ 32),
    .linkReset false [] 0 (some { l0 with width := 4 }), .linkReset false [] 0 (some { l0 with speed := 0 }), .linkReset false [] 0 (some { l0 with speed := 5 }), .bootRomDone false false false (some { l0 with config := { c0 with bar0 := 2 ^ 23 } }),
    .bootRomDone false false false (some { l0 with config := { c0 with bar0 := 2 ^ 64 } }), .booted (some { l0 with config := { c0 with payload := 3 } }), .booted (some { l0 with config := { c0 with request := 6 } }), .attest bs 0 (List.replicate 32 0),
    .attest g 0 [], .attest g (2 ^ 64) (List.replicate 32 0), .flashWrite bt 0 0 [], .flashWrite g (2 ^ 64) 0 [],
    .flashWrite g 0 (2 ^ 64) [], .flashVerify bs, .svnCommit bt 0 false, .svnCommit g 2 false,
    .keyRevoke bs 0 0 false, .keyRevoke g 2 0 false, .keyRevoke g 0 4 false, .thermalSample [none],
    .pwmTop 72, .pwmCmpb 72, .tdacSettled 16, .loop 0 0 1,
    .loop 0 1 0, .rep 0 0] : List Instr).all (fun i => !i.wf) = true := by decide +kernel

/-- Well-formed terms, part 1. -/
theorem test_well_formed1 : ([
    .cellCycleT0 [], .periodWrite 0, .timeReadLatch 0 0, .scrubRow [] [], .ritLineRead 0 false [],
    .descriptorFetch 0 false d0, .fenceRelease 0, .overflowEvent 0, .msixMessage 0, .nop g,
    .regWrite g [], .regRead g [], .wordWrite g 0 0 0 [], .wordRead g 0 0 0, .tableWrite g 0 0 0 0 [],
    .tableRead g 0 0 0 0, .timeCorr g 0 0 0 0 0, .stop g 0 0, .clearMiss g 0, .registerWrite 0 0 false,
    .ringEnable 0 0, .ringDisable 0 0, .ctxEnable none 0, .ctxDisable none 0, .ctxRelease g 0,
    .dispatch 0 0, .preempt 0, .ctxComplete 0, .svcComplete 0, .lawEnable 0,
    .lawDisable 0, .walnoNop 0, .endRun 0, .br 0 0, .brc 0 0 0 0,
    .loop 0 1 1, .rep 0 1, .mac 0 0 0 0 0 0 0, .msu 0 0 0 0 0 0 0, .mul 0 0 0 0 0 0 0,
    .muln 0 0 0 0 0 0 0, .clr 0 0, .mov 0 0 0, .adda 0 0 0, .suba 0 0 0,
    .neg 0 0, .clmp 0 0 0 0, .lde 0 0 0 0 0, .ldq 0 0 0 0 0 0, .ldi 0 0 0 0 0,
    .sta 0 0 0 0 0, .stq 0 0 0 0 0 0, .agset 0 0 0 0 0, .agstg 0 0 0 0 0, .agmod 0 0 0 0 0,
    .agptr 0 0 0, .progLoad g 0 0 0 0, .progUnload g 0, .move g 0 false [] 0, .vel g 0 0] : List Instr).all (fun i => i.wf) = true := by decide +kernel

/-- Well-formed terms, part 2. -/
theorem test_well_formed2 : ([
    .knotPush g 0 [] 0, .tblStart g 0, .tblClear g 0, .pause g 0, .resume g 0,
    .abort g 0, .home g 0, .setPos g 0 0 0, .auxMove g 0 false 0 0, .auxVel g 0 0,
    .limitInputConfirm 0 0 false 0, .axisEnable 0 0, .cmpArm 0 none, .cmpPulseEnd 0, .auxHoldCurrent 0,
    .sensorFrame 0 [], .sensFrame g 0 0 [], .sepHandover [] [] false, .safetyVerdict 0 0 false, .positionRecord 0 [],
    .ssTmaxExpiry 0, .crossCompare false 0, .supplyMonitorFault 0, .oscillatorFault 0, .paramRecheck 0 0,
    .safeInputChange 0 0 0 .low, .discLatch 0, .testPulseCheck 0 false, .resetEdge 0, .resetStuck 0,
    .paramOpen g, .paramClose g, .confirm g 0 0, .release g 0 0, .bchTimeout 0,
    .safeOutputTest 0 0 false, .edmTimeout 0, .feedbackInputChange 0 0 0 0 0, .ssiFrameDone 0 0 false false, .lossChange 0 0,
    .clrFault 0, .fbkEnable 0, .feltFeedbackLatch 0 ([], none), .pwmEnable 0, .pwmReload 0,
    .pwmHoldLimit 0, .pwmDutyWrite 0 0, .pwmPerWrite 0 0, .pwmRefEdge 0, .deadTimeEnd 0,
    .blankWindowClose 0, .tripLatch 0 false, .tripForce 0, .tripClear 0, .gateLineChange 0 0,
    .adcEnable 0, .conversionDone 0 0, .scanGo 0, .injGo 0, .cal 0] : List Instr).all (fun i => i.wf) = true := by decide +kernel

/-- Well-formed terms, part 3. -/
theorem test_well_formed3 : ([
    .clrOpen 0, .calDone 0, .refSettle 0, .adcResultRead 0, .tdacWrite 0 0 0,
    .twlEnable 0, .twlDisable 0, .syncFrameSend 0, .pollFrameSend 0, .svcFrameSend 0,
    .safeFrameSend 0, .cmdFrameSend 0, .twillCopyReceive 0 0 0 [], .ringOpen 0 0, .branchStateAdvance 0,
    .modeSwitch g 0 0, .svcXfer g 0 0 0 [], .svcTimeout 0, .guardBlock 0 0, .dmkPortEnable 0,
    .dmkPortDisable 0, .linkTrainDone 0, .trainTimeout 0, .linkFrameSend 0, .linkFrameReceive 0 0 [],
    .linkLoss 0 0, .damaskFrameReceive 0 0 [] [] [] [] 0, .reassemblyTimeout 0 0, .egressUnitEnd 0, .c0Send 0,
    .modePropose g 0 0, .rediscover g, .hostSend g 0 0 0 [], .pairEnable p0, .laendFrameReceive 0 0 [] [] [] [] none,
    .streamTimeout 0 0, .switchover g, .acqStart g 0, .acqStop g 0, .acqForce g 0,
    .acqSample none 0 0, .bootRst 0, .linkReset false [] 0 none, .bootRomDone false false false none, .booted none,
    .attest g 0 (List.replicate 32 0), .flashWrite g 0 0 [], .flashVerify g, .svnCommit g 0 false, .keyRevoke g 0 0 false,
    .thermalSample [none, none, none, none], .pwmTop 0, .pwmCmpb 0, .tdacSettled 0] : List Instr).all (fun i => i.wf) = true := by decide +kernel

/-! ### Descriptors and register writes: each of them completes somewhere -/

/-- The premises of DescriptorRowsTakeEffect hold of a command. -/
def descOk (c : Instr) (s : State) : Bool := match c.asDesc with
  | some (_, d) => (formCode d (c.shows s)).1 == EC.OK && (effectCode d (c.shows s)).1 == EC.OK
  | none => false

/-- The premises of AcceptedWriteRowsComplete hold of a command. -/
def writeOk (c : Instr) (s : State) : Bool := match c.asField, c.asWord with
  | some (f, v, i), _ => f.off i 0 != R.TBS_P_CMD && barCode (f.off i 0) (fieldValue f v i 0 s) true s == EC.OK && !s.meets (f.off i 0)
  | none, some (off, v) => !(off == R.TBS_P_CMD && bit v 0) && barCode off v true s == EC.OK && !s.meets off
  | none, none => false

/-- A table word and its complement. -/
def pair72 (tb r w v : Nat) (s : State) : State :=
  (s.setTw tb r w (BitVec.ofNat 72 v)).setTw tb r (w + 1) (BitVec.ofNat 72 (2 ^ 72 - 1 - v))

/-- A word of 36 bits with its complement. -/
def pair36 (tb r w v : Nat) (s : State) : State := s.setTw tb r w (BitVec.ofNat 72 (v + (2 ^ 36 - 1 - v) * 2 ^ 36))

/-- The cell cycle runs, arm 0 has axis 0, in group 0 in state st; the axis has limits 0 to 100, speed 1000. -/
def trj (st : Nat) : State :=
  let s := (((cyc 0).setF F.TRJ_ARM_CTL_EN 1 0).setF F.TRJ_ARM_CTL_NJ 1 0).setF F.TRJ_STAT_STATE st 0
  still (pair72 0x0401 0 6 5 (pair72 0x0401 0 4 1000 (pair72 0x0401 0 2 100 (pair72 0x0401 0 0 0 s))))

/-- Auxiliary channel 0 is enabled, not attached, with a speed limit. -/
def auxS : State := still (((trj GSt.IDLE).setF F.AUX_CTL_EN 1 0).setTw 0x0404 0 0 1000)

/-- The safety functions are in a state. -/
def saf (st : Nat) : State := still (up.setF F.SAF_STATE_STATE st)

/-- Branch 0 with one node in a state, mode 0 with its POLL frame and a service frame. -/
def twl (st : Nat) : State :=
  still ((((((cyc 0).setF F.TWL_STAT_STATE st 0).setF F.TWL_CTL_EN 1 0).setF F.TWL_CFG_NODES 1 0).setTw 0x0A01 0 0 (BitVec.ofNat 72 (1 + 2 ^ 16 + 100 * 2 ^ 32))).setTw 0x0A01 0 2 9000)

/-- Damask node 1, its port 0 up, root. -/
def dmk : State :=
  still (((((cyc 0).setF F.DMK_CTL_EN 1).setF F.DMK_ADDR_ADDR 1).setF F.DMK_P_STAT_STATE 4 0).setF F.DMK_STAT_ROOT_ACT 1)

/-- Acquisition unit 0 may start on the cell cycle's grid. -/
def acq : State := still ((((cyc 0).setF F.ACQ_SPER_SPER 125 0).setF F.ACQ_BUF_LEN_LEN 2000 0).setF F.ACQ_POST_POST 100 0)

/-- Two keys are burnt in each domain, the images are newer than the counters. -/
def keys : State :=
  still ((((up.setF F.BOOT_IMG_SVN 3).setF F.BOOT_IMG_SAFE_SVN 3).setF F.BOOT_STAT_VFUSE_OK 1).withBoot fun b => { b with
    fuses := { b.fuses with bootKeys := [(0, []), (1, [])], safeKeys := [(0, []), (1, [])] } })

/-- The boot has failed: recovery. -/
def failed : State := still ((State.reset.setF F.BOOT_STAT_STAGE Stage.FAIL).setF F.BOOT_REC_LEN_LEN 256)

/-- Law 1 is a velocity law of order 2 with one input, context 0 its library context. -/
def lawS : State :=
  still (((((((up.setF F.CEN_LAW_CTL_KIND 2 1).setF F.CEN_LAW_DIM_N 2 1).setF F.CEN_LAW_DIM_M 1 1).setF F.CEN_LAW_DIM_P 1 1).setF F.CEN_LAW_DIM_S 1 1).setF
    F.CEN_PROG_STAT_VALID 1 0).setTw 0x0301 1 8 2)

def sqS : State := still (up.setF F.HST_CQ_CFG_EN 1 0)
def sepS : State := still (up.setF F.SEP_CTL_CAPONLY 1)

/-- Sensor 0 takes its frames from the host; its records have identifier 0 and room for one cell. -/
def sensS : State := pair36 0x0504 0 7 0 (pair36 0x0504 0 2 1024 (pair36 0x0504 0 0 1 up))

/-- Premises of DescriptorRowsTakeEffect, part 1: the descriptor completes with EC_OK in the state beside it. -/
theorem test_desc1 : ([
    (.nop h0, up), (.regWrite h0 [(R.TBS_TRG_CTL, 0)], up), (.regRead h0 [R.TBS_FRC_0], up),
    (.wordWrite h0 3 2 64 (List.replicate 18 1), up), (.wordRead h0 3 2 64, up), (.tableWrite h0 0x0A01 0 1 64 ([0, 0, 0, 0, 100] ++ List.replicate 43 0), up)] : List (Instr × State)).all (fun x => descOk x.1 x.2) = true := by decide +kernel

/-- Premises of DescriptorRowsTakeEffect, part 2: the descriptor completes with EC_OK in the state beside it. -/
theorem test_desc2 : ([
    (.tableRead h0 0x0A01 0 1 64, up), (.timeCorr h0 16 512 0 0 0, up), (.stop h0 255 1, up),
    (.clearMiss h0 1, up), (.ctxEnable (some h0) 0, up), (.ctxDisable (some h0) 1, up)] : List (Instr × State)).all (fun x => descOk x.1 x.2) = true := by decide +kernel

/-- Premises of DescriptorRowsTakeEffect, part 3: the descriptor completes with EC_OK in the state beside it. -/
theorem test_desc3 : ([
    (.ctxRelease h0 1,up), (.progLoad h0 1 0 4 0, up), (.progUnload h0 1, up.setF F.CEN_PROG_STAT_VALID 1 1),
    (.move h0 0 false [50] 64, trj GSt.IDLE), (.vel h0 0 10, trj GSt.RUN), (.knotPush h0 0 [kn] 64, trj GSt.RUN)] : List (Instr × State)).all (fun x => descOk x.1 x.2) = true := by decide +kernel

/-- Premises of DescriptorRowsTakeEffect, part 4: the descriptor completes with EC_OK in the state beside it. -/
theorem test_desc4 : ([
    (.tblStart h0 0, (trj GSt.IDLE).setAx 0 { Axis.reset with knots := [kn] }), (.tblClear h0 0, up), (.pause h0 1, trj GSt.RUN),
    (.resume h0 1, trj GSt.HOLD), (.abort h0 1, trj GSt.HOLD), (.home h0 0, trj GSt.IDLE)] : List (Instr × State)).all (fun x => descOk x.1 x.2) = true := by decide +kernel

/-- Premises of DescriptorRowsTakeEffect, part 5: the descriptor completes with EC_OK in the state beside it. -/
theorem test_desc5 : ([
    (.setPos h0 0 7 64, trj GSt.IDLE), (.auxMove h0 0 false 0 64, auxS), (.auxVel h0 0 10, auxS),
    (.paramOpen h0, saf SSt.OPERATE), (.paramClose h0, saf SSt.EDIT), (.confirm h0 0 (2 ^ 32 - 1), saf SSt.UNCONFIRMED)] : List (Instr × State)).all (fun x => descOk x.1 x.2) = true := by decide +kernel

/-- Premises of DescriptorRowsTakeEffect, part 6: the descriptor completes with EC_OK in the state beside it. -/
theorem test_desc6 : ([
    (.release h0 1 254, saf SSt.OPERATE), (.modeSwitch h0 1 100, up), (.svcXfer h0 0 0 64 ([1, 1] ++ List.replicate 30 0), twl BrSt.RUN),
    (.modePropose h0 1 100, (cyc 0).setF F.TWL_G_CTL_SW_SRC 1), (.rediscover h0, dmk), (.hostSend h0 0xFFF 0x30 64 (List.replicate 16 1), dmk)] : List (Instr × State)).all (fun x => descOk x.1 x.2) = true := by decide +kernel

/-- Premises of DescriptorRowsTakeEffect, part 7: the descriptor completes with EC_OK in the state beside it. -/
theorem test_desc7 : ([
    (.acqStart h0 1, acq), (.acqStop h0 1, up), (.acqForce h0 1, up),
    (.attest h0 64 (List.replicate 32 0), up), (.flashWrite h0 (bankBase 1) 64 (List.replicate 256 0), up), (.svnCommit h0 0 true, keys)] : List (Instr × State)).all (fun x => descOk x.1 x.2) = true := by decide +kernel

/-- Premises of DescriptorRowsTakeEffect, part 8: the descriptor completes with EC_OK in the state beside it. -/
theorem test_desc8 : ([
    (.keyRevoke h0 0 1 true, keys), (.sensFrame h0 0 64 (List.replicate 24 0 ++ leBytes (crc32c 0 (List.replicate 24 0)) 4 ++ [0, 0, 0, 0]), sensS)] : List (Instr × State)).all (fun x => descOk x.1 x.2) = true := by decide +kernel

/-- Premises of AcceptedWriteRowsComplete, part 1: the write lands in the state beside it. -/
theorem test_write1 : ([
    (.cycleStart, up), (.cycleStop, cyc 0), (.periodWrite 1, up),
    (.ringEnable 0 1, sqS), (.ringEnable 1 1, up), (.ringEnable 2 1, up)] : List (Instr × State)).all (fun x => writeOk x.1 x.2) = true := by decide +kernel

/-- Premises of AcceptedWriteRowsComplete, part 2: the write lands in the state beside it. -/
theorem test_write2 : ([
    (.ringDisable 0 1, still (up.setF F.HST_SQ_CFG_EN 1 1)), (.ringDisable 1 1, still (up.setF F.HST_CQ_CFG_EN 1 1)), (.ringDisable 2 1, still (up.setF F.HST_EQ_CFG_EN 1 1)),
    (.clrStat, up), (.lawEnable 1, lawS), (.lawDisable 1, still (lawS.setF F.CEN_LAW_CTL_EN 1 1))] : List (Instr × State)).all (fun x => writeOk x.1 x.2) = true := by decide +kernel

/-- Premises of AcceptedWriteRowsComplete, part 3: the write lands in the state beside it. -/
theorem test_write3 : ([
    (.cmpArm 0 none, trj GSt.RUN), (.sepEnable, sepS), (.clrFault 1, up),
    (.fbkEnable 1, up), (.pwmEnable 1, up), (.tripForce 1, up)] : List (Instr × State)).all (fun x => writeOk x.1 x.2) = true := by decide +kernel

/-- Premises of AcceptedWriteRowsComplete, part 4: the write lands in the state beside it. -/
theorem test_write4 : ([
    (.tripClear 1, up), (.adcEnable 1, up), (.scanGo 1, still (up.setF F.ADC_CTL_EN 1 1)),
    (.injGo 1, still (up.setF F.ADC_CTL_EN 1 1)), (.cal 1, still (up.setF F.ADC_CTL_EN 1 1)), (.clrOpen 1, up)] : List (Instr × State)).all (fun x => writeOk x.1 x.2) = true := by decide +kernel

/-- Premises of AcceptedWriteRowsComplete, part 5: the write lands in the state beside it. -/
theorem test_write5 : ([
    (.twlEnable 1, cyc 0), (.twlDisable 0, twl BrSt.RUN), (.dmkPortEnable 1, up),
    (.dmkPortDisable 1, still (up.setF F.DMK_P_CTL_EN 1 1)), (.pairDisable, up), (.recoveryWrite, failed)] : List (Instr × State)).all (fun x => writeOk x.1 x.2) = true := by decide +kernel

/-- Premises of AcceptedWriteRowsComplete, part 6: the write lands in the state beside it. -/
theorem test_write6 : ([
    (.recoveryReset, failed), (.registerWrite R.TBS_TRG_CTL 0 true, up), (.commitLockSet, up),
    (.commitLockClear, lockedUp), (.tbsCancel, armed), (.pwmDutyWrite 1 0, up)] : List (Instr × State)).all (fun x => writeOk x.1 x.2) = true := by decide +kernel

/-- Premises of AcceptedWriteRowsComplete, part 7: the write lands in the state beside it. -/
theorem test_write7 : ([
    (.pwmPerWrite 1 10000, up), (.tdacWrite 1 5 1, up), (.bootRst 0x12960001, up)] : List (Instr × State)).all (fun x => writeOk x.1 x.2) = true := by decide +kernel

/-- ScrubberVisitsEveryRow: no flip, a flip of one byte, flips of two bytes (R42). -/
theorem test_scrub : (eccRead 3 [] (List.replicate 16 5)).1 = .clean ∧ eccRead 3 [{ block := 3, byte := 7, bits := 0x81 }] (List.replicate 16 5) = (.oneByte 7 0x81, List.replicate 16 5)
    ∧ (eccRead 3 [{ block := 3, byte := 7, bits := 1 }, { block := 3, byte := 9, bits := 2 }] (List.replicate 16 5)).1 = .uncorrectable
    ∧ (after (.scrubRow [{ block := 3, byte := 7, bits := 0x81 }] []) up).getF F.HST_ECC_CORR_CNT_V = 1 := by decide +kernel

/-! ### The host: witnesses of the premises -/

/-- The link is up; a doorbell read is due. -/
def hostS : State :=
  let s := (up.setF F.HST_STAT_BME 1).setF F.HST_HB_LIMIT_LIMIT 0
  still (s.withHst fun h => { h with linkUp := true, dbDue := some 300, config := { h.config with msixEnable := true } })

/-- 64 bytes of a doorbell line: HB 1, ring 1 of each kind masked in, STOP_PAIR idle. -/
def dbLine : List Byte := leBytes 1 8 ++ leBytes 2 8 ++ leBytes 2 8 ++ leBytes 2 8 ++ leBytes 0 4 ++ leBytes (2 ^ 32 - 1) 4 ++ List.replicate 24 0

/-- MissedReadsLoseTheHost: below the limit, at it, after a loss. -/
theorem test_host_miss : hostS.hst.dbDue = some 300 ∧ 300 < ({ hostS with frc := 2 } : State).now
    ∧ (hostS.setF F.HST_DB_LIMIT_LIMIT 3).getF F.HST_DB_CNT_CONSEC + 1 < (hostS.setF F.HST_DB_LIMIT_LIMIT 3).getF F.HST_DB_LIMIT_LIMIT
    ∧ ((hostS.setF F.HST_DB_LIMIT_LIMIT 3).setF F.HST_DB_CNT_CONSEC 2).getF F.HST_DB_CNT_CONSEC < 65535
    ∧ ((hostS.setF F.HST_DB_LIMIT_LIMIT 3).setF F.HST_DB_CNT_CONSEC 2).getF F.HST_DB_LIMIT_LIMIT
      ≤ ((hostS.setF F.HST_DB_LIMIT_LIMIT 3).setF F.HST_DB_CNT_CONSEC 2).getF F.HST_DB_CNT_CONSEC + 1
    ∧ hostS.getB F.HST_STAT_HOST_LOSS = false ∧ (hostS.setF F.HST_STAT_HOST_LOSS 1).getB F.HST_STAT_HOST_LOSS = true := by decide +kernel

/-- GoodReadTakesTheDoorbell. -/
theorem test_host_read : hostS.now ≤ 300 ∧ hostS.busOk = true ∧ dbLine.length = 64 ∧ leAt dbLine 32 4 = 0 ∧ leAt dbLine 36 4 = 2 ^ 32 - 1
    ∧ hostS.getF F.HST_HB_LIMIT_LIMIT = 0 ∧ BitVec.ofNat 64 (leAt dbLine 0 8) ≠ hostS.hst.hb
    ∧ (after (.doorbellCompletion true dbLine) hostS).hst.sqMask = 2 := by decide +kernel

/-- A good read has been made, the host's rings 1 are enabled, with indices and masks. -/
def ringS : State :=
  let s := (((hostS.setF F.HST_SQ_CFG_EN 1 1).setF F.HST_SQ_CFG_SIZE 4 1).setF F.HST_CQ_CFG_EN 1 0).setF F.HST_CQ_CFG_SIZE 4 0
  still ((((s.setF F.HST_EQ_CFG_EN 1 1).setF F.HST_EQ_CFG_SIZE 4 1).setF F.HST_FETCH_BUDGET 8).withHst fun h => { h with
    dbGood := true, dbDue := none, sqMask := 2, sqTail := [(1, 3)] })

def heldQ : Queued := { sq := 1, head := 1, desc := d0, code := 0, d0 := 0, cyc := 0, vcyc := 0, timed := false }
def compQ : Comp := { key := none, sq := 1, code := 0, tag := 9, head := 1, cyc := 0, d0 := 0, d1 := 0, irq := false }

/-- IndexTableEntries: a line with a masked entry, a tail below and at the ring's size. -/
theorem test_host_index : ringS.hst.dbGood = true ∧ 0 ∈ ringS.ritLines ∧ ringS.busOk = true ∧ ringS.getB F.HST_SQ_CFG_EN 1 = true
    ∧ ringS.getB F.HST_SQ_STAT_HALT 1 = false ∧ 15 < 2 ^ ringS.getF F.HST_SQ_CFG_SIZE 1 ∧ 2 ^ ringS.getF F.HST_SQ_CFG_SIZE 1 ≤ 16 := by decide +kernel

/-- FetchTakesOneDescriptor: a grant; a fence with an open and with no open descriptor. -/
theorem test_host_fetch : ringS.sqWinner = some 1 ∧ ringS.hst.fetched < ringS.getF F.HST_FETCH_BUDGET ∧ ringS.getF F.HST_SQ_CFG_SIZE 1 ≤ 12
    ∧ (descFence d0 && ringS.sqOpen 1) = false ∧ descFence { d0 with f0 := 512 } = true
    ∧ (ringS.withHst fun h => { h with comps := [compQ] }).sqOpen 1 = true
    ∧ (ringS.withHst fun h => { h with comps := [compQ] }).sqWinner = some 1
    ∧ (ringS.withHst fun h => { h with fence := [(1, some heldQ)] }).fenceOf 1 = some heldQ ∧ ringS.sqOpen 1 = false ∧ ringS.fenceOf 1 = none
    ∧ (after (.descriptorFetch 1 true d0) ringS).sqHead 1 = 1 := by decide +kernel

/-- CompletionsInRingOrder: one to write, none. -/
theorem test_host_completion : nextComp (ringS.withHst fun h => { h with comps := [compQ] }) [] [compQ] = some compQ
    ∧ ringS.getF F.HST_CQ_CFG_SIZE (ringS.getF F.HST_SQ_CFG_CQ compQ.sq) ≤ 12 ∧ nextComp ringS [] ringS.hst.comps = none := by decide +kernel

/-- OverflowAndMessages: a ring with events lost and room; a vector that may be sent. -/
theorem test_host_event : 0 < mapGet (fun _ => 0) (ringS.withHst fun h => { h with eqLost := [(1, 5)] }).hst.eqLost 1 ∧ ringS.getB F.HST_EQ_CFG_EN 1 = true
    ∧ ringS.getB F.HST_EQ_STAT_HALT 1 = false ∧ 1 < ringS.eqFree 1 ∧ ringS.hst.config.msixEnable = true
    ∧ (ringS.setF F.MSIX_CTL_V 0 3).vecMasked 3 = false ∧ 3 ∉ ringS.hst.vecDue ∧ mapGet (fun _ => 0) ringS.hst.eqLost 1 = 0
    ∧ (match exec (.msixMessage 3) ((ringS.setF F.MSIX_CTL_V 0 3).withHst fun h => { h with vecDue := [3] }) with
        | .next t => t.hst.vecSent | _ => []) = [3] := by decide +kernel

/-- Events in their order: a later one, one of a lower instance at one time (R114). -/
theorem test_host_order : ((up.post 0x10 2 5 0 0).post 0x10 2 1 0 0).hst.events.map (·.inst) = [1, 5] := by decide +kernel

/-- RingsStartInPhaseOne: each kind of ring, enabled and disabled. -/
theorem test_host_rings : up.getB F.HST_CQ_CFG_EN 1 = false ∧ up.getB F.HST_EQ_CFG_EN 1 = false ∧ up.getB F.HST_SQ_CFG_EN 1 = false
    ∧ Lands (F.HST_CQ_CFG_EN.off 1 0) (fieldValue F.HST_CQ_CFG_EN 1 1 0 up) up ∧ Lands (F.HST_EQ_CFG_EN.off 1 0) (fieldValue F.HST_EQ_CFG_EN 1 1 0 up) up
    ∧ (after (.ringEnable 1 1) up).getF F.HST_CQ_STAT_PHASE 1 = 1 := by decide +kernel

/-- Premises of the write of an RW field that the hardware updates at the same edge (R53), and what it leaves. -/
theorem test_host_race : Accepts R.TBS_TRG_CTL 0 (up.setF F.TBS_TRG_CTL_EN 1 0) ∧ (up.setF F.TBS_TRG_CTL_EN 1 0).meets R.TBS_TRG_CTL = true
    ∧ (after (.registerWrite R.TBS_TRG_CTL 0 true) (up.setF F.TBS_TRG_CTL_EN 1 0)).hst.putOff = [(R.TBS_TRG_CTL, 0)] := by decide +kernel

/-- RejectedDescriptorChangesNothing: a form that breaks a rule, an effect that breaks one; nothing shown. -/
theorem test_host_reject : (formCode (descNop { h0 with tag := 7 }) up).1 = EC.OK
    ∧ (formCode { descNop h0 with f5 := 1 } up).1 ≠ EC.OK
    ∧ (effectCode (descBlock h0 0x06 4 (safArgs 1 254)) up).1 = EC.STATE ∧ Instr.shows (.release h0 1 254) up = up := by decide +kernel

/-- Several broken rules: EC_ALIGN stands before EC_STATE (R132). -/
theorem test_host_first : firstCode [EC.STATE, EC.ALIGN, EC.RANGE] = EC.ALIGN := by decide +kernel

/-- The other premises of CommonDescriptorEffects: a cancel under SRC 0, a REG_WRITE that meets no write of the host, and one
that does. -/
theorem test_host_common : (formCode (descTimeCorr h0 1 0 0 0 0) armed).1 = EC.OK ∧ (effectCode (descTimeCorr h0 1 0 0 0 0) armed).1 = EC.OK
    ∧ (effectCode (descTimeCorr h0 1 0 0 0 0) (armed.setF F.TBS_CTL_SRC 1)).1 = EC.STATE
    ∧ (formCode (descRegWrite h0 [(R.TBS_TRG_CTL, 0)]) up).1 = EC.OK ∧ up.meets R.TBS_TRG_CTL = false ∧ up.hst.wrote = []
    ∧ writeCode R.TBS_TRG_CTL 0 up = EC.OK ∧ writeCode R.TBS_TRG_CTL 0 (up.addComp compQ) = EC.OK
    ∧ ((up.withHst fun h => { h with wrote := [(R.TBS_TRG_CTL, 1)] }).hst.wrote.filter fun w => w.1 == R.TBS_TRG_CTL) = [(R.TBS_TRG_CTL, 1)]
    ∧ (formCode (descStop h0 1 0) up).1 = EC.OK ∧ (formCode (descStop h0 1 3) up).1 = EC.OK := by decide +kernel

/-! ### Scheduler, laws, datapath: witnesses of the premises -/

/-- Context 3 in a state, with MODE DEP or TIMED, on level 5. -/
def ctxS (st mode : Nat) : State :=
  let u := (((up.setF F.CEN_PROG_STAT_VALID 1 1).setF F.CEN_PROG_BASE_BASE 300 1).setF F.CEN_PROG_LEN_LEN 4 1).setF F.SCH_CTX_ENTRY_ENTRY 300 3
  let v := (u.setF F.SCH_CTX_DEP_DEP_INIT (1 - mode) 3).setF F.SCH_CTX_TIME_PERIOD (5 * mode) 3
  still (((((v.setF F.SCH_CTL_EN 1).setF F.SCH_CTX_STAT_STATE st 3).setF F.SCH_CTX_CTL_MODE mode 3).setF F.SCH_CTX_CTL_LEVEL 5 3).setF F.SCH_CTX_STAT_CUR_LEVEL 5 3)

/-- Context 3 is ready on its list. -/
def readyS : State := { ctxS CtxSt.READY 0 with sch := { (ctxS CtxSt.READY 0).sch with ready := [(5, [3])] } }

/-- Context 3 runs on lanes 0 and 1; context 4 of level 0 is ready for lane 0. -/
def runS : State :=
  let s := ((ctxS CtxSt.RUN 0).setF F.SCH_CTX_STAT_STATE CtxSt.READY 4).setF F.SCH_CTX_SUCC_SUCC 32 3
  { s with sch := { s.sch with ready := [(0, [4])], runLanes := [(3, 3)] }, upd := [] }

/-- ContextsEnableAndDisable: an enable of each mode, a disable in each state. -/
theorem test_ctx_enable : [0, 1].all (fun m => writeOk (.registerWrite (F.SCH_CTX_CTL_EN.off 3 0) (fieldValue F.SCH_CTX_CTL_EN 1 3 0 (ctxS 0 m)) true) (ctxS 0 m)) = true
    ∧ [1, 2, 3, 4, 5].all (fun st => writeOk (.registerWrite (F.SCH_CTX_CTL_EN.off 3 0) (fieldValue F.SCH_CTX_CTL_EN 0 3 0 (still ((ctxS st 0).setF F.SCH_CTX_CTL_EN 1 3))) true)
        (still ((ctxS st 0).setF F.SCH_CTX_CTL_EN 1 3))) = true
    ∧ (ctxS 0 0).getB F.SCH_CTX_CTL_EN 3 = false ∧ (after (.ctxEnable none 8) (ctxS 0 0)).ctxSt 3 = CtxSt.WAIT
    ∧ (after (.ctxDisable none 8) (still ((ctxS CtxSt.RUN 0).setF F.SCH_CTX_CTL_EN 1 3))).getB F.SCH_CTX_STAT_STOPPING 3 = true := by decide +kernel

/-- DecrementsReleaseOnce: below and at the counter, in OFF, in another state. -/
theorem test_ctx_dec : ((ctxS 1 0).setF F.SCH_CTX_STAT_DEP_CNT 4 3).ctxSt 3 = CtxSt.WAIT ∧ 3 < ((ctxS 1 0).setF F.SCH_CTX_STAT_DEP_CNT 4 3).getF F.SCH_CTX_STAT_DEP_CNT 3
    ∧ (decOne 3 4 ((ctxS 1 0).setF F.SCH_CTX_STAT_DEP_CNT 4 3)).1 = true ∧ (ctxS 0 0).ctxSt 3 = CtxSt.OFF
    ∧ (decOne 3 2 (ctxS 5 0)).2.getF F.SCH_CTX_CNT_UNDER 3 = 2 := by decide +kernel

/-- ReleaseEntersItsList: at once, by way of a delay. -/
theorem test_ctx_release : (ctxS 1 0).getF F.SCH_CTX_TIME_DELAY 3 = 0 ∧ ((ctxS 1 0).setF F.SCH_CTX_TIME_DELAY 2 3).getF F.SCH_CTX_TIME_DELAY 3 ≠ 0
    ∧ (releaseCtx 3 ((ctxS 1 0).setF F.SCH_CTX_TIME_DELAY 2 3)).delayList 1 = [(3, 2)]
    ∧ insWake [(7, 1), (8, 2), (9, 3)] 3 2 = [(7, 1), (8, 2), (3, 2), (9, 3)] := by decide +kernel

/-- TicksAreTakenOnce: a tick that has come, an age at its limit, a level not aged. -/
theorem test_ctx_tick : ({ ctxS 3 0 with frc := 1000 } : State).sch.tick ≠ ({ ctxS 3 0 with frc := 1000 } : State).tickAt
    ∧ (ctxS 3 0).sch.tick = (ctxS 3 0).tickAt ∧ (ctxS 3 0).ctxSt 3 = CtxSt.READY ∧ 2 ≤ (ctxS 3 0).getF F.SCH_CTX_STAT_CUR_LEVEL 3
    ∧ (((ctxS 3 0).setF F.SCH_AGE_AGE_T 1).setF F.SCH_CTX_CTL_AGE_EN 1 3).getF F.SCH_AGE_AGE_T ≤ mapGet (fun _ => 0) (ctxS 3 0).sch.age 3 + 1
    ∧ ((ctxS 3 0).setF F.SCH_CTX_STAT_CUR_LEVEL 1 3).getF F.SCH_CTX_STAT_CUR_LEVEL 3 < 2 := by decide +kernel

/-- DispatchPlacesOnFreeLanes: a choice of the dispatcher at a level above 0 and at level 0, and none. -/
theorem test_ctx_dispatch : readyS.getB F.SCH_CTL_EN = true ∧ placeOf 3 readyS = some 0 ∧ placeOf 4 readyS = none
    ∧ placeOf 4 (runS.setCtxSt 3 CtxSt.OFF) = some 0 ∧ (after (.dispatch 3 5) readyS).ctxSt 3 = CtxSt.RUN := by decide +kernel

/-- PreemptionKeepsTheRun and CompletionReloadsTheContext: a context that must yield, one that has ended, with a successor. -/
theorem test_ctx_run : runS.mustYield 3 = true ∧ runS.mustYield 4 = false ∧ runS.ctxEnds 3 = false
    ∧ ({ runS with sch := { runS.sch with ended := [3] } } : State).ctxEnds 3 = true
    ∧ bit (runS.getF F.SCH_CTX_SUCC_SUCC 3) 5 = true ∧ nextWake 10 4 21 = (22, 2) := by decide +kernel

/-- ServicesRunOnTheirCores: a service at the head of its list; one on a core; an error (COUNT 0). -/
theorem test_ctx_svc : let s := (readyS.setF F.SCH_CTX_CTL_TARGET 1 3).setF F.SCH_CTX_ENTRY_ENTRY 1 3
    let t : State := { s with sch := { s.sch with ready := [(21, [3])] } }
    t.svcHead = some 3 ∧ t.idleCore = some 0 ∧ (startRun 3 (t.getF F.SCH_CTX_STAT_LANE_AT 3) t).svcError 3 = some 0x81
    ∧ (startRun 3 0 (t.setF F.SCH_CTX_ENTRY_ENTRY 2 3)).svcError 3 = none
    ∧ mapGet (fun _ => none) ({ t with sch := { t.sch with cores := [(2, some 3)] } } : State).sch.cores 2 = some 3 := by decide +kernel

/-- LawsStartAfresh: enabled and disabled, with and without a drop to come. -/
theorem test_law : lawS.lawEn 1 = false ∧ (lawS.setF F.CEN_LAW_CTL_EN 1 1).lawEn 1 = true ∧ (lawS.setF F.CEN_LAW_CTL_EN 1 1).law 1 = Law.reset
    ∧ ((after (.lawEnable 1) lawS).law 1).drop = true ∧ ((lawT0 1 (after (.lawEnable 1) lawS)).law 1).drop = false := by decide +kernel

/-- Context 2 runs on lanes 0 and 1 with an instruction at its counter; generator 1 reads elements, 2 words, 3 a stage with header 998. -/
def dp (i : Walno) : State :=
  let s := (up.setF F.SCH_CTX_STAT_STATE CtxSt.RUN 2).setF F.SCH_CTX_CTL_LANES 1 2
  let c : Ctx := { Ctx.reset with pc := 100, gens := [(1, { Gen.reset with base := 2000, len := 4, ls := 1 }), (2, { Gen.reset with base := 1500, len := 4, unit := 1 }),
                                                   (3, { Gen.reset with base := 1998, len := 1, hdr := some 998 })] }
  let t : State := { s with sch := { s.sch with runLanes := [(2, 3)] }, upd := [] }
  ((((t.setCtx 2 c).writeWord 100 (BitVec.ofNat 72 i.enc)).writeWord 998 (BitVec.ofNat 72 (5 + 256 + 4096))).writeWord 1000 0x10).writeWord 1500 0x400

/-- Premises of InstructionsIssueAtTheCounter and of the statements by instruction: each of them issues. -/
theorem test_dp_issues : [Walno.nop, .end_, .br 7, .brc 1 2 7, .rep 3, .loop 2 4, .mul 0 1 1 0 1 1 0, .mul 1 1 1 0 1 1 0, .mul 2 1 1 0 1 1 0, .mul 3 1 1 0 1 1 0, .clr 1,
    .mov 1 2, .adda 1 2, .suba 1 2, .neg 1, .clmp 1 1 1, .lde 1 1 1 1, .ldq 1 2 1 1 20, .ldi 1 8 3 0, .sta 1 1 1 1, .stq 1 2 1 1 20, .agset 1 50 4 0, .agstg 3 998 1 1,
    .agmod 1 1 1 3, .agptr 1 2].all (fun i => (dp i).issues 2 i && !((dp i).fetchWord 2).2) = true := by decide +kernel

/-- A poisoned word; a context that does not run; no loop (R236, R238). -/
theorem test_dp_fetch : ({ dp .nop with poison := [100] } : State).issues 2 .nop = true ∧ (({ dp .nop with poison := [100] } : State).fetchWord 2).2 = true
    ∧ (up.issues 2 .nop) = false ∧ ((dp .nop).ctx 2).loop = none ∧ ((after (.br 2 7) (dp (.br 7))).ctx 2).pc = 7 := by decide +kernel

/-- AccumulatorsPerLane: two lanes; OVF_ACT 0 and 1; generators of each unit; a sum that saturates. -/
theorem test_dp_acc : 1 < (dp .nop).laneCount 2 ∧ (dp .nop).getB F.CEN_CTL_OVF_ACT = false ∧ ((dp .nop).setF F.CEN_CTL_OVF_ACT 1).getB F.CEN_CTL_OVF_ACT = true
    ∧ (folded 2 1 (dp .nop)).unit ≠ 1 ∧ (folded 2 2 (dp .nop)).unit ≠ 0
    ∧ (match ({ a := 2 ^ 79 - 1, e := some 0, bad := false } : Acc).add (2 ^ 79 - 1) 0 with | p => p.2) = true
    ∧ ((after (.lde 2 1 1 1 0) (dp (.lde 1 1 1 0))).ctx 2).acc 0 1 = { a := 0x10 * 2 ^ 35, e := some 0, bad := false } := by decide +kernel

/-- GeneratorsAreSet: a range inside and beyond SRAM, a good and a bad header, one whose range is beyond SRAM. -/
theorem test_dp_gen : rangeBad 50 4 0 = false ∧ rangeBad (2 ^ 23 - 1) 16383 0 = true
    ∧ hdrBad (((dp .nop).readWord 998).toNat) 0 = false ∧ hdrBad 0 0 = true
    ∧ ((((after (.agset 2 1 50 4 0) (dp (.agset 1 50 4 0))).ctx 2).gen 1).base) = 50 := by decide +kernel

/-- StoresWriteWhatTheyAddress: a store without and with a header, protected SRAM, a wrong unit, words stored to and not. -/
theorem test_dp_store : (folded 2 1 (dp .nop)).hdr = none ∧ storeLanes (dp .nop) 2 1 = [0, 1] ∧ (dp .nop).protStore 2 1000 = false
    ∧ (folded 2 3 (dp .nop)).hdr = some 998 ∧ hdrMode ((dp .nop).readWord 998).toNat = 1 ∧ (folded 2 3 (dp .nop)).len = 1 ∧ (folded 2 3 (dp .nop)).addr 0 / 2 ≠ 998
    ∧ ((((dp .nop).setF F.CEN_PROG_STAT_VALID 1 1).setF F.CEN_PROG_BASE_BASE 1000 1).setF F.CEN_PROG_LEN_LEN 4 1).protStore 2 1000 = true
    ∧ ((after (.stq 2 1 2 1 0 20) (dp (.stq 1 2 1 0 20))).readWord 1500) = 0 := by decide +kernel

/-- ProgramsAreVerifiedBeforeUse: a good program of one END, one with a bad word, one with a wrong CRC. -/
theorem test_dp_prog : let s := up.writeWord 50 (BitVec.ofNat 72 Walno.end_.enc)
    let v : Ver := { slot := 1, base := 50, len := 1, crc := progCrc 50 1 s, due := 0 }
    let w := up.writeWord 50 (BitVec.ofNat 72 (2 ^ 72 - 1))
    firstBad 50 1 s = none ∧ progCrc v.base v.len s = v.crc ∧ (firstBad 50 1 w).isSome = true ∧ progCrc 50 1 w ≠ v.crc
    ∧ ((progTake { s with dp := { s.dp with verOk := some v } }).getB F.CEN_PROG_STAT_VALID 1) = true := by decide +kernel

/-! ### Trajectory events, separation, safety: witnesses of the premises -/

/-- Axis 0 takes its home input from general input 3; its filtered state and a run of equal samples. -/
def limS : State :=
  still (((cyc 0).setF F.AX_CTL_EN 1 0).wr R.AX_IN_SEL (BitVec.ofNat 32 (131 * 65536)))

/-- LimitInputsAreFiltered: an input in use and not, at a sampler edge and not; samples that agree, begin a run, end one. -/
theorem test_limit : bit (limS.rd R.AX_IN_SEL).toNat 23 = true ∧ bit (limS.rd R.AX_IN_SEL).toNat 22 = false ∧ bit (limS.rd R.AX_IN_SEL).toNat 7 = false
    ∧ limS.samplerEdge = true ∧ ({ limS with frc := limS.frc + 1 } : State).samplerEdge = false ∧ (limS.setF F.AX_IN_FILT_FILT 0 0).getF F.AX_IN_FILT_FILT 0 = 0
    ∧ (after (.limitInputConfirm 0 2 true 8) (limS.setF F.AX_IN_FILT_FILT 0 0)).getB F.AX_STAT_HOME_IN 0 = true
    ∧ bit (limS.ax 0).filt 2 = false ∧ 1000 * limS.getF F.AX_IN_FILT_FILT 0 = 10000 := by decide +kernel

/-- AxisEnableShowsItsInputs. -/
theorem test_axis_enable : Lands (F.AX_CTL_EN.off 0 0) (fieldValue F.AX_CTL_EN 1 0 0 (showGpi 8 up)) (showGpi 8 up)
    ∧ (after (.axisEnable 0 8) up).trj.gpi = 8 := by decide +kernel

/-- Compare unit 1 with a pulse that ends 256 units of time on, another waiting, and the fire of the present edge. -/
def cmpS : State :=
  (cyc 0).withTrj fun x => { x with cmps := [(1, { Cmp.reset with
    pulse := some (0, (cyc 0).now + 256), pulse2 := some (5, 6)
    prior := some { edge := (cyc 0).frc, c := 0, side := 0, any := false, passed := false, pulse := none, pulse2 := none, ctl := 0, stat := 0, time := 0 } })] }

/-- CompareUnitsCommitAndPulse: an arming and the three writes of a position that land; a fire of the present edge and none; a
pulse that ends later, that has ended, and none. -/
theorem test_cmp : (let o := F.TRJ_CMP_POS_V.off 1 0
      let v := toBits 72 (-3)
      let s1 := written o (v % 2 ^ 32) cmpS
      let s2 := written (o + 4) (v / 2 ^ 32 % 2 ^ 32) s1
      Lands o (v % 2 ^ 32) cmpS ∧ Lands (o + 4) (v / 2 ^ 32 % 2 ^ 32) s1 ∧ Lands (o + 8) (v / 2 ^ 64) s2)
    ∧ cmpS.getB F.TRJ_CMP_CTL_ARM 1 = false ∧ Lands (F.TRJ_CMP_CTL_ARM.off 1 0) (fieldValue F.TRJ_CMP_CTL_ARM 1 1 0 cmpS) cmpS
    ∧ ((cmpS.cmp 1).prior.any fun p => p.edge == cmpS.frc) = true ∧ (cmpS.cmp 2).prior = none ∧ (cmpS.cmp 2).pulse = none
    ∧ cmpS.now < (cyc 0).now + 256 ∧ ((after (.cmpPulseEnd 1) { cmpS with frc := cmpS.frc + 1 }).cmp 1).pulse = some (5, 6) := by decide +kernel

/-- AuxCurrentFallsAtRest: at rest long enough, not enabled, not at rest. -/
theorem test_aux_hold : let s := auxS.withTrj fun x => { x with auxs := [(0, { Aux.reset with restSince := some 5, power := true })] }
    (s.aux 0).restSince = some 5 ∧ s.getB F.AUX_CTL_EN 0 = true ∧ s.tb 0x0404 0 5 32 16 * 1000000 ≤ s.ns - 5
    ∧ (s.aux 1).restSince = none ∧ s.ns - 5 < (s.setTw 0x0404 0 5 (BitVec.ofNat 72 (2 ^ 32))).tb 0x0404 0 5 32 16 * 1000000
    ∧ (after (.auxHoldCurrent 0) s).getB F.AUX_STAT_REDUCED 0 = true := by decide +kernel

/-! ### Separation -/

/-- Sensor 0 takes Damask frames. -/
def sensD : State := still (pair36 0x0504 0 0 3 (pair36 0x0504 0 2 1024 up))

/-- A frame of no cells: identifier, count, sequence 9, capture time 0, CRC. -/
def frame0 : List Byte :=
  let head := leBytes 0 2 ++ leBytes 0 2 ++ leBytes 9 4 ++ leBytes 0 8 ++ leBytes 0 8
  head ++ leBytes (crc32c (sensD.sens 0 7 0 32) (frameCovered (head ++ leBytes 0 8))) 4 ++ leBytes 0 4

/-- SensorFramesAreChecked: a frame that fails no check, one that fails, a sensor that takes none. -/
theorem test_sens : sensD.sensEn 0 = true ∧ sensD.sens 0 0 1 1 = 1 ∧ frameFails 0 frame0 sensD = 0
    ∧ frameFails 0 (frame0.set 31 1) sensD ≠ 0 ∧ sensD.sensEn 1 = false ∧ sensD.sep.badNow.contains 0 = false
    ∧ (({ sensD.sep with badNow := [0] } : Sep).badNow.contains 0) = true
    ∧ (after (.sensorFrame 0 frame0) sensD).getF F.SEP_S_GOOD_GOOD 0 = 1 := by decide +kernel

/-- The separation cycle in a phase, arm 0 in group 0. -/
def sepC (p : SepPhase) : State := { trj GSt.RUN with sep := { (trj GSt.RUN).sep with phase := p, t0 := 156250 } }

/-- SeparationCycleIssuesFactors, the computation and the handover: each phase, in time and late, both kinds of groups, good and
flipped records, good and bad parameters. -/
theorem test_sep_cycle : (sepC .sampled).sep.phase = .sampled ∧ (sepC .computed).ns ≤ (sepC .computed).handoverDue
    ∧ (sepC .computed).badParam 0x0501 0x0504 = none ∧ ((sepC .computed).setTw 0x0501 0 0 5).badParam 0x0501 0x0504 ≠ none
    ∧ (sepC .computed).safSt ≠ SSt.SAFE_FAULT ∧ (sepC .computed).handoverDue < ({ sepC .computed with frc := 320000 } : State).ns
    ∧ (sepC .idle).inactive 0 = false ∧ (sepC .idle).inactive 1 = true ∧ (sepC .computed).getB F.SEP_CTL_CAPONLY = false
    ∧ 0 ∈ (sepC .computed).enabledArms ∧ (sepC .computed).getF F.TRJ_ARM_CTL_GROUP 0 = 0 := by decide +kernel

/-- The same: records handed whole and with a flipped bit, a factor issued and not, LATE. -/
theorem test_sep_hand : handBad (sepC .computed).handRecords [] = false ∧ handBad (sepC .computed).handRecords [{ word := 0, value := 1, compl := 0 }] = true
    ∧ (((sepC .handed).setF F.SEP_G_STAT_ACC_SP 1 0).setF F.SEP_G_STAT_ACC_FELT 1 0).getB F.SEP_G_STAT_ACC_FELT 0 = true
    ∧ (after .sepLate { sepC .sampled with frc := 320000 }).sep.phase = .late := by decide +kernel

/-- VerdictsAreTakenOnce: a good verdict, a failed one, none; in time and late. -/
def verS (p : Nat × Nat) : State := { cyc 0 with saf := { (cyc 0).saf with verdicts := [(8, some p)] } }

theorem test_verdict : mapGet (fun _ => none) (verS (1, 0)).saf.verdicts (8 * 1 + 0) = some (1, 0) ∧ (verS (1, 0)).verdictLate = false
    ∧ pairOk 1 1 0 = true ∧ pairOk 1 1 1 = false ∧ mapGet (fun _ => none) (verS (1, 0)).saf.verdicts 0 = none
    ∧ (after (.safetyVerdict 1 0 false) (verS (1, 0))).getB F.SEP_G_STAT_ACC_FELT 0 = true
    ∧ ({ verS (1, 0) with frc := 187499, tbs := { (verS (1, 0)).tbs with k := 7 } } : State).verdictLate = true := by decide +kernel

/-! ### Safety channels -/

/-- OPERATE, with arm 0 of group 0 on axis 0, enabled and remote. -/
def opS : State :=
  let s := ((cyc 0).setF F.SAF_STATE_STATE SSt.OPERATE).setF F.AX_CTL_EN 1 0
  still { s with saf := { s.saf with arms := [(0, some (0, 1))] } }

/-- DemandsFollowTheTable and SafetyCycleDemands: a record to take and one taken, a flipped bit, standstill, a late record. -/
theorem test_demand : F.SAF_G_CAUSE_ESTOP ∈ causeFields ∧ opS.safSt = SSt.OPERATE ∧ up.safSt ≠ SSt.OPERATE
    ∧ (opS.chRec 0).cyc ≠ some opS.tbs.k ∧ opS.cycRun = true ∧ opS.tbs.started = true ∧ up.cycRun = false
    ∧ opS.badParam 0x0601 0x0606 = none ∧ opS.recordAxis [{ word := 0, value := 1, compl := 0 }] 0 = none ∧ opS.sGroupOf 0 = some 0
    ∧ opS.sGroupOf 1 = none ∧ (opS.recordAxis [] 0).isSome = true ∧ (demand F.SAF_G_CAUSE_ESTOP 0 3 opS).gSt 3 = GS.STO := by decide +kernel

/-- The eighth record at standstill; SS1, SS2; a record too late; SS_TMAX; a watchdog at its limit and below. -/
def stillS (st : Nat) : State :=
  (opS.setF F.SAF_G_STAT_STATE st 0).withSaf fun x => { x with
    recs := [(0, { cyc := some 4, at_ := some 156250, axes := [(0, some { pos := 0, off := 0, frame := 0, spd := 0 })] })]
    chans := [(0, { SChan.reset with still := 7 })] }

theorem test_standstill : (∀ a ∈ (stillS GS.SS1).sAxes 0, ∃ r, (stillS GS.SS1).chAx 0 a = some r ∧ r.spd.natAbs ≤ (stillS GS.SS1).axField a 5 * 2 ^ 24)
    ∧ ((stillS GS.SS1).schan 0 0).still = 7 ∧ (stillS GS.SS1).gSt 0 = GS.SS1 ∧ (stillS GS.SS2).gSt 0 = GS.SS2
    ∧ ((stillS GS.RUN).chRec 0).at_ = some 156250 ∧ 156250 + 2 * (stillS GS.RUN).period < 300000
    ∧ ((stillS GS.SS1).sgrp 0).since + (stillS GS.SS1).pb 0x0602 0 0 1 16 * 1000000 ≤ (stillS GS.SS1).frc := by
  refine ⟨?_, by decide +kernel⟩
  have h : ((stillS GS.SS1).sAxes 0).all (fun a => ((stillS GS.SS1).chAx 0 a).any fun r => decide (r.spd.natAbs ≤ (stillS GS.SS1).axField a 5 * 2 ^ 24)) = true := by decide +kernel
  intro a ha
  obtain ⟨r, h1, h2⟩ := (Option.any_eq_true ..).mp (List.all_eq_true.mp h a ha)
  exact ⟨r, h1, of_decide_eq_true h2⟩

theorem test_tmax : (stillS GS.SS1).frc < ((pair36 0x0602 0 0 2 (stillS GS.SS1)).sgrp 0).since + (pair36 0x0602 0 0 2 (stillS GS.SS1)).pb 0x0602 0 0 1 16 * 1000000
    ∧ (pair72 0x0603 0 7 3 (opS.setF F.SAF_AX_STAT_WD_CNT 3 0)).wdOver 0 = true ∧ opS.wdOver 0 = false
    ∧ (after (.bchTimeout 0) (pair72 0x0603 0 7 3 (opS.setF F.SAF_AX_STAT_WD_CNT 3 0))).gSt 0 = GS.STO := by decide +kernel

/-- SafeFaultCauses: a check value that agrees and not, outside its states, a cycle compared and not, the fourth difference. -/
theorem test_safe_fault : opS.getF F.SAF_CHK_CONF_CHK ≠ 5 ∧ (up.safSt ≠ SSt.START_TEST ∧ up.safSt ≠ SSt.OPERATE) ∧ opS.saf.cmpCyc ≠ some opS.tbs.k
    ∧ (opS.withSaf fun x => { x with cmpCyc := some 5 }).saf.cmpCyc = some opS.tbs.k ∧ up.cycRun = false
    ∧ (let t := after (.crossCompare true 1) (opS.withSaf fun x => { x with diffs := 3 })
       t.safSt = SSt.SAFE_FAULT ∧ t.getF F.SAF_FAULT_REASON = 1 ∧ t.getF F.SAF_FAULT_CH = 1)
    ∧ (after (.safeOutputTest 2 1 false) opS).getF F.SAF_FAULT_REASON = 4 ∧ (after (.supplyMonitorFault 0) opS).safSt = SSt.SAFE_FAULT := by decide +kernel

/-- Input 2 with a function, a type, REACT, for group 3. -/
def inS (func type react extra : Nat) : State := still (pair36 0x0605 2 0 (func + type * 16 + 2 ^ 25 + react * 2 ^ 30 + extra) opS)

/-- SafeInputsDemand: a terminal that goes low and stays high; both functions, both types; a disagreement past its time. -/
theorem test_safe_input : bit ((inS 1 0 1 0).lows 1) (2 * 2 + 1) ≠ (Terminal.low != Terminal.high) ∧ bit ((inS 1 0 1 0).lows 1) 5 = (Terminal.high != Terminal.high)
    ∧ bit ((inS 1 0 1 0).inGroups 2) 3 = true ∧ (inS 1 0 1 0).inFunc 2 = 1 ∧ (inS 2 1 0 0).inFunc 2 = 2 ∧ (inS 2 1 0 0).inType 2 = 1
    ∧ (inS 1 0 1 0).safSt = SSt.OPERATE ∧ bit ((inS 1 0 1 0).getF F.SAF_IN_STAT_DISC) 2 = false
    ∧ (after (.safeInputChange 1 2 1 .open_) (inS 1 0 1 0)).getB F.SAF_G_CAUSE_ESTOP 3 = true := by decide +kernel

theorem test_disc : (let s : State := { (inS 1 0 1 (2 ^ 33)).withSaf (fun x => { x with disagree := [(2, some 100)] }) with frc := 200000 }
      mapGet (fun _ => none) s.saf.disagree 2 = some 100 ∧ 100 + s.inCfg 2 14 8 * 10000000 < s.frc ∧ s.inCfg 2 33 1 = 1
      ∧ bit ((after (.discLatch 2) s).getF F.SAF_IN_STAT_DISC) 2 = true ∧ (after (.testPulseCheck 2 false) s).gSt 3 = (after (.discLatch 2) s).gSt 3)
    ∧ mapGet (fun _ => none) opS.saf.disagree 2 = none := by decide +kernel

/-- A reset input pressed 0.1 s ago, its terminal low in both channels; group 3 in STO. -/
def resetS (st conf : Nat) : State :=
  let s := (((inS 3 2 0 0).setF F.SAF_STATE_STATE st).setF F.SAF_STATE_CONF_PEND conf).setF F.SAF_G_STAT_STATE GS.STO 3
  { still s with frc := 200000000, saf := { s.saf with press := [(2, some 100000000)], low := 16, lowFelt := 16 } }

/-- ResetEdgesRelease: a valid press in OPERATE, with a confirmation waiting in UNCONFIRMED; a group in STO and one not; no reset input. -/
theorem test_reset_edge : (resetS SSt.OPERATE 0).inFunc 2 = 3 ∧ (resetS SSt.OPERATE 0).inType 2 = 2 ∧ (resetS SSt.OPERATE 0).inBoth 2 true = true
    ∧ (resetS SSt.OPERATE 0).validPress 2 = true ∧ (resetS SSt.OPERATE 0).getB F.SAF_STATE_CONF_PEND = false ∧ (resetS SSt.OPERATE 0).safSt = SSt.OPERATE
    ∧ (resetS SSt.UNCONFIRMED 1).getB F.SAF_STATE_CONF_PEND = true ∧ (resetS SSt.UNCONFIRMED 1).safSt = SSt.UNCONFIRMED ∧ (resetS SSt.UNCONFIRMED 1).saf.confDue = none
    ∧ (resetS SSt.OPERATE 0).gSt 3 = GS.STO ∧ (resetS SSt.OPERATE 0).inFunc 1 ≠ 3
    ∧ (after (.resetEdge 2) (resetS SSt.OPERATE 0)).gSt 3 = GS.RUN := by decide +kernel

theorem test_reset_stuck : 100000000 + 5000000000 < ({ resetS SSt.OPERATE 0 with frc := 2 ^ 33 } : State).frc
    ∧ (resetS SSt.OPERATE 0).frc ≤ 100000000 + 5000000000 ∧ (after (.resetStuck 2) { resetS SSt.OPERATE 0 with frc := 2 ^ 33 }).getB F.SAF_FLAG_RESET_STUCK = true := by
  decide +kernel

/-- ParametersAndTheirTimes: a set that agrees and one that does not; a confirmation and a feedback past their time and before. -/
theorem test_param : let s := up.withSaf fun x => { x with closing := some 1, confDue := some 0, edm := [(0, some 0), (1, some 9)] }
    s.saf.closing = some 1 ∧ firstCode (paramCodes true s) = EC.OK ∧ firstCode (paramCodes false s) ≠ EC.OK
    ∧ s.saf.confDue = some 0 ∧ 0 ≤ s.frc ∧ up.saf.closing = none ∧ up.saf.confDue = none
    ∧ mapGet (fun _ => none) s.saf.edm 0 = some 0 ∧ bit (s.getF F.SAF_OUT_ON) 0 = s.edmActive 0 ∧ s.frc < 9 := by decide +kernel

theorem test_confirm : let s := up.withSaf fun x => { x with confDue := some 0, edm := [(0, some 0)] }
    (after .confirmTimeout s).getB F.SAF_FLAG_TIMEOUT = true ∧ bit ((after (.edmTimeout 0) s).getF F.SAF_OUT_EDM_F) 0 = true := by decide +kernel

/-! ### Feedback, PWM, converters, acquisition: witnesses of the premises -/

/-- Feedback channel 4 runs in a mode; Felt holds its fields. -/
def fbkS (mode : Nat) : State :=
  let s := (((cyc 0).setF F.FBK_CTL_EN 1 4).setF F.FBK_CFG_MODE mode 4).setF F.FBK_SSI_LEN 12 4
  still { s with fbk := { s.fbk with chans := [(4, { Chan.reset with frameAt := some 7 })] }, saf := { s.saf with fbkCfg := [(36, some (mode, 2 ^ 35 - 1 - mode))] } }

/-- QuadratureCountsOnce: a channel that runs in quadrature, one on SSI, one that is disabled; up, down and a decode error. -/
theorem test_quad : (fbkS 0).fbkOn 4 = true ∧ (fbkS 0).fbkMode 4 = 0 ∧ (fbkS 2).fbkMode 4 = 2 ∧ (fbkS 0).fbkOn 5 = false
    ∧ ((after (.feedbackInputChange 4 1 9 0 0) (fbkS 0)).chan 4).count = 1 ∧ ((after (.feedbackInputChange 4 2 0 9 0) (fbkS 0)).chan 4).count = -1
    ∧ (after (.feedbackInputChange 4 3 0 9 0) (fbkS 0)).getF F.FBK_ERR_CNT_DEC 4 = 1 := by decide +kernel

/-- FramesLossAndFelt: a good frame, one that fails; a first value and a later one; LOSS rises and stays; Felt's fields held and
failed; both halves of a line pair, and two equal lines. -/
theorem test_ssi : ((fbkS 2).chan 4).frameAt = some 7 ∧ (fbkS 2).fbkEn 4 = true ∧ frameKind 4 (9 % 2 ^ (fbkS 2).ssiBits 4) true false (fbkS 2) = 0
    ∧ frameKind 4 (9 % 2 ^ (fbkS 2).ssiBits 4) false false (fbkS 2) ≠ 0 ∧ ((fbkS 2).chan 4).ssiLast = none ∧ (fbkS 2).getF F.FBK_SSI_JUMP 4 = 0
    ∧ ((fbkS 0).chan 5).frameAt = none ∧ ((after (.ssiFrameDone 4 9 true false) (fbkS 2)).chan 4).count = 9 := by decide +kernel

theorem test_felt : decide (5 % 8 &&& modeInputs 0 ≠ 0) = true ∧ (fbkS 0).getB F.FBK_STAT_LOSS 4 = false ∧ (after (.lossChange 4 5) (fbkS 0)).getB F.FBK_STAT_FAULT 4 = true
    ∧ (fbkS 0).fbkHeld 1 4 = some 0 ∧ (fbkS 0).fbkHeld 1 5 = none
    ∧ ([(1, 6), (3, 4)].foldl (feltLine 0) { steps := 0, pins := 0, ref := none, good := true }).steps = 2
    ∧ ([(1, 7)].foldl (feltLine 0) { steps := 0, pins := 0, ref := none, good := true }).good = false := by decide +kernel

/-- PWM channel 5 counts up, or up and down, from edge 0 with period 1000. -/
def pwmS (updown : Nat) (c : PwmCh) : State :=
  let s := (((cyc 0).setF F.PWM_CTL_EN 1 5).setF F.PWM_CFG_MODE updown 5).setF F.PWM_PER_PER 1000 5
  still { s with pwm := { s.pwm with chans := [(5, c)] } }

/-- PwmCountersStartTheirPeriods: a period that has ended, one that has not; the last one of the cycle, held 256 counts; a turn;
the CMPB event; the strobe. -/
theorem test_pwm_per : let s := pwmS 0 { PwmCh.reset with run := true }
    (s.pch 5).run = true ∧ s.endEdge 5 = some 1000 ∧ 1000 ≤ s.pclk ∧ s.lastPeriod 5 = false ∧ (s.pch 6).run = false
    ∧ s.cycRun = true ∧ s.tbs.started = true ∧ s.pwm.strobe ≠ some s.tbs.k ∧ s.strobeEdge ≤ ({ s with frc := s.frc + 8 } : State).pclk ∧ up.cycRun = false
    ∧ s.tied 5 = false ∧ ((after (.pwmReload 5) s).pch 5).edge = 1000 := by decide +kernel

theorem test_pwm_sync : let s := still ((pwmS 0 { PwmCh.reset with run := true, per := some 11 }).setF F.PWM_CFG_SYNC 1 5)
    s.tied 5 = true ∧ s.nper 5 = 12 ∧ s.lastPeriod 5 = true ∧ s.endEdge 5 = some 1000 ∧ 1000 + 256 ≤ s.pclk
    ∧ (after (.pwmHoldLimit 5) s).getB F.PWM_FLAG_SYNC_LOST 5 = true
    ∧ (s.pwmEn 5 = true ∧ s.syncOf 5 = true ∧ (s.pch 5).run = true) := by decide +kernel

theorem test_pwm_turn : let s := pwmS 1 { PwmCh.reset with run := true }
    (s.pch 5).top = false ∧ s.upDown 5 = true ∧ (s.pch 5).down = false ∧ s.turnEdge 5 ≤ s.pclk ∧ (s.pch 5).edge ≤ s.pclk
    ∧ (s.setF F.PWM_CMPB_CMPB 499 5).cntOf 5 = (s.setF F.PWM_CMPB_CMPB 499 5).getF F.PWM_CMPB_CMPB 5 ∧ (s.pch 5).cmpb ≠ some s.pclk ∧ s.lastPeriod 5 = false := by
  decide +kernel

/-- OutputsFollowTheirDeadTime: REF falls and rises where the period allows it, tripped and not; a dead time that has ended. -/
theorem test_pwm_out : let s := pwmS 0 { PwmCh.reset with run := true, ref := true, h := true, pend := some (false, 5) }
    let t := pwmS 0 { PwmCh.reset with run := true, d := 65535 }
    s.condA 5 ≠ (s.pch 5).ref ∧ ¬ (s.condA 5 = false ∧ (s.pch 5).fell = true) ∧ s.tripped 5 = false ∧ (s.setF F.PWM_TGRP_STAT_LATCHED 1 0).tripped 5 = true
    ∧ s.condA 5 = false ∧ t.condA 5 = true ∧ t.condA 5 ≠ (t.pch 5).ref ∧ (s.pch 5).pend = some (false, 5) ∧ 5 ≤ s.pclk ∧ (s.pch 6).pend = none
    ∧ ((after (.pwmRefEdge 5) s).pch 5).h = false ∧ ((after (.deadTimeEnd 5) s).pch 5).l = true := by decide +kernel

/-- TripsLatchAndHold: a group with an input that becomes active, blanked and not; windows that have ended and not. -/
theorem test_trip : let s := still ((pwmS 0 PwmCh.reset).setF F.PWM_TGRP_CFG_MASK 1 0 |>.setF F.PWM_TIN_CFG_EN 1 0)
    let u := s.withPwm fun x => { x with tin := putBits x.tin 0 1 1 }
    u.tripCause 0 ≠ 0 ∧ s.blanked 0 = false ∧ s.tripLatched 0 = false ∧ u.tripCause 1 = 0 ∧ s.getF F.PWM_CFG_TGRP 5 = 0 ∧ s.pwmEn 5 = true ∧ (s.pch 5).resume = false
    ∧ (let b := s.withPwm fun x => { x with blank := [(0, some 9), (1, some 62501)] }
       b.blankEnd 0 = some 9 ∧ 9 ≤ b.pclk ∧ b.blankEnd 1 = some 62501 ∧ b.pclk < 62501 ∧ b.tripCause 0 = 0)
    ∧ (still (u.setF F.PWM_TGRP_STAT_LATCHED 1 0)).tripLatched 0 = true := by decide +kernel

theorem test_trip_latch : let s := still ((pwmS 0 { PwmCh.reset with run := true, h := true }).setF F.PWM_TGRP_CFG_MASK 1 0 |>.setF F.PWM_TIN_CFG_EN 1 0)
    let t := after (.tripLatch 0 true) s
    t.tripLatched 0 = true ∧ (t.pch 5).h = false ∧ t.getB F.PWM_FLAG_TRIP 5 = true
    ∧ barCode (F.PWM_TGRP_CMD_CLEAR.off 0 0) (fieldValue F.PWM_TGRP_CMD_CLEAR 1 0 0 t) true t ≠ EC.OK := by decide +kernel

/-- Converter 3 with a state beside its registers. -/
def adcS (c : AdcCh) : State := { (cyc 0).setF F.ADC_CTL_EN 1 3 with adc := { (cyc 0).adc with chans := [(3, c)] }, upd := [] }

/-- A conversion of input 2 that began 300 ns ago. -/
def conv (kind : ConvKind) : Conv := { pos := 2, kind := kind, strobe := (156250 - 300) * 256, unset := false, refOk := true, late := false, test := false }

/-- ConversionsDeliverTheirResult: a conversion that has had its time, of each kind; one that has not. -/
theorem test_conv : [ConvKind.ts, .scan, .inj].all (fun k => let s := adcS { AdcCh.reset with conv := some (conv k) }
      decide ((s.adcCh 3).conv = some (conv k) ∧ (conv k).strobe + 204 * 256 ≤ s.raw) && ((after (.conversionDone 3 8200) s).adcCh 3).conv.isNone) = true
    ∧ ({ adcS { AdcCh.reset with conv := some (conv .ts) } with frc := 0 } : State).raw < (conv .ts).strobe + 204 * 256
    ∧ mapGet (fun _ => none) (after (.conversionDone 3 8200) (adcS { AdcCh.reset with conv := some (conv .ts) })).adc.store 26 = some 8200
    ∧ (after (.conversionDone 3 8200) (adcS { AdcCh.reset with conv := some (conv .scan) })).getF F.ADC_RESULT_CODE 3 = 8200 := by decide +kernel

/-- ReferencesCalibrationAndReads: each time that has come and that has not; the reference that goes; a read; a DAC that has settled. -/
theorem test_adc_ref : let s := adcS { AdcCh.reset with calEnd := some 5, settle := some 5 }
    (s.adcCh 3).calEnd = some 5 ∧ 5 ≤ s.raw ∧ (s.adcCh 3).settle = some 5 ∧ (s.adcCh 4).calEnd = none ∧ (s.adcCh 4).settle = none
    ∧ (s.setF F.ADC_REF_STAT_EXT_OK 1).getB F.ADC_REF_STAT_EXT_OK ≠ false ∧ s.adcEn 3 = true ∧ (s.setF F.ADC_CFG_REF_SEL 1 3).getF F.ADC_CFG_REF_SEL 3 = 1
    ∧ s.getB F.HST_STAT_RUNTIME = true ∧ (after (.calDone 3) s).getB F.ADC_STAT_CAL_VALID 3 = true ∧ (after (.refSettle 3) s).getB F.ADC_STAT_REF_OK 3 = true := by
  decide +kernel

theorem test_tdac : let s := adcS { AdcCh.reset with inj := some false, dacUntil := 9 }
    (s.adcCh 3).dacUntil ≤ s.raw ∧ (s.adcCh 3).inj = some false ∧ s.adcEn 3 = true ∧ (s.adcCh 3).conv = none ∧ (s.adcCh 3).calEnd = none ∧ (s.adcCh 3).tsLeft = []
    ∧ (s.adcCh 4).inj = none ∧ ({ s with frc := 0 } : State).raw < (s.adcCh 3).dacUntil ∧ ((after (.tdacSettled 3) s).adcCh 3).inj = none := by decide +kernel

/-- Acquisition unit 0 samples the cell cycle, in a state. -/
def sampS (st : Nat) (x : AcqUnit) : State :=
  let s := ((acq.setF F.ACQ_CFG_SMODE 0 0).setF F.ACQ_STAT_STATE st 0).setF F.ACQ_POST_POST 1 0
  still { s with acq := { s.acq with units := [(0, x)] }, tbs := { s.tbs with tcDone := true } }

/-- SamplesTakeARecordOn: a unit whose sample is due in each state, with room and without, forced, stopped, shed; none due. -/
theorem test_acq : [AcqSt.FILL, AcqSt.ARMED, AcqSt.POST].all (fun st => (sampS st AcqUnit.reset).sampleDue 0 0) = true
    ∧ (sampS AcqSt.FILL AcqUnit.reset).getB F.ACQ_CFG_SMODE 0 = (none : Option Nat).isSome ∧ (sampS AcqSt.FILL AcqUnit.reset).aShed = false
    ∧ ((sampS AcqSt.FILL AcqUnit.reset).setF F.ACQ_G_STAT_SHED 1).aShed = true ∧ bit 1 0 = true ∧ bit 2 0 = false
    ∧ (sampS AcqSt.FILL AcqUnit.reset).getB F.ACQ_CFG_ARM_EARLY 0 = false ∧ (sampS AcqSt.FILL AcqUnit.reset).getF F.ACQ_POST_POST 0 ≠ 0
    ∧ (sampS AcqSt.FILL AcqUnit.reset).getB F.ACQ_CFG_STREAM 0 = false ∧ (sampS AcqSt.FILL AcqUnit.reset).getB F.ACQ_CFG_AUTO 0 = false
    ∧ (sampS AcqSt.FILL { AcqUnit.reset with lastCyc := some 5 }).sampleDue 0 0 = false ∧ up.aShed = false ∧ (up.au 0).stop = false := by decide +kernel

theorem test_acq_run : (after (.acqSample none 0 0) (sampS AcqSt.FILL AcqUnit.reset)).aSt 0 = AcqSt.ARMED
    ∧ (after (.acqSample none 0 0) (sampS AcqSt.ARMED { AcqUnit.reset with force := true, stop := true })).getB F.ACQ_FLAG_STOPPED 0 = true
    ∧ (after (.acqSample none 0 0) (sampS AcqSt.POST { AcqUnit.reset with trig := some ⟨0, 0, 0, 0, 0, 0⟩ })).aSt 0 = AcqSt.DONE
    ∧ (after (.acqSample none 1 0) (sampS AcqSt.FILL AcqUnit.reset)).getF F.ACQ_CNT_DROP 0 = 1 := by decide +kernel

/-! ### Twill, Damask, Laend: witnesses of the premises -/

/-- Branch 0 in a state late in cycle 5, Felt's copy of its mode record beside the host's. -/
def twlF (st : Nat) : State :=
  { twl st with frc := 187000, twl := { (twl st).twl with felt := [(0, [1 + 2 ^ 16 + 100 * 2 ^ 32, 0, 9000, 0, 0].map fun v => (v, 2 ^ 64 - 1 - v))] } }

/-- TwillFramesLeaveOnce: each frame is due and, sent, no longer is; gates open as planned and shut. -/
theorem test_twl_send : [1, 2, 3, 4, 5].all (fun t => (twlF BrSt.SYNC).sendDue 0 t) = true ∧ (twlF BrSt.SYNC).mirrored = false
    ∧ (twlF BrSt.OFF).sendDue 0 1 = false ∧ (twlF BrSt.SYNC).ports 0 = [0, 1] ∧ ((twlF BrSt.SYNC).feltGate 0 1).isSome = true
    ∧ 17 < ({ twlF BrSt.SYNC with frc := 156290 } : State).gateSymbols 0 1 ∧ ({ twlF BrSt.SYNC with frc := 156290 } : State).sendDue 0 1 = true
    ∧ ((twlF BrSt.SYNC).withTwl fun x => { x with shut := true }).gateSymbols 0 1 = 0 ∧ (twlF BrSt.RUN).brSt 0 = BrSt.RUN ∧ (twlF BrSt.RUN).nodes 0 = 1 := by decide +kernel

theorem test_twl_sent : (after (.pollFrameSend 0) (twlF BrSt.SYNC)).sendDue 0 2 = false ∧ (after (.cmdFrameSend 0) (twlF BrSt.RUN)).sendDue 0 4 = false
    ∧ (after (.syncFrameSend 0) { twlF BrSt.SYNC with frc := 156290 }).out.length = 2 := by decide +kernel

/-- ReturningCopiesAreJudged and FirstSliceIsTaken: a SYNC copy whose FCS holds, one whose FCS fails, no copy of a frame type;
inside a window and outside it; a branch that is off; slices good, short, early and late. -/
def syncCopy : List Byte := withFcs (frameBytes 0 1 0 (bodyOf 0 1 0 0 (twlF BrSt.SYNC)) (twlF BrSt.SYNC))

theorem test_twl_copy : leAt syncCopy (syncCopy.length - 4) 4 = crc32c 0xFFFFFFFF (syncCopy.take (syncCopy.length - 4)) ∧ leAt syncCopy 0 1 % 16 = 1
    ∧ (twlF BrSt.SYNC).headerOk 0 (syncCopy.take (syncCopy.length - 4)) = true ∧ leAt (syncCopy.set 9 7) (syncCopy.length - 4) 4 ≠ crc32c 0xFFFFFFFF ((syncCopy.set 9 7).take (syncCopy.length - 4))
    ∧ leAt (syncCopy.set 0 0) 0 1 % 16 = 0 ∧ (twlF BrSt.SYNC).inWindow 0 0 2 0 = false
    ∧ (twlF BrSt.SYNC).inWindow 0 0 2 ((twlF BrSt.SYNC).gateAt 0 2 + 160 * 256) = true ∧ (twlF BrSt.SYNC).role = Role.SINGLE ∧ (twlF BrSt.SYNC).pairRun = false
    ∧ (twlF BrSt.OFF).brSt 0 = BrSt.OFF ∧ (twlF BrSt.SYNC).brSt 0 ≠ BrSt.OFF ∧ 1 ∈ (twlF BrSt.SYNC).ports 0 := by decide +kernel

def slice0 : List Byte := let d := leBytes 5 12; d ++ leBytes (crc32c 0xFFFFFFFF d) 4

theorem test_slice : 16 ≤ slice0.length ∧ leAt slice0 (slice0.length - 4) 4 = crc32c 0xFFFFFFFF (slice0.take (slice0.length - 4))
    ∧ ¬ (16 ≤ (slice0.take 8).length) ∧ mapGet (fun _ => none) ((sliceIn 0 0 1 100 slice0 (twlF BrSt.RUN)).br 0).got 0 = some (100, 1, slice0)
    ∧ mapGet (fun _ => none) ((twlF BrSt.RUN).br 0).got 0 = none ∧ ((200 < 100 ∨ 200 = 100 ∧ 1 = 0) → False)
    ∧ mapGet (fun _ => none) ((sliceIn 0 0 0 100 slice0 (sliceIn 0 0 1 100 slice0 (twlF BrSt.RUN))).br 0).got 0 = some (100, 0, slice0) := by decide +kernel

/-- A branch with what it has counted. -/
def brS (st : Nat) (x : Br) : State := { twlF st with twl := { (twlF st).twl with brs := [(0, x)] } }

/-- BranchesAdvanceAndOpen: each condition, and none; a port without a copy for two cycles. -/
theorem test_branch : (brS BrSt.START { Br.reset with good := 16 }).brSt 0 = BrSt.START ∧ 16 ≤ ((brS BrSt.START { Br.reset with good := 16 }).br 0).good
    ∧ ((brS BrSt.START { Br.reset with topo := 16 }).br 0).good < 16 ∧ (brS BrSt.SYNC { Br.reset with good := 64 }).lateNodes 0 = []
    ∧ ((brS BrSt.SYNC { Br.reset with good := 64 }).br 0).lay = []
    ∧ ((brS BrSt.SYNC { Br.reset with good := 64 }).setF F.TWL_N_PDLY_PDLY 9999999 0).mirrored = false
    ∧ 2 ≤ ((brS BrSt.RUN { Br.reset with missB := 2 }).br 0).missB ∧ bit ((brS BrSt.RUN { Br.reset with missB := 2 }).br 0).openPorts 1 = false
    ∧ (after (.branchStateAdvance 0) (brS BrSt.START { Br.reset with good := 16 })).brSt 0 = BrSt.SYNC
    ∧ (after (.ringOpen 0 1) (brS BrSt.RUN { Br.reset with missB := 2 })).getB F.TWL_STAT_RING_OPEN 0 = true := by decide +kernel

/-- BranchesAdvanceAndOpen: a node that CMD reaches too late. -/
theorem test_branch_late : let s := (brS BrSt.SYNC { Br.reset with good := 64, hist := [(0, List.replicate 16 (400000, 400000))] })
    s.lateNodes 0 ≠ [] := by decide +kernel

/-- ModeSwitchesCheckAndApply: due, with and without acknowledgement, not due; a checked switch at its cycle. -/
def swS (checked : Bool) (at_ : Nat) : State :=
  let s := ((twlF BrSt.RUN).setF F.TWL_G_MODE_SWP 1).setF F.TWL_G_MODE_NEXT 2 |>.setF F.TWL_G_SW_AT_SW_AT at_
  { s with twl := { s.twl with checked := checked } }

theorem test_switch : (swS false 9).getB F.TWL_G_MODE_SWP = true ∧ (swS false 9).twl.checked = false ∧ (swS false 9).tbs.started = true
    ∧ (swS false 9).getF F.TWL_G_SW_AT_SW_AT ≤ (swS false 9).tbs.k + 8 ∧ (swS false 9).noAck 0 ≠ 0
    ∧ [0, 1, 2, 3, 4, 5, 6, 7].all (fun b => ((swS false 9).setF F.TWL_N_STAT_NSTAT 68 0).noAck b == 0) = true
    ∧ (swS true 5).twl.checked = true ∧ (swS true 5).getF F.TWL_G_SW_AT_SW_AT ≤ (swS true 5).tbs.k ∧ (swS true 5).dmk.agree.any (·.joined) = false
    ∧ up.getB F.TWL_G_MODE_SWP = false ∧ (after .modeSwitchApply (swS true 5)).twlMode = 2 := by decide +kernel

/-- ServiceAndGuardianTimes: a service 64 cycles old, of the host and of a layout; one in time; blocked edges. -/
theorem test_svc : let s (h : Option Nat) (k : Nat) := brS BrSt.RUN { Br.reset with svc := some { node := 0, req := [], start := 0, host := h }, blocked := k }
    let t : State := { s none 3 with tbs := { (s none 3).tbs with k := 64 } }
    (t.br 0).svc = some { node := 0, req := [], start := 0, host := none } ∧ 0 + 64 ≤ t.tbs.k ∧ (s (some 64) 0).tbs.k < 0 + 64 ∧ (t.br 1).svc = none
    ∧ ((s none 3).br 0).blocked ≠ 0 ∧ ((s none 0).br 0).blocked = 0 ∧ (((after (.guardBlock 0 2) (s none 3)).br 0).blocked) = 5 := by decide +kernel

/-- LinkEndsFollowTheirStates: an end in TRAIN, past its time and before; a link that is lost, in each LINK_MODE, and one that is not. -/
theorem test_link : let s := dmk.setF F.DMK_P_STAT_STATE LinkSt.TRAIN 1
    s.linkSt 1 = LinkSt.TRAIN ∧ s.linkSt 0 ≠ LinkSt.TRAIN ∧ (s.link 1).since + 500000000 * 256 ≤ ({ s with frc := 2 ^ 30 } : State).now
    ∧ s.now < (s.link 1).since + 500000000 * 256 ∧ dmk.linkLost 0 1 = true ∧ dmk.linkLost 0 2 = false ∧ dmk.linkMode 0 = 0
    ∧ (dmk.setF F.DMK_P_CTL_LINK_MODE 1 0).linkMode 0 ≠ 0 ∧ (after (.linkTrainDone 1) s).linkSt 1 = LinkSt.LOCK
    ∧ (after (.linkLoss 0 1) dmk).linkSt 0 = LinkSt.TRAIN := by decide +kernel

/-- LinkFramesMeasureTheLink: a port and a lane that may send and that may not, busy and idle; frames valid and not, of a new
neighbour and of another. -/
def linkReq : List Byte := linkBody 1 2 9 0 0 77 up

theorem test_link_frame : LinkSt.LOCK ≤ dmk.linkSt 0 ∧ (dmk.link 0).sent = 0 ∧ (dmk.dport 0).cur = none ∧ (dmk.dport 0).links = []
    ∧ LinkSt.LOCK ≤ (dmk.setF F.LND_L_STAT_STATE LinkSt.UP 0).linkSt 4 ∧ dmk.linkSt 1 < LinkSt.LOCK
    ∧ linkValid linkReq = true ∧ linkValid [] = false ∧ leAt linkReq 0 1 = 1 ∧ leAt linkReq 8 8 = 77 ∧ (dmk.link 0).uid = none
    ∧ (dmk.setF F.DMK_P_STAT_STATE LinkSt.LOCK 0).linkSt 0 = LinkSt.LOCK
    ∧ (after (.linkFrameReceive 0 5 linkReq) (dmk.setF F.DMK_P_STAT_STATE LinkSt.LOCK 0)).linkSt 0 = LinkSt.PEER
    ∧ ((after (.linkFrameSend 0) dmk).link 0).reqNo = 1 := by decide +kernel

/-- LinkFramesMeasureTheLink: the seventh and the eighth measurement. -/
theorem test_link_measure : let s (n : Nat) : State := { dmk.setF F.DMK_P_STAT_STATE LinkSt.PEER 0 with links := [(0, { Link.reset with uid := some 77, reqs := [(9, 100)], meas := List.replicate n 100 })] }
    (s 6).linkSt 0 = LinkSt.PEER ∧ ((s 6).link 0).reqs.find? (fun r => r.1 == leAt linkReq 4 4) = some (leAt linkReq 4 4, 100) ∧ ((s 6).link 0).uid = some (leAt linkReq 8 8)
    ∧ 200 ≤ 100 + 100000 * 256 ∧ (linkMeasure 0 200 linkReq (s 6)).linkSt 0 = LinkSt.PEER ∧ (linkMeasure 0 200 linkReq (s 7)).linkSt 0 = LinkSt.UP := by decide +kernel

/-- A header with a good check value. -/
def hdr39 (b0 dst len : Nat) : List Byte :=
  let h := leBytes b0 1 ++ leBytes dst 2 ++ leBytes 9 2 ++ leBytes 0 1 ++ leBytes 0 1 ++ leBytes len 2 ++ leBytes 3 2 ++ List.replicate 26 0
  h ++ leBytes (crc16 h) 2

/-- A frame. -/
def frm (dst rlen hops : Nat) : DFrame :=
  { cls := 2, cont := false, more := false, kind := 4, dst := dst, src := 9, stream := 1, hops := hops, fseq := 3, cyc := 0, rlen := rlen, rptr := 0,
    route := 1, payload := List.replicate 1024 0, bad := [], ing := none, sof := 0, exit := 0, key := none }

/-- Ports 0 and 1 are up, node 5 is reached by port 1. -/
def dmk2 : State :=
  let s := (dmk.setF F.DMK_P_STAT_STATE LinkSt.UP 1).setTw 0x0B07 5 0 5
  still { s with dmk := { s.dmk with hasTable := true } }

/-- FramesFindTheirWay: good and bad headers, a continuation of nothing, a LINK frame; every way. -/
theorem test_way : headerGood (hdr39 (2 + 64) 5 16) = true ∧ headerGood ((hdr39 66 5 16).set 3 1) = false ∧ bit (leAt (hdr39 70 5 16) 0 1) 2 = true
    ∧ (dmk2.dport 0).inn = [] ∧ leAt (hdr39 66 5 16) 0 1 % 4 = 2 ∧ leAt (hdr39 66 5 16) 0 1 / 16 ≠ 3 ∧ leAt (hdr39 48 5 16) 0 1 / 16 = 3 ∧ dmk2.dmkUp 0 = true ∧ dmk2.dEn = true
    ∧ dmk2.dmkUp 2 = false ∧ dmk2.wayOf (dmkFrame (hdr39 66 5 16) [] [] 0 0 0) 0 = ([1], false, false)
    ∧ dmk2.routeTo 5 = some 1 ∧ dmk2.routeTo 6 = none ∧ dmk2.fresh 9 3 = true ∧ (dmk2.withDmk fun d => { d with bcast := [(9, some 3)] }).fresh 9 3 = false
    ∧ dmk2.dAddr = 1 ∧ dmk2.wayOf (frm 0xFFF 0 0) 0 = ([1], true, false) ∧ dmk2.wayOf (frm 5 1 0) 0 = ([1], false, false) := by decide +kernel

/-- An egress that sends its frame's first unit. -/
def egS (q0 : List DFrame) (links : List (List Byte)) : State :=
  dmk2.withDmk fun d => { d with ports := [(1, { DPort.reset with cur := some { frame := frm 5 0 0, off := 0, ends := 0, link := false }, q0 := q0, links := links })] }

/-- EgressPreemptsForClass0: the end of a unit with nothing, class 0, a LINK frame waiting; before it; a message cut short; a
class-0 record due and not. -/
theorem test_egress : ((egS [] []).dport 1).cur = some { frame := frm 5 0 0, off := 0, ends := 0, link := false } ∧ 0 < (frm 5 0 0).payload.length
    ∧ 0 ≤ 5 * (egS [] []).now ∧ ((egS [] []).dport 1).q0 = [] ∧ (egS [] []).windowMeets 1 0 (0 + unitSpan (frm 5 0 0) 0) = false
    ∧ (egS [] []).linkSt 1 = LinkSt.UP ∧ (egS [] []).beShed = false
    ∧ ((after (.egressUnitEnd 1) (egS [frm 5 0 1] [])).dport 1).rest.any (fun f => f.cont) = true
    ∧ ((after (.egressUnitEnd 1) (egS [] [linkReq])).dport 1).cur.any (fun c => c.link) = true
    ∧ ((after (.egressUnitEnd 1) (egS [] [])).dport 1).cur.any (fun c => c.off != 0) = true := by decide +kernel

theorem test_reasm : let r : Reasm := { src := 9, stream := 1, cls := 2, fseq := 3, time := 0, data := [], drop := false }
    let s := dmk2.withDmk fun d => { d with reasm := [r] }
    ({ s with frc := 2 ^ 24 } : State).dmk.reasm.find? (fun q => q.is 9 1 && decide (q.time + 10000000 * 256 ≤ ({ s with frc := 2 ^ 24 } : State).now)) = some r
    ∧ (∀ r ∈ s.dmk.reasm, r.is 9 1 = true → s.now < r.time + 10000000 * 256)
    ∧ (after (.reassemblyTimeout 9 1) { s with frc := 2 ^ 24 }).getB F.DMK_FLAG_SEQ_GAP = true := by decide +kernel

theorem test_c0 : let s := dmk2.setTw 0x0B01 3 0 (BitVec.ofNat 72 (3 * 2 ^ 20))
    s.c0En 3 = true ∧ s.c0 3 0 20 1 ≠ 0 ∧ s.standby = false ∧ s.cycRun = true ∧ s.tbs.started = true ∧ (s.tbs.t0 + s.c0 3 1 0 32) * 256 ≤ s.now
    ∧ s.dmk.c0Sent.contains 3 = false ∧ s.dEn = true ∧ s.dAddr ≠ 0 ∧ dmk2.c0En 3 = false ∧ (after (.c0Send 3) s).dmk.c0Sent = [3] := by decide +kernel

/-- DiscoveryAsksItsNeighbours: with a neighbour and alone; a request to repeat and one too young; a table whose parts are old. -/
theorem test_discovery : let s := (dmk2.setF F.DMK_P_NUID_V 77 0).withDmk fun d => { d with discDue := true }
    s.getB F.DMK_STAT_ROOT_ACT = true ∧ s.dmk.disc = none ∧ s.dmk.discDue = true ∧ s.linkSt 0 = LinkSt.UP ∧ s.getF F.DMK_P_NUID_V 0 ≠ 0 ∧ s.getF F.DMK_P_NUID_V 0 ≠ s.dUid
    ∧ [0, 1, 2, 3].all (fun p => (up.setF F.DMK_STAT_ROOT_ACT 1).linkSt p != LinkSt.UP) = true
    ∧ ((after (.discovery false) s).dmk.disc.any fun d => !d.todo.isEmpty) = true
    ∧ (after (.discovery true) (up.setF F.DMK_STAT_ROOT_ACT 1)).getF F.DMK_STAT_NODES = 1 := by decide +kernel

theorem test_disc_repeat : let d : Disc := { nodes := [], todo := [.probe [] [] 77], tries := 1, sentAt := 0, table := 0 }
    let s := dmk2.withDmk fun x => { x with disc := some d, parts := some (5, 0, []) }
    s.dmk.disc = some d ∧ d.todo = .probe [] [] 77 :: [] ∧ s.now < d.sentAt + 1000000 * 256 ∧ d.sentAt + 1000000 * 256 ≤ ({ s with frc := 2 ^ 27 } : State).now ∧ d.tries < 3
    ∧ s.dmk.parts = some (5, 0, []) ∧ 0 + 100000000 * 256 ≤ ({ s with frc := 2 ^ 27 } : State).now ∧ s.now < 0 + 100000000 * 256 ∧ up.dmk.parts = none
    ∧ ((after .discRepeat { s with frc := 2 ^ 27 }).dmk.disc.any fun x => x.tries == 2) = true := by decide +kernel

/-- A synchronised source in a state. -/
def syS (st : Nat) : State := (((dmk2.setF F.DMK_SYNC_STAT_STATE st).setF F.DMK_SYNC_CFG_SYNC_EN 1).setF F.DMK_SYNC_CFG_SRC_EN 1).setF F.TBS_CTL_SRC 1

/-- RoundsCorrectTheTime: a round at its half and before, SYNC off; an offset beyond the limit; a change that waits; enough
offsets and too few. -/
theorem test_round : (syS SyncSt.SYNC).pst ≠ PSt.JOIN ∧ (syS SyncSt.SYNC).syncSt ≠ SyncSt.OFF ∧ dmk2.syncSt = SyncSt.OFF
    ∧ (syS SyncSt.SYNC).dmk.sync.round * (syS SyncSt.SYNC).syncInt + (syS SyncSt.SYNC).syncInt / 2 ≤ ({ syS SyncSt.SYNC with frc := 2 ^ 24 } : State).now
    ∧ (syS SyncSt.SYNC).now < (syS SyncSt.SYNC).dmk.sync.round * (syS SyncSt.SYNC).syncInt + (syS SyncSt.SYNC).syncInt / 2
    ∧ (syS SyncSt.SYNC).getB F.TBS_CTL_SRC = true ∧ (((syS SyncSt.SYNC).getF F.DMK_STEP_LIM_LIM * 256 : Nat) : Rat) < qabs (2 ^ 40 : Rat)
    ∧ 0 < 2 * (syS SyncSt.SYNC).syncK + 1 ∧ qabs 0 ≤ (((syS SyncSt.SYNC).getF F.DMK_SYNC_TOL_TOL : Nat) : Rat)
    ∧ (syncAdvance 9 (some 0) ((syS SyncSt.ACQUIRE).withDmk fun d => { d with sync := { d.sync with good := 7 } })).syncSt = SyncSt.SYNC := by decide +kernel

theorem test_round_close : (after (.roundClose false) { syS SyncSt.SYNC with frc := 2 ^ 24 }).getF F.DMK_SYNC_STAT_N = 1
    ∧ (syncCorrect (2 ^ 40 : Rat) none (syS SyncSt.SYNC)).syncSt = SyncSt.OUT
    ∧ (let s : State := { up.setF F.TBS_CTL_SRC 1 with tbs := armed.tbs }; s.tbs.pend ≠ none ∧ s.cycRun = false ∧ (syncCorrect 0 none s).getF F.DMK_SYNC_STAT_SKIP = 1) := by
  decide +kernel

/-- TimeFramesAndListening: a slot that has come and whose frame is sent; silence long enough and not, yielded and not. -/
theorem test_time_frame : let s := { syS SyncSt.LISTEN with frc := 2 ^ 24 }
    s.slotRound * s.syncInt + s.getF F.DMK_SYNC_CFG_SLOT * 10000 * 256 ≤ s.now ∧ s.dmk.sync.sentR ≠ some s.slotRound
    ∧ (after .timeFrameSend s).dmk.sync.sentR = some s.slotRound ∧ s.srcEn = true ∧ s.dmk.sync.heard + 3 * s.syncInt ≤ s.now
    ∧ (syS SyncSt.LISTEN).now < s.dmk.sync.heard + 3 * s.syncInt ∧ (after .listenTimeout s).syncSt = SyncSt.COLD
    ∧ (after .listenTimeout { syS SyncSt.ACQUIRE with frc := 2 ^ 24 }).syncSt = SyncSt.LISTEN := by decide +kernel

/-- AgreementGoesByItsCycles: each step at its cycle, before it, with and without the votes. -/
def agS (a : Agree) : State := dmk2.withDmk fun d => { d with agree := some a }
def ag : Agree := { id := 1, m := 2, ks := 20, prop := 1, mine := true, peers := [2], yes := [1], ready := [1, 2], joined := true, step := 0, commit := false }

theorem test_agree : (agS ag).dmk.agree = some ag ∧ (agS ag).tbs.started = true ∧ ag.ks ≤ (agS ag).tbs.k + 24 ∧ (agS ag).tbs.k + 24 < 40 ∧ allIn ag ag.yes = false
    ∧ allIn { ag with yes := [2, 1] } [2, 1] = true ∧ allIn ag ag.ready = true ∧ 9 ≤ (agS ag).tbs.k + 4 ∧ 5 ≤ (agS ag).tbs.k ∧ dmk2.dmk.agree = none
    ∧ (after .modeAgreementStep (agS ag)).dmk.agree = none
    ∧ ((after .modeAgreementStep (agS { ag with step := 2, ks := 9 })).dmk.agree.any fun a => a.commit) = true
    ∧ (after .modeAgreementStep (agS { ag with step := 3, ks := 5 })).dmk.agree = none := by decide +kernel

/-- A unit of a pair in a state and role, its lanes up. -/
def lndS (pst role : Nat) : State :=
  let s := ((((cyc 20000).setF F.LND_STAT_PSTATE pst).setF F.LND_STAT_ROLE role).setF F.LND_L_STAT_STATE LinkSt.UP 0).setF F.LND_L_STAT_STATE LinkSt.UP 1
  still ((s.setF F.LND_CTL_EN 1).setF F.LND_STAT_PARTNER 1)

/-- PairsJoinOrFail: an enable that lands; a JOIN past its second and before; a host register refused in COPY. -/
theorem test_pair : (let u := up.withLnd fun x => { x with info := some p0 }
      u.getB F.LND_CTL_EN = false ∧ Lands R.LND_CTL (fieldValue F.LND_CTL_EN 1 0 0 u) u)
    ∧ (lndS PSt.JOIN 0).pst = PSt.JOIN ∧ (lndS PSt.JOIN 0).lnd.joinAt + 1000000000 * 256 ≤ ({ lndS PSt.JOIN 0 with frc := 2 ^ 31 } : State).now
    ∧ (lndS PSt.JOIN 0).now < (lndS PSt.JOIN 0).lnd.joinAt + 1000000000 * 256 ∧ (lndS PSt.COPY 2).getB F.HST_STAT_RUNTIME = true
    ∧ 0x10000 ≤ R.TBS_SLEW_LIM ∧ ((findReg R.TBS_SLEW_LIM).any fun d => d.1.rw != 0) = true
    ∧ barCode R.TBS_SLEW_LIM 5 true (lndS PSt.COPY 2) ≠ EC.OK
    ∧ (after .joinSyncTimeout { lndS PSt.JOIN 0 with frc := 2 ^ 31 }).getF F.LND_FAIL_JOIN = 6 := by decide +kernel

/-- A Laend header of a kind with a good check value. -/
def lhdr (kind len seq : Nat) : List Byte :=
  let h := leBytes kind 1 ++ leBytes 5 8 ++ leBytes len 2 ++ leBytes seq 2 ++ List.replicate 24 0
  h ++ leBytes (crc16 h) 2

/-- LaendFramesAreTakenOnce: a lane up and down, good and bad headers, a sequence number new, taken, failed before on this lane and
on the other; a heartbeat. -/
theorem test_laend : lndHeaderGood (lhdr 1 64 7) = true ∧ lndHeaderGood ((lhdr 1 64 7).set 3 1) = false ∧ (List.replicate 64 (0 : Byte)).length = leAt (lhdr 1 64 7) 9 2
    ∧ leAt (lhdr 1 64 7) 0 1 = 1 ∧ (lndS PSt.OFF 0).linkSt 4 = LinkSt.UP ∧ (lndS PSt.OFF 0).linkSt 5 = LinkSt.UP ∧ up.linkSt 4 < LinkSt.LOCK
    ∧ (lndS PSt.OFF 0).lnd.taken.contains 7 = false ∧ ((lndS PSt.OFF 0).withLnd fun x => { x with taken := [7] }).lnd.taken.contains (leAt (lhdr 1 64 7) 11 2) = true
    ∧ (lndS PSt.OFF 0).lnd.failed = [] ∧ (after (.laendFrameReceive 0 9 (lhdr 1 64 7) (List.replicate 64 0) [] [] none) (lndS PSt.OFF 0)).lnd.hbs.length = 1
    ∧ (after (.laendFrameReceive 0 9 ((lhdr 1 64 7).set 3 1) [] [] [] none) (lndS PSt.OFF 0)).lnd.failed.length = 1 := by decide +kernel

/-- PairDeadlines: each deadline past and not. -/
theorem test_mirror : (lndS PSt.SHADOW 2).mirrored = true ∧ (lndS PSt.SHADOW 2).lnd.mirDone = false
    ∧ (lndS PSt.SHADOW 2).trAt + (lndS PSt.SHADOW 2).getF F.LND_CFG_MIR_DL * 250 * 256 < (lndS PSt.SHADOW 2).now
    ∧ ({ lndS PSt.SHADOW 2 with frc := 156250 } : State).now < (lndS PSt.SHADOW 2).trAt ∧ up.mirrored = false
    ∧ (after .mirrorDeadline (lndS PSt.SHADOW 2)).getB F.LND_FLAG_MIRROR_LATE = true := by decide +kernel

theorem test_stream : let s := ((lndS PSt.SHADOW 2).setF F.TWL_STAT_STATE BrSt.SYNC 0).setF F.TWL_CTL_EN 1 0
    let t : State := { (s.setTw 0x0A01 0 0 (BitVec.ofNat 72 (1 + 2 ^ 16 + 100 * 2 ^ 32))) with upd := [] }
    t.mirrored = true ∧ t.lnd.streams.contains (0, 1) = false ∧ t.sendDue 0 1 = true ∧ t.gateAt 0 1 + 60 * 256 < t.now
    ∧ (after (.streamTimeout 0 1) t).sendDue 0 1 = false := by decide +kernel

theorem test_digest_miss : (lndS PSt.READY 2).pst = PSt.READY ∧ (lndS PSt.READY 2).getB F.LND_STAT_PARTNER = true
    ∧ (lndS PSt.READY 2).tbs.t0 * 256 + 256000 < (lndS PSt.READY 2).now ∧ ((lndS PSt.READY 2).lnd.theirs.find? fun x => x.1 + 1 == 5) = none
    ∧ (after .digestTimeout (lndS PSt.READY 2)).getB F.LND_FLAG_DIGEST_MISS = true := by decide +kernel

/-- A heartbeat of the partner in cycle 5. -/
def hb5 : Hb := { k := 5, role := Role.ACTIVE, pstate := 4, mism := false, fault := 0, uid := 0 }

theorem test_hb : PSt.COPY ≤ (lndS PSt.READY 1).pst ∧ (lndS PSt.READY 1).tbs.t0 * 256 + (lndS PSt.READY 1).getF F.LND_CFG_HB_DL * 256000 < (lndS PSt.READY 1).now
    ∧ (lndS PSt.READY 1).lnd.hbCyc ≠ some 5 ∧ (lndS PSt.READY 1).hbNow = none ∧ (lndS PSt.READY 1).role = Role.ACTIVE
    ∧ ((lndS PSt.ISOLATED 2).withLnd fun x => { x with hbs := [hb5], hbBack := 7 }).hbNow = some hb5 ∧ (lndS PSt.ISOLATED 2).pairLink = true
    ∧ (after .hbDeadline ((lndS PSt.ISOLATED 2).withLnd fun x => { x with hbs := [hb5], hbBack := 7 })).pst = PSt.COPY
    ∧ (after .hbDeadline (lndS PSt.READY 1)).getB F.LND_FLAG_HB_LOST = true
    ∧ (after .hbDeadline ((lndS PSt.READY 1).withLnd fun x => { x with hbs := [hb5] })).getB F.LND_STAT_HB_OK = true := by decide +kernel

theorem test_selftest : (lndS PSt.SHADOW 2).role = Role.STANDBY ∧ (lndS PSt.SHADOW 1).role ≠ Role.STANDBY
    ∧ (after (.selfTestPass 3) (lndS PSt.SHADOW 2)).getB F.LND_FLAG_SELFTEST = true ∧ (after (.selfTestPass 0) (lndS PSt.SHADOW 2)).lnd.passes = 1 := by decide +kernel

/-! ### Resets, boot, temperature, balls -/

/-- ResetsReachTheDie: each reset whose time has come and that of which it has not; PERST# in full. -/
theorem test_resets : let s := up.withBoot fun b => { b with rstAt := some 0, wdogAt := some 0 }
    s.boot.rstAt = some 0 ∧ 0 ≤ s.frc ∧ s.boot.wdogAt = some 0 ∧ 0 + 2000000000 ≤ ({ s with frc := 2 ^ 31 } : State).frc ∧ s.softCauses = 12 ∧ up.boot.rstAt = none
    ∧ (still (up.setF F.BOOT_CFG_PERST_FULL 1)).getB F.BOOT_CFG_PERST_FULL = true ∧ up.getB F.BOOT_CFG_PERST_FULL = false ∧ up.boot.flashOps = []
    ∧ (after (.deviceReset [] 0) s).stage = Stage.HOLD ∧ (after (.deviceReset [] 0) s).getB F.BOOT_CAUSE_SOFT = true
    ∧ ((after (.externalReset [] 0) up).rd R.TBS_SLEW_LIM) = 0x068DB8BB := by decide +kernel

theorem test_watchdog : up.runtime = true ∧ State.reset.runtime = false ∧ (after .watchdogExpiry up).runtime = false
    ∧ (after (.linkReset true [] 0 none) up).hst.linkUp = false ∧ (after (.linkReset true [] 0 (some l0)) up).getB F.HST_STAT_BME = true := by decide +kernel

/-- The boot in a stage, with an image's head in bank 1. -/
def bootS (stage : Nat) (second : Bool) : State :=
  let s := State.reset.setF F.BOOT_STAT_STAGE stage
  { s with boot := { s.boot with second := second, flash := (List.range 12).map fun i => ⟨bankBase 1 + i, (leBytes 0x49584C44 4 ++ leBytes 1 2 ++ leBytes 0x1296 2 ++ leBytes 0xB1 4).getD i 0⟩ } }

/-- BootGoesThroughItsStages: every stage and none; a candidate and none; an image with a reason, in the first bank and in the
second; the runtime that begins to serve. -/
theorem test_boot : State.reset.stage = Stage.HOLD ∧ (bootS Stage.LOAD false).stage = Stage.LOAD ∧ (bootS Stage.LOAD false).boot.second = false
    ∧ (bootS Stage.LOAD false).candidate (bootS Stage.LOAD false).firstBank = true ∧ (State.reset.candidate 0 = false ∧ State.reset.candidate 1 = false)
    ∧ imageReason (bootS Stage.VERIFY false).bank (bootS Stage.VERIFY false) ≠ 0 ∧ (bootS Stage.VERIFY true).boot.second = true
    ∧ (bootS Stage.SAFETY false).stage = Stage.SAFETY ∧ (bootS Stage.SAFETY false).safeImageOk 0 = false ∧ (bootS Stage.RUNTIME false).runtime = false
    ∧ (bootS Stage.RUNTIME false).boot.wdogAt = none := by decide +kernel

theorem test_boot_run : (after (.bootRomDone false true true none) State.reset).getF F.BOOT_STAT_REASON = 1
    ∧ (after .bootLoadDone (bootS Stage.LOAD false)).bank = 1 ∧ (after .bootVerifyDone (bootS Stage.VERIFY false)).stage = Stage.LOAD
    ∧ (after .bootVerifyDone (bootS Stage.VERIFY true)).getF F.BOOT_STAT_REASON = 2
    ∧ (after (.bootSafetyDone true true) (bootS Stage.SAFETY true)).getF F.BOOT_STAT_REASON = 8 := by decide +kernel

/-- FlashWritesStayInTheirRange: a write and a recovery write under way, and none; FLASH_VERIFY of the other bank. -/
theorem test_flash : let o : FlashOp := { ofs := 65536, data := [1, 2], key := 9 }
    let s := up.withBoot fun b => { b with flashOps := [o], rec_ := some o }
    s.boot.flashOps = o :: [] ∧ s.boot.rec_ = some o ∧ up.boot.flashOps = [] ∧ up.boot.rec_ = none
    ∧ (after (.flashWriteDone true []) s).flashByte 65537 = 2 ∧ (after (.flashWriteDone true []) s).flashByte 65538 = 0xFF
    ∧ (formCode (descBlock h0 0x0E 3 (bootArgs 0 0 0 [])) up).1 = EC.OK ∧ (effectCode (descBlock h0 0x0E 3 (bootArgs 0 0 0 [])) up).1 ≠ EC.OK := by decide +kernel

/-- FusesOnlyBurn: a burn of a counter and of a key's revocation; an attestation latched and one not. -/
theorem test_fuse : let x : Burn := { dom := 0, revoke := false, val := 3, key := 9 }
    let s := up.withBoot fun b => { b with burns := [x, { x with revoke := true, val := 1 }], attest := some { nonce := [], host := 64, body := some [1] } }
    s.boot.burns = x :: [{ x with revoke := true, val := 1 }] ∧ 3 ≤ s.boot.fuses.bootSvn + 255 ∧ up.boot.burns = [] ∧ up.boot.attest = none
    ∧ s.boot.attest = some { nonce := [], host := 64, body := some [1] }
    ∧ (after (.fuseBurnDone true 0) s).boot.fuses.bootSvn = 3 ∧ bit (after (.fuseBurnDone true 0) (after (.fuseBurnDone true 0) s)).boot.fuses.bootRev 1 = true := by decide +kernel

/-- ThermalLevelsShedAndStop: a sample that is due and one that is not; a level entered with the second sample, left with the
hundredth. -/
theorem test_therm : up.therm.next ≤ up.frc ∧ ({ up with frc := 0, therm := { up.therm with next := 5 } } : State).frc < 5
    ∧ thermEntry 1 ≤ 100000 ∧ levelIn (thermLevels (thermCount 100000 { Therm.reset with up := [(1, 1)] })) 1 = true
    ∧ levelIn (thermLevels (thermCount 100000 Therm.reset)) 1 = false
    ∧ levelIn (thermLevels (thermCount 0 { Therm.reset with levels := 2, down := [(1, 99)] })) 1 = false
    ∧ levelIn (thermLevels (thermCount 0 { Therm.reset with levels := 2, down := [(1, 98)] })) 1 = true := by decide +kernel

/-- Balls of the map: a PWM output, a Twill pin, supplies (R692). -/
theorem test_ball : ball 50 17 = .signal .pwm 34 0 ∧ ball 29 45 = .signal .twill 1 4 ∧ ball 21 30 = .supply .vdd ∧ ball 20 30 = .supply .vss := by decide +kernel

end Sys2Proof.Tests
end

section
/-! PROOF. A rejected register write (R16, R131): what the record of the rejection holds, and that nothing else changes. -/

namespace Sys2Proof.Machine

/-- The registers of the error record once a rejection is in it: code, offset, count and REJ (R131). -/
def State.rejectRecord (s : State) (off code : Nat) : State :=
  (((s.setF F.HST_ERR_CODE_CODE code).setF F.HST_ERR_ADDR_OFFSET off).incF F.HST_ERR_CNT_COUNT).flag F.HST_FAULT_FLAG_REJ

/-- Beside the error record a rejection changes no register. -/
theorem State.reject_regs (s : State) (off code : Nat) : (s.reject off code).regs = (s.rejectRecord off code).regs := by
  simp only [State.reject, State.rejectRecord, State.postG, apply_ite State.regs, State.post_regs, State.withHst_regs, ite_self]

theorem State.rd_of_regs_eq {s t : State} (h : t.regs = s.regs) (b : Nat) : t.rd b = s.rd b :=
  congrArg (mapGet regReset · b) h

theorem State.getF_of_regs_eq {s t : State} (h : t.regs = s.regs) (f : Fld) : t.getF f = s.getF f := by
  unfold State.getF
  rw [State.rdN_congr _ _ fun b _ _ => State.rd_of_regs_eq h b]

/-- A field of one register leaves every other register as it is, whatever its offset. -/
theorem State.rd_setF_one (s : State) {f : Fld} (v : Nat) {b : Nat} (hone : f.parts = 1) (hb : b ≠ f.off 0 0) :
    (s.setF f v).rd b = s.rd b := by
  unfold State.setF
  rw [hone]
  exact (State.rd_put s (f.off 0 0) b _ _).trans (if_neg hb)

theorem satInc_le (m n : Nat) : satInc m n ≤ m := by
  simp only [satInc]
  split
  case isTrue hlt => exact hlt
  case isFalse => exact Nat.le_refl m

section
variable (s : State) (off code : Nat)

theorem State.reject_code : (s.reject off code).getF F.HST_ERR_CODE_CODE = code % 2 ^ 16 := by
  rw [State.getF_of_regs_eq (s.reject_regs off code), State.rejectRecord, State.flag, State.incF,
    State.getF_setF_out (h := by decide), State.getF_setF_out (h := by decide), State.getF_setF_out (h := by decide)]
  exact State.getF_setF ..

theorem State.reject_offset : (s.reject off code).getF F.HST_ERR_ADDR_OFFSET = off % 2 ^ 24 := by
  rw [State.getF_of_regs_eq (s.reject_regs off code), State.rejectRecord, State.flag, State.incF,
    State.getF_setF_out (h := by decide), State.getF_setF_out (h := by decide)]
  exact State.getF_setF ..

theorem State.reject_count :
    (s.reject off code).getF F.HST_ERR_CNT_COUNT = satInc (2 ^ 32 - 1) (s.getF F.HST_ERR_CNT_COUNT) := by
  rw [State.getF_of_regs_eq (s.reject_regs off code), State.rejectRecord, State.flag, State.incF,
    State.getF_setF_out (h := by decide), State.getF_setF, State.getF_setF_out (h := by decide),
    State.getF_setF_out (h := by decide)]
  exact Nat.mod_eq_of_lt (Nat.lt_of_le_pred (Nat.two_pow_pos 32) (satInc_le _ _))

theorem State.reject_flag : (s.reject off code).getB F.HST_FAULT_FLAG_REJ = true := by
  unfold State.getB
  rw [State.getF_of_regs_eq (s.reject_regs off code), State.rejectRecord, State.flag, State.getF_setF]
  rfl

/-- A register outside the error record keeps its value. -/
theorem State.rd_reject_out {b : Nat} (hcode : b ≠ R.HST_ERR_CODE) (haddr : b ≠ R.HST_ERR_ADDR) (hcnt : b ≠ R.HST_ERR_CNT)
    (hflag : b ≠ R.HST_FAULT_FLAG) : (s.reject off code).rd b = s.rd b := by
  rw [State.rd_of_regs_eq (s.reject_regs off code), State.rejectRecord, State.flag, State.incF,
    State.rd_setF_one (hone := rfl) (hb := hflag), State.rd_setF_one (hone := rfl) (hb := hcnt),
    State.rd_setF_one (hone := rfl) (hb := haddr), State.rd_setF_one (hone := rfl) (hb := hcode)]

end

/-- A rejected write does nothing but record its rejection, with the code its checks give before any arm is taken back (R131). -/
theorem barWrite_of_rejects {off v : Nat} {full : Bool} {s : State} (h : Rejects off v full s) :
    barWrite off v full s = s.reject off (barCode off v full s) :=
  if_neg h

theorem exec_registerWrite (off v : Nat) (full : Bool) (s : State) :
    exec (.registerWrite off v full) s = .next (barWrite off v full s) := rfl

end Sys2Proof.Machine

namespace Sys2Proof

open Sys2Proof.Machine

/-- Settles O9: a rejected write is `State.reject`, which changes the registers of the error record and the host interface's
own data and nothing else. -/
theorem rejectedWriteIsRecorded : Obligations.RejectedWriteIsRecorded := by
  intro off v full s hoff hrej
  refine ⟨s.reject off (barCode off v full s), ?_, s.reject_code .., ?_, s.reject_count .., s.reject_flag .., ?_, ?_⟩
  · rw [exec_registerWrite, barWrite_of_rejects hrej]
  · rw [State.reject_offset, Nat.mod_eq_of_lt hoff]
  · intro o hcode haddr hcnt hflag
    exact s.rd_reject_out _ _ hcode haddr hcnt hflag
  · intro p hregs hhst
    exact State.reject_touch.frame p (by simp [hregs, hhst])

end Sys2Proof
end

section
/-! PROOF. Which code stands first (R132), when a write is accepted, and what a write that lands does to a register of the time
base (R14, R16, R53): the value the checks see, the value the register then holds, and what else of the state changes. -/

namespace Sys2Proof.Machine

/-! ### The code that stands first -/

theorem firstCode_cons (c : Nat) (cs : List Nat) :
    firstCode (c :: cs) = if firstCode cs = EC.OK ∨ codeRank c ≤ codeRank (firstCode cs) then c else firstCode cs := by
  simp only [firstCode]
  by_cases hrest : firstCode cs = EC.OK <;> simp [hrest]

theorem firstCode_mem {l : List Nat} (hne : l ≠ []) : firstCode l ∈ l := by
  induction l with
  | nil => exact absurd rfl hne
  | cons c cs ih =>
    rw [firstCode_cons]
    split
    next => exact List.mem_cons_self
    next hrest =>
      have hcs : cs ≠ [] := by rintro rfl; exact hrest (.inl rfl)
      exact List.mem_cons_of_mem c (ih hcs)

/-- Where every listed code names a broken rule, no code is found only if none is listed. -/
theorem firstCode_eq_ok_iff {l : List Nat} (hcodes : ∀ c ∈ l, c ≠ EC.OK) : firstCode l = EC.OK ↔ l = [] := by
  cases l with
  | nil => exact iff_of_true rfl rfl
  | cons c cs =>
    have hne : c :: cs ≠ [] := List.cons_ne_nil c cs
    exact iff_of_false (hcodes _ (firstCode_mem hne)) hne

/-- A listed code of R132's order is preceded by none of a higher place: the first code stands at its place or before it. -/
theorem codeRank_firstCode_le {l : List Nat} {c : Nat} (hc : c ∈ l) (hrank : codeRank c < codeRank EC.OK) :
    codeRank (firstCode l) ≤ codeRank c := by
  induction l with
  | nil => exact absurd hc List.not_mem_nil
  | cons e l ih =>
    rw [firstCode_cons]
    rcases List.mem_cons.mp hc with rfl | hl
    · split <;> omega
    · have hle := ih hl
      have hnok : firstCode l ≠ EC.OK := by intro hok; rw [hok] at hle; omega
      split
      next h => exact Nat.le_trans (h.resolve_left hnok) hle
      next => exact hle

theorem mem_chk {b : Bool} {c e : Nat} : e ∈ chk b c ↔ b = true ∧ e = c := by
  cases b <;> simp [chk]

/-! ### When a write is accepted -/

/-- Below the boot block a write is accepted just where the runtime serves, the pair does not refuse it and the checks of its
register find nothing (R612, R668). -/
theorem accepts_iff {off v : Nat} {s : State} (hoff : off < 0x2C0000) :
    Accepts off v s ↔ s.getB F.HST_STAT_RUNTIME = true ∧ pairedRefusal off s = false ∧ writeCode off v s = EC.OK := by
  unfold Accepts barCode
  cases hrun : s.getB F.HST_STAT_RUNTIME with
  | false =>
    have hcodes : ∀ c ∈ chk (!true || off % 4 != 0) EC.ALIGN ++ [EC.STATE], c ≠ EC.OK := fun c hc => by
      simp only [List.mem_append, mem_chk, List.mem_singleton] at hc
      rcases hc with ⟨-, rfl⟩ | rfl <;> decide
    rw [if_pos ⟨rfl, hoff⟩, firstCode_eq_ok_iff hcodes]
    simp
  | true =>
    have hcodes : ∀ c ∈ chk (!true) EC.ALIGN ++ chk (pairedRefusal off s) 0x0C02 ++ [writeCode off v s].filter (· != EC.OK),
        c ≠ EC.OK := fun c hc => by
      simp only [List.mem_append, mem_chk, List.mem_filter, bne_iff_ne] at hc
      rcases hc with (⟨-, rfl⟩ | ⟨-, rfl⟩) | ⟨-, hne⟩
      · decide
      · decide
      · exact hne
    rw [if_neg (by simp), firstCode_eq_ok_iff hcodes]
    simp [chk]

/-- Where nothing but the checks of its register stands against it, a write's code is theirs. -/
theorem barCode_eq_writeCode {off v : Nat} {s : State} (hrun : s.getB F.HST_STAT_RUNTIME = true)
    (hpair : pairedRefusal off s = false) (hcode : writeCode off v s ≠ EC.OK) : barCode off v true s = writeCode off v s := by
  simp [barCode, hrun, hpair, hcode, chk, firstCode]

/-! ### Bits of a written value -/

theorem bit_eq_testBit (n i : Nat) : bit n i = n.testBit i := by
  rw [Nat.testBit_eq_decide_div_mod_eq]
  rfl

theorem bit_eq_bits (n i : Nat) : bit n i = (bits n i 1 == 1) := rfl

theorem testBit_bits (n lo w i : Nat) : (bits n lo w).testBit i = (decide (i < w) && n.testBit (lo + i)) := by
  rw [bits, Nat.testBit_mod_two_pow, Nat.testBit_div_two_pow, Nat.add_comm]

/-- A register's width cuts off no bit of its fields. -/
theorem bits_mod_two_pow {n lo w m : Nat} (h : lo + w ≤ m) : bits (n % 2 ^ m) lo w = bits n lo w := by
  refine Nat.eq_of_testBit_eq fun i => ?_
  rw [testBit_bits, testBit_bits, Nat.testBit_mod_two_pow]
  by_cases hi : i < w
  · rw [decide_eq_true (show lo + i < m by omega), Bool.true_and]
  · simp [hi]

theorem testBit_mclr (a b i : Nat) : (mclr a b).testBit i = (a.testBit i && !b.testBit i) := by
  have hlow : (a &&& b) % 2 = 1 ↔ a % 2 = 1 ∧ b % 2 = 1 := Nat.and_mod_two_eq_one
  have hhigh : (a &&& b) / 2 = a / 2 &&& b / 2 := Nat.and_div_two
  have hle : a &&& b ≤ a := Nat.and_le_left
  induction i generalizing a b with
  | zero =>
    simp only [mclr, Nat.testBit_zero, ← decide_not, ← Bool.decide_and, decide_eq_decide]
    omega
  | succ i ih =>
    have hhalf : mclr a b / 2 = mclr (a / 2) (b / 2) := by
      simp only [mclr]
      omega
    rw [Nat.testBit_succ, Nat.testBit_succ, Nat.testBit_succ, hhalf]
    exact ih _ _ Nat.and_mod_two_eq_one Nat.and_div_two Nat.and_le_left

theorem RegDef.testBit_seen (d : RegDef) (v old i : Nat) :
    (d.seen v old).testBit i = if (d.rw ||| d.wo ||| d.w1c).testBit i then v.testBit i else old.testBit i := by
  unfold RegDef.seen mor
  rw [Nat.testBit_or, Nat.testBit_and, testBit_mclr]
  cases (d.rw ||| d.wo ||| d.w1c).testBit i <;> simp

/-- The checks see a written field as it is written. -/
theorem RegDef.bits_seen (d : RegDef) (v old : Nat) {lo w : Nat}
    (hmask : ∀ i < w, (d.rw ||| d.wo ||| d.w1c).testBit (lo + i) = true) :
    bits (d.seen v old) lo w = bits v lo w := by
  refine Nat.eq_of_testBit_eq fun i => ?_
  rw [testBit_bits, testBit_bits, d.testBit_seen]
  by_cases hi : i < w
  · rw [if_pos (hmask i hi)]
  · simp [hi]

theorem RegDef.bit_seen (d : RegDef) (v old : Nat) {i : Nat} (hmask : (d.rw ||| d.wo ||| d.w1c).testBit i = true) :
    bit (d.seen v old) i = bit v i := by
  rw [bit_eq_testBit, bit_eq_testBit, d.testBit_seen, if_pos hmask]

/-- A register of RW fields alone holds what the checks of its write saw (R14). -/
theorem RegDef.merge_eq_seen {d : RegDef} (hwo : d.wo = 0) (hw1c : d.w1c = 0) (v old set : Nat) :
    d.merge v old set = d.seen v old := by
  refine Nat.eq_of_testBit_eq fun i => ?_
  rw [d.testBit_seen, hwo, hw1c]
  unfold RegDef.merge mor
  rw [hw1c, Nat.testBit_or, Nat.testBit_and, testBit_mclr, Nat.testBit_or, testBit_mclr]
  cases hrw : d.rw.testBit i <;> simp [hrw]

/-- A write to a register without fields that hold what is written leaves its value (R14). -/
theorem State.merged_of_none {d : RegDef} (hrw : d.rw = 0) (hw1c : d.w1c = 0) (s : State) (off v : Nat) :
    s.merged d off v = s.rd off := by
  simp [State.merged, RegDef.merge, hrw, hw1c, mor, mclr]

/-! ### What a write that lands does -/

/-- A state as the host's write at an offset leaves it: the register keeps the marks of the hardware's own updates, and the
write stands among those of the edge (R53, R113). -/
def noteWrite (off v : Nat) (s t : State) : State :=
  ({ t with upd := mapSet (fun _ => 0) t.upd off (s.updOf off) }).withHst fun h => { h with wrote := h.wrote ++ [(off, v)] }

section
variable (off v : Nat) (s t : State)

@[simp] theorem noteWrite_regs : (noteWrite off v s t).regs = t.regs := rfl
@[simp] theorem noteWrite_tbs : (noteWrite off v s t).tbs = t.tbs := rfl
@[simp] theorem noteWrite_comps : (noteWrite off v s t).hst.comps = t.hst.comps := rfl
@[simp] theorem noteWrite_rd (o : Nat) : (noteWrite off v s t).rd o = t.rd o := State.rd_of_regs_eq (noteWrite_regs off v s t) o
@[simp] theorem noteWrite_getF (f : Fld) : (noteWrite off v s t).getF f = t.getF f :=
  State.getF_of_regs_eq (noteWrite_regs off v s t) f
@[simp] theorem noteWrite_getB (f : Fld) : (noteWrite off v s t).getB f = t.getB f :=
  congrArg (· == 1) (noteWrite_getF off v s t f)

theorem noteWrite_touch : Touch [.regs, .hst] t (noteWrite off v s t) :=
  State.withHst_touch.via (by decide) (Touch.updBits (by decide) .refl)

end

/-- A write that takes effect leaves what its register's block makes of it. -/
theorem barWrite_of_lands {off v : Nat} {s t : State}
    (ht : (if off = R.TBS_P_CMD ∧ bit v 0 = true then dropDescArm s else s) = t) (h : Lands off v t) :
    barWrite off v true s = written off v t := by
  obtain ⟨haccepts, hmeets⟩ := h
  simp only [barWrite, ht, if_pos haccepts, hostWrite, hmeets, written]
  rfl

theorem flagRelease_of_other {base : Nat} (hbase : base ∉ [R.TBS_FLAG, R.HST_FAULT_FLAG, R.SCH_FLAG, R.CEN_FLAG, R.LND_FLAG])
    (v : Nat) (s : State) : flagRelease base v s = s := by
  simp only [List.mem_cons, List.not_mem_nil, or_false, not_or] at hbase
  obtain ⟨htbs, hhst, hsch, hcen, hlnd⟩ := hbase
  simp [flagRelease, htbs, hhst, hsch, hcen, hlnd]

/-- A write that lands on a register of the time base that is no register of flags (R78 to R82). -/
theorem written_tbs {off i j : Nat} {d : RegDef} (hreg : findReg off = some (d, i, j)) (hblock : 0x10000 ≤ off ∧ off < 0x20000)
    (hbase : d.base ∉ [R.TBS_FLAG, R.HST_FAULT_FLAG, R.SCH_FLAG, R.CEN_FLAG, R.LND_FLAG]) (v : Nat) (s : State) :
    written off v s = noteWrite off v s
      (tbsFollow d.base i (d.seen v (s.rd off).toNat) (s.rd off).toNat (s.wr off (s.merged d off v))) := by
  obtain ⟨hlo, hhi⟩ := hblock
  simp only [written, writeDo, hreg, flagRelease_of_other hbase, blockFollow, if_neg (Nat.not_lt.mpr hlo), if_pos hhi]
  rfl

theorem blockCodes_tbs {off : Nat} (hblock : 0x10000 ≤ off ∧ off < 0x20000) (base i j v old : Nat) (s new : State) :
    blockCodes base i j off v old s new = tbsCodes base i v old s.axesSto s
      ++ chk (base == R.TBS_CYC_CTL && bit v 8 != bit old 8 && s.pst != PSt.OFF) 0x0C02
      ++ (if v = old then []
          else timingCodes base (if base == R.TBS_CYC_CTL && bits v 0 2 != bits old 0 2 then periodFollow new else new)) := by
  obtain ⟨hlo, hhi⟩ := hblock
  simp only [blockCodes, if_neg (Nat.not_lt.mpr hlo), if_pos hhi]

/-! ### Reading through registers -/

/-- A field depends on the registers from its own first one on. -/
theorem State.getF_congr {s t : State} {f : Fld} (i j : Nat) (h : ∀ b, f.off i j ≤ b → t.rd b = s.rd b) :
    t.getF f i j = s.getF f i j := by
  unfold State.getF
  rw [State.rdN_congr _ _ fun b hb _ => h b hb]

/-- A field of one register, read off the register. -/
theorem State.getF_eq_bits (s : State) {f : Fld} (hone : f.parts = 1) :
    s.getF f = bits (s.rd (f.off 0 0)).toNat f.lo f.width := by
  rw [State.getF, hone]
  rfl

end Sys2Proof.Machine
end

section
/-! PROOF. Changes of corrected time (R61 to R70): what applying, ending a slew, arming and cancelling do to the time base and
to its registers. -/

namespace Sys2Proof.Machine

/-! ### Applying a change, ending a slew (R63, R65) -/

/-- At its own anchor a parameter set has no rate term yet. -/
theorem TbParams.time_at_anchor (p : TbParams) : p.time (256 * (p.anchor : Int)) = 256 * (p.anchor : Int) + p.offset := by
  simp [TbParams.time]

/-- The parameters that a change puts in force: OFFSET carries what was corrected so far and the step (R63). -/
theorem applyChange_par (c : TbChange) (s : State) :
    (applyChange c s).tbs.par.offset = s.tbs.par.offset
        + (s.tbs.par.rate + s.tbs.par.slew) * (256 * ((s.frc : Int) - s.tbs.par.anchor)) / 2 ^ 40 + c.stepBy
    ∧ (applyChange c s).tbs.par.anchor = s.frc ∧ (applyChange c s).tbs.par.rate = c.rate.getD s.tbs.par.rate := by
  cases hslew : c.slew <;> simp [applyChange, hslew, State.flag]

theorem applyChange_tbs (c : TbChange) (s : State) :
    (applyChange c s).tbs.pend = none ∧ (applyChange c s).tbs.prev = s.tbs.par ∧ (applyChange c s).tbs.applyEdge = s.frc := by
  simp [applyChange, State.flag]

/-- PENDING falls and APPLIED is set (R63); SLEWING is another bit of PENDING's register. -/
theorem applyChange_flags (c : TbChange) (s : State) :
    (applyChange c s).getB F.TBS_STAT_PENDING = false ∧ (applyChange c s).getB F.TBS_FLAG_APPLIED = true := by
  constructor
  · simp only [applyChange, State.flag, State.getB]
    rw [State.getF_setF_beside (f := F.TBS_STAT_SLEWING) (g := F.TBS_STAT_PENDING) (ho := rfl) (hp := rfl)
      (h := by decide), State.getF_setF_out (h := by decide), State.getF_setF]
    rfl
  · simp only [applyChange, State.flag, State.getB]
    rw [State.getF_setF_out (h := by decide), State.getF_setF]
    rfl

/-- Corrected time steps by exactly the step of the change (R63). -/
theorem applyChange_time (c : TbChange) (s : State) :
    (applyChange c s).tbs.par.time (256 * (s.frc : Int)) = s.tbs.par.time (256 * (s.frc : Int)) + c.stepBy := by
  obtain ⟨hoffset, hanchor, -⟩ := applyChange_par c s
  have hnew := (applyChange c s).tbs.par.time_at_anchor
  rw [hanchor, hoffset] at hnew
  rw [hnew, TbParams.time, Int.mul_sub]
  omega

/-- The parameters at the end of a slew: its amount is part of OFFSET and its rate term is gone (R65). -/
theorem endSlew_par (s : State) :
    (endSlew s).tbs.par =
      { offset := s.tbs.slewBase + s.tbs.par.rate * (256 * ((s.frc : Int) - s.tbs.par.anchor)) / 2 ^ 40 + s.tbs.slewAmt,
        rate := s.tbs.par.rate, slew := 0, anchor := s.frc } := by
  simp [endSlew, State.flag]

/-- At the end of a slew exactly its amount has been made (R65). -/
theorem endSlew_time (s : State) :
    (endSlew s).tbs.par.time (256 * (s.frc : Int)) = 256 * (s.frc : Int) + s.tbs.slewBase
      + s.tbs.par.rate * (256 * ((s.frc : Int) - s.tbs.par.anchor)) / 2 ^ 40 + s.tbs.slewAmt := by
  have htime := (endSlew s).tbs.par.time_at_anchor
  rw [endSlew_par] at htime ⊢
  exact htime.trans (by simp only [Int.add_assoc])

theorem endSlew_flags (s : State) :
    (endSlew s).getB F.TBS_STAT_SLEWING = false ∧ (endSlew s).getB F.TBS_FLAG_SLEW_DONE = true := by
  constructor
  · simp only [endSlew, State.flag, State.getB]
    rw [State.getF_setF_out (h := by decide), State.getF_setF]
    rfl
  · simp only [endSlew, State.flag, State.getB]
    rw [State.getF_setF]
    rfl

theorem exec_applyChange {c : TbChange} {s : State} (hpend : s.tbs.pend = some c) :
    exec .applyChange s = .next (if applyDue c s then applyChange c s else s) := by
  show execApplyChange s = _
  simp [execApplyChange, hpend]

theorem exec_slewDone (s : State) : exec .slewDone s = .next (if slewDue s then endSlew s else s) := rfl

end Sys2Proof.Machine

namespace Sys2Proof

open Sys2Proof.Machine

/-- Settles O12: an apply and the end of a slew re-anchor corrected time at the present edge, where the new parameters have no
rate term yet, so that time there is the new OFFSET's alone. -/
theorem timeBaseChangesAtItsEdge : Obligations.TimeBaseChangesAtItsEdge := by
  refine ⟨⟨fun c s hpend hdue => ?_, fun c s hpend hdue => ?_⟩, fun s hdue => ?_⟩
  · obtain ⟨hoffset, hanchor, hrate⟩ := applyChange_par c s
    obtain ⟨hnone, hprev, hedge⟩ := applyChange_tbs c s
    obtain ⟨hpending, happlied⟩ := applyChange_flags c s
    exact ⟨applyChange c s, by rw [exec_applyChange hpend, if_pos hdue], hoffset, hanchor, hrate, applyChange_time c s, hnone,
      hpending, happlied, hprev, hedge⟩
  · rw [exec_applyChange hpend, hdue]
    rfl
  · obtain ⟨hslewing, hdone⟩ := endSlew_flags s
    refine ⟨endSlew s, by rw [exec_slewDone, if_pos hdue], endSlew_time s, ?_, ?_, ?_, hslewing, hdone⟩
    all_goals rw [endSlew_par]

end Sys2Proof
end

section
/-! PROOF. Arming and cancelling a change (R61, R68, R70): what a write of TBS_P_CMD does where it lands, and why a second arm
is rejected. -/

namespace Sys2Proof.Machine

/-! ### Arming and cancelling -/

@[simp] theorem armChange_tbs (c : TbChange) (s : State) :
    (armChange c s).tbs = { s.tbs with pend := some { c with armEdge := s.frc } } := State.setF_tbs ..

@[simp] theorem cancelChange_tbs (s : State) : (cancelChange s).tbs = { s.tbs with pend := none } := State.setF_tbs ..

@[simp] theorem cancelChange_frc (s : State) : (cancelChange s).frc = s.frc := State.setF_frc ..

@[simp] theorem armChange_pending_bit (c : TbChange) (s : State) : (armChange c s).getB F.TBS_STAT_PENDING = true := by
  simp only [armChange, State.getB]
  rw [State.getF_setF]
  rfl

@[simp] theorem cancelChange_pending_bit (s : State) : (cancelChange s).getB F.TBS_STAT_PENDING = false := by
  simp only [cancelChange, State.getB]
  rw [State.getF_setF]
  rfl

theorem armChange_rd (c : TbChange) (s : State) {o : Nat} (ho : o ≠ R.TBS_STAT) : (armChange c s).rd o = s.rd o :=
  State.rd_setF_one _ _ rfl ho

theorem cancelChange_rd (s : State) {o : Nat} (ho : o ≠ R.TBS_STAT) : (cancelChange s).rd o = s.rd o :=
  State.rd_setF_one _ _ rfl ho

/-- The change that the pending registers hold depends on no other register but theirs, which lie above TBS_STAT. -/
theorem pendingChange_congr {s t : State} (step rate slew : Bool) (hrd : ∀ o, o ≠ R.TBS_STAT → t.rd o = s.rd o)
    (hfrc : t.frc = s.frc) : pendingChange step rate slew t = pendingChange step rate slew s := by
  have hfield : ∀ f : Fld, R.TBS_STAT < f.off 0 0 → t.getF f = s.getF f := fun f hf =>
    State.getF_congr 0 0 fun o ho => hrd o (Nat.ne_of_gt (Nat.lt_of_lt_of_le hf ho))
  simp only [pendingChange, State.getS, hfrc, hfield F.TBS_P_STEP_V (by decide), hfield F.TBS_P_RATE_V (by decide),
    hfield F.TBS_P_SLEW_V (by decide), hfield F.TBS_P_AT_V (by decide)]

/-! ### An arm of a descriptor made at the same edge (R70) -/

theorem dropDescArm_of_none {s : State} (hpend : s.tbs.pend = none) : dropDescArm s = s := by
  simp [dropDescArm, hpend]

/-- What a register armed stays. -/
theorem dropDescArm_of_register {s : State} {c : TbChange} (hpend : s.tbs.pend = some c) (hby : c.by_ = none) :
    dropDescArm s = s := by
  simp [dropDescArm, hpend, hby]

theorem dropDescArm_of_descriptor {s : State} {c : TbChange} {q h : Nat} (hpend : s.tbs.pend = some c)
    (hby : c.by_ = some (q, h)) (hedge : c.armEdge = s.frc) :
    dropDescArm s = (cancelChange s).withHst fun x =>
      { x with comps := x.comps.map fun e =>
          if e.sq = q ∧ e.head = h ∧ e.code = EC.OK then { e with code := EC.BUSY } else e } := by
  simp [dropDescArm, hpend, hby, hedge]

/-! ### A write of TBS_P_CMD that lands -/

/-- The row of TBS_P_CMD: write-only bits ARM, CANCEL and the three USE bits. -/
def cmdRow : RegDef := ⟨R.TBS_P_CMD, 0, 1, 0, 1, 0, 0, 0, 0x73, 0x73, 0⟩

theorem cmdRow_base : cmdRow.base = R.TBS_P_CMD := rfl

theorem findReg_cmd : findReg R.TBS_P_CMD = some (cmdRow, 0, 0) := by decide

/-- No RW field of TBS_P_CMD can meet an update of the hardware. -/
theorem meets_cmd (s : State) : s.meets R.TBS_P_CMD = false := by
  simp [State.meets, findReg_cmd, cmdRow]

theorem cmdChange_seen (v old : Nat) (s : State) : cmdChange (cmdRow.seen v old) s = cmdChange v s := by
  simp only [cmdChange, cmdRow.bit_seen v old (i := 4) (by decide), cmdRow.bit_seen v old (i := 5) (by decide),
    cmdRow.bit_seen v old (i := 6) (by decide)]

/-- Writing a register's own value back changes what no register reads. -/
theorem State.rd_wr_self (s : State) (off o : Nat) : (s.wr off (s.rd off)).rd o = s.rd o := by
  rw [State.rd_wr]
  split
  next h => rw [h]
  next => rfl

theorem tbsFollow_cmd (u v old : Nat) (s : State) : tbsFollow R.TBS_P_CMD u v old s =
    if bit v 0 then armChange (cmdChange v s) s else if bit v 1 then cancelChange s else s := if_pos rfl

/-- What a write of TBS_P_CMD that lands does: ARM stands before CANCEL, and the register itself holds nothing of it (R61, R68). -/
theorem written_cmd (v : Nat) (s : State) :
    written R.TBS_P_CMD v s = noteWrite R.TBS_P_CMD v s
      (if bit v 0 then armChange (cmdChange v s) (s.wr R.TBS_P_CMD (s.rd R.TBS_P_CMD))
        else if bit v 1 then cancelChange (s.wr R.TBS_P_CMD (s.rd R.TBS_P_CMD))
        else s.wr R.TBS_P_CMD (s.rd R.TBS_P_CMD)) := by
  have hchange : cmdChange v (s.wr R.TBS_P_CMD (s.rd R.TBS_P_CMD)) = cmdChange v s :=
    pendingChange_congr _ _ _ (fun o _ => s.rd_wr_self _ o) rfl
  rw [written_tbs findReg_cmd (by decide) (by decide), State.merged_of_none rfl rfl, cmdRow_base, tbsFollow_cmd,
    cmdChange_seen, hchange, cmdRow.bit_seen _ _ (i := 0) (by decide), cmdRow.bit_seen _ _ (i := 1) (by decide)]

section
variable {v : Nat} (s : State)

theorem written_arm (hv : bit v 0 = true) : written R.TBS_P_CMD v s =
    noteWrite R.TBS_P_CMD v s (armChange (cmdChange v s) (s.wr R.TBS_P_CMD (s.rd R.TBS_P_CMD))) := by
  rw [written_cmd, if_pos hv]

theorem written_cancel (harm : bit v 0 = false) (hcancel : bit v 1 = true) : written R.TBS_P_CMD v s =
    noteWrite R.TBS_P_CMD v s (cancelChange (s.wr R.TBS_P_CMD (s.rd R.TBS_P_CMD))) := by
  rw [written_cmd, if_neg (by simp [harm]), if_pos hcancel]

/-- A write that arms: of the time base, only the pending change is new (R68). -/
theorem written_arm_tbs (hv : bit v 0 = true) :
    (written R.TBS_P_CMD v s).tbs = { s.tbs with pend := some (cmdChange v s) } := by
  rw [written_arm s hv, noteWrite_tbs, armChange_tbs]
  rfl

/-- A write that cancels: of the time base, only the pending change goes (R68). -/
theorem written_cancel_tbs (harm : bit v 0 = false) (hcancel : bit v 1 = true) :
    (written R.TBS_P_CMD v s).tbs = { s.tbs with pend := none } := by
  rw [written_cancel s harm hcancel, noteWrite_tbs, cancelChange_tbs]
  rfl

theorem written_arm_pending (hv : bit v 0 = true) : (written R.TBS_P_CMD v s).getB F.TBS_STAT_PENDING = true := by
  rw [written_arm s hv, noteWrite_getB, armChange_pending_bit]

theorem written_cancel_pending (harm : bit v 0 = false) (hcancel : bit v 1 = true) :
    (written R.TBS_P_CMD v s).getB F.TBS_STAT_PENDING = false := by
  rw [written_cancel s harm hcancel, noteWrite_getB, cancelChange_pending_bit]

variable (v)

/-- Beside PENDING's register no register changes. -/
theorem written_cmd_rd {o : Nat} (ho : o ≠ R.TBS_STAT) : (written R.TBS_P_CMD v s).rd o = s.rd o := by
  rw [written_cmd, noteWrite_rd]
  split
  · rw [armChange_rd _ _ ho, State.rd_wr_self]
  · split
    · rw [cancelChange_rd _ ho, State.rd_wr_self]
    · exact State.rd_wr_self ..

/-- Of the state, a write of TBS_P_CMD touches the registers, the time base and the host's list of writes alone. -/
theorem written_cmd_touch : Touch [.regs, .tbs, .hst] s (written R.TBS_P_CMD v s) := by
  rw [written_tbs findReg_cmd (by decide) (by decide)]
  exact (noteWrite_touch ..).via (by decide) (tbsFollow_touch.via (by decide) (State.wr_touch.mono (by decide)))

theorem written_cmd_frame {p : Part} (hregs : p ≠ .regs) (htbs : p ≠ .tbs) (hhst : p ≠ .hst) :
    p.same s (written R.TBS_P_CMD v s) := (written_cmd_touch v s).frame p (by simp [hregs, htbs, hhst])

/-- No waiting completion changes. -/
theorem written_cmd_comps : (written R.TBS_P_CMD v s).hst.comps = s.hst.comps := by
  rw [written_tbs findReg_cmd (by decide) (by decide), noteWrite_comps]
  have htouch := tbsFollow_touch (base := R.TBS_P_CMD) (u := 0) (v := cmdRow.seen v (s.rd R.TBS_P_CMD).toNat)
    (old := (s.rd R.TBS_P_CMD).toNat) (s := s.wr R.TBS_P_CMD (s.merged cmdRow R.TBS_P_CMD v))
  exact congrArg Hst.comps (htouch.frame .hst (by decide))

end

/-! ### The word of TBS_ARM -/

/-- The value TBS_ARM writes: ARM and the USE bits of the parts it names (R61). -/
def armWord (step rate slew : Bool) : Nat := 1 + 16 * b2n step + 32 * b2n rate + 64 * b2n slew

theorem bit_armWord (step rate slew : Bool) : bit (armWord step rate slew) 0 = true := by
  revert step rate slew
  decide

theorem cmdChange_armWord (step rate slew : Bool) (s : State) :
    cmdChange (armWord step rate slew) s = pendingChange step rate slew s := by
  have huse : bit (armWord step rate slew) 4 = step ∧ bit (armWord step rate slew) 5 = rate
      ∧ bit (armWord step rate slew) 6 = slew := by
    revert step rate slew
    decide
  obtain ⟨hstep, hrate, hslew⟩ := huse
  rw [cmdChange, hstep, hrate, hslew]

theorem exec_tbsArm (step rate slew : Bool) (s : State) :
    exec (.tbsArm step rate slew) s = .next (barWrite R.TBS_P_CMD (armWord step rate slew) true s) := rfl

theorem exec_tbsCancel (s : State) : exec .tbsCancel s = .next (barWrite R.TBS_P_CMD 2 true s) := rfl

/-- TBS_ARM where it is accepted, an arm of a descriptor made at the same edge being taken back first (R70). -/
theorem exec_tbsArm_of_accepts {step rate slew : Bool} {s t : State} (ht : dropDescArm s = t)
    (h : Accepts R.TBS_P_CMD (armWord step rate slew) t) :
    exec (.tbsArm step rate slew) s = .next (written R.TBS_P_CMD (armWord step rate slew) t) := by
  rw [exec_tbsArm, barWrite_of_lands ((if_pos ⟨rfl, bit_armWord ..⟩).trans ht) ⟨h, meets_cmd t⟩]

/-! ### A second arm (R68) -/

/-- The state with no change pending. -/
def State.unpend (s : State) : State := s.withTbs fun b => { b with pend := none }

/-- The codes of the checks of a write of TBS_P_CMD (R15, R61, R64, R66, R68, R69). -/
def cmdWriteCodes (v : Nat) (s : State) : List Nat :=
  chk (mclr v 0x73 != 0) EC.RESERVED_SET
    ++ tbsCodes R.TBS_P_CMD 0 (cmdRow.seen v (s.rd R.TBS_P_CMD).toNat) (s.rd R.TBS_P_CMD).toNat s.axesSto s

theorem writeCode_cmd (v : Nat) (s : State) : writeCode R.TBS_P_CMD v s = firstCode (cmdWriteCodes v s) := by
  have hblock : ∀ w new, blockCodes cmdRow.base 0 0 R.TBS_P_CMD w (s.rd R.TBS_P_CMD).toNat s new
      = tbsCodes R.TBS_P_CMD 0 w (s.rd R.TBS_P_CMD).toNat s.axesSto s := fun w new => by
    rw [blockCodes_tbs (by decide), cmdRow_base, timingCodes]
    simp [chk, R.TBS_P_CMD, R.TBS_CYC_CTL, R.TBS_TS, R.TBS_TR]
  unfold writeCode
  rw [findReg_cmd]
  simp only [hblock]
  have hlock : (s.locked && (v &&& cmdRow.rwl) != ((s.rd R.TBS_P_CMD).toNat &&& cmdRow.rwl)) = false := by
    rw [show cmdRow.rwl = 0 from rfl, Nat.and_zero, Nat.and_zero]
    exact Bool.and_false _
  rw [hlock, show chk false EC.LOCKED = [] from rfl, List.append_nil]
  exact congrArg (fun l => firstCode (chk (mclr v 0x73 != 0) EC.RESERVED_SET ++ l)) (List.filter_eq_self.mpr fun _ _ => rfl)

/-- A pending change adds one broken rule to those of arming, and no other rule asks for it. -/
theorem armCodes_unpend (c : TbChange) (s : State) : armCodes c s = armCodes c s.unpend ++ chk s.tbs.pend.isSome EC.BUSY := by
  unfold armCodes
  rw [show s.unpend.tbs.pend.isSome = false from rfl, show chk false EC.BUSY = [] from rfl, List.append_nil]
  rfl

theorem tbsCodes_cmd (u v old : Nat) (sto : Bool) (s : State) : tbsCodes R.TBS_P_CMD u v old sto s =
    chk (s.getF F.TBS_CTL_SRC == 1) EC.STATE ++ (chk (bit v 0 && bit v 1) EC.BAD_FIELD
      ++ if bit v 0 then armCodes (cmdChange v s) s else []) := by
  have hsource : (isPendReg R.TBS_P_CMD && s.getF F.TBS_CTL_SRC == 1 && (R.TBS_P_CMD == R.TBS_P_CMD || decide (v ≠ old)))
      = (s.getF F.TBS_CTL_SRC == 1) := by
    rw [show isPendReg R.TBS_P_CMD = true from rfl]
    simp
  rw [← hsource]
  rfl

theorem cmdWriteCodes_unpend {v : Nat} (hv : bit v 0 = true) (s : State) :
    cmdWriteCodes v s = cmdWriteCodes v s.unpend ++ chk s.tbs.pend.isSome EC.BUSY := by
  have hseen := (cmdRow.bit_seen v (s.rd R.TBS_P_CMD).toNat (i := 0) (by decide)).trans hv
  have hrd : s.unpend.rd R.TBS_P_CMD = s.rd R.TBS_P_CMD := rfl
  simp only [cmdWriteCodes, tbsCodes_cmd, hrd, hseen, if_true, List.append_assoc]
  rw [armCodes_unpend]
  rfl

theorem cmdWriteCodes_ne_ok (v : Nat) (s : State) : ∀ c ∈ cmdWriteCodes v s, c ≠ EC.OK := by
  intro c hc
  have hcode : c = EC.RESERVED_SET ∨ c = EC.STATE ∨ c = EC.BAD_FIELD ∨ c = EC.RANGE ∨ c = EC.BUSY := by
    simp only [cmdWriteCodes, tbsCodes_cmd, armCodes, List.mem_append, List.mem_ite_nil_right, mem_chk] at hc
    grind
  rcases hcode with rfl | rfl | rfl | rfl | rfl <;> decide

/-- With a change pending an arm's checks find a code, and EC_BUSY where they find no other (R68). -/
theorem writeCode_of_pending {v : Nat} {s : State} (hv : bit v 0 = true) (hpend : s.tbs.pend.isSome = true) :
    writeCode R.TBS_P_CMD v s ≠ EC.OK ∧ (writeCode R.TBS_P_CMD v s.unpend = EC.OK → writeCode R.TBS_P_CMD v s = EC.BUSY) := by
  have hsplit := cmdWriteCodes_unpend hv s
  rw [hpend] at hsplit
  constructor
  · rw [writeCode_cmd, Ne, firstCode_eq_ok_iff (cmdWriteCodes_ne_ok v s), hsplit]
    simp [chk]
  · intro hfree
    rw [writeCode_cmd, firstCode_eq_ok_iff (cmdWriteCodes_ne_ok v _)] at hfree
    rw [writeCode_cmd, hsplit, hfree]
    rfl

theorem not_accepts_of_pending {v : Nat} {s : State} (hv : bit v 0 = true) (hpend : s.tbs.pend.isSome = true) :
    ¬ Accepts R.TBS_P_CMD v s := fun hacc =>
  (writeCode_of_pending hv hpend).1 ((accepts_iff (by decide)).mp hacc).2.2

theorem State.getB_unpend (s : State) (f : Fld) : s.unpend.getB f = s.getB f :=
  congrArg (· == 1) (State.getF_of_regs_eq (s.withTbs_regs _) f)

theorem pairedRefusal_unpend (off : Nat) (s : State) : pairedRefusal off s.unpend = pairedRefusal off s := rfl

theorem barCode_of_pending {v : Nat} {s : State} (hv : bit v 0 = true) (hpend : s.tbs.pend.isSome = true)
    (hfree : Accepts R.TBS_P_CMD v s.unpend) : barCode R.TBS_P_CMD v true s = EC.BUSY := by
  obtain ⟨hrun, hpair, hcode⟩ := (accepts_iff (by decide)).mp hfree
  obtain ⟨hrejected, hbusy⟩ := writeCode_of_pending hv hpend
  rw [State.getB_unpend] at hrun
  rw [pairedRefusal_unpend] at hpair
  rw [barCode_eq_writeCode hrun hpair hrejected, hbusy hcode]

/-- TBS_ARM while a change is pending that a register armed: it is recorded as rejected (R68, R131). -/
theorem exec_tbsArm_of_pending {s : State} {c : TbChange} (step rate slew : Bool) (hpend : s.tbs.pend = some c)
    (hby : c.by_ = none) : exec (.tbsArm step rate slew) s =
      .next (s.reject R.TBS_P_CMD (barCode R.TBS_P_CMD (armWord step rate slew) true s)) := by
  rw [exec_tbsArm, barWrite_of_rejects]
  rw [Rejects, if_pos ⟨rfl, bit_armWord ..⟩, dropDescArm_of_register hpend hby]
  exact not_accepts_of_pending (bit_armWord ..) (hpend ▸ rfl)

end Sys2Proof.Machine

namespace Sys2Proof

open Sys2Proof.Machine

/-- Settles O13: a write of TBS_P_CMD that lands arms or cancels and changes nothing else of the time base; with a change
pending, an arm's checks find EC_BUSY behind whatever else they find, so the write is only recorded as rejected. -/
theorem oneChangeIsArmed : Obligations.OneChangeIsArmed := by
  refine ⟨⟨fun step rate slew s hpend hacc => ?_, fun step rate slew c s hpend hby => ?_, fun s hacc => ?_⟩,
    fun step rate slew c q h s hpend hby hedge hacc => ?_⟩
  · have harm := bit_armWord step rate slew
    refine ⟨_, exec_tbsArm_of_accepts (dropDescArm_of_none hpend) hacc, ?_, written_arm_pending s harm,
      fun o ho => written_cmd_rd _ s ho, fun p hregs htbs hhst => written_cmd_frame _ s hregs htbs hhst⟩
    rw [written_arm_tbs s harm, cmdChange_armWord]
    rfl
  · refine ⟨_, exec_tbsArm_of_pending step rate slew hpend hby, State.reject_touch.frame .tbs (by decide), s.reject_flag ..,
      s.reject_offset .., fun hfree => ?_⟩
    rw [State.reject_code, barCode_of_pending (bit_armWord ..) (hpend ▸ rfl) hfree]
    rfl
  · refine ⟨_, ?_, written_cancel_tbs s (by decide) (by decide), written_cancel_pending s (by decide) (by decide),
      fun o ho => written_cmd_rd 2 s ho, fun p hregs htbs hhst => written_cmd_frame 2 s hregs htbs hhst⟩
    rw [exec_tbsCancel, barWrite_of_lands (if_neg (by decide)) ⟨hacc, meets_cmd s⟩]
  · have harm := bit_armWord step rate slew
    have hdrop := dropDescArm_of_descriptor hpend hby hedge
    have hsame : pendingChange step rate slew (dropDescArm s) = pendingChange step rate slew s := by
      rw [hdrop]
      exact pendingChange_congr _ _ _ (fun o ho => cancelChange_rd s ho) (cancelChange_frc s)
    refine ⟨_, exec_tbsArm_of_accepts rfl hacc, ?_, written_arm_pending _ harm, ?_⟩
    · rw [written_arm_tbs _ harm, cmdChange_armWord, hsame]
    · rw [written_cmd_comps, hdrop]
      rfl

end Sys2Proof
end

section
/-! PROOF. A write of PERIOD (R80): TS, TR and the phase that follow it, and the writes of TS and TR that are out of range. -/

namespace Sys2Proof.Machine

/-! ### What follows a new period -/

section
variable (s : State)

theorem State.period_index_lt : s.getF F.TBS_CYC_CTL_PERIOD < 4 := Nat.mod_lt _ (by decide)

theorem State.period_pos : 0 < s.period := Nat.mul_pos (by decide) (Nat.two_pow_pos _)

/-- The phase and the default of TR fit their fields in each of the four periods (R30, R35). -/
theorem State.period_fits : s.period ≤ 2 ^ 18 ∧ trDefault s.period < 2 ^ 21 := by
  have hfits : ∀ n < 4, 31250 * 2 ^ n ≤ 2 ^ 18 ∧ trDefault (31250 * 2 ^ n) < 2 ^ 21 := by decide
  exact hfits _ s.period_index_lt

theorem periodFollow_period : (periodFollow s).getF F.TBS_CYC_CTL_PERIOD = s.getF F.TBS_CYC_CTL_PERIOD := by
  rw [periodFollow, State.getF_setF_out (h := by decide), State.getF_setF_out (h := by decide),
    State.getF_setF_out (h := by decide)]

theorem periodFollow_ts : (periodFollow s).getF F.TBS_TS_V = 0 := by
  rw [periodFollow, State.getF_setF_out (h := by decide), State.getF_setF_out (h := by decide), State.getF_setF]
  rfl

theorem periodFollow_tr : (periodFollow s).getF F.TBS_TR_V = trDefault s.period := by
  rw [periodFollow, State.getF_setF_out (h := by decide), State.getF_setF]
  exact Nat.mod_eq_of_lt s.period_fits.2

theorem periodFollow_phase : (periodFollow s).getF F.TBS_CYC_PHASE_V = s.getF F.TBS_CYC_PHASE_V % s.period := by
  rw [periodFollow, State.getF_setF]
  exact Nat.mod_eq_of_lt (Nat.lt_of_lt_of_le (Nat.mod_lt _ s.period_pos) s.period_fits.1)

end

/-! ### The write of PERIOD -/

/-- The row of TBS_CYC_CTL: PERIOD, which the lock guards, and RUN. -/
def cycRow : RegDef := ⟨R.TBS_CYC_CTL, 0, 1, 0, 1, 0x103, 3, 0, 0, 0x103, 0⟩

theorem findReg_cyc : findReg R.TBS_CYC_CTL = some (cycRow, 0, 0) := by decide

theorem cycRow_base : cycRow.base = R.TBS_CYC_CTL := rfl

section
variable {p : Nat} (s : State)

/-- The value that PERIOD_WRITE gives TBS_CYC_CTL: the new period and RUN as it stands. -/
theorem bits_periodValue (hp : p < 4) : bits (fieldValue F.TBS_CYC_CTL_PERIOD p 0 0 s) 0 2 = p :=
  (bits_putBits ..).trans (Nat.mod_eq_of_lt hp)

theorem bit_periodValue : bit (fieldValue F.TBS_CYC_CTL_PERIOD p 0 0 s) 8 = bit (s.rd R.TBS_CYC_CTL).toNat 8 := by
  have hrun : bits (fieldValue F.TBS_CYC_CTL_PERIOD p 0 0 s) 8 1 = bits ((s.rd R.TBS_CYC_CTL).toNat &&& cycRow.rw) 8 1 :=
    bits_putBits_above (by decide)
  rw [bit_eq_bits, hrun, ← bit_eq_bits, bit_eq_testBit, bit_eq_testBit, Nat.testBit_and]
  exact Bool.and_true _

theorem bits_seen_period (hp : p < 4) :
    bits (cycRow.seen (fieldValue F.TBS_CYC_CTL_PERIOD p 0 0 s) (s.rd R.TBS_CYC_CTL).toNat) 0 2 = p :=
  (cycRow.bits_seen _ _ (by decide)).trans (bits_periodValue s hp)

theorem bit_seen_run :
    bit (cycRow.seen (fieldValue F.TBS_CYC_CTL_PERIOD p 0 0 s) (s.rd R.TBS_CYC_CTL).toNat) 8 =
      bit (s.rd R.TBS_CYC_CTL).toNat 8 :=
  (cycRow.bit_seen _ _ (by decide)).trans (bit_periodValue s)

/-- The state with TBS_CYC_CTL as PERIOD_WRITE leaves it. -/
def withPeriod (p : Nat) (s : State) : State :=
  s.wr R.TBS_CYC_CTL (s.merged cycRow R.TBS_CYC_CTL (fieldValue F.TBS_CYC_CTL_PERIOD p 0 0 s))

theorem withPeriod_period (hp : p < 4) : (withPeriod p s).getF F.TBS_CYC_CTL_PERIOD = p := by
  rw [State.getF_eq_bits _ rfl]
  calc bits ((withPeriod p s).rd R.TBS_CYC_CTL).toNat 0 2
      = bits (cycRow.seen (fieldValue F.TBS_CYC_CTL_PERIOD p 0 0 s) (s.rd R.TBS_CYC_CTL).toNat) 0 2 := by
        rw [withPeriod, State.rd_wr_same, State.merged, BitVec.toNat_ofNat, bits_mod_two_pow (by decide),
          RegDef.merge_eq_seen rfl rfl]
    _ = p := bits_seen_period s hp

theorem withPeriod_phase : (withPeriod p s).getF F.TBS_CYC_PHASE_V = s.getF F.TBS_CYC_PHASE_V :=
  State.getF_congr 0 0 fun o ho => (State.rd_wr ..).trans (if_neg (Nat.ne_of_gt (Nat.lt_of_lt_of_le (by decide) ho)))

/-- A write of another period that lands neither starts nor stops the cell cycle: only what follows the period is done. -/
theorem written_period (hp : p < 4) (hne : p ≠ s.getF F.TBS_CYC_CTL_PERIOD) :
    written R.TBS_CYC_CTL (fieldValue F.TBS_CYC_CTL_PERIOD p 0 0 s) s =
      noteWrite R.TBS_CYC_CTL (fieldValue F.TBS_CYC_CTL_PERIOD p 0 0 s) s (periodFollow (withPeriod p s)) := by
  rw [written_tbs findReg_cyc (by decide) (by decide), cycRow_base, withPeriod]
  have hold : s.getF F.TBS_CYC_CTL_PERIOD = bits (s.rd R.TBS_CYC_CTL).toNat 0 2 := State.getF_eq_bits s rfl
  rw [hold] at hne
  congr 1
  rw [tbsFollow, if_neg (by decide), if_pos rfl, bits_seen_period s hp, bit_seen_run, if_pos hne]
  simp

end

theorem exec_periodWrite_of_lands {p : Nat} {s : State}
    (h : Lands R.TBS_CYC_CTL (fieldValue F.TBS_CYC_CTL_PERIOD p 0 0 s) s) :
    exec (.periodWrite p) s = .next (written R.TBS_CYC_CTL (fieldValue F.TBS_CYC_CTL_PERIOD p 0 0 s) s) :=
  congrArg Host.Outcome.next (barWrite_of_lands (if_neg fun hcmd => absurd hcmd.1 (by decide)) h)

/-! ### A TS or TR out of range -/

/-- A code of R132's order that the checks of a time base register find binds every write, so that the write's code stands at its
place or before it; it is no restriction on changes alone (R17). -/
theorem codeRank_writeCode_le {off i j c : Nat} {d : RegDef} {v : Nat} {s : State} (hreg : findReg off = some (d, i, j))
    (hblock : 0x10000 ≤ off ∧ off < 0x20000) (hstate : stateCode c = false) (hrank : codeRank c < codeRank EC.OK)
    (hc : c ∈ tbsCodes d.base i (d.seen v (s.rd off).toNat) (s.rd off).toNat s.axesSto s) :
    codeRank (writeCode off v s) ≤ codeRank c := by
  unfold writeCode
  rw [hreg]
  refine codeRank_firstCode_le (List.mem_append_right _ (List.mem_filter.mpr ⟨?_, by simp [hstate]⟩)) hrank
  rw [blockCodes_tbs hblock]
  exact List.mem_append_left _ (List.mem_append_left _ hc)

/-- A write whose code stands before EC_OK's place is rejected. -/
theorem not_accepts_of_codeRank {off v c : Nat} {s : State} (hoff : off < 0x2C0000) (hrank : codeRank c < codeRank EC.OK)
    (hle : codeRank (writeCode off v s) ≤ codeRank c) : ¬ Accepts off v s := fun hacc => by
  have hok := ((accepts_iff hoff).mp hacc).2.2
  rw [hok] at hle
  omega

/-- The row of TBS_TS, which the lock guards. -/
def tsRow : RegDef := ⟨R.TBS_TS, 0, 1, 0, 1, 0x7FFFF, 0x7FFFF, 0, 0, 0x7FFFF, 0⟩

/-- The row of TBS_TR, which the lock guards. -/
def trRow : RegDef := ⟨R.TBS_TR, 0, 1, 0, 1, 0x1FFFFF, 0x1FFFFF, 0, 0, 0x1FFFFF, 0x17700⟩

theorem findReg_ts : findReg R.TBS_TS = some (tsRow, 0, 0) := by decide

theorem findReg_tr : findReg R.TBS_TR = some (trRow, 0, 0) := by decide

/-- A TS that leaves TR outside its range breaks EC_RANGE's rule (R80). -/
theorem range_mem_tbsCodes_ts {v : Nat} {s : State} (u old : Nat) (sto : Bool)
    (h : trLegal (bits v 0 19) (s.getF F.TBS_TR_V) s.period = false) : EC.RANGE ∈ tbsCodes R.TBS_TS u v old sto s :=
  List.mem_append_right _ (List.mem_append_right _ (mem_chk.mpr ⟨by rw [h]; exact Bool.or_true _, rfl⟩))

/-- A TR outside its range breaks EC_RANGE's rule (R80). -/
theorem range_mem_tbsCodes_tr {v : Nat} {s : State} (u old : Nat) (sto : Bool)
    (h : trLegal (s.getF F.TBS_TS_V) (bits v 0 21) s.period = false) : EC.RANGE ∈ tbsCodes R.TBS_TR u v old sto s :=
  List.mem_append_right _ (List.mem_append_right _ (mem_chk.mpr ⟨by rw [h]; rfl, rfl⟩))

theorem codeRank_writeCode_ts {v : Nat} {s : State} (h : trLegal (bits v 0 19) (s.getF F.TBS_TR_V) s.period = false) :
    codeRank (writeCode R.TBS_TS v s) ≤ codeRank EC.RANGE := by
  rw [← tsRow.bits_seen v (s.rd R.TBS_TS).toNat (by decide)] at h
  exact codeRank_writeCode_le findReg_ts (by decide) (by decide) (by decide) (range_mem_tbsCodes_ts _ _ _ h)

theorem codeRank_writeCode_tr {v : Nat} {s : State} (h : trLegal (s.getF F.TBS_TS_V) (bits v 0 21) s.period = false) :
    codeRank (writeCode R.TBS_TR v s) ≤ codeRank EC.RANGE := by
  rw [← trRow.bits_seen v (s.rd R.TBS_TR).toNat (by decide)] at h
  exact codeRank_writeCode_le findReg_tr (by decide) (by decide) (by decide) (range_mem_tbsCodes_tr _ _ _ h)

/-! ### The instants of the old and of the new cycle -/

/-- Where a period divides the other, a number in the class of a phase modulo the longer is in the class of its remainder
modulo the shorter. -/
theorem sub_phase_mod_eq_zero {n : Int} {phase old new : Nat} (hdvd : new ∣ old) (h : (n - phase) % (old : Int) = 0) :
    (n - (phase % new : Nat)) % (new : Int) = 0 := by
  have hclass : (new : Int) ∣ n - phase := Int.dvd_trans (Int.natCast_dvd_natCast.mpr hdvd) (Int.dvd_of_emod_eq_zero h)
  have hphase : (new : Int) ∣ phase - (phase % new : Nat) := by
    rw [Int.natCast_emod]
    exact Int.dvd_self_sub_emod
  have hsum := Int.dvd_add hclass hphase
  rw [show n - phase + (phase - (phase % new : Nat)) = n - (phase % new : Nat) by omega] at hsum
  exact Int.emod_eq_zero_of_dvd hsum

end Sys2Proof.Machine

namespace Sys2Proof

open Sys2Proof.Machine

/-- Settles O15: what follows a PERIOD write that lands is `periodFollow`, and a shorter period divides a longer one; a TS or TR
out of range breaks EC_RANGE's rule, before which only codes of a higher place stand. -/
theorem periodWriteSetsItsInstants : Obligations.PeriodWriteSetsItsInstants := by
  refine ⟨fun p s hp hne hlands => ?_, fun v s hbad => ?_, fun v s hbad => ?_⟩
  · refine ⟨_, exec_periodWrite_of_lands hlands, ?_⟩
    rw [written_period s hp hne]
    simp only [State.period, noteWrite_getF, periodFollow_period, periodFollow_ts, periodFollow_tr, periodFollow_phase,
      withPeriod_period s hp, withPeriod_phase]
    refine ⟨trivial, trivial, trivial, trivial, fun hphase hgrows => ?_, fun hshrinks n hn => ?_⟩
    · exact Nat.mod_eq_of_lt (Nat.lt_of_lt_of_le hphase (Nat.mul_le_mul_left _ (Nat.pow_le_pow_right (by decide) hgrows)))
    · exact sub_phase_mod_eq_zero (Nat.mul_dvd_mul_left _ (Nat.pow_dvd_pow 2 hshrinks)) hn
  · have hle := codeRank_writeCode_ts hbad
    exact ⟨not_accepts_of_codeRank (by decide) (by decide) hle, hle⟩
  · have hle := codeRank_writeCode_tr hbad
    exact ⟨not_accepts_of_codeRank (by decide) (by decide) hle, hle⟩

end Sys2Proof
end

section
/-! PROOF. Loss and return of the reference (R85) and the request for D3hot (R90): what each does to the registers of the time
base and to the host interface's own data. -/

namespace Sys2Proof.Machine

/-! ### Events and time -/

/-- A posted event waits to be written, with the present corrected time (R114). -/
theorem State.mem_events_post (s : State) (type source inst code detail : Nat) :
    { type := type, source := source, inst := inst, time := s.ns, code := code, detail := detail }
      ∈ (s.post type source inst code detail).hst.events :=
  List.mem_append_right _ List.mem_cons_self

/-- Corrected time is read off the counter and the parameters of the time base alone. -/
theorem State.ns_congr {s t : State} (htbs : t.tbs = s.tbs) (hfrc : t.frc = s.frc) : t.ns = s.ns := by
  simp only [State.ns, State.now, htbs, hfrc]

/-! ### The reference (R85) -/

/-- What the loss of the reference leaves before the groups are asked for a stop (R85). -/
def refLost (s : State) : State :=
  (((s.setF F.TBS_STAT_PLL_LOCK 0).flag F.TBS_FLAG_REF_LOSS).note 9).postG 0x0009 EC.OK 0

theorem exec_refLoss (s : State) : exec .refLoss s = .next (requestStop Req.ref allGroups (refLost s)) := rfl

section
variable (s : State)

theorem refLost_regs : (refLost s).regs = ((s.setF F.TBS_STAT_PLL_LOCK 0).flag F.TBS_FLAG_REF_LOSS).regs := rfl

theorem refLost_tbs : (refLost s).tbs = s.tbs := by
  simp only [refLost, State.postG, State.flag, State.post_tbs, State.note_tbs, State.setF_tbs]

theorem refLost_frc : (refLost s).frc = s.frc := by
  simp only [refLost, State.postG, State.flag, State.post_frc, State.note_frc, State.setF_frc]

/-- PLL_LOCK falls; REF_LOSS lies in another register. -/
theorem refLost_lock : (refLost s).getB F.TBS_STAT_PLL_LOCK = false := by
  unfold State.getB
  rw [State.getF_of_regs_eq (refLost_regs s), State.flag, State.getF_setF_out (h := by decide), State.getF_setF]
  rfl

theorem refLost_flag : (refLost s).getB F.TBS_FLAG_REF_LOSS = true := by
  unfold State.getB
  rw [State.getF_of_regs_eq (refLost_regs s), State.flag, State.getF_setF]
  rfl

/-- The event of the loss is posted at the edge of the loss, whose time the loss does not change. -/
theorem refLost_event : ∃ e ∈ (refLost s).hst.events, e.type = 0x0009 ∧ e.time = s.ns := by
  refine ⟨_, State.mem_events_post _ 0x0009 0 0 EC.OK 0, rfl, State.ns_congr ?_ ?_⟩
  · simp only [State.note_tbs, State.flag, State.setF_tbs]
  · simp only [State.note_frc, State.flag, State.setF_frc]

end

theorem exec_pllLockRegain (s : State) : exec .pllLockRegain s = .next (s.setF F.TBS_STAT_PLL_LOCK 1) := rfl

theorem State.getB_setLock (s : State) : (s.setF F.TBS_STAT_PLL_LOCK 1).getB F.TBS_STAT_PLL_LOCK = true := by
  rw [State.getB, State.getF_setF]
  rfl

/-- The bits of TBS_STAT above PLL_LOCK stay when PLL_LOCK is set. -/
theorem State.getB_setLock_above (s : State) {g : Fld} (hoff : g.off 0 0 = F.TBS_STAT_PLL_LOCK.off 0 0) (hone : g.parts = 1)
    (hlo : 1 ≤ g.lo) : (s.setF F.TBS_STAT_PLL_LOCK 1).getB g = s.getB g :=
  congrArg (· == 1) (State.getF_setF_beside s _ g 1 0 0 0 0 hoff hone (.inr hlo))

/-! ### D3hot (R90) -/

theorem exec_d3hotRequest (s : State) : exec .d3hotRequest s = .next (d3hotRequest s) := rfl

theorem d3hotRequest_hst (s : State) : (d3hotRequest s).hst =
    if s.cycRun then { s.hst with d3Refused := true } else { s.hst with d3hot := true } := rfl

end Sys2Proof.Machine

namespace Sys2Proof

open Sys2Proof.Machine

/-- Settles O17: the loss is `refLost` with a request for a stop after it, the return sets one bit of TBS_STAT, and a request
for D3hot changes the host interface's own data alone. -/
theorem referenceAndPowerState : Obligations.ReferenceAndPowerState := by
  refine ⟨fun s => ?_, fun s => ?_, fun s => ?_⟩
  · exact ⟨_, exec_refLoss s, refLost s, rfl, refLost_lock s, refLost_flag s, refLost_event s, refLost_tbs s, refLost_frc s⟩
  · refine ⟨_, exec_pllLockRegain s, s.getB_setLock, fun o ho => s.rd_setF_one 1 rfl ho, ?_, ?_⟩
    · exact s.getB_setLock_above rfl rfl (by decide)
    · exact s.getB_setLock_above rfl rfl (by decide)
  · exact ⟨_, exec_d3hotRequest s, d3hotRequest_hst s, fun p hp => d3hotRequest_touch.frame p (by simpa using hp)⟩

end Sys2Proof
end
